-- ==== Sys2Proof/Word.lean ====
section
/-! DEFINITION. Word.lean: the bit vector types of the part's registers (R2, R96) and the reading of a natural number as bits. -/

namespace Sys2Proof

/-- An s, b or m register, a control register, a word of memory (R23, Table 5.1). -/
abbrev Word := BitVec 64

/-- A v register: 1,024 bits (Table 5.1). -/
abbrev Wide := BitVec 1024

/-- An h register: one handle of 256 bits (Table 5.1). -/
abbrev HandleBits := BitVec 256

end Sys2Proof
end

