-- ==== Sys2Proof/Syntax.lean ====
section
/-! DEFINITION. Syntax.lean: the instructions, one constructor per row of the opcode table. A row with an encoding is one slot of a bundle, or one instruction of a firmware core; a row without one is a step the part takes on its own or at the word of an outside agent. -/

namespace Sys2Proof

/-- A six-bit source field (R78, Table 4.2): a register, a pop of a ring, or a peek at its head. -/
inductive Src where
  | reg (i : Fin 32)
  | pop (q : Fin 16)
  | peek (q : Fin 16)
deriving DecidableEq, Repr

/-- A six-bit destination field (R78, Table 4.2): a register or a push onto a ring. -/
inductive Dst where
  | reg (i : Fin 32)
  | push (q : Fin 16)
deriving DecidableEq, Repr

/-- The assigned element format codes (R48, Table 3.1). -/
inductive Fmt where
  | fp32 | bf16 | fp16 | fp8e4 | fp8e5
  | mxi8 | mxi6 | mxi4 | mxf4 | mxi3 | mxi4z
  | s8 | s16 | s32 | s64 | n8 | n16 | n32 | n64
deriving DecidableEq, Repr

/-- The floating-point formats (R49), in the order of majors 0x20 to 0x24 (Table 4.7). -/
inductive FloatFmt where
  | bf16 | fp16 | fp32 | fp8e4 | fp8e5
deriving DecidableEq, Repr

/-- The rounding field (R51, Table 3.3). -/
inductive Rnd where
  | rne | rna | rtz | rup | rdn | sr | dyn
deriving DecidableEq, Repr

/-- The conditions of the compares (R130, Table 6.2). -/
inductive Cond where
  | eq | ne | lt | ge | ltu | geu | tst | ntst
deriving DecidableEq, Repr

/-- One constructor per row of the opcode table. The rows without operands of their own stand last; the steps of the part find their operands in the state (log 1). -/
inductive Instr where
  /-- TRAP (R123): Commits its bundle and then takes the program trap TRAP with TVAL set to its code and TEPC set to the next bundle. -/
  | trap (code : Fin 4096)
  /-- CRD (R126): Reads a control register into sd, interlocked, as it stands after every older bundle has committed. -/
  | crd (d : Fin 32) (creg : Fin 4096)
  /-- CWR (R127): Writes a control register from s(sa) at commit, refusing illegal field values with ILLEGAL-USE. -/
  | cwr (creg : Fin 4096) (a : Fin 32)
  /-- GIDX (R363): Writes sd with the coordinate of the current group in the named dimension. -/
  | gidx (d : Dst) (dim : Fin 8)
  /-- LBRK (R141): Ends the named loop level and every level above it at commit, continuing with EndStep at its End. -/
  | lbrk (level : Fin 8)
  /-- GSPAWN (R364): Adds a group to the logical core of its context with a payload and an optional dependence on an earlier group. -/
  | gspawn (a : Fin 32)
  /-- PWRACQ (R396): Sets the power level, requesting the extra weight from the grant unit and waiting for it when raising the level. -/
  | pwracq (level : Fin 16)
  /-- BR (R134): Guarded branch to PC plus a slot displacement. -/
  | br (disp : BitVec 18) (g : Fin 16)
  /-- CALL (R134): Guarded branch to PC plus a displacement that writes the next sequential address into b3. -/
  | call (disp : BitVec 18) (g : Fin 16)
  /-- BRI (R134): Guarded branch to the address held in a b register. -/
  | bri (b : Fin 4) (g : Fin 16)
  /-- RET (R134): Guarded branch to the address held in b3. -/
  | ret (g : Fin 16)
  /-- PBR (R135): Writes a branch target into a b register and starts fetch there, without branching. -/
  | pbr (b : Fin 4) (disp : BitVec 18)
  /-- LOOP (R137): Enters a loop level with an immediate count over the following len bundles. -/
  | loop (len : Fin 64) (count : Fin 131072)
  /-- LOOP_REG (R137): Enters a loop level whose count is read from a scalar operand or ring. -/
  | loopReg (len : Fin 64) (a : Src)
  /-- LOOP_SAFE (R137): Enters a loop level with an immediate count whose iteration ends are safe points. -/
  | loopSafe (len : Fin 64) (count : Fin 131072)
  /-- LOOP_SAFE_REG (R137): Enters a loop level with a register count whose iteration ends are safe points. -/
  | loopSafeReg (len : Fin 64) (a : Src)
  /-- LTAG (R140): Gates the other slots of its bundle to execute only in the first or last iteration of a loop level. -/
  | ltag (level : Fin 8) (first : Fin 256) (last : Fin 256)
  /-- ADD (R148): Writes A + B modulo 2^64. -/
  | add (d : Dst) (a : Src) (b : Src)
  /-- SUB (R148): Writes A - B modulo 2^64. -/
  | sub (d : Dst) (a : Src) (b : Src)
  /-- AND (R148): Writes A and B. -/
  | and (d : Dst) (a : Src) (b : Src)
  /-- OR (R148): Writes A or B. -/
  | or (d : Dst) (a : Src) (b : Src)
  /-- XOR (R148): Writes A xor B. -/
  | xor (d : Dst) (a : Src) (b : Src)
  /-- ANDN (R148): Writes A and not B. -/
  | andn (d : Dst) (a : Src) (b : Src)
  /-- MIN (R148): Writes the smaller of A and B read as signed. -/
  | min (d : Dst) (a : Src) (b : Src)
  /-- MAX (R148): Writes the larger of A and B read as signed. -/
  | max (d : Dst) (a : Src) (b : Src)
  /-- MINU (R148): Writes the smaller of A and B read as unsigned. -/
  | minu (d : Dst) (a : Src) (b : Src)
  /-- MAXU (R148): Writes the larger of A and B read as unsigned. -/
  | maxu (d : Dst) (a : Src) (b : Src)
  /-- SHL (R148): Shifts A left by B<5:0>. -/
  | shl (d : Dst) (a : Src) (b : Src)
  /-- SHR (R148): Shifts A right logically by B<5:0>. -/
  | shr (d : Dst) (a : Src) (b : Src)
  /-- SRA (R148): Shifts A right arithmetically by B<5:0>. -/
  | sra (d : Dst) (a : Src) (b : Src)
  /-- ROL (R148): Rotates A left by B<5:0>. -/
  | rol (d : Dst) (a : Src) (b : Src)
  /-- ROR (R148): Rotates A right by B<5:0>. -/
  | ror (d : Dst) (a : Src) (b : Src)
  /-- CLZ (R148): Writes the number of leading zero bits of A. -/
  | clz (d : Dst) (a : Src)
  /-- CTZ (R148): Writes the number of trailing zero bits of A. -/
  | ctz (d : Dst) (a : Src)
  /-- POPC (R148): Writes the number of one bits of A. -/
  | popc (d : Dst) (a : Src)
  /-- BREV (R148): Writes A with its bits reversed. -/
  | brev (d : Dst) (a : Src)
  /-- ABS (R148): Writes the absolute value of A modulo 2^64. -/
  | abs (d : Dst) (a : Src)
  /-- RDB (R148): Reads a b register into sd. -/
  | rdb (d : Dst) (n : Fin 4)
  /-- WRB (R149): Writes a b register from A. -/
  | wrb (n : Fin 4) (a : Src)
  /-- RDP (R148): Reads the sixteen predicates into the low bits of sd. -/
  | rdp (d : Dst)
  /-- WRP (R149): Writes predicates p2 to p15 selected by B from the bits of A. -/
  | wrp (a : Src) (b : Src)
  /-- RDM (R148): Reads a mask register into sd. -/
  | rdm (d : Dst) (n : Fin 8)
  /-- WRM (R148): Writes a mask register from A. -/
  | wrm (n : Fin 8) (a : Src)
  /-- RDE (R148): Reads a window-base register into sd. -/
  | rde (d : Dst) (n : Fin 8)
  /-- WRE (R149): Writes a window-base register, refusing a base that is not a 64-lane multiple below 4,096. -/
  | wre (n : Fin 8) (a : Src)
  /-- RDI (R148): Reads a loop index register into sd. -/
  | rdi (d : Dst) (n : Fin 8)
  /-- MUL (R150): Writes the low 64 bits of A x B. -/
  | mul (d : Dst) (a : Src) (b : Src)
  /-- MULH (R150): Writes the high 64 bits of the signed product. -/
  | mulh (d : Dst) (a : Src) (b : Src)
  /-- MULHU (R150): Writes the high 64 bits of the unsigned product. -/
  | mulhu (d : Dst) (a : Src) (b : Src)
  /-- DIV (R150): Writes the signed quotient, interlocked, with fixed results for a zero divisor and overflow. -/
  | div (d : Fin 32) (a : Src) (b : Src)
  /-- DIVU (R150): Writes the unsigned quotient, interlocked. -/
  | divu (d : Fin 32) (a : Src) (b : Src)
  /-- REM (R150): Writes the signed remainder, interlocked. -/
  | rem (d : Fin 32) (a : Src) (b : Src)
  /-- REMU (R150): Writes the unsigned remainder, interlocked. -/
  | remu (d : Fin 32) (a : Src) (b : Src)
  /-- ADDI (R151): Writes A plus a signed 10-bit immediate. -/
  | addi (d : Dst) (a : Src) (imm : BitVec 10)
  /-- ANDI (R151): Writes A and a signed immediate. -/
  | andi (d : Dst) (a : Src) (imm : BitVec 10)
  /-- ORI (R151): Writes A or a signed immediate. -/
  | ori (d : Dst) (a : Src) (imm : BitVec 10)
  /-- XORI (R151): Writes A xor a signed immediate. -/
  | xori (d : Dst) (a : Src) (imm : BitVec 10)
  /-- SHLI (R151): Shifts A left by an immediate amount. -/
  | shli (d : Dst) (a : Src) (n : Fin 64)
  /-- SHRI (R151): Shifts A right logically by an immediate amount. -/
  | shri (d : Dst) (a : Src) (n : Fin 64)
  /-- SRAI (R151): Shifts A right arithmetically by an immediate amount. -/
  | srai (d : Dst) (a : Src) (n : Fin 64)
  /-- LI (R152): Writes a sign-extended 16-bit immediate into sd. -/
  | li (d : Dst) (imm : BitVec 16)
  /-- LIH_1 (R152): Replaces bits 31:16 of sd with a 16-bit immediate. -/
  | lih1 (d : Fin 32) (imm : BitVec 16)
  /-- LIH_2 (R152): Replaces bits 47:32 of sd with a 16-bit immediate. -/
  | lih2 (d : Fin 32) (imm : BitVec 16)
  /-- LIH_3 (R152): Replaces bits 63:48 of sd with a 16-bit immediate. -/
  | lih3 (d : Fin 32) (imm : BitVec 16)
  /-- BFX (R153): Extracts a bit field of A, zero- or sign-extended. -/
  | bfx (signed : Bool) (d : Dst) (a : Src) (pos : Fin 64) (wid : Fin 64)
  /-- BFI (R153): Inserts the low bits of A into a field of sd. -/
  | bfi (d : Fin 32) (a : Src) (pos : Fin 64) (wid : Fin 64)
  /-- BFM (R153): Writes a mask of N ones at pos into sd. -/
  | bfm (d : Dst) (pos : Fin 64) (wid : Fin 64)
  /-- CMP (R130): Compares two operands and writes a predicate pair. -/
  | cmp (c : Cond) (k : Fin 8) (a : Src) (b : Src)
  /-- CMPI (R130): Compares an operand with a signed 12-bit immediate and writes a predicate pair. -/
  | cmpi (c : Cond) (k : Fin 8) (a : Src) (imm : BitVec 12)
  /-- PAND (R131): Writes a predicate pair from pa and pb. -/
  | pand (k : Fin 8) (pa : Fin 16) (pb : Fin 16)
  /-- POR (R131): Writes a predicate pair from pa or pb. -/
  | por (k : Fin 8) (pa : Fin 16) (pb : Fin 16)
  /-- PXOR (R131): Writes a predicate pair from pa xor pb. -/
  | pxor (k : Fin 8) (pa : Fin 16) (pb : Fin 16)
  /-- PANDN (R131): Writes a predicate pair from pa and not pb. -/
  | pandn (k : Fin 8) (pa : Fin 16) (pb : Fin 16)
  /-- SEL (R132): Writes sd with s(sa) or s(sb) as the predicate chooses. -/
  | sel (d : Dst) (a : Src) (b : Src) (g : Fin 16)
  /-- PADD (R158): Advances a plain pointer or cursor by B elements of format T. -/
  | padd (t : Fmt) (d : Dst) (a : Src) (b : Src)
  /-- PDIF (R158): Writes the number of elements from B to A, trapping when out of phase. -/
  | pdif (t : Fmt) (d : Dst) (a : Src) (b : Src)
  /-- PIDX (R159): Writes the bit address of the element B places after A, including the MXI4Z bitmap form. -/
  | pidx (t : Fmt) (d : Dst) (a : Src) (b : Src)
  /-- PREC (R160): Steps a cursor by records, or walks one MXI4Z bitmap to the next record. -/
  | prec (t : Fmt) (d : Dst) (a : Src) (b : Src)
  /-- PADD_B (R158): Advances a plain pointer by B bit fields of width N. -/
  | paddB (wid : Fin 64) (d : Dst) (a : Src) (b : Src)
  /-- PDIF_B (R158): Writes the number of N-bit fields from B to A. -/
  | pdifB (wid : Fin 64) (d : Dst) (a : Src) (b : Src)
  /-- PSCL (R161): Writes the address of the scale of a cursor's record. -/
  | pscl (t : Fmt) (d : Dst) (a : Src)
  /-- PAL (R162): Finds the first element at or after a raw bit address relative to a row base. -/
  | pal (t : Fmt) (d : Dst) (a : Src) (b : Src)
  /-- PCLS (R163): Writes the alignment class of an access to B consecutive elements starting at A. -/
  | pcls (t : Fmt) (d : Dst) (a : Src) (b : Src)
  /-- LD_ACT (R175): Loads 1 to 64 bits from the activation scratch, optionally waiting for full or taking the granules. -/
  | ldAct (signed : Bool) (wid : Fin 64) (d : Dst) (a : Src) (fe : Fin 4)
  /-- LD_STG (R175): Loads 1 to 64 bits from weight staging. -/
  | ldStg (signed : Bool) (wid : Fin 64) (d : Dst) (a : Src)
  /-- ST_ACT (R175): Stores 1 to 64 bits into the activation scratch, optionally setting full. -/
  | stAct (setfull : Bool) (wid : Fin 64) (v : Src) (a : Src) (g : Fin 16)
  /-- ST_STG (R175): Stores 1 to 64 bits into weight staging. -/
  | stStg (wid : Fin 64) (v : Src) (a : Src) (g : Fin 16)
  /-- LD_G (R176): Loads 1 to 64 bits through a handle plus offset, interlocked, after handle, bounds and rights checks. -/
  | ldG (signed : Bool) (wid : Fin 64) (d : Dst) (h : Fin 16) (o : Fin 32)
  /-- ST_G (R176): Stores 1 to 64 bits through a handle plus offset into the global store queue. -/
  | stG (wid : Fin 64) (v : Fin 32) (h : Fin 16) (o : Fin 32) (g : Fin 16)
  /-- VLD_ACT (R177): Loads a contiguous vector from the activation scratch, optionally waiting for or taking full granules. -/
  | vldAct (fe : Fin 4) (e32 : Bool) (d : Dst) (a : Src)
  /-- VLD_ACT_STR (R177): Loads a strided vector from the activation scratch. -/
  | vldActStr (e32 : Bool) (d : Dst) (a : Src) (b : Src)
  /-- VLD_ACT_COL (R177): Loads a column vector with lanes 1,024 bits apart from the activation scratch. -/
  | vldActCol (e32 : Bool) (d : Dst) (a : Src)
  /-- VLD_STG (R177): Loads a contiguous vector from weight staging. -/
  | vldStg (e32 : Bool) (d : Dst) (a : Src)
  /-- VLD_G (R177): Loads a vector through a handle plus offset, interlocked. -/
  | vldG (e32 : Bool) (d : Dst) (h : Fin 16) (o : Src)
  /-- VST_ACT (R178): Stores the masked lanes of a vector contiguously into the activation scratch. -/
  | vstAct (m : Fin 8) (v : Fin 32) (a : Fin 32) (e32 : Bool) (g : Fin 16)
  /-- VST_ACT_STR_E16 (R178): Stores masked 16-bit lanes at a stride into the activation scratch. -/
  | vstActStr16 (m : Fin 8) (v : Fin 32) (a : Fin 32) (b : Fin 32) (g : Fin 16)
  /-- VST_ACT_COL (R178): Stores masked lanes as a column into the activation scratch. -/
  | vstActCol (m : Fin 8) (v : Fin 32) (a : Fin 32) (e32 : Bool) (g : Fin 16)
  /-- VST_STG (R178): Stores masked lanes contiguously into weight staging. -/
  | vstStg (m : Fin 8) (v : Fin 32) (a : Fin 32) (e32 : Bool) (g : Fin 16)
  /-- VST_G (R178): Stores masked lanes through a handle plus offset. -/
  | vstG (m : Fin 8) (v : Fin 32) (e32 : Bool) (h : Fin 16) (o : Fin 32) (g : Fin 16)
  /-- VST_ACT_FILL (R178): Stores masked lanes contiguously into the activation scratch and sets the written granules full. -/
  | vstActFill (m : Fin 8) (v : Fin 32) (a : Fin 32) (e32 : Bool) (g : Fin 16)
  /-- VST_ACT_STR_E32 (R178): Stores masked 32-bit lanes at a stride into the activation scratch. -/
  | vstActStr32 (m : Fin 8) (v : Fin 32) (a : Fin 32) (b : Fin 32) (g : Fin 16)
  /-- AADD_ACT (R179): Atomically adds to a class W bit field of the activation scratch and returns the old value. -/
  | aaddAct (w : Fin 16) (ord : Fin 16) (d : Fin 32) (a : Fin 32) (g : Fin 16)
  /-- AAND_ACT (R179): Atomic AND on a local bit field returning the old value. -/
  | aandAct (w : Fin 16) (ord : Fin 16) (d : Fin 32) (a : Fin 32) (g : Fin 16)
  /-- AOR_ACT (R179): Atomic OR on a local bit field returning the old value. -/
  | aorAct (w : Fin 16) (ord : Fin 16) (d : Fin 32) (a : Fin 32) (g : Fin 16)
  /-- AXOR_ACT (R179): Atomic XOR on a local bit field returning the old value. -/
  | axorAct (w : Fin 16) (ord : Fin 16) (d : Fin 32) (a : Fin 32) (g : Fin 16)
  /-- AMIN_ACT (R179): Atomic unsigned minimum on a local bit field returning the old value. -/
  | aminAct (w : Fin 16) (ord : Fin 16) (d : Fin 32) (a : Fin 32) (g : Fin 16)
  /-- AMAX_ACT (R179): Atomic unsigned maximum on a local bit field returning the old value. -/
  | amaxAct (w : Fin 16) (ord : Fin 16) (d : Fin 32) (a : Fin 32) (g : Fin 16)
  /-- ASWAP_ACT (R179): Atomic swap on a local bit field returning the old value. -/
  | aswapAct (w : Fin 16) (ord : Fin 16) (d : Fin 32) (a : Fin 32) (g : Fin 16)
  /-- ACAS_ACT (R179): Atomic compare-and-swap on a local bit field returning the old value. -/
  | acasAct (w : Fin 16) (ord : Fin 16) (d : Fin 32) (a : Fin 32) (g : Fin 16)
  /-- AADD_G (R179): Atomic add on a global bit field at its home slice returning the old value. -/
  | aaddG (w : Fin 16) (ord : Fin 16) (h : Fin 16) (d : Fin 32) (g : Fin 16)
  /-- AAND_G (R179): Atomic AND on a global bit field returning the old value. -/
  | aandG (w : Fin 16) (ord : Fin 16) (h : Fin 16) (d : Fin 32) (g : Fin 16)
  /-- AOR_G (R179): Atomic OR on a global bit field returning the old value. -/
  | aorG (w : Fin 16) (ord : Fin 16) (h : Fin 16) (d : Fin 32) (g : Fin 16)
  /-- AXOR_G (R179): Atomic XOR on a global bit field returning the old value. -/
  | axorG (w : Fin 16) (ord : Fin 16) (h : Fin 16) (d : Fin 32) (g : Fin 16)
  /-- AMIN_G (R179): Atomic unsigned minimum on a global bit field returning the old value. -/
  | aminG (w : Fin 16) (ord : Fin 16) (h : Fin 16) (d : Fin 32) (g : Fin 16)
  /-- AMAX_G (R179): Atomic unsigned maximum on a global bit field returning the old value. -/
  | amaxG (w : Fin 16) (ord : Fin 16) (h : Fin 16) (d : Fin 32) (g : Fin 16)
  /-- ASWAP_G (R179): Atomic swap on a global bit field returning the old value. -/
  | aswapG (w : Fin 16) (ord : Fin 16) (h : Fin 16) (d : Fin 32) (g : Fin 16)
  /-- ACAS_G (R179): Atomic compare-and-swap on a global bit field returning the old value. -/
  | acasG (w : Fin 16) (ord : Fin 16) (h : Fin 16) (d : Fin 32) (g : Fin 16)
  /-- FENCE (R269): Acquire and/or release fence of a given scope over the context's accesses. -/
  | fence (ord : Fin 16)
  /-- FMT (R171): Writes the bank format register of an activation-scratch bank, refusing bad values with FORMAT. -/
  | fmt (bank : Fin 16) (a : Src)
  /-- CLEAN (R181): Writes back the dirty store-cache lines of a handle range. -/
  | clean (h : Fin 16) (a : Src) (b : Src)
  /-- INV (R181): Writes back and evicts the store-cache lines of a handle range. -/
  | inv (h : Fin 16) (a : Src) (b : Src)
  /-- TRANS (R193): Looks up a virtual page in the translation cache and writes a handle and predicate pair 16 clk later. -/
  | trans (h : Fin 16) (a : Src) (k : Fin 8)
  /-- PROBE (R194): Walks the pages of a range, waiting for migrations and raising page faults, and fills the translation cache. -/
  | probe (a : Src) (b : Src)
  /-- HREV (R195): Sets a handle to INVALID at commit. -/
  | hrev (h : Fin 16)
  /-- HINFO (R196): Writes a summary of a handle into sd, interlocked. -/
  | hinfo (d : Dst) (h : Fin 16)
  /-- HMOV (R197): Copies one handle register into another. -/
  | hmov (d : Fin 16) (h : Fin 16)
  /-- BINIT (R249): Arms a barrier with a target count, keeping its phase and epoch. -/
  | binit (a : Src) (b : Src)
  /-- BARV (R250): Arrives at an armed barrier with n bits, optionally with release. -/
  | barv (ord : Fin 64) (a : Src) (b : Src)
  /-- BWAIT (R251): Waits until a barrier passes the phase or epoch of its descriptor, then acquires. -/
  | bwait (ord : Fin 64) (a : Src)
  /-- BTEST (R252): Writes a predicate pair telling whether a barrier has passed its descriptor, without waiting. -/
  | btest (k : Fin 8) (a : Src) (ord : Fin 64)
  /-- HBWAIT (R253): Waits until BEAT reaches an operand value. -/
  | hbwait (a : Src)
  /-- WAITT (R253): Waits until TNOW reaches a deadline in ns. -/
  | waitt (a : Src)
  /-- FADD (R312): Lane-wise float addition rounded once. -/
  | fadd (f : FloatFmt) (rm : Rnd) (d : Dst) (a : Src) (b : Src)
  /-- FSUB (R312): Lane-wise float subtraction. -/
  | fsub (f : FloatFmt) (rm : Rnd) (d : Dst) (a : Src) (b : Src)
  /-- FMUL (R312): Lane-wise float multiplication. -/
  | fmul (f : FloatFmt) (rm : Rnd) (d : Dst) (a : Src) (b : Src)
  /-- FMA (R312): Lane-wise fused a x b + c rounded once. -/
  | fma (f : FloatFmt) (rm : Rnd) (d : Fin 32) (a : Src) (b : Src)
  /-- FMS (R312): Lane-wise fused a x b - c rounded once. -/
  | fms (f : FloatFmt) (rm : Rnd) (d : Fin 32) (a : Src) (b : Src)
  /-- FNMA (R312): Lane-wise fused -(a x b) + c rounded once. -/
  | fnma (f : FloatFmt) (rm : Rnd) (d : Fin 32) (a : Src) (b : Src)
  /-- FMIN (R314): Lane-wise float minimum with -0 below +0. -/
  | fmin (f : FloatFmt) (d : Dst) (a : Src) (b : Src)
  /-- FMAX (R314): Lane-wise float maximum. -/
  | fmax (f : FloatFmt) (d : Dst) (a : Src) (b : Src)
  /-- FABS (R314): Lane-wise clearing of the sign bit. -/
  | fabs (f : FloatFmt) (d : Dst) (a : Src)
  /-- FNEG (R314): Lane-wise inversion of the sign bit. -/
  | fneg (f : FloatFmt) (d : Dst) (a : Src)
  /-- FCMP_EQ (R315): Writes a lane mask of a = b. -/
  | fcmpEq (f : FloatFmt) (md : Fin 8) (a : Src) (b : Src)
  /-- FCMP_LT (R315): Writes a lane mask of a < b. -/
  | fcmpLt (f : FloatFmt) (md : Fin 8) (a : Src) (b : Src)
  /-- FCMP_LE (R315): Writes a lane mask of a <= b. -/
  | fcmpLe (f : FloatFmt) (md : Fin 8) (a : Src) (b : Src)
  /-- FCMP_UN (R315): Writes a lane mask of lanes where either operand is a NaN. -/
  | fcmpUn (f : FloatFmt) (md : Fin 8) (a : Src) (b : Src)
  /-- VADD (R316): Lane-wise integer addition modulo 2^W. -/
  | vadd (w32 : Bool) (d : Dst) (a : Src) (b : Src)
  /-- VSUB (R316): Lane-wise integer subtraction modulo 2^W. -/
  | vsub (w32 : Bool) (d : Dst) (a : Src) (b : Src)
  /-- VMUL (R316): Lane-wise integer multiplication modulo 2^W. -/
  | vmul (w32 : Bool) (d : Dst) (a : Src) (b : Src)
  /-- VADDS (R316): Lane-wise signed saturating addition. -/
  | vadds (w32 : Bool) (d : Dst) (a : Src) (b : Src)
  /-- VADDUS (R316): Lane-wise unsigned saturating addition. -/
  | vaddus (w32 : Bool) (d : Dst) (a : Src) (b : Src)
  /-- VSUBS (R316): Lane-wise signed saturating subtraction. -/
  | vsubs (w32 : Bool) (d : Dst) (a : Src) (b : Src)
  /-- VSUBUS (R316): Lane-wise unsigned saturating subtraction. -/
  | vsubus (w32 : Bool) (d : Dst) (a : Src) (b : Src)
  /-- VMIN (R316): Lane-wise signed minimum. -/
  | vmin (w32 : Bool) (d : Dst) (a : Src) (b : Src)
  /-- VMAX (R316): Lane-wise signed maximum. -/
  | vmax (w32 : Bool) (d : Dst) (a : Src) (b : Src)
  /-- VMINU (R316): Lane-wise unsigned minimum. -/
  | vminu (w32 : Bool) (d : Dst) (a : Src) (b : Src)
  /-- VMAXU (R316): Lane-wise unsigned maximum. -/
  | vmaxu (w32 : Bool) (d : Dst) (a : Src) (b : Src)
  /-- VAND (R316): Lane-wise bitwise AND. -/
  | vand (w32 : Bool) (d : Dst) (a : Src) (b : Src)
  /-- VOR (R316): Lane-wise bitwise OR. -/
  | vor (w32 : Bool) (d : Dst) (a : Src) (b : Src)
  /-- VXOR (R316): Lane-wise bitwise XOR. -/
  | vxor (w32 : Bool) (d : Dst) (a : Src) (b : Src)
  /-- VSHL (R316): Lane-wise left shift. -/
  | vshl (w32 : Bool) (d : Dst) (a : Src) (b : Src)
  /-- VSHR (R316): Lane-wise logical right shift. -/
  | vshr (w32 : Bool) (d : Dst) (a : Src) (b : Src)
  /-- VSRA (R316): Lane-wise arithmetic right shift. -/
  | vsra (w32 : Bool) (d : Dst) (a : Src) (b : Src)
  /-- VABS (R316): Lane-wise absolute value modulo 2^W. -/
  | vabs (w32 : Bool) (d : Dst) (a : Src)
  /-- VCMP_EQ (R316): Writes a lane mask of integer equality. -/
  | vcmpEq (w32 : Bool) (md : Fin 8) (a : Src) (b : Src)
  /-- VCMP_LT (R316): Writes a lane mask of signed less-than. -/
  | vcmpLt (w32 : Bool) (md : Fin 8) (a : Src) (b : Src)
  /-- VCMP_LTU (R316): Writes a lane mask of unsigned less-than. -/
  | vcmpLtu (w32 : Bool) (md : Fin 8) (a : Src) (b : Src)
  /-- CVT (R320): Converts lanes between float and integer formats, including stochastic rounding. -/
  | cvt (t : Fmt) (f : Fmt) (rm : Rnd) (d : Dst) (a : Src)
  /-- QNT (R321): Quantises lanes into packed MX records by QuantiseBlock. -/
  | qnt (f : Fmt) (pol : Fin 4) (rm : Rnd) (elt : Fin 4) (d : Dst) (a : Src)
  /-- DQNT (R321): Decodes packed MX records into float lanes. -/
  | dqnt (f : Fmt) (pol : Fin 4) (rm : Rnd) (elt : Fin 4) (d : Dst) (a : Src)
  /-- VSEL (R317): Selects each lane from va or vb by a mask. -/
  | vsel (m : Fin 8) (w32 : Bool) (d : Dst) (a : Src) (b : Src)
  /-- VPERM (R318): Permutes lanes of va by the indices in vb. -/
  | vperm (w32 : Bool) (d : Dst) (a : Src) (b : Src)
  /-- VBCAST (R318): Broadcasts a scalar into every lane. -/
  | vbcast (w32 : Bool) (d : Dst) (a : Src)
  /-- VINS (R318): Inserts a scalar into one lane of vd. -/
  | vins (w32 : Bool) (d : Fin 32) (a : Src) (b : Src)
  /-- VEXT (R318): Extracts one lane into a scalar. -/
  | vext (w32 : Bool) (d : Dst) (a : Src) (b : Src)
  /-- MAND (R319): Mask AND. -/
  | mand (d : Fin 8) (a : Fin 8) (b : Fin 8)
  /-- MOR (R319): Mask OR. -/
  | mor (d : Fin 8) (a : Fin 8) (b : Fin 8)
  /-- MXOR (R319): Mask XOR. -/
  | mxor (d : Fin 8) (a : Fin 8) (b : Fin 8)
  /-- MANDN (R319): Mask AND NOT. -/
  | mandn (d : Fin 8) (a : Fin 8) (b : Fin 8)
  /-- MNOT (R319): Mask complement. -/
  | mnot (d : Fin 8) (a : Fin 8)
  /-- MPOPC (R319): Writes the number of ones in a mask to a scalar. -/
  | mpopc (d : Dst) (a : Fin 8)
  /-- EACC (R326): Adds each lane as an exact addend into the sum-file lanes of a window. -/
  | eacc (t : Fmt) (e : Fin 8) (a : Src)
  /-- EVRED (R327): Adds every element of a vector as separate addends into one sum-file lane. -/
  | evred (t : Fmt) (l : Fin 32) (a : Src)
  /-- EREAD (R328): Reads sum-file lanes out to a lane format with rounding. -/
  | eread (t : Fmt) (rm : Rnd) (d : Dst) (e : Fin 8)
  /-- ECLR (R330): Clears the masked lanes of a window. -/
  | eclr (e : Fin 8) (m : Fin 8)
  /-- EANC (R331): Sets a window's anchor and rescales its lanes. -/
  | eanc (e : Fin 8) (a : Fin 32)
  /-- EFLG (R329): Reads the flags bytes of a window's lanes into a vector. -/
  | eflg (d : Dst) (e : Fin 8)
  /-- FEXP (R334): Correctly rounded e^x per lane. -/
  | fexp (t : FloatFmt) (rm : Rnd) (d : Dst) (a : Src)
  /-- FEXP2 (R334): Correctly rounded 2^x per lane. -/
  | fexp2 (t : FloatFmt) (rm : Rnd) (d : Dst) (a : Src)
  /-- FEXPM1 (R334): Correctly rounded e^x - 1 per lane. -/
  | fexpm1 (t : FloatFmt) (rm : Rnd) (d : Dst) (a : Src)
  /-- FLOG (R334): Correctly rounded ln x per lane. -/
  | flog (t : FloatFmt) (rm : Rnd) (d : Dst) (a : Src)
  /-- FLOG2 (R334): Correctly rounded log2 x per lane. -/
  | flog2 (t : FloatFmt) (rm : Rnd) (d : Dst) (a : Src)
  /-- FLOG1P (R334): Correctly rounded ln(1 + x) per lane. -/
  | flog1p (t : FloatFmt) (rm : Rnd) (d : Dst) (a : Src)
  /-- FSIN (R334): Correctly rounded sin x per lane. -/
  | fsin (t : FloatFmt) (rm : Rnd) (d : Dst) (a : Src)
  /-- FCOS (R334): Correctly rounded cos x per lane. -/
  | fcos (t : FloatFmt) (rm : Rnd) (d : Dst) (a : Src)
  /-- FSINPI (R334): Correctly rounded sin(pi x) per lane. -/
  | fsinpi (t : FloatFmt) (rm : Rnd) (d : Dst) (a : Src)
  /-- FCOSPI (R334): Correctly rounded cos(pi x) per lane. -/
  | fcospi (t : FloatFmt) (rm : Rnd) (d : Dst) (a : Src)
  /-- FTANH (R334): Correctly rounded tanh x per lane. -/
  | ftanh (t : FloatFmt) (rm : Rnd) (d : Dst) (a : Src)
  /-- FLOGI (R334): Correctly rounded logistic function per lane. -/
  | flogi (t : FloatFmt) (rm : Rnd) (d : Dst) (a : Src)
  /-- FERF (R334): Correctly rounded erf x per lane. -/
  | ferf (t : FloatFmt) (rm : Rnd) (d : Dst) (a : Src)
  /-- FRSQ (R334): Correctly rounded reciprocal square root per lane. -/
  | frsq (t : FloatFmt) (rm : Rnd) (d : Dst) (a : Src)
  /-- FSQRT (R334): Correctly rounded square root per lane. -/
  | fsqrt (t : FloatFmt) (rm : Rnd) (d : Dst) (a : Src)
  /-- FRCP (R334): Correctly rounded reciprocal per lane. -/
  | frcp (t : FloatFmt) (rm : Rnd) (d : Dst) (a : Src)
  /-- FDIV (R336): Correctly rounded lane-wise division. -/
  | fdiv (t : FloatFmt) (rm : Rnd) (d : Dst) (a : Src) (b : Src)
  /-- XEXP2 (R346): Fast table-and-quadratic 2^x per lane. -/
  | xexp2 (t : FloatFmt) (d : Dst) (a : Src)
  /-- XLOG2 (R346): Fast log2 x per lane. -/
  | xlog2 (t : FloatFmt) (d : Dst) (a : Src)
  /-- XRSQ (R346): Fast reciprocal square root per lane. -/
  | xrsq (t : FloatFmt) (d : Dst) (a : Src)
  /-- XRCP (R346): Fast reciprocal per lane. -/
  | xrcp (t : FloatFmt) (d : Dst) (a : Src)
  /-- XTANH (R346): Fast tanh per lane. -/
  | xtanh (t : FloatFmt) (d : Dst) (a : Src)
  /-- XLOGI (R346): Fast logistic function per lane. -/
  | xlogi (t : FloatFmt) (d : Dst) (a : Src)
  /-- XSIN (R346): Fast sine per lane. -/
  | xsin (t : FloatFmt) (d : Dst) (a : Src)
  /-- XERF (R346): Fast erf per lane. -/
  | xerf (t : FloatFmt) (d : Dst) (a : Src)
  /-- MPUSH (R287): Loads one half-vector of 8 MX records from registers or a ring into the back buffers of the named shafts. -/
  | mpush (shafts : Fin 256) (a : Src) (b : Src)
  /-- MSHIFT (R288): Presents the next activation bit-plane of each named shaft to its halves, updating the plane sums. -/
  | mshift (shafts : Fin 256) (z : Bool)
  /-- MACC (R290): Folds the plane sums of the output groups of the named shafts into periphery values with block scales. -/
  | macc (shafts : Fin 256)
  /-- MDRAIN (R293): Adds the held periphery values of the named groups into the sum file as one addend per output and clears them. -/
  | mdrain (shafts : Fin 256)
  /-- MACC_D (R293): Folds and drains the named groups in one beat. -/
  | maccD (shafts : Fin 256)
  /-- MSET (R284): Declares or releases the dot set from a descriptor and shaft word, making the context owner. -/
  | mset (a : Fin 32) (b : Fin 32)
  /-- MMODE (R301): Sets consecutive halves to dot or storage mode with a format. -/
  | mmode (a : Fin 32) (b : Fin 32)
  /-- MGLAZE (R302): Issues glaze beats that draw plane energy on halves in DOT without changing any state. -/
  | mglaze (a : Fin 32)
  /-- MCHK (R303): Runs a check pass on one half. -/
  | mchk (a : Fin 32)
  /-- MSTAT (R304): Returns the state of a half, of the dot set, or the core's MCNT, interlocked. -/
  | mstat (d : Fin 32) (a : Fin 32)
  /-- RLD (R296): Queues a reload of one half from memory in the reload engine. -/
  | rld (a : Fin 32) (b : Fin 32)
  /-- XPCFG (R300): Replaces the core's 16-entry codebook when it reaches the head of the reload queue. -/
  | xpcfg (a : Fin 32) (b : Fin 32)
  /-- QBIND (R219): Binds a ring from a configuration word after discarding its window. -/
  | qbind (q : Fin 16) (a : Fin 32) (b : Fin 32)
  /-- QUNB (R220): Sets a ring UNBOUND after discarding its window. -/
  | qunb (q : Fin 16)
  /-- QADV (R221): Advances a stream ring's CUR by n elements or drops n FIFO elements. -/
  | qadv (q : Fin 16) (a : Fin 32)
  /-- QWAIT (R222): Waits until a ring holds n ready elements or its pushes have performed. -/
  | qwait (q : Fin 16) (a : Fin 32)
  /-- QSTR (R223): Sets the stride of a ring at a loop level. -/
  | qstr (q : Fin 16) (a : Fin 32) (level : Fin 8)
  /-- QSTAT (R224): Returns a ring's configuration, CUR or counts, interlocked. -/
  | qstat (d : Fin 32) (q : Fin 16) (what : Fin 4)
  /-- SQRD (R236): Returns statistics-ring counts, or waits for the ring to drain. -/
  | sqrd (d : Fin 32) (what : Fin 4)
  /-- CPY (R227): Queues a copy of bits or converted elements between typed spaces or pages. -/
  | cpy (iss : Bool) (ord : Fin 16) (d : Fin 32) (a : Fin 32) (b : Fin 32)
  /-- XFER (R233): Queues a copy into a typed space of another logical core of the kernel. -/
  | xfer (iss : Bool) (ord : Fin 16) (d : Fin 32) (a : Fin 32) (b : Fin 32)
  /-- COLL_ALLR (R378): Issues an exact all-reduce into sum-file lanes across a collective group. -/
  | collAllr (iss : Bool) (ord : Fin 16) (d : Fin 32) (a : Fin 32) (b : Fin 32)
  /-- COLL_BCAST (R378): Issues a broadcast of bits from the root member. -/
  | collBcast (iss : Bool) (ord : Fin 16) (d : Fin 32) (a : Fin 32) (b : Fin 32)
  /-- COLL_ALLG (R378): Issues an all-gather of bits across the group. -/
  | collAllg (iss : Bool) (ord : Fin 16) (d : Fin 32) (a : Fin 32) (b : Fin 32)
  /-- COLL_RSC (R378): Issues an exact reduce-scatter into sum-file lanes. -/
  | collRsc (iss : Bool) (ord : Fin 16) (d : Fin 32) (a : Fin 32) (b : Fin 32)
  /-- RFETCH (R405): Firmware reads a word of the packet at LQRD of a queue with acquire. -/
  | rfetch (rd : Fin 32) (rs1 : Fin 32) (rs2 : Fin 32)
  /-- BFEXT (R405): Firmware extracts a bit field of rs1. -/
  | bfext (rd : Fin 32) (rs1 : Fin 32) (rs2 : Fin 32)
  /-- SWAIT (R405): Firmware waits until a 64-bit memory word reaches a value, then acquires. -/
  | swait (rd : Fin 32) (rs1 : Fin 32) (rs2 : Fin 32)
  /-- DISP (R405): Firmware passes the LAUNCH at LQRD to the loader and returns its load status. -/
  | disp (rd : Fin 32) (rs1 : Fin 32) (rs2 : Fin 32)
  /-- NOP (R77): A slot with bits 30:0 all zero has no effect and occupies no port; with S set it ends its bundle. -/
  | nop
  /-- TRET (R124): Returns from the handler: restores HeldLoops, clears INH and redirects to TEPC, after which late writes replay. -/
  | tret
  /-- SAFE (R125): Marks a safe point at which all results land and a set park request parks the context. -/
  | safe
  /-- GFENCE (R128): Increments GEN at commit, stalling while an uncompleted command carries a tag not older than the new GEN. -/
  | gfence
  /-- EXIT (R362): Ends the current group at commit; the context waits for its next group or retires when its group completes. -/
  | exit
  /-- PWRREL (R397): Sets the power level to 1, returns the excess weight to the ramp limiter and restarts the estimator window. -/
  | pwrrel
  /-- MARK (R268): Holds every younger global access until every older global access of the context has performed. -/
  | mark
  /-- FENCE_SC (R270): Drains the context at system scope and waits for a heartbeat tick at least 128 clk later. -/
  | fenceSc
  /-- LANE_ACT (R324): Accumulator instructions and other addends act at their sum-file lanes three clk after issue, in a fixed order. -/
  | laneAct
  /-- SECOND_PHASE (R338): The shared second-phase unit decides lanes near a rounding boundary at 48 clk each, after which the whole result lands. -/
  | secondPhase
  /-- DRAIN_ARRIVAL (R294): The addends of a drain reach their sum-file lanes 8 + U clk after the draining beat. -/
  | drainArrival
  /-- CHECK_PASS_END (R279): A 256-clk check pass ends, either leaving the half in DOT with CHK clear or failing it. -/
  | checkPassEnd
  /-- RELOAD_START (R299): The reload engine starts a queued reload, performing its acquire and the reload-start event of the half. -/
  | reloadStart
  /-- RELOAD_COMPLETION (R299): After reading the source and writing 256 rows, the half meets the completion event and the barrier counts are made. -/
  | reloadCompletion
  /-- SCRUB_PASS (R305): The scrubber runs a check pass on each half in EMPTY or STORE within each interval. -/
  | scrubPass
  /-- SCRUB_LATE (R305): A half that missed its scrub interval increments MCNT.LATE and is logged. -/
  | scrubLate
  /-- REMAP_WRITE (R306): A firmware write of a remap register, refused after first load or with a bad macro, setting RMERR. -/
  | remapWrite
  /-- RING_READ_AHEAD (R211): A READ ring reads elements ahead into its window, waiting on full bits where FE is set. -/
  | ringReadAhead
  /-- PUSH_PERFORM (R213): A ring push writes its element at its allocated address the clk after it enters the ring. -/
  | pushPerform
  /-- COPY_START (R231): The copy or transfer engine starts a queued command, performing its acquire and first read. -/
  | copyStart
  /-- COPY_COMPLETION (R232): A copy or transfer command completes or ends in error, counting into its barriers. -/
  | copyCompletion
  /-- STATISTICS_DRAIN (R235): In an idle L clk, or forced after 256 clk, the core writes its oldest statistics record to memory. -/
  | statisticsDrain
  /-- EQLIM_WRITE (R226): A write of engine-queue limits, refused with EQERR when the minimums or caps are inconsistent. -/
  | eqlimWrite
  /-- COLLECTIVE_EXCHANGE (R380): Once every member has issued, the engines exchange data, write lanes or bits and count into barriers. -/
  | collectiveExchange
  /-- COLLECTIVE_TIMEOUT (R381): A collective not issued by every member within CTMO ends in error at every member. -/
  | collectiveTimeout
  /-- CGRP_WRITE (R377): A write of a collective group register sets its member list and digest, ignored while a collective of the group is in flight. -/
  | cgrpWrite
  /-- PARK (R102): Firmware command that sets the park request of a context. -/
  | park
  /-- FORCE (R115): Firmware command that parks a context at its next bundle boundary, capturing late writes. -/
  | force
  /-- KILL (R101): Firmware command that retires a context, discarding unstarted commands. -/
  | kill
  /-- RESTORE (R119): Firmware command that resumes a saved context in its slot from its record. -/
  | restore
  /-- RESTART (R101): Firmware command that restarts a context faulted by PAGEFAULT, re-issuing withdrawn commands. -/
  | restart
  /-- RETIRE (R101): Firmware command that retires a faulted context, discarding its record. -/
  | retire
  /-- FREE (R101): Firmware command that frees a retired context slot. -/
  | free
  /-- DETACH (R121): Firmware command that frees the slot of a saved context, keeping it as a detached record. -/
  | detach
  /-- ATTACH (R121): Firmware command that attaches a detached record of the core to a free slot as SAVED. -/
  | attach
  /-- REGISTER_WRITE (R9): A write to a register with no row of its own sets its fields by their access codes. -/
  | registerWrite
  /-- SLICE_EXPIRY (R120): The time slice count reaches SLICE, sets the park request and restarts. -/
  | sliceExpiry
  /-- DEFERRED_TRAP_ENTRY (R107): A pending deferred cause is taken at the first bundle boundary at which the context is READY or RUNNING. -/
  | deferredTrapEntry
  /-- SAVE_COMPLETE (R117): Once engines pass the generation and accesses perform, the record is written and the context becomes SAVED. -/
  | saveComplete
  /-- RESULT_LAND (R84): A result lands in its register or ring at its exposed latency or when its interlocked operation completes. -/
  | resultLand
  /-- LATE_WRITE_LAND (R106): A late-write buffer entry lands at its remaining clk after the context resumes. -/
  | lateWriteLand
  /-- LOCAL_ACCESS_PERFORM (R168): A local store, merge or atomic performs at its bank at its fixed clk after issue. -/
  | localAccessPerform
  /-- GLOBAL_WRITE_MERGE (R41): A global write or atomic performs at the home store-cache slice under the line lock. -/
  | globalWriteMerge
  /-- GLOBAL_LOAD_PERFORM (R259): A global load reads its bits at the home slice and its value returns, or its fault stops the context. -/
  | globalLoadPerform
  /-- FABRIC_REQUEST (R372): A load, store, atomic or barrier request from another device performs at its local home or is refused. -/
  | fabricRequest
  /-- REMOTE_REQUEST_TIMEOUT (R374): A remote request unacknowledged within FTMO is refused with UNMAPPED and stops its context or engine command. -/
  | remoteRequestTimeout
  /-- HOST_CXL_MEM_ACCESS (R369): A host CXL.mem access to the HDM range performs at the home slice or is refused with poison or a dropped write. -/
  | hostCxlMemAccess
  /-- UNSUPPORTED_REQUEST (R370): A host BAR0 access outside the map, or a refused write, completes with Unsupported Request. -/
  | unsupportedRequest
  /-- BACKGROUND_WALK (R192): A background page walk started by a trans miss fills the translation cache from a valid leaf. -/
  | backgroundWalk
  /-- ERASER_SWEEP (R198): Every INT us the eraser decrements the heat of every reachable leaf and offers migration candidates. -/
  | eraserSweep
  /-- SAMPLER (R198): Every 2^SAMPLE-th handle access adds 1 to the read or write heat of its leaf. -/
  | sampler
  /-- MIGRATION_CLAIM (R200): The migration engine pops a target frame, sets MIG to COPY and copies the page line by line. -/
  | migrationClaim
  /-- MIGRATION_REVOKE (R200): After the copy, MIG becomes REVOKE and the revocation is posted to every context. -/
  | migrationRevoke
  /-- MIGRATION_SWITCH (R200): When no handle holds the old frame, dirty lines are copied and FRAME is switched to the new frame. -/
  | migrationSwitch
  /-- MIGRATION_ABANDON (R201): A REVOKE lasting MIGLIM or a failed switch check abandons the migration and revives DOOMED handles. -/
  | migrationAbandon
  /-- XCINV (R202): A write of XCINV posts a revocation of a page in an address space and sets BUSY. -/
  | xcinv
  /-- XCINV_DONE (R202): XCSTAT.BUSY clears once no handle of the device still holds the invalidated page. -/
  | xcinvDone
  /-- HATCH_INTERVAL (R205): After every N-th kernel retirement the hatch engine hashes written pages into a Merkle tree and clears the marks. -/
  | hatchInterval
  /-- NOP_PACKET (R238): A NOP packet of a launch or transport queue completes at once. -/
  | nopPacket
  /-- LAUNCH_PACKET (R352): A LAUNCH packet is checked and its kernel loaded and placed, or the queue stops with a load status. -/
  | launchPacket
  /-- SIGNAL_PACKET (R238): A SIGNAL packet is accepted and waits for every earlier packet to complete. -/
  | signalPacket
  /-- SIGNAL_WRITE (R238): Once earlier packets complete, the 64-bit signal value is written with release .sys. -/
  | signalWrite
  /-- WAIT_PACKET (R238): A WAIT packet holds later packets of its queue on a memory word. -/
  | waitPacket
  /-- WAIT_PACKET_RELEASE (R238): The word read with acquire reaches the value and later packets of the queue proceed. -/
  | waitPacketRelease
  /-- SEND_PACKET (R383): A SEND packet of a transport queue writes bytes into a peer's memory over Ethernet and then its signal. -/
  | sendPacket
  /-- PENDING_PLACEMENT (R354): Each time a kernel frees slots, the loader searches again for a placement of each PENDING launch. -/
  | pendingPlacement
  /-- KERNEL_RELEASE (R356): In the chosen heartbeat tick every context of a loaded kernel moves from LOADED to READY. -/
  | kernelRelease
  /-- GROUP_DISPATCH (R361): The next group of a logical core is dispatched to its context with presets, as an acquire at .dev. -/
  | groupDispatch
  /-- GROUP_COMPLETION (R362): A group completes once its accesses, commands and function results are done, as a release at .dev. -/
  | groupCompletion
  /-- ARRIVE_WRITE (R241): A write to ARRIVE of a device barrier is an arrival of N bits, dropped unless ARMED. -/
  | arriveWrite
  /-- BINIT_PERFORM (R249): A binit reaches its barrier and arms it, discarding bits counted before. -/
  | binitPerform
  /-- BARRIER_ARRIVAL (R244): An arrival performs at its barrier, adding its bits and completing any phases. -/
  | barrierArrival
  /-- HEARTBEAT_TICK (R254): REF reaches a multiple of 1,024, BEAT advances and hbwait waiters whose tick has come become READY. -/
  | heartbeatTick
  /-- WAITT_DEADLINE (R253): TNOW reaches a waitt deadline and the waiting context becomes READY. -/
  | waittDeadline
  /-- TSET (R255): A write of TSET moves REF forward, or sets SETERR if it would move backwards. -/
  | tset
  /-- LOCKED_SLOT (R376): In locked mode each fabric slot begins and carries the waiting requests of its class. -/
  | lockedSlot
  /-- FPCTL_EN (R375): A write of FPCTL.EN starts training of an OFF port, or turns a port OFF. -/
  | fpctlEn
  /-- FPCTL_TRAIN (R375): A write of 1 to FPCTL.TRAIN retrains a DOWN port. -/
  | fpctlTrain
  /-- TRAINING_END (R375): Port training ends in UP, DEGRADED or DOWN by the number of good lanes. -/
  | trainingEnd
  /-- PORT_FAULT (R375): A lost lane or three failed replays send an UP or DEGRADED port back to TRAINING. -/
  | portFault
  /-- PTP_MESSAGE (R384): An IEEE 1588-2019 message is timestamped and drives the firmware servo that disciplines REF. -/
  | ptpMessage
  /-- IDE_KM (R368): IDE keys are set over an SPDM session authenticated by the attestation key. -/
  | ideKm
  /-- QUOTE (R407): A verifier's nonce is answered with an RSASSA-PSS quote over ROM, firmware and configuration hashes. -/
  | quote
  /-- BOOTST_REQUEST (R409): The mask ROM answers a PLDM request for the boot status word over the management bus. -/
  | bootstRequest
  /-- PCMD_IDLE (R388): The IDLE power command stops control-die clocks when every context is FREE, or is held otherwise. -/
  | pcmdIdle
  /-- HELD_IDLE_APPLY (R388): A held IDLE applies once every context is FREE. -/
  | heldIdleApply
  /-- PCMD_ACTIVE (R388): The ACTIVE power command leaves IDLE or drops a held IDLE, letting launches start. -/
  | pcmdActive
  /-- PCMD_RETAIN (R401): The RETAIN power command stops the launch arbiter and sets a park request for every context. -/
  | pcmdRetain
  /-- RETENTION_FORCE (R401): 100 us after retention entry, FORCE is issued to every context not yet parked. -/
  | retentionForce
  /-- RETENTION_POWER_DOWN (R401): Once contexts are retained and caches written back, links, memories and rails drop to retention. -/
  | retentionPowerDown
  /-- RAIL_FAIL (R388): A rail failing outside RETAIN, or during RETAIN, sends the device to OFF with nothing kept. -/
  | railFail
  /-- RAILS_APPLIED (R406): Rails applied from OFF start a cold boot: signature checks, self-test and remap. -/
  | railsApplied
  /-- RAILS_RESTORED (R403): Rails restored in RETAIN start a warm boot that restores and resumes every retained context. -/
  | railsRestored
  /-- BOOT_COMPLETE (R388): Boot completes and the device enters ACTIVE, or halts with a cause in BOOTST. -/
  | bootComplete
  /-- FIRMWARE_UPDATE (R405): A PLDM firmware-update transfer stages a new image in external flash. -/
  | firmwareUpdate
  /-- FIRMWARE_ACTIVATION (R405): Activation parks and saves all contexts, writes the handover record and reboots warm into the new image. -/
  | firmwareActivation
  /-- PCLUS_WRITE (R389): A write of a cluster's ratio or step stops its clock, or is refused with PCLERR. -/
  | pclusWrite
  /-- CLUSTER_CLOCK_RESTART (R389): After 20 us for a ratio change or 2 us for a step change the cluster clock runs again. -/
  | clusterClockRestart
  /-- PCAP_WRITE (R395): A cap write is complied with within 100 us by duty throttling or POWER-LIMIT. -/
  | pcapWrite
  /-- TEMP_LIMIT (R395): A tower's TEMP reaching TLIM halves its TCAP until it cools by 5 degrees. -/
  | tempLimit
  /-- PLOCK_WRITE (R400): A write of PLOCK.EN enters locked mode only while TSTAT.LOCKED is 1. -/
  | plockWrite
  /-- LOCK_LOSS (R400): TSTAT.LOCKED falling to 0 drops locked mode and restores throttling. -/
  | lockLoss
  /-- GRANT (R394): The grant unit grants a waiting weight request once cap, tower caps and ramp allow. -/
  | grant
  /-- RAMP_LIMITER (R399): Returned weight becomes ballast spent as glaze beats and decayed at PRAMP.DOWN. -/
  | rampLimiter
  /-- ENERGY_COUNTER_READ (R390): A 32-bit read of an energy counter returns its low half and latches the high half for that firmware core. -/
  | energyCounterRead
  /-- ELLEN_WRITE (R408): Setting the error log region writes out records held in the base die, or is ignored while records are unread. -/
  | ellenWrite
  /-- FIRMWARE_CORE_ACCESS (R29): A firmware core load or store reaches memory, the core windows or the physical macro storage view, or is refused with a bus error. -/
  | firmwareCoreAccess
  /-- FABRIC_RESPONSE (R374): The completion or error response of a remote store or atomic returns to the requesting device, completing it at .dom scope or stopping its context with the refusal's cause. -/
  | fabricResponse
  /-- TRANSPORT_RECEIVE (R383): A Leostov transport frame from a peer's SEND arrives on an Ethernet port, and the device writes its bytes into HBM4 or LPDDR-6 and then writes the signal with release .sys. -/
  | transportReceive
  /-- SEND_UNACKNOWLEDGED (R383): A SEND still unacknowledged after FTMO.US microseconds, or refused by its peer, stops its transport queue under R239. -/
  | sendUnacknowledged
  /-- TOWER_COOLED (R395): A hot tower's TEMP falls below TLIM minus 5, ending the halving of its TCAP so that duty and grants are recomputed. -/
  | towerCooled
deriving DecidableEq, Repr

end Sys2Proof
end

