-- ==== Sys2Proof/WellFormed.lean ====
section
/-! DEFINITION. WellFormed.lean: the checks on one slot that its field widths leave open: a value in range for its field and still ILLEGAL by the rule of its form (R81 to R83 and the chapters). -/

namespace Sys2Proof

/-- The control registers a crd may name (R98, Table 5.2, R255, R391). -/
def cregReadable (n : Nat) : Bool :=
  n ≤ 0x004 || (0x010 ≤ n && n ≤ 0x017) || (0x020 ≤ n && n ≤ 0x023) || (0x040 ≤ n && n ≤ 0x042)

/-- The control registers a cwr may name: those with a field that is not RO (R98). -/
def cregWritable (n : Nat) : Bool :=
  n ≤ 0x004 || (0x010 ≤ n && n ≤ 0x012) || n == 0x015 || n == 0x016 || n == 0x023

/-- The formats of the lane conversions and of eacc, evred and eread (R320, R326). -/
def Fmt.isLane : Fmt → Bool
  | .fp32 | .bf16 | .fp16 | .fp8e4 | .fp8e5 | .s8 | .s16 | .s32 | .n8 | .n16 | .n32 => true
  | _ => false

/-- The MX formats (codes 0x08 to 0x0D of Table 3.1). -/
def Fmt.isMx : Fmt → Bool
  | .mxi8 | .mxi6 | .mxi4 | .mxf4 | .mxi3 | .mxi4z => true
  | _ => false

/-- The MX formats of fixed record length, which have cursors (R155, Table 7.5). -/
def Fmt.isCursor (t : Fmt) : Bool := t.isMx && t != .mxi4z

/-- A rounding field of an instruction that is no conversion (R51, R83). -/
def Rnd.noSr (r : Rnd) : Bool := r != .sr

/-- One slot is well formed: no rule of its form calls the encoding ILLEGAL. -/
def Instr.wf : Instr → Bool
  | .crd _ creg => cregReadable creg.val
  | .cwr creg _ => cregWritable creg.val
  | .gidx _ dim => dim.val < 6
  | .lbrk level => level.val < 6
  | .gspawn a => a.val < 31
  | .pwracq level => level.val != 0
  | .ltag level _ _ => level.val < 6
  | .rdi _ n => n.val < 6
  | .bfx _ _ _ pos wid => pos.val + wid.val < 64
  | .bfi _ _ pos wid => pos.val + wid.val < 64
  | .bfm _ pos wid => pos.val + wid.val < 64
  | .cmp _ k _ _ => k.val != 0
  | .cmpi _ k _ _ => k.val != 0
  | .pand k _ _ => k.val != 0
  | .por k _ _ => k.val != 0
  | .pxor k _ _ => k.val != 0
  | .pandn k _ _ => k.val != 0
  | .padd t _ _ _ => t != .mxi4z
  | .pdif t _ _ _ => t != .mxi4z
  | .pal t _ _ _ => t != .mxi4z
  | .pcls t _ _ _ => t != .mxi4z
  | .prec t _ _ _ => t.isMx
  | .pscl t _ _ => t.isCursor
  | .ldAct _ _ _ _ fe => fe.val < 3
  | .vldAct fe _ _ _ => fe.val < 3
  | .aaddAct w _ _ _ _ => w.val < 11
  | .aandAct w _ _ _ _ => w.val < 11
  | .aorAct w _ _ _ _ => w.val < 11
  | .axorAct w _ _ _ _ => w.val < 11
  | .aminAct w _ _ _ _ => w.val < 11
  | .amaxAct w _ _ _ _ => w.val < 11
  | .aswapAct w _ _ _ _ => w.val < 11
  | .acasAct w _ d _ _ => w.val < 11 && d.val < 31
  | .aaddG w _ _ d _ => w.val < 11 && d.val < 31
  | .aandG w _ _ d _ => w.val < 11 && d.val < 31
  | .aorG w _ _ d _ => w.val < 11 && d.val < 31
  | .axorG w _ _ d _ => w.val < 11 && d.val < 31
  | .aminG w _ _ d _ => w.val < 11 && d.val < 31
  | .amaxG w _ _ d _ => w.val < 11 && d.val < 31
  | .aswapG w _ _ d _ => w.val < 11 && d.val < 31
  | .acasG w _ _ d _ => w.val < 11 && d.val < 30
  | .fence ord => ord.val != 0
  | .trans _ _ k => k.val != 0
  | .barv ord _ _ => ord.val == 0 || (6 ≤ ord.val && ord.val ≤ 10)
  | .bwait ord _ => ord.val ≤ 5
  | .btest k _ ord => k.val != 0 && ord.val ≤ 5
  | .fadd _ rm _ _ _ => rm.noSr
  | .fsub _ rm _ _ _ => rm.noSr
  | .fmul _ rm _ _ _ => rm.noSr
  | .fma _ rm _ _ _ => rm.noSr
  | .fms _ rm _ _ _ => rm.noSr
  | .fnma _ rm _ _ _ => rm.noSr
  | .cvt t f _ _ _ => t.isLane && f.isLane
  | .qnt f pol _ elt _ _ => f.isMx && pol.val < 3 && elt.val < 3 && (f != .mxf4 || pol.val == 0)
  | .dqnt f pol _ elt _ _ => f.isMx && pol.val < 3 && elt.val < 3 && (f != .mxf4 || pol.val == 0)
  | .eacc t _ _ => t.isLane
  | .evred t _ _ => t.isLane
  | .eread t rm _ _ => t.isLane && rm.noSr
  | .fexp _ rm _ _ => rm.noSr
  | .fexp2 _ rm _ _ => rm.noSr
  | .fexpm1 _ rm _ _ => rm.noSr
  | .flog _ rm _ _ => rm.noSr
  | .flog2 _ rm _ _ => rm.noSr
  | .flog1p _ rm _ _ => rm.noSr
  | .fsin _ rm _ _ => rm.noSr
  | .fcos _ rm _ _ => rm.noSr
  | .fsinpi _ rm _ _ => rm.noSr
  | .fcospi _ rm _ _ => rm.noSr
  | .ftanh _ rm _ _ => rm.noSr
  | .flogi _ rm _ _ => rm.noSr
  | .ferf _ rm _ _ => rm.noSr
  | .frsq _ rm _ _ => rm.noSr
  | .fsqrt _ rm _ _ => rm.noSr
  | .frcp _ rm _ _ => rm.noSr
  | .fdiv _ rm _ _ _ => rm.noSr
  | .mpush _ a b => (match a with | .reg _ => (match b with | .reg _ => true | _ => false) | _ => b == .reg 0)
  | .rld a _ => a.val < 31
  | .qstr _ _ level => level.val < 6
  | .qstat _ _ what => what.val < 3
  | .cpy _ _ _ _ b => b.val < 31
  | .xfer _ _ _ _ b => b.val < 31
  | .collAllr _ _ _ _ b => b.val < 31
  | .collBcast _ _ _ _ b => b.val < 31
  | .collAllg _ _ _ _ b => b.val < 31
  | .collRsc _ _ _ _ b => b.val < 31
  | _ => true

end Sys2Proof
end

