-- ==== Sys2Proof/Decode.lean ====
section
/-! DEFINITION. Decode.lean: from the 32 bits of a slot to an instruction (R71, R77 to R83, Tables 4.2 to 4.7), and back. Every word that no row assigns is refused (R81). The four instructions of the firmware cores (R405) have a decoder of their own. -/

namespace Sys2Proof

/-- The n bits of w from bit lo up (R2). -/
def fld (w lo n : Nat) : Nat := w / 2 ^ lo % 2 ^ n

/-- One bit of w (R2). -/
def bit (w lo : Nat) : Bool := fld w lo 1 == 1

/-- A field of k values, k a power of two. -/
def num (k : Nat) [NeZero k] (w lo : Nat) : Fin k := Fin.ofNat k (w / 2 ^ lo)

/-- A five-bit s or v register field. -/
def reg5 (w lo : Nat) : Fin 32 := num 32 w lo

/-- An immediate field of n bits. -/
def imm (n w lo : Nat) : BitVec n := BitVec.ofNat n (w / 2 ^ lo)

/-- The value of a source field (Table 4.2). -/
def Src.code : Src → Nat
  | .reg i => i.val
  | .pop q => 32 + q.val
  | .peek q => 48 + q.val

/-- The value of a destination field (Table 4.2). -/
def Dst.code : Dst → Nat
  | .reg i => i.val
  | .push q => 32 + q.val

/-- A source field (R78): 0 to 31 a register, 32 to 47 a pop, 48 to 63 a peek. -/
def src (w lo : Nat) : Src :=
  if fld w lo 6 < 32 then .reg (num 32 w lo)
  else if fld w lo 6 < 48 then .pop (num 16 w lo) else .peek (num 16 w lo)

/-- A destination field (R78): 48 to 63 is ILLEGAL. -/
def dst? (w lo : Nat) : Option Dst :=
  if fld w lo 6 < 32 then some (.reg (num 32 w lo))
  else if fld w lo 6 < 48 then some (.push (num 16 w lo)) else none

/-- The format code of a format (Table 3.1). -/
def Fmt.code : Fmt → Nat
  | .fp32 => 0x00 | .bf16 => 0x01 | .fp16 => 0x02 | .fp8e4 => 0x03 | .fp8e5 => 0x04
  | .mxi8 => 0x08 | .mxi6 => 0x09 | .mxi4 => 0x0A | .mxf4 => 0x0B | .mxi3 => 0x0C | .mxi4z => 0x0D
  | .s8 => 0x10 | .s16 => 0x11 | .s32 => 0x12 | .s64 => 0x13
  | .n8 => 0x14 | .n16 => 0x15 | .n32 => 0x16 | .n64 => 0x17

/-- The format of a code (Table 3.1); none for a reserved code. -/
def Fmt.ofCode : Nat → Option Fmt
  | 0x00 => some .fp32 | 0x01 => some .bf16 | 0x02 => some .fp16 | 0x03 => some .fp8e4 | 0x04 => some .fp8e5
  | 0x08 => some .mxi8 | 0x09 => some .mxi6 | 0x0A => some .mxi4 | 0x0B => some .mxf4 | 0x0C => some .mxi3
  | 0x0D => some .mxi4z
  | 0x10 => some .s8 | 0x11 => some .s16 | 0x12 => some .s32 | 0x13 => some .s64
  | 0x14 => some .n8 | 0x15 => some .n16 | 0x16 => some .n32 | 0x17 => some .n64
  | _ => none

/-- A five-bit format field (R48). -/
def fmt? (w lo : Nat) : Option Fmt := Fmt.ofCode (fld w lo 5)

/-- The three-bit format field of the function majors: the codes 0 to 4 of Table 3.1 (R332). -/
def FloatFmt.code : FloatFmt → Nat
  | .fp32 => 0 | .bf16 => 1 | .fp16 => 2 | .fp8e4 => 3 | .fp8e5 => 4

/-- The format of a code of Table 3.1 below 5. -/
def FloatFmt.ofCode : Nat → Option FloatFmt
  | 0 => some .fp32 | 1 => some .bf16 | 2 => some .fp16 | 3 => some .fp8e4 | 4 => some .fp8e5 | _ => none

/-- A function-format field; 5 to 7 is ILLEGAL (R83). -/
def floatFmt? (w lo : Nat) : Option FloatFmt := FloatFmt.ofCode (fld w lo 3)

/-- Majors 0x20 to 0x24 name BF16, FP16, FP32, FP8E4 and FP8E5 in this order (Table 4.7). -/
def FloatFmt.major : FloatFmt → Nat
  | .bf16 => 0 | .fp16 => 1 | .fp32 => 2 | .fp8e4 => 3 | .fp8e5 => 4

/-- The format of the low three bits of a major from 0x20 to 0x24. -/
def majorFmt? (w lo : Nat) : Option FloatFmt :=
  match fld w lo 3 with
  | 0 => some .bf16 | 1 => some .fp16 | 2 => some .fp32 | 3 => some .fp8e4 | 4 => some .fp8e5 | _ => none

/-- The rounding field (Table 3.3). -/
def Rnd.code : Rnd → Nat
  | .rne => 0 | .rna => 1 | .rtz => 2 | .rup => 3 | .rdn => 4 | .sr => 5 | .dyn => 7

/-- The mode of a code; 6 is reserved (Table 3.3). -/
def Rnd.ofCode : Nat → Option Rnd
  | 0 => some .rne | 1 => some .rna | 2 => some .rtz | 3 => some .rup | 4 => some .rdn | 5 => some .sr
  | 7 => some .dyn | _ => none

/-- A rounding field; 6 is ILLEGAL (R51). -/
def rnd? (w lo : Nat) : Option Rnd := Rnd.ofCode (fld w lo 3)

/-- The code of a condition (Table 6.2). -/
def Cond.code : Cond → Nat
  | .eq => 0 | .ne => 1 | .lt => 2 | .ge => 3 | .ltu => 4 | .geu => 5 | .tst => 6 | .ntst => 7

/-- The condition of a code; 8 to 15 is ILLEGAL (R130). -/
def Cond.ofCode : Nat → Option Cond
  | 0 => some .eq | 1 => some .ne | 2 => some .lt | 3 => some .ge | 4 => some .ltu | 5 => some .geu
  | 6 => some .tst | 7 => some .ntst | _ => none

/-- A condition field. -/
def cond? (w lo : Nat) : Option Cond := Cond.ofCode (fld w lo 4)

/-- The slots of major 0x00 (04 Tables 4.4 to 4.7). -/
def decodeMajor00 (w : Nat) : Option Instr :=
  if fld w 0 25 = 0 then some .nop
  else if fld w 12 13 = 64 then some (.trap (num 4096 w 0))
  else if fld w 0 25 = 524288 then some .tret
  else if fld w 0 25 = 786432 then some .safe
  else if fld w 17 8 = 8 then some (.crd (reg5 w 12) (num 4096 w 0))
  else if fld w 17 8 = 10 then some (.cwr (num 4096 w 0) (reg5 w 12))
  else if fld w 0 25 = 1572864 then some .gfence
  else if fld w 0 25 = 1835008 then some .exit
  else if fld w 18 7 = 8 ∧ fld w 3 9 = 0 then (dst? w 12).bind fun d => some (.gidx d (num 8 w 0))
  else if fld w 3 22 = 294912 then some (.lbrk (num 8 w 0))
  else if fld w 11 14 = 1280 ∧ fld w 0 6 = 0 then some (.gspawn (reg5 w 6))
  else if fld w 4 21 = 180224 then some (.pwracq (num 16 w 0))
  else if fld w 0 25 = 3145728 then some .pwrrel
  else none

/-- The slots of major 0x01 (04 Tables 4.4 to 4.7). -/
def decodeMajor01 (w : Nat) : Option Instr :=
  if fld w 22 3 = 0 then some (.br (imm 18 w 4) (num 16 w 0))
  else none

/-- The slots of major 0x02 (04 Tables 4.4 to 4.7). -/
def decodeMajor02 (w : Nat) : Option Instr :=
  if fld w 22 3 = 0 then some (.call (imm 18 w 4) (num 16 w 0))
  else none

/-- The slots of major 0x03 (04 Tables 4.4 to 4.7). -/
def decodeMajor03 (w : Nat) : Option Instr :=
  if fld w 12 13 = 0 ∧ fld w 4 6 = 0 then some (.bri (num 4 w 10) (num 16 w 0))
  else if fld w 4 21 = 262144 then some (.ret (num 16 w 0))
  else none

/-- The slots of major 0x04 (04 Tables 4.4 to 4.7). -/
def decodeMajor04 (w : Nat) : Option Instr :=
  if fld w 22 3 = 0 ∧ fld w 18 2 = 0 then some (.pbr (num 4 w 20) (imm 18 w 0))
  else none

/-- The slots of major 0x05 (04 Tables 4.4 to 4.7). -/
def decodeMajor05 (w : Nat) : Option Instr :=
  if fld w 23 2 = 1 then some (.loop (num 64 w 17) (num 131072 w 0))
  else if fld w 23 2 = 0 ∧ fld w 6 11 = 0 then some (.loopReg (num 64 w 17) (src w 0))
  else if fld w 23 2 = 3 then some (.loopSafe (num 64 w 17) (num 131072 w 0))
  else if fld w 23 2 = 2 ∧ fld w 6 11 = 0 then some (.loopSafeReg (num 64 w 17) (src w 0))
  else none

/-- The slots of major 0x06 (04 Tables 4.4 to 4.7). -/
def decodeMajor06 (w : Nat) : Option Instr :=
  if fld w 16 6 = 0 then some (.ltag (num 8 w 22) (num 256 w 8) (num 256 w 0))
  else none

/-- The slots of major 0x08 (04 Tables 4.4 to 4.7). -/
def decodeMajor08 (w : Nat) : Option Instr :=
  if fld w 18 7 = 0 then (dst? w 12).bind fun d => some (.add d (src w 6) (src w 0))
  else if fld w 18 7 = 1 then (dst? w 12).bind fun d => some (.sub d (src w 6) (src w 0))
  else if fld w 18 7 = 2 then (dst? w 12).bind fun d => some (.and d (src w 6) (src w 0))
  else if fld w 18 7 = 3 then (dst? w 12).bind fun d => some (.or d (src w 6) (src w 0))
  else if fld w 18 7 = 4 then (dst? w 12).bind fun d => some (.xor d (src w 6) (src w 0))
  else if fld w 18 7 = 5 then (dst? w 12).bind fun d => some (.andn d (src w 6) (src w 0))
  else if fld w 18 7 = 6 then (dst? w 12).bind fun d => some (.min d (src w 6) (src w 0))
  else if fld w 18 7 = 7 then (dst? w 12).bind fun d => some (.max d (src w 6) (src w 0))
  else if fld w 18 7 = 8 then (dst? w 12).bind fun d => some (.minu d (src w 6) (src w 0))
  else if fld w 18 7 = 9 then (dst? w 12).bind fun d => some (.maxu d (src w 6) (src w 0))
  else if fld w 18 7 = 10 then (dst? w 12).bind fun d => some (.shl d (src w 6) (src w 0))
  else if fld w 18 7 = 11 then (dst? w 12).bind fun d => some (.shr d (src w 6) (src w 0))
  else if fld w 18 7 = 12 then (dst? w 12).bind fun d => some (.sra d (src w 6) (src w 0))
  else if fld w 18 7 = 13 then (dst? w 12).bind fun d => some (.rol d (src w 6) (src w 0))
  else if fld w 18 7 = 14 then (dst? w 12).bind fun d => some (.ror d (src w 6) (src w 0))
  else if fld w 18 7 = 16 ∧ fld w 0 6 = 0 then (dst? w 12).bind fun d => some (.clz d (src w 6))
  else if fld w 18 7 = 17 ∧ fld w 0 6 = 0 then (dst? w 12).bind fun d => some (.ctz d (src w 6))
  else if fld w 18 7 = 18 ∧ fld w 0 6 = 0 then (dst? w 12).bind fun d => some (.popc d (src w 6))
  else if fld w 18 7 = 19 ∧ fld w 0 6 = 0 then (dst? w 12).bind fun d => some (.brev d (src w 6))
  else if fld w 18 7 = 20 ∧ fld w 0 6 = 0 then (dst? w 12).bind fun d => some (.abs d (src w 6))
  else if fld w 18 7 = 32 ∧ fld w 8 4 = 0 ∧ fld w 0 6 = 0 then (dst? w 12).bind fun d => some (.rdb d (num 4 w 6))
  else if fld w 14 11 = 528 ∧ fld w 0 6 = 0 then some (.wrb (num 4 w 12) (src w 6))
  else if fld w 18 7 = 34 ∧ fld w 0 12 = 0 then (dst? w 12).bind fun d => some (.rdp d)
  else if fld w 12 13 = 2240 then some (.wrp (src w 6) (src w 0))
  else if fld w 18 7 = 36 ∧ fld w 9 3 = 0 ∧ fld w 0 6 = 0 then (dst? w 12).bind fun d => some (.rdm d (num 8 w 6))
  else if fld w 15 10 = 296 ∧ fld w 0 6 = 0 then some (.wrm (num 8 w 12) (src w 6))
  else if fld w 18 7 = 38 ∧ fld w 9 3 = 0 ∧ fld w 0 6 = 0 then (dst? w 12).bind fun d => some (.rde d (num 8 w 6))
  else if fld w 15 10 = 312 ∧ fld w 0 6 = 0 then some (.wre (num 8 w 12) (src w 6))
  else if fld w 18 7 = 40 ∧ fld w 9 3 = 0 ∧ fld w 0 6 = 0 then (dst? w 12).bind fun d => some (.rdi d (num 8 w 6))
  else none

/-- The slots of major 0x09 (04 Tables 4.4 to 4.7). -/
def decodeMajor09 (w : Nat) : Option Instr :=
  if fld w 18 7 = 0 then (dst? w 12).bind fun d => some (.mul d (src w 6) (src w 0))
  else if fld w 18 7 = 1 then (dst? w 12).bind fun d => some (.mulh d (src w 6) (src w 0))
  else if fld w 18 7 = 2 then (dst? w 12).bind fun d => some (.mulhu d (src w 6) (src w 0))
  else if fld w 17 8 = 6 then some (.div (reg5 w 12) (src w 6) (src w 0))
  else if fld w 17 8 = 8 then some (.divu (reg5 w 12) (src w 6) (src w 0))
  else if fld w 17 8 = 10 then some (.rem (reg5 w 12) (src w 6) (src w 0))
  else if fld w 17 8 = 12 then some (.remu (reg5 w 12) (src w 6) (src w 0))
  else none

/-- The slots of major 0x0A (04 Tables 4.4 to 4.7). -/
def decodeMajor0A (w : Nat) : Option Instr :=
  if fld w 22 3 = 0 then (dst? w 16).bind fun d => some (.addi d (src w 10) (imm 10 w 0))
  else if fld w 22 3 = 1 then (dst? w 16).bind fun d => some (.andi d (src w 10) (imm 10 w 0))
  else if fld w 22 3 = 2 then (dst? w 16).bind fun d => some (.ori d (src w 10) (imm 10 w 0))
  else if fld w 22 3 = 3 then (dst? w 16).bind fun d => some (.xori d (src w 10) (imm 10 w 0))
  else if fld w 22 3 = 4 ∧ fld w 6 4 = 0 then (dst? w 16).bind fun d => some (.shli d (src w 10) (num 64 w 0))
  else if fld w 22 3 = 5 ∧ fld w 6 4 = 0 then (dst? w 16).bind fun d => some (.shri d (src w 10) (num 64 w 0))
  else if fld w 22 3 = 6 ∧ fld w 6 4 = 0 then (dst? w 16).bind fun d => some (.srai d (src w 10) (num 64 w 0))
  else none

/-- The slots of major 0x0B (04 Tables 4.4 to 4.7). -/
def decodeMajor0B (w : Nat) : Option Instr :=
  if fld w 22 3 = 0 then (dst? w 16).bind fun d => some (.li d (imm 16 w 0))
  else if fld w 21 4 = 2 then some (.lih1 (reg5 w 16) (imm 16 w 0))
  else if fld w 21 4 = 4 then some (.lih2 (reg5 w 16) (imm 16 w 0))
  else if fld w 21 4 = 6 then some (.lih3 (reg5 w 16) (imm 16 w 0))
  else none

/-- The slots of major 0x0C (04 Tables 4.4 to 4.7). -/
def decodeMajor0C (w : Nat) : Option Instr :=
  (dst? w 18).bind fun d => some (.bfx (bit w 24) d (src w 12) (num 64 w 6) (num 64 w 0))

/-- The slots of major 0x0D (04 Tables 4.4 to 4.7). -/
def decodeMajor0D (w : Nat) : Option Instr :=
  if fld w 23 2 = 0 then some (.bfi (reg5 w 18) (src w 12) (num 64 w 6) (num 64 w 0))
  else none

/-- The slots of major 0x0E (04 Tables 4.4 to 4.7). -/
def decodeMajor0E (w : Nat) : Option Instr :=
  if fld w 24 1 = 0 ∧ fld w 12 6 = 0 then (dst? w 18).bind fun d => some (.bfm d (num 64 w 6) (num 64 w 0))
  else none

/-- The slots of major 0x0F (04 Tables 4.4 to 4.7). -/
def decodeMajor0F (w : Nat) : Option Instr :=
  if fld w 0 6 = 0 then (cond? w 21).bind fun c => some (.cmp c (num 8 w 18) (src w 12) (src w 6))
  else none

/-- The slots of major 0x10 (04 Tables 4.4 to 4.7). -/
def decodeMajor10 (w : Nat) : Option Instr :=
  (cond? w 21).bind fun c => some (.cmpi c (num 8 w 18) (src w 12) (imm 12 w 0))

/-- The slots of major 0x11 (04 Tables 4.4 to 4.7). -/
def decodeMajor11 (w : Nat) : Option Instr :=
  if fld w 22 3 = 0 ∧ fld w 0 11 = 0 then some (.pand (num 8 w 19) (num 16 w 15) (num 16 w 11))
  else if fld w 22 3 = 1 ∧ fld w 0 11 = 0 then some (.por (num 8 w 19) (num 16 w 15) (num 16 w 11))
  else if fld w 22 3 = 2 ∧ fld w 0 11 = 0 then some (.pxor (num 8 w 19) (num 16 w 15) (num 16 w 11))
  else if fld w 22 3 = 3 ∧ fld w 0 11 = 0 then some (.pandn (num 8 w 19) (num 16 w 15) (num 16 w 11))
  else none

/-- The slots of major 0x12 (04 Tables 4.4 to 4.7). -/
def decodeMajor12 (w : Nat) : Option Instr :=
  if fld w 22 3 = 0 then (dst? w 16).bind fun d => some (.sel d (src w 10) (src w 4) (num 16 w 0))
  else none

/-- The slots of major 0x13 (04 Tables 4.4 to 4.7). -/
def decodeMajor13 (w : Nat) : Option Instr :=
  if fld w 23 2 = 0 then (fmt? w 18).bind fun t => (dst? w 12).bind fun d => some (.padd t d (src w 6) (src w 0))
  else if fld w 23 2 = 1 then (fmt? w 18).bind fun t => (dst? w 12).bind fun d => some (.pdif t d (src w 6) (src w 0))
  else if fld w 23 2 = 2 then (fmt? w 18).bind fun t => (dst? w 12).bind fun d => some (.pidx t d (src w 6) (src w 0))
  else if fld w 23 2 = 3 then (fmt? w 18).bind fun t => (dst? w 12).bind fun d => some (.prec t d (src w 6) (src w 0))
  else none

/-- The slots of major 0x14 (04 Tables 4.4 to 4.7). -/
def decodeMajor14 (w : Nat) : Option Instr :=
  if fld w 24 1 = 0 then (dst? w 12).bind fun d => some (.paddB (num 64 w 18) d (src w 6) (src w 0))
  else if fld w 24 1 = 1 then (dst? w 12).bind fun d => some (.pdifB (num 64 w 18) d (src w 6) (src w 0))
  else none

/-- The slots of major 0x15 (04 Tables 4.4 to 4.7). -/
def decodeMajor15 (w : Nat) : Option Instr :=
  if fld w 23 2 = 1 then (fmt? w 18).bind fun t => (dst? w 12).bind fun d => some (.pal t d (src w 6) (src w 0))
  else if fld w 23 2 = 2 then (fmt? w 18).bind fun t => (dst? w 12).bind fun d => some (.pcls t d (src w 6) (src w 0))
  else if fld w 23 2 = 0 ∧ fld w 0 6 = 0 then (fmt? w 18).bind fun t => (dst? w 12).bind fun d => some (.pscl t d (src w 6))
  else none

/-- The slots of major 0x18 (04 Tables 4.4 to 4.7). -/
def decodeMajor18 (w : Nat) : Option Instr :=
  if fld w 24 1 = 0 ∧ fld w 22 1 = 0 ∧ fld w 2 2 = 0 then (dst? w 10).bind fun d => some (.ldAct (bit w 23) (num 64 w 16) d (src w 4) (num 4 w 0))
  else if fld w 24 1 = 0 ∧ fld w 22 1 = 1 ∧ fld w 0 4 = 0 then (dst? w 10).bind fun d => some (.ldStg (bit w 23) (num 64 w 16) d (src w 4))
  else if fld w 24 1 = 1 ∧ fld w 22 1 = 0 then some (.stAct (bit w 23) (num 64 w 16) (src w 10) (src w 4) (num 16 w 0))
  else if fld w 22 3 = 5 then some (.stStg (num 64 w 16) (src w 10) (src w 4) (num 16 w 0))
  else none

/-- The slots of major 0x19 (04 Tables 4.4 to 4.7). -/
def decodeMajor19 (w : Nat) : Option Instr :=
  if fld w 24 1 = 0 ∧ fld w 0 2 = 0 then (dst? w 11).bind fun d => some (.ldG (bit w 23) (num 64 w 17) d (num 16 w 7) (reg5 w 2))
  else if fld w 24 1 = 1 then some (.stG (num 64 w 18) (reg5 w 13) (num 16 w 9) (reg5 w 4) (num 16 w 0))
  else none

/-- The slots of major 0x1A (04 Tables 4.4 to 4.7). -/
def decodeMajor1A (w : Nat) : Option Instr :=
  if fld w 22 3 = 0 ∧ fld w 18 1 = 0 ∧ fld w 0 6 = 0 then (dst? w 12).bind fun d => some (.vldAct (num 4 w 20) (bit w 19) d (src w 6))
  else if fld w 20 5 = 4 ∧ fld w 18 1 = 0 then (dst? w 12).bind fun d => some (.vldActStr (bit w 19) d (src w 6) (src w 0))
  else if fld w 20 5 = 8 ∧ fld w 18 1 = 0 ∧ fld w 0 6 = 0 then (dst? w 12).bind fun d => some (.vldActCol (bit w 19) d (src w 6))
  else if fld w 20 5 = 12 ∧ fld w 18 1 = 0 ∧ fld w 0 6 = 0 then (dst? w 12).bind fun d => some (.vldStg (bit w 19) d (src w 6))
  else if fld w 20 5 = 16 ∧ fld w 18 1 = 0 ∧ fld w 10 2 = 0 then (dst? w 12).bind fun d => some (.vldG (bit w 19) d (num 16 w 6) (src w 0))
  else none

/-- The slots of major 0x1B (04 Tables 4.4 to 4.7). -/
def decodeMajor1B (w : Nat) : Option Instr :=
  if fld w 19 3 = 0 ∧ fld w 5 4 = 0 then some (.vstAct (num 8 w 22) (reg5 w 14) (reg5 w 9) (bit w 4) (num 16 w 0))
  else if fld w 19 3 = 2 ∧ fld w 5 4 = 0 then some (.vstActCol (num 8 w 22) (reg5 w 14) (reg5 w 9) (bit w 4) (num 16 w 0))
  else if fld w 19 3 = 3 ∧ fld w 5 4 = 0 then some (.vstStg (num 8 w 22) (reg5 w 14) (reg5 w 9) (bit w 4) (num 16 w 0))
  else if fld w 19 3 = 5 ∧ fld w 5 4 = 0 then some (.vstActFill (num 8 w 22) (reg5 w 14) (reg5 w 9) (bit w 4) (num 16 w 0))
  else if fld w 19 3 = 1 then some (.vstActStr16 (num 8 w 22) (reg5 w 14) (reg5 w 9) (reg5 w 4) (num 16 w 0))
  else if fld w 19 3 = 6 then some (.vstActStr32 (num 8 w 22) (reg5 w 14) (reg5 w 9) (reg5 w 4) (num 16 w 0))
  else if fld w 19 3 = 4 then some (.vstG (num 8 w 22) (reg5 w 14) (bit w 13) (num 16 w 9) (reg5 w 4) (num 16 w 0))
  else none

/-- The slots of major 0x1C (04 Tables 4.4 to 4.7). -/
def decodeMajor1C (w : Nat) : Option Instr :=
  if fld w 22 3 = 0 then some (.aaddAct (num 16 w 18) (num 16 w 14) (reg5 w 9) (reg5 w 4) (num 16 w 0))
  else if fld w 22 3 = 1 then some (.aandAct (num 16 w 18) (num 16 w 14) (reg5 w 9) (reg5 w 4) (num 16 w 0))
  else if fld w 22 3 = 2 then some (.aorAct (num 16 w 18) (num 16 w 14) (reg5 w 9) (reg5 w 4) (num 16 w 0))
  else if fld w 22 3 = 3 then some (.axorAct (num 16 w 18) (num 16 w 14) (reg5 w 9) (reg5 w 4) (num 16 w 0))
  else if fld w 22 3 = 4 then some (.aminAct (num 16 w 18) (num 16 w 14) (reg5 w 9) (reg5 w 4) (num 16 w 0))
  else if fld w 22 3 = 5 then some (.amaxAct (num 16 w 18) (num 16 w 14) (reg5 w 9) (reg5 w 4) (num 16 w 0))
  else if fld w 22 3 = 6 then some (.aswapAct (num 16 w 18) (num 16 w 14) (reg5 w 9) (reg5 w 4) (num 16 w 0))
  else if fld w 22 3 = 7 then some (.acasAct (num 16 w 18) (num 16 w 14) (reg5 w 9) (reg5 w 4) (num 16 w 0))
  else none

/-- The slots of major 0x1D (04 Tables 4.4 to 4.7). -/
def decodeMajor1D (w : Nat) : Option Instr :=
  if fld w 22 3 = 0 ∧ fld w 4 1 = 0 then some (.aaddG (num 16 w 18) (num 16 w 14) (num 16 w 10) (reg5 w 5) (num 16 w 0))
  else if fld w 22 3 = 1 ∧ fld w 4 1 = 0 then some (.aandG (num 16 w 18) (num 16 w 14) (num 16 w 10) (reg5 w 5) (num 16 w 0))
  else if fld w 22 3 = 2 ∧ fld w 4 1 = 0 then some (.aorG (num 16 w 18) (num 16 w 14) (num 16 w 10) (reg5 w 5) (num 16 w 0))
  else if fld w 22 3 = 3 ∧ fld w 4 1 = 0 then some (.axorG (num 16 w 18) (num 16 w 14) (num 16 w 10) (reg5 w 5) (num 16 w 0))
  else if fld w 22 3 = 4 ∧ fld w 4 1 = 0 then some (.aminG (num 16 w 18) (num 16 w 14) (num 16 w 10) (reg5 w 5) (num 16 w 0))
  else if fld w 22 3 = 5 ∧ fld w 4 1 = 0 then some (.amaxG (num 16 w 18) (num 16 w 14) (num 16 w 10) (reg5 w 5) (num 16 w 0))
  else if fld w 22 3 = 6 ∧ fld w 4 1 = 0 then some (.aswapG (num 16 w 18) (num 16 w 14) (num 16 w 10) (reg5 w 5) (num 16 w 0))
  else if fld w 22 3 = 7 ∧ fld w 4 1 = 0 then some (.acasG (num 16 w 18) (num 16 w 14) (num 16 w 10) (reg5 w 5) (num 16 w 0))
  else none

/-- The slots of major 0x1E (04 Tables 4.4 to 4.7). -/
def decodeMajor1E (w : Nat) : Option Instr :=
  if fld w 0 25 = 0 then some .mark
  else if fld w 4 21 = 16384 then some (.fence (num 16 w 0))
  else if fld w 0 25 = 524288 then some .fenceSc
  else if fld w 16 9 = 12 ∧ fld w 0 6 = 0 then some (.fmt (num 16 w 12) (src w 6))
  else if fld w 16 9 = 16 then some (.clean (num 16 w 12) (src w 6) (src w 0))
  else if fld w 16 9 = 20 then some (.inv (num 16 w 12) (src w 6) (src w 0))
  else if fld w 16 9 = 24 ∧ fld w 3 3 = 0 then some (.trans (num 16 w 12) (src w 6) (num 8 w 0))
  else if fld w 12 13 = 448 then some (.probe (src w 6) (src w 0))
  else if fld w 16 9 = 32 ∧ fld w 0 12 = 0 then some (.hrev (num 16 w 12))
  else if fld w 18 7 = 9 ∧ fld w 10 2 = 0 ∧ fld w 0 6 = 0 then (dst? w 12).bind fun d => some (.hinfo d (num 16 w 6))
  else if fld w 16 9 = 40 ∧ fld w 10 2 = 0 ∧ fld w 0 6 = 0 then some (.hmov (num 16 w 12) (num 16 w 6))
  else none

/-- The slots of major 0x1F (04 Tables 4.4 to 4.7). -/
def decodeMajor1F (w : Nat) : Option Instr :=
  if fld w 12 13 = 0 then some (.binit (src w 6) (src w 0))
  else if fld w 18 7 = 1 then some (.barv (num 64 w 12) (src w 6) (src w 0))
  else if fld w 18 7 = 2 ∧ fld w 0 6 = 0 then some (.bwait (num 64 w 12) (src w 6))
  else if fld w 15 10 = 24 then some (.btest (num 8 w 12) (src w 6) (num 64 w 0))
  else if fld w 12 13 = 256 ∧ fld w 0 6 = 0 then some (.hbwait (src w 6))
  else if fld w 12 13 = 320 ∧ fld w 0 6 = 0 then some (.waitt (src w 6))
  else none

/-- The slots of major 0x20 to 0x24 (04 Tables 4.4 to 4.7). -/
def decodeMajor20 (w : Nat) : Option Instr :=
  if fld w 21 4 = 0 then (majorFmt? w 25).bind fun f => (rnd? w 18).bind fun rm => (dst? w 12).bind fun d => some (.fadd f rm d (src w 6) (src w 0))
  else if fld w 21 4 = 1 then (majorFmt? w 25).bind fun f => (rnd? w 18).bind fun rm => (dst? w 12).bind fun d => some (.fsub f rm d (src w 6) (src w 0))
  else if fld w 21 4 = 2 then (majorFmt? w 25).bind fun f => (rnd? w 18).bind fun rm => (dst? w 12).bind fun d => some (.fmul f rm d (src w 6) (src w 0))
  else if fld w 21 4 = 3 ∧ fld w 17 1 = 0 then (majorFmt? w 25).bind fun f => (rnd? w 18).bind fun rm => some (.fma f rm (reg5 w 12) (src w 6) (src w 0))
  else if fld w 21 4 = 4 ∧ fld w 17 1 = 0 then (majorFmt? w 25).bind fun f => (rnd? w 18).bind fun rm => some (.fms f rm (reg5 w 12) (src w 6) (src w 0))
  else if fld w 21 4 = 5 ∧ fld w 17 1 = 0 then (majorFmt? w 25).bind fun f => (rnd? w 18).bind fun rm => some (.fnma f rm (reg5 w 12) (src w 6) (src w 0))
  else if fld w 18 7 = 48 then (majorFmt? w 25).bind fun f => (dst? w 12).bind fun d => some (.fmin f d (src w 6) (src w 0))
  else if fld w 18 7 = 56 then (majorFmt? w 25).bind fun f => (dst? w 12).bind fun d => some (.fmax f d (src w 6) (src w 0))
  else if fld w 18 7 = 64 ∧ fld w 0 6 = 0 then (majorFmt? w 25).bind fun f => (dst? w 12).bind fun d => some (.fabs f d (src w 6))
  else if fld w 18 7 = 72 ∧ fld w 0 6 = 0 then (majorFmt? w 25).bind fun f => (dst? w 12).bind fun d => some (.fneg f d (src w 6))
  else if fld w 15 10 = 640 then (majorFmt? w 25).bind fun f => some (.fcmpEq f (num 8 w 12) (src w 6) (src w 0))
  else if fld w 15 10 = 704 then (majorFmt? w 25).bind fun f => some (.fcmpLt f (num 8 w 12) (src w 6) (src w 0))
  else if fld w 15 10 = 768 then (majorFmt? w 25).bind fun f => some (.fcmpLe f (num 8 w 12) (src w 6) (src w 0))
  else if fld w 15 10 = 832 then (majorFmt? w 25).bind fun f => some (.fcmpUn f (num 8 w 12) (src w 6) (src w 0))
  else none

/-- The slots of major 0x25 (04 Tables 4.4 to 4.7). -/
def decodeMajor25 (w : Nat) : Option Instr :=
  if fld w 18 6 = 0 then (dst? w 12).bind fun d => some (.vadd (bit w 24) d (src w 6) (src w 0))
  else if fld w 18 6 = 1 then (dst? w 12).bind fun d => some (.vsub (bit w 24) d (src w 6) (src w 0))
  else if fld w 18 6 = 2 then (dst? w 12).bind fun d => some (.vmul (bit w 24) d (src w 6) (src w 0))
  else if fld w 18 6 = 3 then (dst? w 12).bind fun d => some (.vadds (bit w 24) d (src w 6) (src w 0))
  else if fld w 18 6 = 4 then (dst? w 12).bind fun d => some (.vaddus (bit w 24) d (src w 6) (src w 0))
  else if fld w 18 6 = 5 then (dst? w 12).bind fun d => some (.vsubs (bit w 24) d (src w 6) (src w 0))
  else if fld w 18 6 = 6 then (dst? w 12).bind fun d => some (.vsubus (bit w 24) d (src w 6) (src w 0))
  else if fld w 18 6 = 7 then (dst? w 12).bind fun d => some (.vmin (bit w 24) d (src w 6) (src w 0))
  else if fld w 18 6 = 8 then (dst? w 12).bind fun d => some (.vmax (bit w 24) d (src w 6) (src w 0))
  else if fld w 18 6 = 9 then (dst? w 12).bind fun d => some (.vminu (bit w 24) d (src w 6) (src w 0))
  else if fld w 18 6 = 10 then (dst? w 12).bind fun d => some (.vmaxu (bit w 24) d (src w 6) (src w 0))
  else if fld w 18 6 = 11 then (dst? w 12).bind fun d => some (.vand (bit w 24) d (src w 6) (src w 0))
  else if fld w 18 6 = 12 then (dst? w 12).bind fun d => some (.vor (bit w 24) d (src w 6) (src w 0))
  else if fld w 18 6 = 13 then (dst? w 12).bind fun d => some (.vxor (bit w 24) d (src w 6) (src w 0))
  else if fld w 18 6 = 14 then (dst? w 12).bind fun d => some (.vshl (bit w 24) d (src w 6) (src w 0))
  else if fld w 18 6 = 15 then (dst? w 12).bind fun d => some (.vshr (bit w 24) d (src w 6) (src w 0))
  else if fld w 18 6 = 16 then (dst? w 12).bind fun d => some (.vsra (bit w 24) d (src w 6) (src w 0))
  else if fld w 18 6 = 17 ∧ fld w 0 6 = 0 then (dst? w 12).bind fun d => some (.vabs (bit w 24) d (src w 6))
  else if fld w 15 9 = 144 then some (.vcmpEq (bit w 24) (num 8 w 12) (src w 6) (src w 0))
  else if fld w 15 9 = 152 then some (.vcmpLt (bit w 24) (num 8 w 12) (src w 6) (src w 0))
  else if fld w 15 9 = 160 then some (.vcmpLtu (bit w 24) (num 8 w 12) (src w 6) (src w 0))
  else none

/-- The slots of major 0x26 (04 Tables 4.4 to 4.7). -/
def decodeMajor26 (w : Nat) : Option Instr :=
  (fmt? w 20).bind fun t => (fmt? w 15).bind fun f => (rnd? w 12).bind fun rm => (dst? w 6).bind fun d => some (.cvt t f rm d (src w 0))

/-- The slots of major 0x27 (04 Tables 4.4 to 4.7). -/
def decodeMajor27 (w : Nat) : Option Instr :=
  if fld w 24 1 = 0 then (fmt? w 19).bind fun f => (rnd? w 14).bind fun rm => (dst? w 6).bind fun d => some (.qnt f (num 4 w 17) rm (num 4 w 12) d (src w 0))
  else if fld w 24 1 = 1 then (fmt? w 19).bind fun f => (rnd? w 14).bind fun rm => (dst? w 6).bind fun d => some (.dqnt f (num 4 w 17) rm (num 4 w 12) d (src w 0))
  else none

/-- The slots of major 0x28 (04 Tables 4.4 to 4.7). -/
def decodeMajor28 (w : Nat) : Option Instr :=
  if fld w 18 3 = 0 then (dst? w 12).bind fun d => some (.vsel (num 8 w 22) (bit w 21) d (src w 6) (src w 0))
  else none

/-- The slots of major 0x29 (04 Tables 4.4 to 4.7). -/
def decodeMajor29 (w : Nat) : Option Instr :=
  if fld w 23 2 = 0 ∧ fld w 18 4 = 0 then (dst? w 12).bind fun d => some (.vperm (bit w 22) d (src w 6) (src w 0))
  else if fld w 23 2 = 1 ∧ fld w 18 4 = 0 ∧ fld w 0 6 = 0 then (dst? w 12).bind fun d => some (.vbcast (bit w 22) d (src w 6))
  else if fld w 23 2 = 2 ∧ fld w 17 5 = 0 then some (.vins (bit w 22) (reg5 w 12) (src w 6) (src w 0))
  else if fld w 23 2 = 3 ∧ fld w 18 4 = 0 then (dst? w 12).bind fun d => some (.vext (bit w 22) d (src w 6) (src w 0))
  else none

/-- The slots of major 0x2A (04 Tables 4.4 to 4.7). -/
def decodeMajor2A (w : Nat) : Option Instr :=
  if fld w 15 10 = 0 ∧ fld w 9 3 = 0 ∧ fld w 3 3 = 0 then some (.mand (num 8 w 12) (num 8 w 6) (num 8 w 0))
  else if fld w 15 10 = 8 ∧ fld w 9 3 = 0 ∧ fld w 3 3 = 0 then some (.mor (num 8 w 12) (num 8 w 6) (num 8 w 0))
  else if fld w 15 10 = 16 ∧ fld w 9 3 = 0 ∧ fld w 3 3 = 0 then some (.mxor (num 8 w 12) (num 8 w 6) (num 8 w 0))
  else if fld w 15 10 = 24 ∧ fld w 9 3 = 0 ∧ fld w 3 3 = 0 then some (.mandn (num 8 w 12) (num 8 w 6) (num 8 w 0))
  else if fld w 15 10 = 32 ∧ fld w 9 3 = 0 ∧ fld w 0 6 = 0 then some (.mnot (num 8 w 12) (num 8 w 6))
  else if fld w 18 7 = 5 ∧ fld w 9 3 = 0 ∧ fld w 0 6 = 0 then (dst? w 12).bind fun d => some (.mpopc d (num 8 w 6))
  else none

/-- The slots of major 0x2B (04 Tables 4.4 to 4.7). -/
def decodeMajor2B (w : Nat) : Option Instr :=
  if fld w 22 3 = 0 ∧ fld w 9 8 = 0 then (fmt? w 17).bind fun t => some (.eacc t (num 8 w 6) (src w 0))
  else if fld w 22 3 = 1 ∧ fld w 11 6 = 0 then (fmt? w 17).bind fun t => some (.evred t (reg5 w 6) (src w 0))
  else if fld w 22 3 = 2 ∧ fld w 12 2 = 0 ∧ fld w 3 3 = 0 then (fmt? w 17).bind fun t => (rnd? w 14).bind fun rm => (dst? w 6).bind fun d => some (.eread t rm d (num 8 w 0))
  else if fld w 9 16 = 24576 ∧ fld w 3 3 = 0 then some (.eclr (num 8 w 6) (num 8 w 0))
  else if fld w 9 16 = 32768 ∧ fld w 5 1 = 0 then some (.eanc (num 8 w 6) (reg5 w 0))
  else if fld w 12 13 = 5120 ∧ fld w 3 3 = 0 then (dst? w 6).bind fun d => some (.eflg d (num 8 w 0))
  else none

/-- The slots of major 0x30 (04 Tables 4.4 to 4.7). -/
def decodeMajor30 (w : Nat) : Option Instr :=
  if fld w 20 5 = 0 ∧ fld w 12 2 = 0 then (floatFmt? w 17).bind fun t => (rnd? w 14).bind fun rm => (dst? w 6).bind fun d => some (.fexp t rm d (src w 0))
  else if fld w 20 5 = 1 ∧ fld w 12 2 = 0 then (floatFmt? w 17).bind fun t => (rnd? w 14).bind fun rm => (dst? w 6).bind fun d => some (.fexp2 t rm d (src w 0))
  else if fld w 20 5 = 2 ∧ fld w 12 2 = 0 then (floatFmt? w 17).bind fun t => (rnd? w 14).bind fun rm => (dst? w 6).bind fun d => some (.fexpm1 t rm d (src w 0))
  else if fld w 20 5 = 3 ∧ fld w 12 2 = 0 then (floatFmt? w 17).bind fun t => (rnd? w 14).bind fun rm => (dst? w 6).bind fun d => some (.flog t rm d (src w 0))
  else if fld w 20 5 = 4 ∧ fld w 12 2 = 0 then (floatFmt? w 17).bind fun t => (rnd? w 14).bind fun rm => (dst? w 6).bind fun d => some (.flog2 t rm d (src w 0))
  else if fld w 20 5 = 5 ∧ fld w 12 2 = 0 then (floatFmt? w 17).bind fun t => (rnd? w 14).bind fun rm => (dst? w 6).bind fun d => some (.flog1p t rm d (src w 0))
  else if fld w 20 5 = 6 ∧ fld w 12 2 = 0 then (floatFmt? w 17).bind fun t => (rnd? w 14).bind fun rm => (dst? w 6).bind fun d => some (.fsin t rm d (src w 0))
  else if fld w 20 5 = 7 ∧ fld w 12 2 = 0 then (floatFmt? w 17).bind fun t => (rnd? w 14).bind fun rm => (dst? w 6).bind fun d => some (.fcos t rm d (src w 0))
  else if fld w 20 5 = 8 ∧ fld w 12 2 = 0 then (floatFmt? w 17).bind fun t => (rnd? w 14).bind fun rm => (dst? w 6).bind fun d => some (.fsinpi t rm d (src w 0))
  else if fld w 20 5 = 9 ∧ fld w 12 2 = 0 then (floatFmt? w 17).bind fun t => (rnd? w 14).bind fun rm => (dst? w 6).bind fun d => some (.fcospi t rm d (src w 0))
  else if fld w 20 5 = 10 ∧ fld w 12 2 = 0 then (floatFmt? w 17).bind fun t => (rnd? w 14).bind fun rm => (dst? w 6).bind fun d => some (.ftanh t rm d (src w 0))
  else if fld w 20 5 = 11 ∧ fld w 12 2 = 0 then (floatFmt? w 17).bind fun t => (rnd? w 14).bind fun rm => (dst? w 6).bind fun d => some (.flogi t rm d (src w 0))
  else if fld w 20 5 = 12 ∧ fld w 12 2 = 0 then (floatFmt? w 17).bind fun t => (rnd? w 14).bind fun rm => (dst? w 6).bind fun d => some (.ferf t rm d (src w 0))
  else if fld w 20 5 = 13 ∧ fld w 12 2 = 0 then (floatFmt? w 17).bind fun t => (rnd? w 14).bind fun rm => (dst? w 6).bind fun d => some (.frsq t rm d (src w 0))
  else if fld w 20 5 = 14 ∧ fld w 12 2 = 0 then (floatFmt? w 17).bind fun t => (rnd? w 14).bind fun rm => (dst? w 6).bind fun d => some (.fsqrt t rm d (src w 0))
  else if fld w 20 5 = 15 ∧ fld w 12 2 = 0 then (floatFmt? w 17).bind fun t => (rnd? w 14).bind fun rm => (dst? w 6).bind fun d => some (.frcp t rm d (src w 0))
  else none

/-- The slots of major 0x31 (04 Tables 4.4 to 4.7). -/
def decodeMajor31 (w : Nat) : Option Instr :=
  if fld w 24 1 = 0 then (floatFmt? w 21).bind fun t => (rnd? w 18).bind fun rm => (dst? w 12).bind fun d => some (.fdiv t rm d (src w 6) (src w 0))
  else none

/-- The slots of major 0x32 (04 Tables 4.4 to 4.7). -/
def decodeMajor32 (w : Nat) : Option Instr :=
  if fld w 21 4 = 0 ∧ fld w 12 6 = 0 then (floatFmt? w 18).bind fun t => (dst? w 6).bind fun d => some (.xexp2 t d (src w 0))
  else if fld w 21 4 = 1 ∧ fld w 12 6 = 0 then (floatFmt? w 18).bind fun t => (dst? w 6).bind fun d => some (.xlog2 t d (src w 0))
  else if fld w 21 4 = 2 ∧ fld w 12 6 = 0 then (floatFmt? w 18).bind fun t => (dst? w 6).bind fun d => some (.xrsq t d (src w 0))
  else if fld w 21 4 = 3 ∧ fld w 12 6 = 0 then (floatFmt? w 18).bind fun t => (dst? w 6).bind fun d => some (.xrcp t d (src w 0))
  else if fld w 21 4 = 4 ∧ fld w 12 6 = 0 then (floatFmt? w 18).bind fun t => (dst? w 6).bind fun d => some (.xtanh t d (src w 0))
  else if fld w 21 4 = 5 ∧ fld w 12 6 = 0 then (floatFmt? w 18).bind fun t => (dst? w 6).bind fun d => some (.xlogi t d (src w 0))
  else if fld w 21 4 = 6 ∧ fld w 12 6 = 0 then (floatFmt? w 18).bind fun t => (dst? w 6).bind fun d => some (.xsin t d (src w 0))
  else if fld w 21 4 = 7 ∧ fld w 12 6 = 0 then (floatFmt? w 18).bind fun t => (dst? w 6).bind fun d => some (.xerf t d (src w 0))
  else none

/-- The slots of major 0x34 (04 Tables 4.4 to 4.7). -/
def decodeMajor34 (w : Nat) : Option Instr :=
  if fld w 22 3 = 0 ∧ fld w 12 2 = 0 then some (.mpush (num 256 w 14) (src w 6) (src w 0))
  else if fld w 22 3 = 1 ∧ fld w 0 13 = 0 then some (.mshift (num 256 w 14) (bit w 13))
  else if fld w 22 3 = 2 ∧ fld w 0 14 = 0 then some (.macc (num 256 w 14))
  else if fld w 22 3 = 3 ∧ fld w 0 14 = 0 then some (.mdrain (num 256 w 14))
  else if fld w 22 3 = 4 ∧ fld w 0 14 = 0 then some (.maccD (num 256 w 14))
  else none

/-- The slots of major 0x35 (04 Tables 4.4 to 4.7). -/
def decodeMajor35 (w : Nat) : Option Instr :=
  if fld w 11 14 = 0 ∧ fld w 5 1 = 0 then some (.mset (reg5 w 6) (reg5 w 0))
  else if fld w 11 14 = 128 ∧ fld w 5 1 = 0 then some (.mmode (reg5 w 6) (reg5 w 0))
  else if fld w 11 14 = 256 ∧ fld w 0 6 = 0 then some (.mglaze (reg5 w 6))
  else if fld w 11 14 = 384 ∧ fld w 0 6 = 0 then some (.mchk (reg5 w 6))
  else if fld w 17 8 = 8 ∧ fld w 11 1 = 0 ∧ fld w 0 6 = 0 then some (.mstat (reg5 w 12) (reg5 w 6))
  else none

/-- The slots of major 0x36 (04 Tables 4.4 to 4.7). -/
def decodeMajor36 (w : Nat) : Option Instr :=
  if fld w 11 14 = 0 ∧ fld w 5 1 = 0 then some (.rld (reg5 w 6) (reg5 w 0))
  else if fld w 11 14 = 128 ∧ fld w 5 1 = 0 then some (.xpcfg (reg5 w 6) (reg5 w 0))
  else none

/-- The slots of major 0x38 (04 Tables 4.4 to 4.7). -/
def decodeMajor38 (w : Nat) : Option Instr :=
  if fld w 16 9 = 0 ∧ fld w 11 1 = 0 ∧ fld w 5 1 = 0 then some (.qbind (num 16 w 12) (reg5 w 6) (reg5 w 0))
  else if fld w 16 9 = 4 ∧ fld w 0 12 = 0 then some (.qunb (num 16 w 12))
  else if fld w 16 9 = 8 ∧ fld w 11 1 = 0 ∧ fld w 0 6 = 0 then some (.qadv (num 16 w 12) (reg5 w 6))
  else if fld w 16 9 = 12 ∧ fld w 11 1 = 0 ∧ fld w 0 6 = 0 then some (.qwait (num 16 w 12) (reg5 w 6))
  else if fld w 16 9 = 16 ∧ fld w 11 1 = 0 ∧ fld w 3 3 = 0 then some (.qstr (num 16 w 12) (reg5 w 6) (num 8 w 0))
  else if fld w 17 8 = 10 ∧ fld w 10 2 = 0 ∧ fld w 2 4 = 0 then some (.qstat (reg5 w 12) (num 16 w 6) (num 4 w 0))
  else if fld w 17 8 = 12 ∧ fld w 2 10 = 0 then some (.sqrd (reg5 w 12) (num 4 w 0))
  else none

/-- The slots of major 0x39 (04 Tables 4.4 to 4.7). -/
def decodeMajor39 (w : Nat) : Option Instr :=
  if fld w 24 1 = 0 ∧ fld w 17 2 = 0 ∧ fld w 11 1 = 0 ∧ fld w 5 1 = 0 then some (.cpy (bit w 23) (num 16 w 19) (reg5 w 12) (reg5 w 6) (reg5 w 0))
  else if fld w 24 1 = 1 ∧ fld w 17 2 = 0 ∧ fld w 11 1 = 0 ∧ fld w 5 1 = 0 then some (.xfer (bit w 23) (num 16 w 19) (reg5 w 12) (reg5 w 6) (reg5 w 0))
  else none

/-- The slots of major 0x3A (04 Tables 4.4 to 4.7). -/
def decodeMajor3A (w : Nat) : Option Instr :=
  if fld w 23 2 = 0 ∧ fld w 17 1 = 0 ∧ fld w 11 1 = 0 ∧ fld w 5 1 = 0 then some (.collAllr (bit w 22) (num 16 w 18) (reg5 w 12) (reg5 w 6) (reg5 w 0))
  else if fld w 23 2 = 1 ∧ fld w 17 1 = 0 ∧ fld w 11 1 = 0 ∧ fld w 5 1 = 0 then some (.collBcast (bit w 22) (num 16 w 18) (reg5 w 12) (reg5 w 6) (reg5 w 0))
  else if fld w 23 2 = 2 ∧ fld w 17 1 = 0 ∧ fld w 11 1 = 0 ∧ fld w 5 1 = 0 then some (.collAllg (bit w 22) (num 16 w 18) (reg5 w 12) (reg5 w 6) (reg5 w 0))
  else if fld w 23 2 = 3 ∧ fld w 17 1 = 0 ∧ fld w 11 1 = 0 ∧ fld w 5 1 = 0 then some (.collRsc (bit w 22) (num 16 w 18) (reg5 w 12) (reg5 w 6) (reg5 w 0))
  else none

/-- One slot of 31 bits, read by its major opcode (R71, R81); the stop bit is no part of it. -/
def decodeRaw (w : Nat) : Option Instr :=
  match fld w 25 6 with
  | 0x00 => decodeMajor00 w
  | 0x01 => decodeMajor01 w
  | 0x02 => decodeMajor02 w
  | 0x03 => decodeMajor03 w
  | 0x04 => decodeMajor04 w
  | 0x05 => decodeMajor05 w
  | 0x06 => decodeMajor06 w
  | 0x08 => decodeMajor08 w
  | 0x09 => decodeMajor09 w
  | 0x0A => decodeMajor0A w
  | 0x0B => decodeMajor0B w
  | 0x0C => decodeMajor0C w
  | 0x0D => decodeMajor0D w
  | 0x0E => decodeMajor0E w
  | 0x0F => decodeMajor0F w
  | 0x10 => decodeMajor10 w
  | 0x11 => decodeMajor11 w
  | 0x12 => decodeMajor12 w
  | 0x13 => decodeMajor13 w
  | 0x14 => decodeMajor14 w
  | 0x15 => decodeMajor15 w
  | 0x18 => decodeMajor18 w
  | 0x19 => decodeMajor19 w
  | 0x1A => decodeMajor1A w
  | 0x1B => decodeMajor1B w
  | 0x1C => decodeMajor1C w
  | 0x1D => decodeMajor1D w
  | 0x1E => decodeMajor1E w
  | 0x1F => decodeMajor1F w
  | 0x20 => decodeMajor20 w
  | 0x21 => decodeMajor20 w
  | 0x22 => decodeMajor20 w
  | 0x23 => decodeMajor20 w
  | 0x24 => decodeMajor20 w
  | 0x25 => decodeMajor25 w
  | 0x26 => decodeMajor26 w
  | 0x27 => decodeMajor27 w
  | 0x28 => decodeMajor28 w
  | 0x29 => decodeMajor29 w
  | 0x2A => decodeMajor2A w
  | 0x2B => decodeMajor2B w
  | 0x30 => decodeMajor30 w
  | 0x31 => decodeMajor31 w
  | 0x32 => decodeMajor32 w
  | 0x34 => decodeMajor34 w
  | 0x35 => decodeMajor35 w
  | 0x36 => decodeMajor36 w
  | 0x38 => decodeMajor38 w
  | 0x39 => decodeMajor39 w
  | 0x3A => decodeMajor3A w
  | _ => none

/-- One slot of 32 bits (R71): its instruction, none where the encoding is not assigned or is refused by a rule of its form (R81, R82, R83). -/
def decodeSlot (w : Nat) : Option Instr :=
  match decodeRaw (w % 2 ^ 31) with
  | some i => if i.wf then some i else none
  | none => none

/-- One instruction of 32 bits of a firmware core (R405): the custom-0 opcode with funct3 0 to 3 and funct7 0. -/
def decodeFirmware (w : Nat) : Option Instr :=
  if fld w 0 7 = 0x0B ∧ fld w 25 7 = 0 then
    match fld w 12 3 with
    | 0 => some (.rfetch (reg5 w 7) (reg5 w 15) (reg5 w 20))
    | 1 => some (.bfext (reg5 w 7) (reg5 w 15) (reg5 w 20))
    | 2 => some (.swait (reg5 w 7) (reg5 w 15) (reg5 w 20))
    | 3 => some (.disp (reg5 w 7) (reg5 w 15) (reg5 w 20))
    | _ => none
  else none

/-- A word from its fixed bits and its operand fields, each a value and the place of its lowest bit. -/
def pack (base : Nat) : List (Nat × Nat) → Nat
  | [] => base
  | (v, lo) :: fs => v * 2 ^ lo + pack base fs

/-- The 31 low bits of a slot, written from the encoding tables (04 Tables 4.3 to 4.7); none for a step that has no encoding and for the firmware cores' instructions. -/
def encodeSlot : Instr → Option Nat
  | .nop => some (pack 0x00000000 [])
  | .trap code => some (pack 0x00040000 [(code.val, 0)])
  | .tret => some (pack 0x00080000 [])
  | .safe => some (pack 0x000C0000 [])
  | .crd d creg => some (pack 0x00100000 [(d.val, 12), (creg.val, 0)])
  | .cwr creg a => some (pack 0x00140000 [(creg.val, 0), (a.val, 12)])
  | .gfence => some (pack 0x00180000 [])
  | .exit => some (pack 0x001C0000 [])
  | .gidx d dim => some (pack 0x00200000 [(d.code, 12), (dim.val, 0)])
  | .lbrk level => some (pack 0x00240000 [(level.val, 0)])
  | .gspawn a => some (pack 0x00280000 [(a.val, 6)])
  | .pwracq level => some (pack 0x002C0000 [(level.val, 0)])
  | .pwrrel => some (pack 0x00300000 [])
  | .br disp g => some (pack 0x02000000 [(disp.toNat, 4), (g.val, 0)])
  | .call disp g => some (pack 0x04000000 [(disp.toNat, 4), (g.val, 0)])
  | .bri b g => some (pack 0x06000000 [(b.val, 10), (g.val, 0)])
  | .ret g => some (pack 0x06400000 [(g.val, 0)])
  | .pbr b disp => some (pack 0x08000000 [(b.val, 20), (disp.toNat, 0)])
  | .loop len count => some (pack 0x0A800000 [(len.val, 17), (count.val, 0)])
  | .loopReg len a => some (pack 0x0A000000 [(len.val, 17), (a.code, 0)])
  | .loopSafe len count => some (pack 0x0B800000 [(len.val, 17), (count.val, 0)])
  | .loopSafeReg len a => some (pack 0x0B000000 [(len.val, 17), (a.code, 0)])
  | .ltag level first last => some (pack 0x0C000000 [(level.val, 22), (first.val, 8), (last.val, 0)])
  | .add d a b => some (pack 0x10000000 [(d.code, 12), (a.code, 6), (b.code, 0)])
  | .sub d a b => some (pack 0x10040000 [(d.code, 12), (a.code, 6), (b.code, 0)])
  | .and d a b => some (pack 0x10080000 [(d.code, 12), (a.code, 6), (b.code, 0)])
  | .or d a b => some (pack 0x100C0000 [(d.code, 12), (a.code, 6), (b.code, 0)])
  | .xor d a b => some (pack 0x10100000 [(d.code, 12), (a.code, 6), (b.code, 0)])
  | .andn d a b => some (pack 0x10140000 [(d.code, 12), (a.code, 6), (b.code, 0)])
  | .min d a b => some (pack 0x10180000 [(d.code, 12), (a.code, 6), (b.code, 0)])
  | .max d a b => some (pack 0x101C0000 [(d.code, 12), (a.code, 6), (b.code, 0)])
  | .minu d a b => some (pack 0x10200000 [(d.code, 12), (a.code, 6), (b.code, 0)])
  | .maxu d a b => some (pack 0x10240000 [(d.code, 12), (a.code, 6), (b.code, 0)])
  | .shl d a b => some (pack 0x10280000 [(d.code, 12), (a.code, 6), (b.code, 0)])
  | .shr d a b => some (pack 0x102C0000 [(d.code, 12), (a.code, 6), (b.code, 0)])
  | .sra d a b => some (pack 0x10300000 [(d.code, 12), (a.code, 6), (b.code, 0)])
  | .rol d a b => some (pack 0x10340000 [(d.code, 12), (a.code, 6), (b.code, 0)])
  | .ror d a b => some (pack 0x10380000 [(d.code, 12), (a.code, 6), (b.code, 0)])
  | .clz d a => some (pack 0x10400000 [(d.code, 12), (a.code, 6)])
  | .ctz d a => some (pack 0x10440000 [(d.code, 12), (a.code, 6)])
  | .popc d a => some (pack 0x10480000 [(d.code, 12), (a.code, 6)])
  | .brev d a => some (pack 0x104C0000 [(d.code, 12), (a.code, 6)])
  | .abs d a => some (pack 0x10500000 [(d.code, 12), (a.code, 6)])
  | .rdb d n => some (pack 0x10800000 [(d.code, 12), (n.val, 6)])
  | .wrb n a => some (pack 0x10840000 [(n.val, 12), (a.code, 6)])
  | .rdp d => some (pack 0x10880000 [(d.code, 12)])
  | .wrp a b => some (pack 0x108C0000 [(a.code, 6), (b.code, 0)])
  | .rdm d n => some (pack 0x10900000 [(d.code, 12), (n.val, 6)])
  | .wrm n a => some (pack 0x10940000 [(n.val, 12), (a.code, 6)])
  | .rde d n => some (pack 0x10980000 [(d.code, 12), (n.val, 6)])
  | .wre n a => some (pack 0x109C0000 [(n.val, 12), (a.code, 6)])
  | .rdi d n => some (pack 0x10A00000 [(d.code, 12), (n.val, 6)])
  | .mul d a b => some (pack 0x12000000 [(d.code, 12), (a.code, 6), (b.code, 0)])
  | .mulh d a b => some (pack 0x12040000 [(d.code, 12), (a.code, 6), (b.code, 0)])
  | .mulhu d a b => some (pack 0x12080000 [(d.code, 12), (a.code, 6), (b.code, 0)])
  | .div d a b => some (pack 0x120C0000 [(d.val, 12), (a.code, 6), (b.code, 0)])
  | .divu d a b => some (pack 0x12100000 [(d.val, 12), (a.code, 6), (b.code, 0)])
  | .rem d a b => some (pack 0x12140000 [(d.val, 12), (a.code, 6), (b.code, 0)])
  | .remu d a b => some (pack 0x12180000 [(d.val, 12), (a.code, 6), (b.code, 0)])
  | .addi d a imm => some (pack 0x14000000 [(d.code, 16), (a.code, 10), (imm.toNat, 0)])
  | .andi d a imm => some (pack 0x14400000 [(d.code, 16), (a.code, 10), (imm.toNat, 0)])
  | .ori d a imm => some (pack 0x14800000 [(d.code, 16), (a.code, 10), (imm.toNat, 0)])
  | .xori d a imm => some (pack 0x14C00000 [(d.code, 16), (a.code, 10), (imm.toNat, 0)])
  | .shli d a n => some (pack 0x15000000 [(d.code, 16), (a.code, 10), (n.val, 0)])
  | .shri d a n => some (pack 0x15400000 [(d.code, 16), (a.code, 10), (n.val, 0)])
  | .srai d a n => some (pack 0x15800000 [(d.code, 16), (a.code, 10), (n.val, 0)])
  | .li d imm => some (pack 0x16000000 [(d.code, 16), (imm.toNat, 0)])
  | .lih1 d imm => some (pack 0x16400000 [(d.val, 16), (imm.toNat, 0)])
  | .lih2 d imm => some (pack 0x16800000 [(d.val, 16), (imm.toNat, 0)])
  | .lih3 d imm => some (pack 0x16C00000 [(d.val, 16), (imm.toNat, 0)])
  | .bfx signed d a pos wid => some (pack 0x18000000 [(signed.toNat, 24), (d.code, 18), (a.code, 12), (pos.val, 6), (wid.val, 0)])
  | .bfi d a pos wid => some (pack 0x1A000000 [(d.val, 18), (a.code, 12), (pos.val, 6), (wid.val, 0)])
  | .bfm d pos wid => some (pack 0x1C000000 [(d.code, 18), (pos.val, 6), (wid.val, 0)])
  | .cmp c k a b => some (pack 0x1E000000 [(c.code, 21), (k.val, 18), (a.code, 12), (b.code, 6)])
  | .cmpi c k a imm => some (pack 0x20000000 [(c.code, 21), (k.val, 18), (a.code, 12), (imm.toNat, 0)])
  | .pand k pa pb => some (pack 0x22000000 [(k.val, 19), (pa.val, 15), (pb.val, 11)])
  | .por k pa pb => some (pack 0x22400000 [(k.val, 19), (pa.val, 15), (pb.val, 11)])
  | .pxor k pa pb => some (pack 0x22800000 [(k.val, 19), (pa.val, 15), (pb.val, 11)])
  | .pandn k pa pb => some (pack 0x22C00000 [(k.val, 19), (pa.val, 15), (pb.val, 11)])
  | .sel d a b g => some (pack 0x24000000 [(d.code, 16), (a.code, 10), (b.code, 4), (g.val, 0)])
  | .padd t d a b => some (pack 0x26000000 [(t.code, 18), (d.code, 12), (a.code, 6), (b.code, 0)])
  | .pdif t d a b => some (pack 0x26800000 [(t.code, 18), (d.code, 12), (a.code, 6), (b.code, 0)])
  | .pidx t d a b => some (pack 0x27000000 [(t.code, 18), (d.code, 12), (a.code, 6), (b.code, 0)])
  | .prec t d a b => some (pack 0x27800000 [(t.code, 18), (d.code, 12), (a.code, 6), (b.code, 0)])
  | .paddB wid d a b => some (pack 0x28000000 [(wid.val, 18), (d.code, 12), (a.code, 6), (b.code, 0)])
  | .pdifB wid d a b => some (pack 0x29000000 [(wid.val, 18), (d.code, 12), (a.code, 6), (b.code, 0)])
  | .pscl t d a => some (pack 0x2A000000 [(t.code, 18), (d.code, 12), (a.code, 6)])
  | .pal t d a b => some (pack 0x2A800000 [(t.code, 18), (d.code, 12), (a.code, 6), (b.code, 0)])
  | .pcls t d a b => some (pack 0x2B000000 [(t.code, 18), (d.code, 12), (a.code, 6), (b.code, 0)])
  | .ldAct signed wid d a fe => some (pack 0x30000000 [(signed.toNat, 23), (wid.val, 16), (d.code, 10), (a.code, 4), (fe.val, 0)])
  | .ldStg signed wid d a => some (pack 0x30400000 [(signed.toNat, 23), (wid.val, 16), (d.code, 10), (a.code, 4)])
  | .stAct setfull wid v a g => some (pack 0x31000000 [(setfull.toNat, 23), (wid.val, 16), (v.code, 10), (a.code, 4), (g.val, 0)])
  | .stStg wid v a g => some (pack 0x31400000 [(wid.val, 16), (v.code, 10), (a.code, 4), (g.val, 0)])
  | .ldG signed wid d h o => some (pack 0x32000000 [(signed.toNat, 23), (wid.val, 17), (d.code, 11), (h.val, 7), (o.val, 2)])
  | .stG wid v h o g => some (pack 0x33000000 [(wid.val, 18), (v.val, 13), (h.val, 9), (o.val, 4), (g.val, 0)])
  | .vldAct fe e32 d a => some (pack 0x34000000 [(fe.val, 20), (e32.toNat, 19), (d.code, 12), (a.code, 6)])
  | .vldActStr e32 d a b => some (pack 0x34400000 [(e32.toNat, 19), (d.code, 12), (a.code, 6), (b.code, 0)])
  | .vldActCol e32 d a => some (pack 0x34800000 [(e32.toNat, 19), (d.code, 12), (a.code, 6)])
  | .vldStg e32 d a => some (pack 0x34C00000 [(e32.toNat, 19), (d.code, 12), (a.code, 6)])
  | .vldG e32 d h o => some (pack 0x35000000 [(e32.toNat, 19), (d.code, 12), (h.val, 6), (o.code, 0)])
  | .vstAct m v a e32 g => some (pack 0x36000000 [(m.val, 22), (v.val, 14), (a.val, 9), (e32.toNat, 4), (g.val, 0)])
  | .vstActStr16 m v a b g => some (pack 0x36080000 [(m.val, 22), (v.val, 14), (a.val, 9), (b.val, 4), (g.val, 0)])
  | .vstActCol m v a e32 g => some (pack 0x36100000 [(m.val, 22), (v.val, 14), (a.val, 9), (e32.toNat, 4), (g.val, 0)])
  | .vstStg m v a e32 g => some (pack 0x36180000 [(m.val, 22), (v.val, 14), (a.val, 9), (e32.toNat, 4), (g.val, 0)])
  | .vstG m v e32 h o g => some (pack 0x36200000 [(m.val, 22), (v.val, 14), (e32.toNat, 13), (h.val, 9), (o.val, 4), (g.val, 0)])
  | .vstActFill m v a e32 g => some (pack 0x36280000 [(m.val, 22), (v.val, 14), (a.val, 9), (e32.toNat, 4), (g.val, 0)])
  | .vstActStr32 m v a b g => some (pack 0x36300000 [(m.val, 22), (v.val, 14), (a.val, 9), (b.val, 4), (g.val, 0)])
  | .aaddAct w ord d a g => some (pack 0x38000000 [(w.val, 18), (ord.val, 14), (d.val, 9), (a.val, 4), (g.val, 0)])
  | .aandAct w ord d a g => some (pack 0x38400000 [(w.val, 18), (ord.val, 14), (d.val, 9), (a.val, 4), (g.val, 0)])
  | .aorAct w ord d a g => some (pack 0x38800000 [(w.val, 18), (ord.val, 14), (d.val, 9), (a.val, 4), (g.val, 0)])
  | .axorAct w ord d a g => some (pack 0x38C00000 [(w.val, 18), (ord.val, 14), (d.val, 9), (a.val, 4), (g.val, 0)])
  | .aminAct w ord d a g => some (pack 0x39000000 [(w.val, 18), (ord.val, 14), (d.val, 9), (a.val, 4), (g.val, 0)])
  | .amaxAct w ord d a g => some (pack 0x39400000 [(w.val, 18), (ord.val, 14), (d.val, 9), (a.val, 4), (g.val, 0)])
  | .aswapAct w ord d a g => some (pack 0x39800000 [(w.val, 18), (ord.val, 14), (d.val, 9), (a.val, 4), (g.val, 0)])
  | .acasAct w ord d a g => some (pack 0x39C00000 [(w.val, 18), (ord.val, 14), (d.val, 9), (a.val, 4), (g.val, 0)])
  | .aaddG w ord h d g => some (pack 0x3A000000 [(w.val, 18), (ord.val, 14), (h.val, 10), (d.val, 5), (g.val, 0)])
  | .aandG w ord h d g => some (pack 0x3A400000 [(w.val, 18), (ord.val, 14), (h.val, 10), (d.val, 5), (g.val, 0)])
  | .aorG w ord h d g => some (pack 0x3A800000 [(w.val, 18), (ord.val, 14), (h.val, 10), (d.val, 5), (g.val, 0)])
  | .axorG w ord h d g => some (pack 0x3AC00000 [(w.val, 18), (ord.val, 14), (h.val, 10), (d.val, 5), (g.val, 0)])
  | .aminG w ord h d g => some (pack 0x3B000000 [(w.val, 18), (ord.val, 14), (h.val, 10), (d.val, 5), (g.val, 0)])
  | .amaxG w ord h d g => some (pack 0x3B400000 [(w.val, 18), (ord.val, 14), (h.val, 10), (d.val, 5), (g.val, 0)])
  | .aswapG w ord h d g => some (pack 0x3B800000 [(w.val, 18), (ord.val, 14), (h.val, 10), (d.val, 5), (g.val, 0)])
  | .acasG w ord h d g => some (pack 0x3BC00000 [(w.val, 18), (ord.val, 14), (h.val, 10), (d.val, 5), (g.val, 0)])
  | .mark => some (pack 0x3C000000 [])
  | .fence ord => some (pack 0x3C040000 [(ord.val, 0)])
  | .fenceSc => some (pack 0x3C080000 [])
  | .fmt bank a => some (pack 0x3C0C0000 [(bank.val, 12), (a.code, 6)])
  | .clean h a b => some (pack 0x3C100000 [(h.val, 12), (a.code, 6), (b.code, 0)])
  | .inv h a b => some (pack 0x3C140000 [(h.val, 12), (a.code, 6), (b.code, 0)])
  | .trans h a k => some (pack 0x3C180000 [(h.val, 12), (a.code, 6), (k.val, 0)])
  | .probe a b => some (pack 0x3C1C0000 [(a.code, 6), (b.code, 0)])
  | .hrev h => some (pack 0x3C200000 [(h.val, 12)])
  | .hinfo d h => some (pack 0x3C240000 [(d.code, 12), (h.val, 6)])
  | .hmov d h => some (pack 0x3C280000 [(d.val, 12), (h.val, 6)])
  | .binit a b => some (pack 0x3E000000 [(a.code, 6), (b.code, 0)])
  | .barv ord a b => some (pack 0x3E040000 [(ord.val, 12), (a.code, 6), (b.code, 0)])
  | .bwait ord a => some (pack 0x3E080000 [(ord.val, 12), (a.code, 6)])
  | .btest k a ord => some (pack 0x3E0C0000 [(k.val, 12), (a.code, 6), (ord.val, 0)])
  | .hbwait a => some (pack 0x3E100000 [(a.code, 6)])
  | .waitt a => some (pack 0x3E140000 [(a.code, 6)])
  | .fadd f rm d a b => some (pack 0x40000000 [(f.major, 25), (rm.code, 18), (d.code, 12), (a.code, 6), (b.code, 0)])
  | .fsub f rm d a b => some (pack 0x40200000 [(f.major, 25), (rm.code, 18), (d.code, 12), (a.code, 6), (b.code, 0)])
  | .fmul f rm d a b => some (pack 0x40400000 [(f.major, 25), (rm.code, 18), (d.code, 12), (a.code, 6), (b.code, 0)])
  | .fma f rm d a b => some (pack 0x40600000 [(f.major, 25), (rm.code, 18), (d.val, 12), (a.code, 6), (b.code, 0)])
  | .fms f rm d a b => some (pack 0x40800000 [(f.major, 25), (rm.code, 18), (d.val, 12), (a.code, 6), (b.code, 0)])
  | .fnma f rm d a b => some (pack 0x40A00000 [(f.major, 25), (rm.code, 18), (d.val, 12), (a.code, 6), (b.code, 0)])
  | .fmin f d a b => some (pack 0x40C00000 [(f.major, 25), (d.code, 12), (a.code, 6), (b.code, 0)])
  | .fmax f d a b => some (pack 0x40E00000 [(f.major, 25), (d.code, 12), (a.code, 6), (b.code, 0)])
  | .fabs f d a => some (pack 0x41000000 [(f.major, 25), (d.code, 12), (a.code, 6)])
  | .fneg f d a => some (pack 0x41200000 [(f.major, 25), (d.code, 12), (a.code, 6)])
  | .fcmpEq f md a b => some (pack 0x41400000 [(f.major, 25), (md.val, 12), (a.code, 6), (b.code, 0)])
  | .fcmpLt f md a b => some (pack 0x41600000 [(f.major, 25), (md.val, 12), (a.code, 6), (b.code, 0)])
  | .fcmpLe f md a b => some (pack 0x41800000 [(f.major, 25), (md.val, 12), (a.code, 6), (b.code, 0)])
  | .fcmpUn f md a b => some (pack 0x41A00000 [(f.major, 25), (md.val, 12), (a.code, 6), (b.code, 0)])
  | .vadd w32 d a b => some (pack 0x4A000000 [(w32.toNat, 24), (d.code, 12), (a.code, 6), (b.code, 0)])
  | .vsub w32 d a b => some (pack 0x4A040000 [(w32.toNat, 24), (d.code, 12), (a.code, 6), (b.code, 0)])
  | .vmul w32 d a b => some (pack 0x4A080000 [(w32.toNat, 24), (d.code, 12), (a.code, 6), (b.code, 0)])
  | .vadds w32 d a b => some (pack 0x4A0C0000 [(w32.toNat, 24), (d.code, 12), (a.code, 6), (b.code, 0)])
  | .vaddus w32 d a b => some (pack 0x4A100000 [(w32.toNat, 24), (d.code, 12), (a.code, 6), (b.code, 0)])
  | .vsubs w32 d a b => some (pack 0x4A140000 [(w32.toNat, 24), (d.code, 12), (a.code, 6), (b.code, 0)])
  | .vsubus w32 d a b => some (pack 0x4A180000 [(w32.toNat, 24), (d.code, 12), (a.code, 6), (b.code, 0)])
  | .vmin w32 d a b => some (pack 0x4A1C0000 [(w32.toNat, 24), (d.code, 12), (a.code, 6), (b.code, 0)])
  | .vmax w32 d a b => some (pack 0x4A200000 [(w32.toNat, 24), (d.code, 12), (a.code, 6), (b.code, 0)])
  | .vminu w32 d a b => some (pack 0x4A240000 [(w32.toNat, 24), (d.code, 12), (a.code, 6), (b.code, 0)])
  | .vmaxu w32 d a b => some (pack 0x4A280000 [(w32.toNat, 24), (d.code, 12), (a.code, 6), (b.code, 0)])
  | .vand w32 d a b => some (pack 0x4A2C0000 [(w32.toNat, 24), (d.code, 12), (a.code, 6), (b.code, 0)])
  | .vor w32 d a b => some (pack 0x4A300000 [(w32.toNat, 24), (d.code, 12), (a.code, 6), (b.code, 0)])
  | .vxor w32 d a b => some (pack 0x4A340000 [(w32.toNat, 24), (d.code, 12), (a.code, 6), (b.code, 0)])
  | .vshl w32 d a b => some (pack 0x4A380000 [(w32.toNat, 24), (d.code, 12), (a.code, 6), (b.code, 0)])
  | .vshr w32 d a b => some (pack 0x4A3C0000 [(w32.toNat, 24), (d.code, 12), (a.code, 6), (b.code, 0)])
  | .vsra w32 d a b => some (pack 0x4A400000 [(w32.toNat, 24), (d.code, 12), (a.code, 6), (b.code, 0)])
  | .vabs w32 d a => some (pack 0x4A440000 [(w32.toNat, 24), (d.code, 12), (a.code, 6)])
  | .vcmpEq w32 md a b => some (pack 0x4A480000 [(w32.toNat, 24), (md.val, 12), (a.code, 6), (b.code, 0)])
  | .vcmpLt w32 md a b => some (pack 0x4A4C0000 [(w32.toNat, 24), (md.val, 12), (a.code, 6), (b.code, 0)])
  | .vcmpLtu w32 md a b => some (pack 0x4A500000 [(w32.toNat, 24), (md.val, 12), (a.code, 6), (b.code, 0)])
  | .cvt t f rm d a => some (pack 0x4C000000 [(t.code, 20), (f.code, 15), (rm.code, 12), (d.code, 6), (a.code, 0)])
  | .qnt f pol rm elt d a => some (pack 0x4E000000 [(f.code, 19), (pol.val, 17), (rm.code, 14), (elt.val, 12), (d.code, 6), (a.code, 0)])
  | .dqnt f pol rm elt d a => some (pack 0x4F000000 [(f.code, 19), (pol.val, 17), (rm.code, 14), (elt.val, 12), (d.code, 6), (a.code, 0)])
  | .vsel m w32 d a b => some (pack 0x50000000 [(m.val, 22), (w32.toNat, 21), (d.code, 12), (a.code, 6), (b.code, 0)])
  | .vperm w32 d a b => some (pack 0x52000000 [(w32.toNat, 22), (d.code, 12), (a.code, 6), (b.code, 0)])
  | .vbcast w32 d a => some (pack 0x52800000 [(w32.toNat, 22), (d.code, 12), (a.code, 6)])
  | .vins w32 d a b => some (pack 0x53000000 [(w32.toNat, 22), (d.val, 12), (a.code, 6), (b.code, 0)])
  | .vext w32 d a b => some (pack 0x53800000 [(w32.toNat, 22), (d.code, 12), (a.code, 6), (b.code, 0)])
  | .mand d a b => some (pack 0x54000000 [(d.val, 12), (a.val, 6), (b.val, 0)])
  | .mor d a b => some (pack 0x54040000 [(d.val, 12), (a.val, 6), (b.val, 0)])
  | .mxor d a b => some (pack 0x54080000 [(d.val, 12), (a.val, 6), (b.val, 0)])
  | .mandn d a b => some (pack 0x540C0000 [(d.val, 12), (a.val, 6), (b.val, 0)])
  | .mnot d a => some (pack 0x54100000 [(d.val, 12), (a.val, 6)])
  | .mpopc d a => some (pack 0x54140000 [(d.code, 12), (a.val, 6)])
  | .eacc t e a => some (pack 0x56000000 [(t.code, 17), (e.val, 6), (a.code, 0)])
  | .evred t l a => some (pack 0x56400000 [(t.code, 17), (l.val, 6), (a.code, 0)])
  | .eread t rm d e => some (pack 0x56800000 [(t.code, 17), (rm.code, 14), (d.code, 6), (e.val, 0)])
  | .eclr e m => some (pack 0x56C00000 [(e.val, 6), (m.val, 0)])
  | .eanc e a => some (pack 0x57000000 [(e.val, 6), (a.val, 0)])
  | .eflg d e => some (pack 0x57400000 [(d.code, 6), (e.val, 0)])
  | .laneAct => none
  | .fexp t rm d a => some (pack 0x60000000 [(t.code, 17), (rm.code, 14), (d.code, 6), (a.code, 0)])
  | .fexp2 t rm d a => some (pack 0x60100000 [(t.code, 17), (rm.code, 14), (d.code, 6), (a.code, 0)])
  | .fexpm1 t rm d a => some (pack 0x60200000 [(t.code, 17), (rm.code, 14), (d.code, 6), (a.code, 0)])
  | .flog t rm d a => some (pack 0x60300000 [(t.code, 17), (rm.code, 14), (d.code, 6), (a.code, 0)])
  | .flog2 t rm d a => some (pack 0x60400000 [(t.code, 17), (rm.code, 14), (d.code, 6), (a.code, 0)])
  | .flog1p t rm d a => some (pack 0x60500000 [(t.code, 17), (rm.code, 14), (d.code, 6), (a.code, 0)])
  | .fsin t rm d a => some (pack 0x60600000 [(t.code, 17), (rm.code, 14), (d.code, 6), (a.code, 0)])
  | .fcos t rm d a => some (pack 0x60700000 [(t.code, 17), (rm.code, 14), (d.code, 6), (a.code, 0)])
  | .fsinpi t rm d a => some (pack 0x60800000 [(t.code, 17), (rm.code, 14), (d.code, 6), (a.code, 0)])
  | .fcospi t rm d a => some (pack 0x60900000 [(t.code, 17), (rm.code, 14), (d.code, 6), (a.code, 0)])
  | .ftanh t rm d a => some (pack 0x60A00000 [(t.code, 17), (rm.code, 14), (d.code, 6), (a.code, 0)])
  | .flogi t rm d a => some (pack 0x60B00000 [(t.code, 17), (rm.code, 14), (d.code, 6), (a.code, 0)])
  | .ferf t rm d a => some (pack 0x60C00000 [(t.code, 17), (rm.code, 14), (d.code, 6), (a.code, 0)])
  | .frsq t rm d a => some (pack 0x60D00000 [(t.code, 17), (rm.code, 14), (d.code, 6), (a.code, 0)])
  | .fsqrt t rm d a => some (pack 0x60E00000 [(t.code, 17), (rm.code, 14), (d.code, 6), (a.code, 0)])
  | .frcp t rm d a => some (pack 0x60F00000 [(t.code, 17), (rm.code, 14), (d.code, 6), (a.code, 0)])
  | .fdiv t rm d a b => some (pack 0x62000000 [(t.code, 21), (rm.code, 18), (d.code, 12), (a.code, 6), (b.code, 0)])
  | .secondPhase => none
  | .xexp2 t d a => some (pack 0x64000000 [(t.code, 18), (d.code, 6), (a.code, 0)])
  | .xlog2 t d a => some (pack 0x64200000 [(t.code, 18), (d.code, 6), (a.code, 0)])
  | .xrsq t d a => some (pack 0x64400000 [(t.code, 18), (d.code, 6), (a.code, 0)])
  | .xrcp t d a => some (pack 0x64600000 [(t.code, 18), (d.code, 6), (a.code, 0)])
  | .xtanh t d a => some (pack 0x64800000 [(t.code, 18), (d.code, 6), (a.code, 0)])
  | .xlogi t d a => some (pack 0x64A00000 [(t.code, 18), (d.code, 6), (a.code, 0)])
  | .xsin t d a => some (pack 0x64C00000 [(t.code, 18), (d.code, 6), (a.code, 0)])
  | .xerf t d a => some (pack 0x64E00000 [(t.code, 18), (d.code, 6), (a.code, 0)])
  | .mpush shafts a b => some (pack 0x68000000 [(shafts.val, 14), (a.code, 6), (b.code, 0)])
  | .mshift shafts z => some (pack 0x68400000 [(shafts.val, 14), (z.toNat, 13)])
  | .macc shafts => some (pack 0x68800000 [(shafts.val, 14)])
  | .mdrain shafts => some (pack 0x68C00000 [(shafts.val, 14)])
  | .maccD shafts => some (pack 0x69000000 [(shafts.val, 14)])
  | .drainArrival => none
  | .mset a b => some (pack 0x6A000000 [(a.val, 6), (b.val, 0)])
  | .mmode a b => some (pack 0x6A040000 [(a.val, 6), (b.val, 0)])
  | .mglaze a => some (pack 0x6A080000 [(a.val, 6)])
  | .mchk a => some (pack 0x6A0C0000 [(a.val, 6)])
  | .mstat d a => some (pack 0x6A100000 [(d.val, 12), (a.val, 6)])
  | .rld a b => some (pack 0x6C000000 [(a.val, 6), (b.val, 0)])
  | .xpcfg a b => some (pack 0x6C040000 [(a.val, 6), (b.val, 0)])
  | .checkPassEnd => none
  | .reloadStart => none
  | .reloadCompletion => none
  | .scrubPass => none
  | .scrubLate => none
  | .remapWrite => none
  | .qbind q a b => some (pack 0x70000000 [(q.val, 12), (a.val, 6), (b.val, 0)])
  | .qunb q => some (pack 0x70040000 [(q.val, 12)])
  | .qadv q a => some (pack 0x70080000 [(q.val, 12), (a.val, 6)])
  | .qwait q a => some (pack 0x700C0000 [(q.val, 12), (a.val, 6)])
  | .qstr q a level => some (pack 0x70100000 [(q.val, 12), (a.val, 6), (level.val, 0)])
  | .qstat d q what => some (pack 0x70140000 [(d.val, 12), (q.val, 6), (what.val, 0)])
  | .sqrd d what => some (pack 0x70180000 [(d.val, 12), (what.val, 0)])
  | .ringReadAhead => none
  | .pushPerform => none
  | .cpy iss ord d a b => some (pack 0x72000000 [(iss.toNat, 23), (ord.val, 19), (d.val, 12), (a.val, 6), (b.val, 0)])
  | .xfer iss ord d a b => some (pack 0x73000000 [(iss.toNat, 23), (ord.val, 19), (d.val, 12), (a.val, 6), (b.val, 0)])
  | .copyStart => none
  | .copyCompletion => none
  | .statisticsDrain => none
  | .eqlimWrite => none
  | .collAllr iss ord d a b => some (pack 0x74000000 [(iss.toNat, 22), (ord.val, 18), (d.val, 12), (a.val, 6), (b.val, 0)])
  | .collBcast iss ord d a b => some (pack 0x74800000 [(iss.toNat, 22), (ord.val, 18), (d.val, 12), (a.val, 6), (b.val, 0)])
  | .collAllg iss ord d a b => some (pack 0x75000000 [(iss.toNat, 22), (ord.val, 18), (d.val, 12), (a.val, 6), (b.val, 0)])
  | .collRsc iss ord d a b => some (pack 0x75800000 [(iss.toNat, 22), (ord.val, 18), (d.val, 12), (a.val, 6), (b.val, 0)])
  | .collectiveExchange => none
  | .collectiveTimeout => none
  | .cgrpWrite => none
  | .rfetch _ _ _ => none
  | .bfext _ _ _ => none
  | .swait _ _ _ => none
  | .disp _ _ _ => none
  | .park => none
  | .force => none
  | .kill => none
  | .restore => none
  | .restart => none
  | .retire => none
  | .free => none
  | .detach => none
  | .attach => none
  | .registerWrite => none
  | .sliceExpiry => none
  | .deferredTrapEntry => none
  | .saveComplete => none
  | .resultLand => none
  | .lateWriteLand => none
  | .localAccessPerform => none
  | .globalWriteMerge => none
  | .globalLoadPerform => none
  | .fabricRequest => none
  | .remoteRequestTimeout => none
  | .hostCxlMemAccess => none
  | .unsupportedRequest => none
  | .backgroundWalk => none
  | .eraserSweep => none
  | .sampler => none
  | .migrationClaim => none
  | .migrationRevoke => none
  | .migrationSwitch => none
  | .migrationAbandon => none
  | .xcinv => none
  | .xcinvDone => none
  | .hatchInterval => none
  | .nopPacket => none
  | .launchPacket => none
  | .signalPacket => none
  | .signalWrite => none
  | .waitPacket => none
  | .waitPacketRelease => none
  | .sendPacket => none
  | .pendingPlacement => none
  | .kernelRelease => none
  | .groupDispatch => none
  | .groupCompletion => none
  | .arriveWrite => none
  | .binitPerform => none
  | .barrierArrival => none
  | .heartbeatTick => none
  | .waittDeadline => none
  | .tset => none
  | .lockedSlot => none
  | .fpctlEn => none
  | .fpctlTrain => none
  | .trainingEnd => none
  | .portFault => none
  | .ptpMessage => none
  | .ideKm => none
  | .quote => none
  | .bootstRequest => none
  | .pcmdIdle => none
  | .heldIdleApply => none
  | .pcmdActive => none
  | .pcmdRetain => none
  | .retentionForce => none
  | .retentionPowerDown => none
  | .railFail => none
  | .railsApplied => none
  | .railsRestored => none
  | .bootComplete => none
  | .firmwareUpdate => none
  | .firmwareActivation => none
  | .pclusWrite => none
  | .clusterClockRestart => none
  | .pcapWrite => none
  | .tempLimit => none
  | .plockWrite => none
  | .lockLoss => none
  | .grant => none
  | .rampLimiter => none
  | .energyCounterRead => none
  | .ellenWrite => none
  | .firmwareCoreAccess => none
  | .fabricResponse => none
  | .transportReceive => none
  | .sendUnacknowledged => none
  | .towerCooled => none

/-- The word of a firmware core's instruction (R405). -/
def encodeFirmware : Instr → Option Nat
  | .rfetch rd rs1 rs2 => some (0x0000000B + rd.val * 2 ^ 7 + rs1.val * 2 ^ 15 + rs2.val * 2 ^ 20)
  | .bfext rd rs1 rs2 => some (0x0000100B + rd.val * 2 ^ 7 + rs1.val * 2 ^ 15 + rs2.val * 2 ^ 20)
  | .swait rd rs1 rs2 => some (0x0000200B + rd.val * 2 ^ 7 + rs1.val * 2 ^ 15 + rs2.val * 2 ^ 20)
  | .disp rd rs1 rs2 => some (0x0000300B + rd.val * 2 ^ 7 + rs1.val * 2 ^ 15 + rs2.val * 2 ^ 20)
  | _ => none

/-- The word of an instruction, its stop bit clear; none for a step of the part, which has no encoding. -/
def encode (i : Instr) : Option Nat := (encodeSlot i).or (encodeFirmware i)

/-- The instruction the decoders read from a word of the opcode table: a slot of a bundle first, then an instruction of a firmware core. Every row with an encoding has 32 bits. -/
def decodeTableWord (nbits w : Nat) : Option Instr :=
  if nbits = 32 then (decodeSlot w).or (decodeFirmware w) else none

end Sys2Proof
end

