-- ==== Sys2Proof/Machine/Bits.lean ====
section
/-! DEFINITION. Bits.lean: integers and their fields as the pseudocode reads them (R2, R5, R6). -/

namespace Sys2Proof.Machine

/-- x<lo + n − 1:lo> of a natural number (R5). -/
def bits (x lo n : Nat) : Nat := x / 2 ^ lo % 2 ^ n

/-- x<k> (R5). -/
def bitAt (x k : Nat) : Bool := x / 2 ^ k % 2 == 1

/-- x with its n bits from lo up replaced by the low n bits of v. -/
def setBits (x lo n v : Nat) : Nat := x - bits x lo n * 2 ^ lo + v % 2 ^ n * 2 ^ lo

/-- SignExtend(x, w) of R6: the low w bits of x read as two's complement. -/
def sext (x w : Nat) : Int :=
  if w = 0 then 0
  else if x % 2 ^ w < 2 ^ (w - 1) then (x % 2 ^ w : Nat) else ((x % 2 ^ w : Nat) : Int) - 2 ^ w

/-- The unsigned field of w bits of an integer's two's complement representation (R5). -/
def uns (x : Int) (w : Nat) : Nat := (x % 2 ^ w).toNat

/-- Saturate of R6. -/
def saturate (x lo hi : Int) : Int := if x < lo then lo else if x > hi then hi else x

/-- The one bits among the low n bits of x. -/
def popCount : Nat → Nat → Nat
  | 0, _ => 0
  | n + 1, x => x % 2 + popCount n (x / 2)

/-- The zero bits below the lowest one among n bits; n when there is none. -/
def trailZeros : Nat → Nat → Nat
  | 0, _ => 0
  | n + 1, x => if x % 2 = 1 then 0 else 1 + trailZeros n (x / 2)

/-- The n bits of x in reverse order. -/
def revBits : Nat → Nat → Nat
  | 0, _ => 0
  | n + 1, x => x % 2 * 2 ^ n + revBits n (x / 2)

/-- The zero bits above the highest one among n bits; n when there is none. -/
def leadZeros (n x : Nat) : Nat := trailZeros n (revBits n x)

/-- floor(log2 x); 0 for 0. -/
def ilog2 (x : Nat) : Nat := x.log2

/-- The root r of n so far, its k lowest bits still to come, the highest first. -/
def isqrtFrom (n : Nat) : Nat → Nat → Nat
  | 0, r => r
  | k + 1, r => isqrtFrom n k (if (r + 2 ^ k) * (r + 2 ^ k) ≤ n then r + 2 ^ k else r)

/-- floor(√n), bit by bit, so that it evaluates by structural recursion. -/
def isqrt (n : Nat) : Nat := isqrtFrom n (ilog2 n / 2 + 1) 0

/-- Ceiling division. -/
def cdiv (a b : Nat) : Nat := (a + b - 1) / b

/-- A word from a natural number, its higher bits dropped. -/
def word (x : Nat) : Word := BitVec.ofNat 64 x

/-- A word from an integer in two's complement. -/
def wordI (x : Int) : Word := BitVec.ofInt 64 x

/-- Element k of a list of registers; 0 beyond it. -/
def nth {n : Nat} (l : List (BitVec n)) (k : Nat) : BitVec n := l.getD k 0

/-- The value a sorted list of pairs gives a key. -/
def assoc? {α : Type} (l : List (Nat × α)) (k : Nat) : Option α :=
  match l with
  | [] => none
  | (j, a) :: t => if j = k then some a else assoc? t k

/-- A sorted list of pairs with the value of one key set. -/
def assocSet {α : Type} (l : List (Nat × α)) (k : Nat) (a : α) : List (Nat × α) :=
  match l with
  | [] => [(k, a)]
  | (j, b) :: t => if k < j then (k, a) :: (j, b) :: t else if k = j then (k, a) :: t else (j, b) :: assocSet t k a

/-- A sorted list of pairs without one key. -/
def assocDel {α : Type} (l : List (Nat × α)) (k : Nat) : List (Nat × α) :=
  match l with
  | [] => []
  | (j, b) :: t => if j = k then t else (j, b) :: assocDel t k

/-- A sorted list of numbers with one number in it. -/
def setAdd (l : List Nat) (k : Nat) : List Nat :=
  match l with
  | [] => [k]
  | j :: t => if k < j then k :: j :: t else if k = j then j :: t else j :: setAdd t k

/-- A sorted list of numbers without one number. -/
def setDel (l : List Nat) (k : Nat) : List Nat :=
  match l with
  | [] => []
  | j :: t => if j = k then t else j :: setDel t k

/-- The words of n bits of a number, the lowest first. -/
def chunks (w : Nat) : Nat → Nat → List Nat
  | 0, _ => []
  | n + 1, x => x % 2 ^ w :: chunks w n (x / 2 ^ w)

/-- The number whose words of w bits are given, the lowest first. -/
def unchunks (w : Nat) : List Nat → Nat
  | [] => 0
  | x :: t => x % 2 ^ w + 2 ^ w * unchunks w t

end Sys2Proof.Machine
end

