-- ==== Sys2Proof/Config.lean ====
section
/-! DEFINITION. Config.lean: the free values. Each is an opaque constant with no body, so no proof can rest on a value of it; the assumption log names every one. -/

namespace Sys2Proof.Config

/-- A fresh free value: the step applies it to the counter of State (log 5). -/
opaque freeBits : Nat → Nat

/-- The check of a signature over a digest, with the key of a SHA-512 (R406): the manual names the scheme and gives no arithmetic for the keys (log 5). -/
opaque signatureOk : Nat → Nat → Nat → Bool

/-- The SHA-512 of the public key that the mask ROM holds (R406; log 5). -/
opaque romKey : Nat

/-- The identity seed of the part, as its helper data corrects it (R407; log 5). -/
opaque identitySeed : Nat

/-- The attestation key derived from a seed (R407; log 5). -/
opaque attestationKey : Nat → Nat

/-- The signature made with a key over a digest, with the salt of RSASSA-PSS (R407; log 5). -/
opaque signature : Nat → Nat → Nat → Nat

/-- Whether a lane between the two limits of R337 takes the second phase, as a function of func, format, resolved mode and operand bits (log 5). -/
opaque phaseBetween : Nat → Nat → Nat → Nat → Bool

/-- The set of the store cache, its slice with the set in it, that holds a line of local memory: the hash of R203, fixed for the part (log 76). -/
opaque storeSet : Nat → Nat

/-- How the part lays out what its save records hold in regions of which the manual gives no layout, by their offset: the bits in which a field stored there differs from its value (log 8). -/
opaque recordMask : Nat → Nat

end Sys2Proof.Config
end

