-- ==== Sys2Proof/Machine/State.lean ====
section
/-! DEFINITION. State.lean: everything the manual gives the machine, as plain data: the focused core with its two contexts, the other cores, the device, and the model's own bookkeeping (log 1). -/

namespace Sys2Proof.Machine

/-- Why a step stops with a fault. -/
inductive Fault where
  /-- Raised by a step of the part whose operand names no agent of the part (a core of 256 or more, a launch queue of 64 or more). Safe: no such agent exists. -/
  | noSuchAgent (who : Nat)
deriving DecidableEq, Repr

/-- Why an instruction has no meaning here. -/
inductive Refusal where
  /-- Raised by the dispatch for an instruction that is not modelled yet. Safe. -/
  | notModelled (mnemonic : String)
deriving DecidableEq, Repr

/-- The states of a context (Table 5.4). -/
inductive CtxState where
  | free | loaded | ready | running | waiting | trapped | parked | saved | retained | faulted | retired
deriving DecidableEq, Repr

/-- The trap and fault causes (Table 5.6). -/
inductive Cause where
  | trap | fpe | overdraw | checksum | nanscale | illegalUse
  | illegal | bundle | format | pagefault | unmapped | halfstate | poison | invhandle | bounds | noncanon
  | double | powerLimit
deriving DecidableEq, Repr

/-- Memory: the listed bytes, keyed by the address of the byte, which is a bit address divided by 8 (R1, R23; log 2). -/
abbrev Memory := List Host.Cell

/-- A memory of one kind of a core, or the device's (R27, R30). -/
inductive Space where
  | act | stg | imem | glob
deriving DecidableEq, Repr

/-- The destination of a result (R78, R84, R129): ringAt is a push whose value a global load brings, bits a push of ring q, which has since been bound anew (R219), and which still performs to its address in space sp: leaf is the leaf of its handle, full says that it sets full bits, vec that its bank's format may narrow it. -/
inductive Dest where
  | none
  | s (i : Nat)
  | v (i : Nat)
  | pair (k : Nat)
  | preds
  | b (i : Nat) (byPbr : Bool)
  | m (i : Nat)
  | e (i : Nat)
  | h (i : Nat)
  | ring (q : Nat)
  | ringAt (q addr : Nat)
  | bits (q sp w addr leaf : Nat) (full vec : Bool)
deriving DecidableEq, Repr

/-- A result that has not landed (R84, R105): where it goes, its value, the address a ring push was given (R210), the clks left, whether consumers interlock on it (0 exposed, 1 interlocked (in compatibility mode every result is, R88), 2 a result that also holds a younger write: a division, R147, or a function result in its second phase, 3 a function result in its first 12 clk, which reads do not wait for and younger writes do, R339), the flags it raises, with bit 5 set where its instruction can raise one (R54), and the bundle it came from. A result whose value comes later (a readout of the sum file, a function result) carries a tag; bno is its number among the accesses of its context, and inh says, in the late-write buffer, that a bundle of the handler made it. -/
structure Pending where
  dest  : Dest
  val   : Nat
  addr  : Nat
  left  : Nat
  inter : Nat
  flags : Nat
  pc    : Nat
  tag   : Nat := 0
  bno   : Nat := 0
  inh   : Bool := false
deriving DecidableEq, Repr

/-- One active loop level (R136). -/
structure Level where
  start : Nat
  stop  : Nat
  count : Nat
  index : Nat
  safe  : Bool
deriving DecidableEq, Repr

/-- The loop stack, level 0 first, with the ring strides STRIDE[k][n] at 16k + n (R136, R216). -/
structure LoopStack where
  levels  : List Level
  strides : List Int
deriving DecidableEq, Repr

/-- An element in the window of a READ ring (R211, R215): its bits, its address and the cause its read met, if any. -/
structure WinElem where
  val   : Nat
  addr  : Nat
  cause : Option Cause
deriving DecidableEq, Repr

/-- A push that has entered its ring and has not performed (R213), with its place in the order of entry, its number among the accesses of its context and whether it merges (R40). -/
structure RingWrite where
  addr : Nat
  val  : Nat
  left : Nat
  seq  : Nat
  bno  : Nat
  slow : Bool := false
deriving DecidableEq, Repr

/-- A ring binding (R206 to R215). alloc counts the pushes allocated whose result has not entered the ring; bankPol is the policy of the bank of its base at qbind (R208, R219). -/
structure Ring where
  cfg    : Word
  cur    : Word
  head   : Nat
  count  : Nat
  copy   : HandleBits
  widen  : Nat
  bankPol : Nat := 0
  window : List WinElem
  buf    : List RingWrite
  alloc  : Nat
deriving DecidableEq, Repr

/-- The s, v, p, b, m, e and h registers (Table 5.1), with, for each b register, the clks since the instruction that wrote it issued and whether that was a pbr (R134). -/
structure Regs where
  s    : List Word
  v    : List Wide
  p    : List Bool
  b    : List Word
  m    : List Word
  e    : List Nat
  h    : List HandleBits
  bAge : List Nat
  bPbr : List Bool
deriving DecidableEq, Repr

/-- The trap registers (Table 5.3) and the TVAL a pending deferred cause will give (R54, R107). -/
structure TrapRegs where
  tvec   : Word
  tcause : Word
  tepc   : Word
  tval   : Word
  tslot  : Word
  tscr   : Word
  tena   : Word
  tpend  : Word
  fpeVal : Word
  chkVal : Word
  nanVal : Word
deriving DecidableEq, Repr

/-- The floating-point control registers (Tables 3.4 and 3.10). -/
structure FpRegs where
  fflags : BitVec 5
  fmask  : BitVec 5
  frm    : BitVec 3
  seed   : Word
  sctr   : Word
deriving DecidableEq, Repr

/-- A program trap that waits for the interlocked results of its context to land before it enters the handler (R110), or a system fault that waits for its function results (R341); esc says that a program cause escalated (R111). -/
structure Entry where
  cause : Cause
  val   : Word
  epc   : Nat
  slots : Nat
  defer : Bool
  esc : Bool := false
deriving DecidableEq, Repr

/-- What a context in WAITING waits for (R101, R222, R251, R253, R362, R396). -/
inductive WaitOn where
  | nothing
  | barrier
  | ring
  | tick
  | time
  | grant
  | group
deriving DecidableEq, Repr

/-- One access of a context to global memory, in the order it entered the load or the store queue (R176, R262); a ring read has its element's address, and an oldPush is a push of a ring that has since been bound anew (R219). -/
inductive GlobKind where
  | load (signed : Bool)
  | vload (w32 : Bool)
  | ringRead (q off : Nat)
  | store
  | ringPush (q : Nat)
  | oldPush (q : Nat)
  | atomic (op : Nat) (operand : Nat) (new : Nat)
  | maintain (evict : Bool)
deriving DecidableEq, Repr

/-- A field of bits to write: its address, its width and its value (R36). -/
structure BitWrite where
  addr  : Nat
  width : Nat
  val   : Nat
deriving DecidableEq, Repr

/-- An entry of the global queues (R262): its kind, the bits it has still to read (addr, width) and those it has read (got, gotBits), or the writes it has still to make, where its value lands, its order code, its number among its context's accesses, its bundle's address and slot, the clks before it may perform, whether it has left for another device, whether a port has accepted it (R263), REF when it first left (R374), the bits of older stores that it forwards from another device's memory (R260), and whether its context has left the slot since (R274). -/
structure GlobAcc where
  id      : Nat
  kind    : GlobKind
  addr    : Nat
  width   : Nat
  got     : Nat
  gotBits : Nat
  writes  : List BitWrite
  dest    : Dest
  order   : Nat
  bno     : Nat
  pc      : Nat
  slots   : Nat
  left    : Nat
  sent    : Bool
  acc     : Bool := false
  since   : Nat := 0
  fwd     : List BitWrite := []
  orphan  : Bool := false
deriving DecidableEq, Repr

/-- The order instructions a context has committed (R268 to R270): the marks whose older global accesses have not all performed, and the release fences whose older accesses have not (the number of the first access that is not older; the scope), and, while a fence.sc waits for its tick, the clks since its drain was complete and whether its tick has come. -/
structure OrderState where
  marks    : List Nat
  rel      : List (Nat × Nat)
  scDrain  : Option Nat
  scPassed : Bool
deriving DecidableEq, Repr

/-- The group a context runs (R361, R364): whether one is dispatched, its index, its coordinates and its spawn. -/
structure GroupRun where
  active  : Bool
  index   : Nat
  coords  : List Nat
  spawned : Bool
  exited  : Bool
deriving DecidableEq, Repr

/-- What the loader reserved for a context on its core (R348, R350, R351): its code region, its share of the loop buffer, the masks of its claims, and the PC of its entry. -/
structure Claims where
  ibase   : Nat
  imem    : Nat
  loopBuf : Nat
  act     : Nat
  stg     : Nat
  bar     : Nat
  win     : Nat
  dot     : Bool
  entry   : Nat
deriving DecidableEq, Repr

/-- The firmware block of a context (Tables 5.7 and 9.3). -/
structure CtxBlock where
  preq    : Bool
  ign     : Bool
  slice   : Nat
  sliced  : Nat
  save    : Nat
  fpc     : Nat
  fslots  : Nat
  fcause  : Nat
  fval    : Word
  esc     : Bool
  asid    : Nat
  root    : Nat
deriving DecidableEq, Repr

/-- The power of a context: its level (R391), the level whose weight it holds, 0 for none (R398), and the charges of its last committed bundles, newest first (R393). -/
structure Power where
  level   : Nat
  held    : Nat
  charges : List Nat
deriving DecidableEq, Repr

/-- The elements of one side of a copy (R229): the format code of Table 3.1, or 0x1F for raw integer fields, the bits of one such field, its sign and the substitute policy. -/
structure Side where
  code  : Nat
  width : Nat
  sgn   : Bool
  pol   : Nat
deriving DecidableEq, Repr

/-- How far a started command has come (R229 to R232, R299): whether it waits for another device, the source bits read (rpos), the destination bits written (wpos), the bits read and not converted (inV, inN of them), those converted and not written (outV, outN), the elements converted, the flags raised, the cause that ended it, for a reload whether a spare was swapped in and the state of its half before it began; whether its data has moved and its release has begun, the clks it has been kept from its cells (R167), and the formats of its two sides. -/
structure Run where
  wait  : Bool
  rpos  : Nat
  wpos  : Nat
  inN   : Nat
  inV   : Nat
  outN  : Nat
  outV  : Nat
  idx   : Nat
  flags : Nat
  cause : Nat
  swap  : Bool
  prior : Nat
  held  : Bool
  kept  : Nat
  src   : Side
  dst   : Side
deriving DecidableEq, Repr

/-- One command of the engine queues (R225): its queue, the physical context that issued it, its tag, the operands read at issue, the handle copies, FRM, SEED and SCTR at issue, its bundle, its number, the physical core a transfer writes into, for a collective its count on its group (R377), REF when it issued or when its request in flight to another device was first sent (R374, R381), for a reload the codebook its core had at its start (R300), and how far it has come. -/
structure Command where
  queue   : Nat
  ctx     : Nat
  lcore   : Nat
  tag     : Nat
  op      : Nat
  order   : Nat
  issuer  : Bool
  a       : Word
  b       : Word
  d       : Word
  e       : Word
  hsrc    : HandleBits
  hdst    : HandleBits
  frm     : Nat
  seed    : Word
  sctr    : Word
  pc      : Nat
  older   : Nat
  id      : Nat := 0
  target  : Nat := 0
  started : Bool
  left    : Nat
  seq     : Nat := 0
  since   : Nat := 0
  book    : List Nat := []
  birth   : Nat := 0
  run     : Run := { wait := false, rpos := 0, wpos := 0, inN := 0, inV := 0, outN := 0, outV := 0, idx := 0, flags := 0, cause := 0, swap := false, prior := 0, held := false, kept := 0, src := { code := 0, width := 0, sgn := false, pol := 0 }, dst := { code := 0, width := 0, sgn := false, pol := 0 } }
deriving DecidableEq, Repr

/-- One context (Table 5.1 and the state the chapters add). gfault is a fault found where a load performed, for the next bundle boundary (R176). awaits lists the destinations of interlocked results whose value has not returned yet. loopBuf holds the copies of the bodies of active levels (R75): a bundle's address and its words. fromSt is the code of the state it parked from, saveLeft the clks its save still takes, notBefore the first REF at which the context issues after a tick, a deadline or a release (R253, R270, R356), force a FORCE that waits for a trap entry or a safe point to end, rseq the revocation number when its commands were last withdrawn (R189), birth the number of its load, by which its passes know it (R295), and probes how far the probes of its bundle at issue have walked: the access number, the address it goes on at and the pages it may still walk (R194). stopped counts the clks that a trap or a forced park has waited for interlocked results (R105). -/
structure Ctx where
  st      : CtxState
  pc      : Word
  regs    : Regs
  fp      : FpRegs
  tr      : TrapRegs
  loops   : LoopStack
  held    : LoopStack
  rings   : List Ring
  gen     : Nat
  lcore   : Nat
  forced  : Bool
  sliceUp : Bool
  compat  : Bool
  inh     : Bool
  late    : List Pending
  replay  : Bool
  pend    : List Pending
  awaits  : List Dest
  gq      : List GlobAcc
  nextId  : Nat
  order   : OrderState
  entry   : Option Entry
  gfault  : Option (Cause × Word × Nat × Nat)
  gwait   : Bool
  wait    : WaitOn
  barWait : List (Nat × Word)
  ringWait : Option (Nat × Word)
  waitVal : Word
  released : List Word
  bubble  : Nat
  served  : Nat
  starve  : Nat
  first   : Bool
  notBefore : Nat
  safeHold : Bool
  blk     : CtxBlock
  power   : Power
  group   : GroupRun
  claims  : Claims
  kernel  : Option Nat
  kcores  : Nat
  prio    : Nat
  withdrawn : List Command
  commits : Nat
  loopBuf : List (Nat × List Nat)
  fromSt  : Nat
  saveLeft : Option Nat
  force   : Bool
  rseq    : Nat
  birth   : Nat
  probes  : List (Nat × Nat × Nat)
  stopped : Option Nat
deriving DecidableEq, Repr

/-- A write or atomic of a committed bundle on its way to its bank (R168): the slot of its context, the clks left, whether it is a merge or an atomic that holds loads of its words (R40), its space, its writes, the full bits it sets (R173), and for an atomic its operation, operand and new value, where the old value lands, its order code and its number among the accesses of its context; push is, for a push whose ring has since been bound anew, that ring and its place in the order of entry (R169, R219), and turns the turn of each bank when it issued, by which its addresses are read (R171, R172), empty for one that performs as the banks now stand. -/
structure LocalAcc where
  slot    : Nat
  left    : Nat
  slow    : Bool
  space   : Space
  writes  : List BitWrite
  setFull : Bool
  atomic  : Option (Nat × Nat × Nat)
  dest    : Dest
  order   : Nat
  bno     : Nat
  pc      : Nat
  push    : Option (Nat × Nat) := none
  turns   : List Nat := []
deriving DecidableEq, Repr

/-- A BFMT value that waits to take effect (R171). -/
structure FmtPend where
  bank    : Nat
  val     : Word
  slot    : Nat
  bundles : Nat
  left    : Nat
deriving DecidableEq, Repr

/-- One barrier (Table 11.2). -/
structure Barrier where
  state   : Nat
  phase   : Bool
  epoch   : Nat
  count   : Nat
  cause   : Nat
  target  : Nat
  notify  : Word
deriving DecidableEq, Repr

/-- A binit or arrival on its way to a barrier (R245, R249): the barrier, whether it is a binit, its value, the clks left, its order code, its context and its number among the accesses of that. -/
structure BarOp where
  bar   : Nat
  init  : Bool
  n     : Nat
  left  : Nat
  order : Nat
  ctx   : Nat
  bno   : Nat
deriving DecidableEq, Repr

/-- One lane of the sum file (R63). -/
structure Lane where
  v     : BitVec 256
  flags : BitVec 5
deriving DecidableEq, Repr

/-- What an instruction of the sum file does in its acting clk (R324 to R331): addends to the lanes from l0 up, addends into one lane, a readout, the flags, the grid values and flags a collective adds (R380), a clear, a new anchor of a window. -/
inductive LaneOp where
  | add (l0 : Nat) (fmt : Fmt) (elems : List Nat)
  | into (lane : Nat) (fmt : Fmt) (elems : List Nat)
  | read (l0 : Nat) (fmt : Fmt) (mode : Nat)
  | flags (l0 : Nat)
  | grid (l0 : Nat) (vs fs : List Nat)
  | clear (l0 mask : Nat)
  | anchor (l0 : Nat) (a : Int)
deriving DecidableEq, Repr

/-- An instruction of the sum file waiting for its acting clk (R324): the slot of its context, the clks left, its effect, the tag of its result, and its number among the accesses of its context. -/
structure LaneAct where
  slot : Nat
  left : Nat
  op   : LaneOp
  tag  : Nat
  bno  : Nat := 0
deriving DecidableEq, Repr

/-- An entry of the function queue (R338): the slot of its context, the tag of its result, the clks until its fast phase is over, the clks the second phase still needs, its bundle, and the INFO and VALUE of its PHASE2 record, which is made when lanes took the second phase. -/
structure FnEntry where
  slot   : Nat
  tag    : Nat
  wait   : Nat
  work   : Nat
  second : Bool
  pc     : Nat
  info   : Nat
  val    : Nat
deriving DecidableEq, Repr

/-- An addend of a drain (R293): its lane, whether it is a NaN, its value mant × 2^exp, and whether it sets LOSS. -/
structure DrainAdd where
  lane : Nat
  nan  : Bool
  mant : Int
  exp  : Int
  span : Bool
deriving DecidableEq, Repr

/-- The addends of a drain on the up-bus (R294): the context's slot, the clks left, and the number of its bundle's first access among those of its context. -/
structure Drain where
  slot : Nat
  left : Nat
  adds : List DrainAdd
  bno  : Nat := 0
deriving DecidableEq, Repr

/-- A physical half (R275, R277): the code of its state, its flags CHK and DOTPEND, its recorded format, the format an MMODE holds for it, the bits of its window (rows and scale file), its poisoned rows, with 256 + k for word k of its scale file (R43, R44), the rows on which a merge is still to perform (R276), and REF when it last counted as scrubbed (R305). -/
structure Half where
  st      : Nat
  chk     : Bool
  dotPend : Bool
  fmt     : Nat
  held    : Nat
  mem     : Memory
  poison  : List Nat := []
  merges  : List Nat := []
  seen    : Nat := 0
deriving DecidableEq, Repr

/-- A half-vector in a shaft (R286): 256 codes and 8 scales. -/
structure HalfVec where
  codes  : List Int
  scales : List Nat
deriving DecidableEq, Repr

/-- A shaft (R286, Table 13.4): its byte of the shaft word, the state of its front (0 EMPTY, 1 SHIFTING, 2 COMPLETE, 3 FOLDED), the planes presented, its front and its back buffer. -/
structure Shaft where
  byte   : Nat
  st     : Nat
  planes : Nat
  front  : HalfVec
  back   : Option HalfVec
deriving DecidableEq, Repr

/-- A valid entry of the dot-set descriptor with the state of its half's periphery (R288, R290): plane sums P at Kk + o, check sums, and per output the value, anchor, NaN and span of the last fold, and whether they are held. -/
structure DotEntry where
  index : Nat
  shaft : Nat
  f     : Nat
  base  : Nat
  sums  : List Int
  chks  : List Int
  vals  : List Int
  anc   : List Int
  nanF  : List Bool
  spanF : List Bool
  held  : Bool
deriving DecidableEq, Repr

/-- The dot set of a core (R281): the slot of its owner (2 + r for a detached record r), its shafts and its valid entries. -/
structure DotSet where
  owner   : Option Nat
  shafts  : List Shaft
  entries : List DotEntry
deriving DecidableEq, Repr

/-- A check pass on a half of a core's field (R279): the clks left, the physical context and bundle it is stamped with, the birth of that context (R295), and whether it is one of MCHK, which counts as the half's scrub (R303). -/
structure CheckPass where
  f    : Nat
  left : Nat
  ctx  : Nat
  pc   : Nat
  birth : Nat := 0
  scrubs : Bool := false
deriving DecidableEq, Repr

/-- MCNT (Table 13.14). -/
structure MacroCount where
  softErr : Bool
  late    : Nat
  chk     : Nat
  span    : Nat
deriving DecidableEq, Repr

/-- An entry of the translation cache: a leaf's fields but RH and WH, with its page and address space (R191). -/
structure TcEntry where
  asid : Nat
  vpn  : Nat
  leaf : Word
  addr : Nat
  big  : Bool
deriving DecidableEq, Repr

/-- A background walk outstanding (R192). -/
structure Walk where
  asid : Nat
  root : Nat
  va   : Word
  left : Nat
deriving DecidableEq, Repr

/-- The engine-command pool of a core (R225, R226, Table 10.5). -/
structure Pool where
  cmds : List Command
  caps : List Nat
  mins : List Nat
  err  : Bool
deriving DecidableEq, Repr

/-- The statistics ring of a core (R234, R235, Table 10.10): the records in its buffer, each one number of 128 bits, and those of the running clk, which are appended in the order of R235. -/
structure Stats where
  recs : List Nat
  base : Nat
  len  : Nat
  wr   : Nat
  drop : Nat
  idle : Nat
  fresh : List Nat
deriving DecidableEq, Repr

/-- One physical core (R97): its memories, its sum file, its barriers, its engines, and what is on the way to them; cellsNow are the cells the bundles of this clk use, engCells those an engine takes in the next (R167); glaze is the number of its halves on which the ramp limiter places beats (R399), primary the slot that was last primary (R366), and poison the poisoned words of its memories (R43), 2^20 × the code of the space + the word, the code 4 standing for the values of the sum file and 5 for its flags. winWrites are the window writes of the sum file that its next clk performs: offset, width, value (R324). fmtTie lists the BFMT values that its 64th clk put into effect at the start of this clk, whose order the clk's primary decides (R171). -/
structure Core where
  act    : Memory
  stg    : Memory
  imem   : Memory
  full   : List Nat
  bfmt   : List Word
  fmtPend : List FmtPend
  locals : List LocalAcc
  bars   : List (Nat × Barrier)
  barOps : List BarOp
  lanes  : List (Nat × Lane)
  anchors : List Int
  laneActs : List LaneAct
  dot    : DotSet
  drains : List Drain
  busLeft : Nat
  fnQueue : List FnEntry
  passes : List CheckPass
  codebook : List Nat
  mcnt   : MacroCount
  pool   : Pool
  stats  : Stats
  tcache : List TcEntry
  walks  : List Walk
  sampled : Nat
  detached : List Nat
  clk    : Nat
  cellsNow : List (Nat × Nat × Nat)
  engCells : List (Nat × Nat × Nat)
  glaze  : Nat
  primary : Nat
  poison : List Nat
  winWrites : List BitWrite
  fmtTie : List FmtPend
deriving DecidableEq, Repr

/-- A core with its two contexts: the one in the slot at work, and the other. -/
structure CorePair where
  core    : Core
  ctx     : Ctx
  partner : Ctx
  second  : Bool
deriving DecidableEq, Repr

/-- The operands of a step of the part, as the agenda gives them (log 1): an agent, a part of it, an address, a value, a length and further words. -/
structure Event where
  who  : Nat
  sub  : Nat
  addr : Nat
  val  : Nat
  len  : Nat
  data : List Nat
deriving DecidableEq, Repr

/-- A migration in progress (R199, R200): the leaf's address, the address space and page, the old and the new frame, whether it moves 2^28 bits, whether its target is HBM4, its phase (1 COPY, 2 REVOKE), REF when REVOKE began, and the lines written since they were copied. -/
structure Migration where
  leaf  : Nat
  asid  : Nat
  vpn   : Nat
  old   : Nat
  new   : Nat
  big   : Bool
  toHbm : Bool
  phase : Nat
  since : Nat
  dirty : List Nat
deriving DecidableEq, Repr

/-- The registers of translation and migration (Table 9.3). -/
structure MigRegs where
  lowat : Nat
  promo : Nat
  big   : Bool
  en    : Bool
  limit : Nat
  done  : Nat
  aband : Nat
  sample : Nat
  int   : Nat
  hcount : Nat
  hbase  : Nat
  lcount : Nat
  lbase  : Nat
  xasid : Nat
  xvpn  : Nat
  busy  : Bool
  swept : Nat := 0
deriving DecidableEq, Repr

/-- A revocation entered in the device's list (R188, R189): its number, and the page by frame (migration) or by address space and page (XCINV). -/
structure Revocation where
  seq   : Nat
  frame : Option Nat
  asid  : Nat
  vpn   : Nat
deriving DecidableEq, Repr

/-- A leaf offered to the migration engine (R194, R199): its address, address space and page, and its size. -/
structure MigRequest where
  leaf : Nat
  asid : Nat
  vpn  : Nat
  big  : Bool
deriving DecidableEq, Repr

/-- The hatch tree's registers and counts (R204, R205): the address space and interval, the buffer, the retirements of the interval so far and the intervals closed. -/
structure Hatch where
  asid  : Nat
  n     : Nat
  buf   : Nat
  len   : Nat
  count : Nat
  interval : Nat
  due   : Option Nat := none
deriving DecidableEq, Repr

/-- A packet a queue has accepted and that has not completed (R238): its index, its eight words, the kernel it launched, and REF when it was sent. -/
structure Packet where
  index : Nat
  words : List Nat
  kernel : Option Nat
  since : Nat
deriving DecidableEq, Repr

/-- A launch or transport queue (Table 10.11) with the packets it has accepted. -/
structure LaunchQueue where
  base  : Nat
  log2n : Nat
  err   : Bool
  prio  : Nat
  en    : Bool
  wr    : Nat
  rd    : Nat
  stat  : Nat
  pkts  : List Packet
  args  : Option (Nat × Option Nat) := .none
deriving DecidableEq, Repr

/-- The launch arbiter (R365): REF at its last start, the queue last served at each level, and the consecutive starts of higher levels each level has been passed by. -/
structure Arbiter where
  last   : Option Nat
  served : List Nat
  passed : List Nat
deriving DecidableEq, Repr

/-- The states of a kernel (Table 16.6). -/
inductive KernelState where
  | pending | loading | loaded | running | aborting | retired
deriving DecidableEq, Repr

/-- A spawned group that has not been dispatched (R364): its index, its logical core, its payload and the group it depends on. -/
structure Spawn where
  index : Nat
  lcore : Nat
  payload : Word
  dep   : Option Nat
deriving DecidableEq, Repr

/-- A kernel (R348 to R364): its queue and packet, its addresses, its shape, the descriptor, the placement (towers, symmetry and translation, and the physical context of each logical core), and its groups: the lowest that has not retired, those above it that have completed, the next walker group of each logical core (the count dispatched), the spawns committed and those not yet dispatched, and posts: the glob writes of its data to other devices that have not been answered (R355). -/
structure Kernel where
  queue : Nat
  index : Nat
  tag   : Nat
  st    : KernelState
  image : Nat
  arg   : Nat
  root  : Nat
  sig   : Nat
  sigVal : Nat
  p     : Nat
  shape : List Nat
  chunk : Nat
  perm  : List Nat
  trip  : List Nat
  towers : List Nat
  place : List Nat
  tick  : Option Nat
  oldest : Nat
  done  : List Nat
  dealt : List Nat
  spawns : Nat
  table : List Spawn
  why   : Nat × Nat
  posts : Nat := 0
deriving DecidableEq, Repr

/-- A fabric port (R375, Table 17.6), with the number of the last slot that has carried its requests, REF divided by 64 and one more (R376). -/
structure Port where
  st    : Nat
  lanes : Nat
  retry : Nat
  en    : Bool
  cls   : Nat
  lat   : Nat
  slot  : Nat := 0
deriving DecidableEq, Repr

/-- A collective group (R377): the members less one, the address of its list divided by 2^9, and the digest of the list as it was written. -/
structure CollGroup where
  n      : Nat
  base   : Nat
  digest : Nat
deriving DecidableEq, Repr

/-- A request of a unit of the part that another device has not answered (R374): the unit (0 the signal of queue n with packet k, 1 a write of the data of kernel n for physical context k, 2 the argument block of queue n, 3 a read and 4 a store of firmware core n), REF when it was first sent, and the request. -/
structure Ask where
  kind  : Nat
  n     : Nat
  k     : Nat
  since : Nat
  req   : Event
deriving DecidableEq, Repr

/-- The CXL link (R368; it is down at reset, DESIGN CHOICE, log 115): down, a PCIe endpoint with CXL.io alone, or CXL in 256-byte flit mode (0, 1, 2), with its rate in GT/s and its lanes. -/
structure HostLink where
  st    : Nat
  rate  : Nat
  lanes : Nat
deriving DecidableEq, Repr

/-- The link registers (Table 17.6) with the collectives each member of the device has issued on each group, keyed 64 × physical context + group, the IDE keys set (R368), the requests that wait for a slot of their class (R376), for each stream of another device the number of the next request that has not performed here (R373), the requests of units that have no answer (R374), and the CXL link (R368). -/
structure Links where
  ftmo  : Nat
  ctmo  : Nat
  ports : List Port
  ptpPort : Nat
  ptpMaster : Bool
  ptpEn : Bool
  ptpOffset : Nat
  ptpSync : Bool
  groups : List CollGroup
  counts : List (Nat × Nat)
  ide    : List Nat
  held   : List Event
  streams : List (Nat × Nat)
  asks    : List Ask := []
  cxl     : HostLink := { st := 0, rate := 0, lanes := 0 }
deriving DecidableEq, Repr

/-- A cluster (R389): RATIO and STEP of PCLUS, and the reference periods its clock still stands still. -/
structure Cluster where
  ratio : Nat
  step  : Nat
  stop  : Nat
deriving DecidableEq, Repr

/-- A tower's limits (PTWR, R395) and its ballast in mW by the core that returned it, the one that returned weight first in front (R399). -/
structure Tower where
  temp : Nat
  tlim : Nat
  tcap : Nat
  hot  : Bool
  ballast : List (Nat × Nat)
deriving DecidableEq, Repr

/-- The power states (Table 18.1). -/
inductive PowerState where
  | off | boot | active | idle | retain
deriving DecidableEq, Repr

/-- The power unit (Table 18.2): the state with a held IDLE, the registers, the clusters and towers, the energy counters, the half each firmware core has latched, the waiting requests for weight (oldest first: context and level), the rises granted within the last µs (REF and mW, latest first), a cap written during retention entry, and the step of retention entry, 0 outside it, 5 while the rails are off, 6 while a firmware activation reboots, with REF when it began (Table 18.6). short lists the limits that could not be held when they were last judged, a tower or 4 for the device (R395), and ramped is one more than the µs of the ramp limiter's last step (R399). -/
structure PowerUnit where
  st    : PowerState
  heldIdle : Bool
  cap   : Nat
  static : Nat
  up    : Nat
  down  : Nat
  duty  : Nat
  plock : Bool
  breach : Bool
  rampShort : Bool
  pclErr : Bool
  clusters : List Cluster
  towers : List Tower
  etot  : Nat
  etwr  : List Nat
  eest  : List (Nat × Nat)
  latch : List Nat
  requests : List (Nat × Nat)
  risen : List (Nat × Nat)
  capHeld : Option Nat
  retStep : Nat
  retSince : Nat
  short : List Nat := []
  ramped : Nat := 0
deriving DecidableEq, Repr

/-- A firmware image (R405, R406): its version, its SHA-512, its signature, and the SHA-512 of the public key it comes with (DESIGN CHOICE, log 116). -/
structure FwImage where
  ver : Nat
  sha : Nat
  sig : Nat
  key : Nat
deriving DecidableEq, Repr

/-- The boot status word and what boot reads (R405 to R409): STAGE, CAUSE, FWVER, ROMVER, WARM, whether boot is halted, an image staged in the flash, the words of the handover record a firmware activation wrote (Table 18.7), the image that the store layers keep, and the SHA-512 of the configuration record that was verified (R407). -/
structure Boot where
  stage : Nat
  cause : Nat
  fwver : Nat
  romver : Nat
  warm  : Bool
  halted : Bool
  staged : Option FwImage
  handover : List Nat
  image : FwImage
  configSha : Nat
deriving DecidableEq, Repr

/-- A detached context (R121): the core it left, its revocation number (R189), and what its record in memory does not hold, which stays on its core (R122, log 8). -/
structure SavedRecord where
  core : Nat
  rseq : Nat
  ctx  : Ctx
deriving DecidableEq, Repr

/-- The device error log (R408, Table 18.9): the records the base die still holds, each one number of 256 bits, and the registers. -/
structure ErrorLog where
  base : Nat
  len  : Nat
  wr   : Nat
  rd   : Nat
  drop : Nat
  held : List Nat
deriving DecidableEq, Repr

/-- A line the store cache holds (R203): its number, whether it is dirty, and whether a save pinned it (R118). -/
structure StoreLine where
  line   : Nat
  dirty  : Bool
  pinned : Bool
deriving DecidableEq, Repr

/-- The device (02 Table 2.1 and the units of the later chapters). mem holds what any agent reads; store lists the lines of it that the store cache holds, the most recently used first (R203), and owned the lines the host holds under HDM-DB (R41). births counts the contexts loaded, and reserves holds, for the firmware cores, the bits of local memory each has reserved by lr (log 98). -/
structure Device where
  mem     : Memory
  store   : List StoreLine
  owned   : List Nat
  births  : Nat
  poison  : List Nat
  reserves : List (Nat × Nat × Nat)
  lpddr   : Nat
  devId   : Nat
  bars    : List (Nat × Barrier)
  ref     : Nat
  outbox  : List Event
  halves  : List (Nat × Half)
  remap   : List (Nat × Nat)
  loaded  : Bool
  scrubs : List (Nat × Nat) := []
  rmErr   : Bool
  scrubInt : Nat
  log     : ErrorLog
  refSet  : Bool
  marks   : List Nat
  migs    : List Migration
  mig     : MigRegs
  revs    : List Revocation
  revSeq  : Nat
  probes  : List MigRequest
  promos  : List MigRequest
  demos   : List MigRequest
  hatch   : Hatch
  queues  : List LaunchQueue
  arbiter : Arbiter
  kernels : List (Nat × Kernel)
  nextKernel : Nat
  everLoaded : Bool
  harvest : List Nat
  links   : Links
  setErr  : Bool
  locked  : Bool
  power   : PowerUnit
  boot    : Boot
  records : List (Nat × SavedRecord)
deriving DecidableEq, Repr

/-- What a slot has done to the bundle at issue (R415): nothing yet, stalled for an operand, raised a cause, or held on a wait condition. -/
inductive Mark where
  | none
  | stalled
  | raised (cause : Cause) (val : Word) (early : Bool)
  | held
  | waits (w : WaitOn)
deriving DecidableEq, Repr

/-- What a slot does when its bundle commits (R103). -/
inductive Effect where
  | result (p : Pending)
  | pop (q : Nat)
  | push (q : Nat) (p : Pending)
  | charge (n : Nat)
  | cells (sp : Space) (l : List (Nat × Nat))
  | store (a : LocalAcc)
  | clearFull (a w : Nat)
  | glob (a : GlobAcc)
  | cwr (creg : Nat) (val : Word)
  | branch (target : Word)
  | bubble (n : Nat)
  | endStep (addr : Nat)
  | enter (l : Level)
  | lbrk (level : Nat)
  | trap (code : Nat)
  | tret
  | safePoint
  | gfence
  | exit
  | hrev (i : Nat)
  | touch (x : TcEntry)
  | fills (l : List TcEntry)
  | walk (va : Word)
  | sample (leaf : Nat) (write : Bool)
  | power (level : Nat)
  | spawn (w x : Word)
  | hset (i : Nat) (h : HandleBits)
  | fmt (bank : Nat) (val : Word)
  | mark
  | fence (order : Nat)
  | fenceSc
  | acquire (order : Nat)
  | command (c : Command)
  | barOp (o : BarOp)
  | laneAct (a : LaneAct)
  | fnEntry (e : FnEntry)
  | beat (kind mask : Nat) (planes : List (Nat × Nat)) (sh : List Shaft)
  | mset (shafts : List Shaft) (entries : List DotEntry)
  | mrelease
  | mmode (f n fmt : Nat) (dot : Bool)
  | mglaze (n : Nat)
  | mchk (f : Nat)
  | qbind (q : Nat) (addr cfg : Word) (copy : HandleBits)
  | qunb (q : Nat)
  | qadv (q n : Nat)
  | qstr (q level : Nat) (v : Int)
deriving DecidableEq, Repr

/-- The bundle at issue (log 1): the address of its first slot, the address after its last, its slots, the position of the slot at work, the mark it left, the gate of its LTAG (R140), the barrier, ring, tick or deadline one of its slots waits for, whether one waits for full granules (R173, R174), the fills of its probes that remain though it does not commit, with the access number of each held probe, the address it goes on at and the pages it may still walk (R194), and the effects its slots stage. -/
structure Bundle where
  pc      : Nat
  next    : Nat
  slots   : List Instr
  pos     : Nat
  mark    : Mark
  gate    : Option (Nat × Nat × Nat)
  waitBar : Option (Nat × Word)
  waitVal : Word
  waitFull : Bool
  kept    : List TcEntry
  reach   : List (Nat × Nat × Nat)
  effects : List Effect
deriving DecidableEq, Repr

/-- A firmware core (R405): the place of its next instruction, its registers, and those of machine mode; ie and pie are MIE and MPIE of mstatus, inhibit is mcountinhibit, fault the fault code of R29. asked: it reads a word of another device, whose answer, a value and a cause code, may have come. The layout is that of RV64 in machine mode; PRESUMED (log 6). -/
structure FwCore where
  run      : Bool
  pc       : Word
  x        : List Word
  mcause   : Word
  mepc     : Word
  mtval    : Word
  mtvec    : Word
  mscratch : Word
  mie      : Word
  mip      : Word
  ie       : Bool
  pie      : Bool
  mcycle   : Word
  minstret : Word
  inhibit  : Nat
  fault    : Nat
  asked    : Option (Option (Nat × Nat))
deriving DecidableEq, Repr

/-- The machine; second says that the context in focus is that of slot 1 of its core. -/
structure State where
  core    : Core
  ctx     : Ctx
  partner : Ctx
  second  : Bool
  coreNo  : Nat
  others  : List (Nat × CorePair)
  dev     : Device
  fw      : List FwCore
  bundle  : Bundle
  agenda  : List (Nat × Instr × Event)
  ev      : Event
  delays  : List Nat
  free    : Nat
deriving DecidableEq, Repr

/-- No loop level, every stride 0 (R96, R216). -/
def LoopStack.empty : LoopStack := { levels := [], strides := List.replicate 96 0 }

/-- An UNBOUND ring (R206). -/
def Ring.unbound : Ring :=
  { cfg := 0, cur := 0, head := 0, count := 0, copy := 0, widen := 0, window := [], buf := [], alloc := 0 }

/-- The registers at load (Table 5.1): p0 set, every other 0. -/
def Regs.reset : Regs :=
  { s := List.replicate 32 0, v := List.replicate 32 0, p := true :: List.replicate 15 false,
    b := List.replicate 4 0, m := List.replicate 8 0, e := List.replicate 8 0, h := List.replicate 16 0,
    bAge := List.replicate 4 0, bPbr := List.replicate 4 false }

/-- The trap registers at load (Table 5.3). -/
def TrapRegs.reset : TrapRegs :=
  { tvec := 0, tcause := 0, tepc := 0, tval := 0, tslot := 0, tscr := 0, tena := 0, tpend := 0,
    fpeVal := 0, chkVal := 0, nanVal := 0 }

/-- The floating-point control registers at load (Tables 3.4 and 3.10). -/
def FpRegs.reset : FpRegs := { fflags := 0, fmask := 0, frm := 0, seed := 0, sctr := 0 }

/-- The firmware block of a context at reset (Tables 5.7 and 9.3). -/
def CtxBlock.reset : CtxBlock :=
  { preq := false, ign := false, slice := 0, sliced := 0, save := 0, fpc := 0, fslots := 0, fcause := 0,
    fval := 0, esc := false, asid := 0, root := 0 }

/-- No claim. -/
def Claims.none : Claims :=
  { ibase := 0, imem := 0, loopBuf := 0, act := 0, stg := 0, bar := 0, win := 0, dot := false, entry := 0 }

/-- A free context slot: CXSTATE reads FREE (R102), and every register holds its value of load (R96); log 3 names the values the manual does not give. -/
def Ctx.reset : Ctx :=
  { st := .free, pc := 0, regs := .reset, fp := .reset, tr := .reset, loops := .empty, held := .empty,
    rings := List.replicate 16 .unbound, gen := 0, lcore := 0, forced := false, sliceUp := false,
    compat := false, inh := false, late := [], replay := false, pend := [], awaits := [], gq := [], nextId := 0,
    order := { marks := [], rel := [], scDrain := .none, scPassed := false }, entry := .none, gfault := .none, gwait := false,
    wait := .nothing, barWait := [], ringWait := .none, waitVal := 0, released := [], bubble := 0, served := 0, starve := 0, first := false, notBefore := 0, safeHold := false, blk := .reset,
    power := { level := 1, held := 0, charges := [] },
    group := { active := false, index := 0, coords := [], spawned := false, exited := false },
    claims := .none, kernel := .none, kcores := 1, prio := 0, withdrawn := [], commits := 0, loopBuf := [], fromSt := 0, saveLeft := .none, force := false, rseq := 0, birth := 0, probes := [], stopped := .none }

/-- The engine-command pool at reset (Table 10.5). -/
def Pool.reset : Pool :=
  { cmds := [], caps := List.replicate 4 512, mins := List.replicate 4 64, err := false }

/-- The statistics ring at reset (Table 10.10). -/
def Stats.reset : Stats := { recs := [], base := 0, len := 0, wr := 0, drop := 0, idle := 0, fresh := [] }

/-- A shaft that is off. -/
def Shaft.off : Shaft := { byte := 0, st := 0, planes := 0, front := { codes := [], scales := [] }, back := none }

/-- No dot set. -/
def DotSet.none : DotSet := { owner := Option.none, shafts := List.replicate 8 .off, entries := [] }

/-- A half after the boot-time remap (Table 13.3 row 2): EMPTY, MXI8, every bit 0. -/
def Half.empty : Half := { st := 0, chk := false, dotPend := false, fmt := 0x08, held := 0x08, mem := [] }

/-- A core at reset; log 3 names the values the manual does not give. -/
def Core.reset : Core :=
  { act := [], stg := [], imem := [], full := [], bfmt := List.replicate 16 0, fmtPend := [], locals := [],
    bars := [], barOps := [], lanes := [], anchors := List.replicate 64 0, laneActs := [], dot := .none, drains := [], busLeft := 0, fnQueue := [], passes := [],
    codebook := List.replicate 16 0, mcnt := { softErr := false, late := 0, chk := 0, span := 0 }, pool := .reset,
    stats := .reset, tcache := [], walks := [], sampled := 0, detached := [], clk := 0, cellsNow := [], engCells := [], glaze := 0, primary := 0, poison := [], winWrites := [], fmtTie := [] }

/-- A launch queue at reset (Table 10.11). -/
def LaunchQueue.reset : LaunchQueue :=
  { base := 0, log2n := 0, err := false, prio := 0, en := false, wr := 0, rd := 0, stat := 0, pkts := [] }

/-- The link registers at reset (Table 17.6). -/
def Links.reset : Links :=
  { ftmo := 100, ctmo := 1000000, ports := List.replicate 8 { st := 0, lanes := 0, retry := 0, en := false, cls := 0, lat := 0 },
    ptpPort := 0, ptpMaster := false, ptpEn := false, ptpOffset := 0, ptpSync := false,
    groups := List.replicate 64 { n := 0, base := 0, digest := 0 }, counts := [], ide := [], held := [], streams := [] }

/-- The power registers at reset (Table 18.2): the state code is that of BOOT. -/
def PowerUnit.reset : PowerUnit :=
  { st := .boot, heldIdle := false, cap := 4800, static := 1337, up := 100, down := 100, duty := 16, plock := false,
    breach := false, rampShort := false, pclErr := false,
    clusters := List.replicate 32 { ratio := 0, step := 0, stop := 0 },
    towers := List.replicate 4 { temp := 0, tlim := 95, tcap := 1200, hot := false, ballast := [] },
    etot := 0, etwr := List.replicate 4 0, eest := [], latch := List.replicate 4 0, requests := [], risen := [],
    capHeld := .none, retStep := 0, retSince := 0 }

/-- The boot status word at reset (Table 18.12); its ROM version is the implementation's. -/
def Boot.reset : Boot :=
  { stage := 0, cause := 0, fwver := 0, romver := 0, warm := false, halted := false, staged := .none, handover := [], image := { ver := 0, sha := 0, sig := 0, key := 0 }, configSha := 0 }

/-- The registers of translation and migration at reset (Table 9.3). -/
def MigRegs.reset : MigRegs :=
  { lowat := 0, promo := 4, big := false, en := false, limit := 1000, done := 0, aband := 0, sample := 8, int := 10000,
    hcount := 0, hbase := 0, lcount := 0, lbase := 0, xasid := 0, xvpn := 0, busy := false }

/-- The device at reset. -/
def Device.reset : Device :=
  { mem := [], store := [], owned := [], births := 0, poison := [], reserves := [], lpddr := 0, devId := 0, bars := [], ref := 0, outbox := [],
    halves := [], remap := [], loaded := false, rmErr := false, scrubInt := 1000000,
    log := { base := 0, len := 0, wr := 0, rd := 0, drop := 0, held := [] },
    refSet := false, marks := [], migs := [], mig := .reset, revs := [], revSeq := 0, probes := [], promos := [], demos := [],
    hatch := { asid := 0, n := 0, buf := 0, len := 0, count := 0, interval := 0 },
    queues := List.replicate 70 .reset, arbiter := { last := .none, served := List.replicate 4 63, passed := List.replicate 3 0 },
    kernels := [], nextKernel := 0, everLoaded := false, harvest := [], links := .reset, setErr := false, locked := false,
    power := .reset, boot := .reset, records := [] }

/-- No bundle at issue. -/
def Bundle.empty : Bundle := { pc := 0, next := 0, slots := [], pos := 0, mark := .none, gate := .none, waitBar := .none, waitVal := 0, waitFull := false, kept := [], reach := [], effects := [] }

/-- No operands. -/
def Event.none : Event := { who := 0, sub := 0, addr := 0, val := 0, len := 0, data := [] }

/-- A firmware core at reset; PRESUMED: its registers hold 0 (log 6). -/
def FwCore.reset : FwCore :=
  { run := false, pc := 0, x := List.replicate 32 0, mcause := 0, mepc := 0, mtval := 0, mtvec := 0, mscratch := 0, mie := 0, mip := 0, ie := false, pie := false, mcycle := 0, minstret := 0, inhibit := 0, fault := 0, asked := none }

/-- The machine right after reset: core 0 in focus, every context FREE, memory with nothing listed, nothing on its way. -/
def State.reset : State :=
  { core := .reset, ctx := .reset, partner := .reset, second := false, coreNo := 0, others := [], dev := .reset,
    fw := List.replicate 4 .reset, bundle := .empty, agenda := [], ev := .none, delays := [], free := 0 }

end Sys2Proof.Machine
end

