-- ==== Sys2Proof/Machine/Mem.lean ====
section
/-! DEFINITION. Mem.lean: reading and writing the bits of a memory (R1, R2, R23, R36). A memory is a sorted list of bytes in one canonical form: an unlisted byte reads 0 (log 2), and no listed byte is 0. Every wider access is built here from bytes. -/

namespace Sys2Proof.Machine

/-- The byte at byte address k, which holds bits 8k to 8k + 7. -/
def Memory.readByte : Memory → Nat → BitVec 8
  | [], _ => 0
  | (a, b) :: t, k => if a = k then b else if k < a then 0 else Memory.readByte t k

/-- A memory with one byte written; a byte written with 0 is not listed. -/
def Memory.writeByte : Memory → Nat → BitVec 8 → Memory
  | [], k, v => if v = 0 then [] else [(k, v)]
  | (a, b) :: t, k, v =>
    if k < a then (if v = 0 then (a, b) :: t else (k, v) :: (a, b) :: t)
    else if a = k then (if v = 0 then t else (k, v) :: t)
    else (a, b) :: Memory.writeByte t k v

/-- n bytes from byte address k up, the lowest address in the lowest bits (R2). -/
def Memory.readBytes (m : Memory) : Nat → Nat → Nat
  | _, 0 => 0
  | k, n + 1 => (m.readByte k).toNat + 256 * Memory.readBytes m (k + 1) n

/-- A memory with n bytes written from byte address k up. -/
def Memory.writeBytes (m : Memory) : Nat → Nat → Nat → Memory
  | _, 0, _ => m
  | k, n + 1, v => Memory.writeBytes (m.writeByte k (BitVec.ofNat 8 v)) (k + 1) n (v / 256)

/-- The bytes that hold the w bits at bit address a. -/
def byteSpan (a w : Nat) : Nat := if w = 0 then 0 else (a % 8 + w + 7) / 8

/-- ReadBits(space, a, w) of R6. -/
def Memory.readBits (m : Memory) (a w : Nat) : Nat :=
  m.readBytes (a / 8) (byteSpan a w) / 2 ^ (a % 8) % 2 ^ w

/-- WriteBits(space, a, w, val) of R6: no bit outside the w bits at a changes (R36). -/
def Memory.writeBits (m : Memory) (a w v : Nat) : Memory :=
  m.writeBytes (a / 8) (byteSpan a w) (setBits (m.readBytes (a / 8) (byteSpan a w)) (a % 8) w v)

/-- The writes of one access, in order. -/
def Memory.writeAll (m : Memory) : List BitWrite → Memory
  | [] => m
  | x :: t => Memory.writeAll (m.writeBits x.addr x.width x.val) t

/-- The canonical form: addresses strictly rising, no byte 0. -/
def Memory.wf : Memory → Bool
  | [] => true
  | [(_, b)] => b != 0
  | (a, b) :: (c, d) :: t => a < c && b != 0 && Memory.wf ((c, d) :: t)

/-- The alignment classes (R32). -/
inductive AlignClass where
  | w | l | s
deriving DecidableEq, Repr

/-- AlignClass(x, w) of R32. -/
def alignClass (x w : Nat) : AlignClass :=
  if x / 64 = (x + w - 1) / 64 then .w else if x / 512 = (x + w - 1) / 512 then .l else .s

/-- The parts of an access at line boundaries (R33), the lowest first: address and width. -/
def lineParts : Nat → Nat → Nat → List (Nat × Nat)
  | 0, _, _ => []
  | fuel + 1, a, w =>
    if w = 0 then []
    else if (a % 512) + w ≤ 512 then [(a, w)]
    else (a, 512 - a % 512) :: lineParts fuel (a + (512 - a % 512)) (w - (512 - a % 512))

/-- The size of a typed space of a core (Table 2.4). -/
def Space.size : Space → Nat
  | .act => 2 ^ 24 | .stg => 2 ^ 22 | .imem => 2 ^ 21 | .glob => 2 ^ 60

end Sys2Proof.Machine
end

