-- ==== Sys2Proof/Machine/Ops.lean ====
section
/-! DEFINITION. Ops.lean: the named operations over registers and the bundle at issue, the focus on a context, and taking an exception and returning from one (R104 to R111, R124). -/

namespace Sys2Proof.Machine

/-! ## Causes -/

/-- The cause codes (Table 5.6). -/
def Cause.code : Cause → Nat
  | .trap => 0x01 | .fpe => 0x02 | .overdraw => 0x03 | .checksum => 0x04 | .nanscale => 0x05 | .illegalUse => 0x06
  | .illegal => 0x20 | .bundle => 0x21 | .format => 0x22 | .pagefault => 0x23 | .unmapped => 0x24
  | .halfstate => 0x25 | .poison => 0x26 | .invhandle => 0x27 | .bounds => 0x28 | .noncanon => 0x29
  | .double => 0x2A | .powerLimit => 0x2B

/-- A program trap enters the handler; a system fault stops the context (R107). -/
def Cause.isProgram (c : Cause) : Bool := c.code < 0x20

/-- The state codes (Table 5.4). -/
def CtxState.code : CtxState → Nat
  | .free => 0 | .loaded => 1 | .ready => 2 | .running => 3 | .waiting => 4 | .trapped => 5 | .parked => 6
  | .saved => 7 | .retained => 8 | .faulted => 9 | .retired => 10

/-- The state of a code (Table 5.4). -/
def CtxState.ofCode : Nat → Option CtxState
  | 0 => some .free | 1 => some .loaded | 2 => some .ready | 3 => some .running | 4 => some .waiting
  | 5 => some .trapped | 6 => some .parked | 7 => some .saved | 8 => some .retained | 9 => some .faulted
  | 10 => some .retired | _ => none

/-! ## Updates of the focused context and core -/

/-- The slot of the context in focus (R14): 0 or 1. -/
def State.slot (s : State) : Nat := if s.second then 1 else 0

/-- The slot of the context in focus of a core that is kept. -/
def CorePair.slot (p : CorePair) : Nat := if p.second then 1 else 0

/-- The physical context number 2n + slot (R14). -/
def State.phys (s : State) : Nat := 2 * s.coreNo + s.slot

/-- The number of the slot at work among the accesses of its context, by which accesses have their age (R261, R265): eight for each bundle, slot position in it. -/
def State.accNo (s : State) : Nat := 8 * s.ctx.commits + s.bundle.pos

/-- The number of the first access of the bundle at issue: those of older bundles are less. -/
def State.bundleNo (s : State) : Nat := 8 * s.ctx.commits

/-- The state with the focused context changed. -/
def State.onCtx (s : State) (f : Ctx → Ctx) : State := { s with ctx := f s.ctx }

/-- The state with the focused core changed. -/
def State.onCore (s : State) (f : Core → Core) : State := { s with core := f s.core }

/-- The state with the device changed. -/
def State.onDev (s : State) (f : Device → Device) : State := { s with dev := f s.dev }

/-- The state with the bundle at issue changed. -/
def State.onBundle (s : State) (f : Bundle → Bundle) : State := { s with bundle := f s.bundle }

/-- The two contexts of the focused core change places. -/
def State.swapSlot (s : State) : State :=
  { s with ctx := s.partner, partner := s.ctx, second := !s.second }

/-- The focused core as it is kept while another has the focus. -/
def State.pair (s : State) : CorePair := { core := s.core, ctx := s.ctx, partner := s.partner, second := s.second }

/-- A core that no step has touched. -/
def CorePair.reset : CorePair := { core := .reset, ctx := .reset, partner := .reset, second := false }

/-- The state with core n in focus. -/
def State.focusCore (s : State) (n : Nat) : State :=
  if n = s.coreNo then s
  else
    let p := (assoc? s.others n).getD .reset
    { s with core := p.core, ctx := p.ctx, partner := p.partner, second := p.second, coreNo := n,
             others := assocSet (assocDel s.others n) s.coreNo s.pair }

/-- The state with slot k of the focused core at work. -/
def State.focusSlot (s : State) (k : Nat) : State := if s.slot = k then s else s.swapSlot

/-- The state with physical context c in focus (R14). -/
def State.focus (s : State) (c : Nat) : State := (s.focusCore (c / 2)).focusSlot (c % 2)

/-- f applied with physical context c in focus; the focus is then as before. -/
def State.atCtx (s : State) (c : Nat) (f : State → State) : State := (f (s.focus c)).focus s.phys

/-- f applied with core n in focus; the focus is then as before. -/
def State.atCore (s : State) (n : Nat) (f : State → State) : State := (f (s.focusCore n)).focus s.phys

/-- Physical context c (R14). -/
def State.ctxAt (s : State) (c : Nat) : Ctx := (s.focus c).ctx

/-- The cores a step has touched, the focused one among them. -/
def State.coreList (s : State) : List Nat := setAdd (s.others.map Prod.fst) s.coreNo

/-! ## Registers: each read and write passes here -/

/-- An s register; s0 reads zero (R78). -/
def Regs.readS (r : Regs) (i : Nat) : Word := if i = 0 then 0 else nth r.s i

/-- A v register. -/
def Regs.readV (r : Regs) (i : Nat) : Wide := nth r.v i

/-- A predicate; p0 reads 1 and p1 reads 0 (R129). -/
def Regs.readP (r : Regs) (i : Nat) : Bool := if i = 0 then true else if i = 1 then false else r.p.getD i false

/-- A mask register. -/
def Regs.readM (r : Regs) (i : Nat) : Word := nth r.m i

/-- A branch register. -/
def Regs.readB (r : Regs) (i : Nat) : Word := nth r.b i

/-- A window base (R149). -/
def Regs.readE (r : Regs) (i : Nat) : Nat := r.e.getD i 0

/-- A handle register. -/
def Regs.readH (r : Regs) (i : Nat) : HandleBits := nth r.h i

/-- The sixteen predicates as one number (rdp of R148). -/
def Regs.preds (r : Regs) : Nat := (List.range 16).foldl (fun a k => a + (if r.readP k then 2 ^ k else 0)) 0

/-- The registers with a result landed in its destination (R86, R129, R148); a write to s0 is discarded (R78). A value of wrp holds A in bits 15:0 and B in bits 31:16. -/
def Regs.land (r : Regs) (d : Dest) (val : Nat) : Regs :=
  match d with
  | .s i => if i = 0 then r else { r with s := r.s.set i (word val) }
  | .v i => { r with v := r.v.set i (BitVec.ofNat 1024 val) }
  | .pair k => if k = 0 then r else { r with p := (r.p.set (2 * k) (val % 2 == 1)).set (2 * k + 1) (val % 2 == 0) }
  | .preds =>
    { r with p := (List.range 16).map fun k => if 2 ≤ k ∧ bitAt val (16 + k) then bitAt val k else r.readP k }
  | .b i byPbr => { r with b := r.b.set i (word val), bAge := r.bAge.set i 1, bPbr := r.bPbr.set i byPbr }
  | .m i => { r with m := r.m.set i (word val) }
  | .e i => { r with e := r.e.set i (val % 4096) }
  | .h i => { r with h := r.h.set i (BitVec.ofNat 256 val) }
  | .ring _ | .ringAt .. | .bits .. => r
  | .none => r

/-! ## One slot of the bundle at issue -/

/-- Why a slot ends before its effect (R415): a check fails, or a ring's mode does not permit an operand, which no wait delays. -/
inductive Stop where
  | raise (cause : Cause) (val : Word)
  | raiseEarly (cause : Cause) (val : Word)
deriving DecidableEq, Repr

/-- What the operands of a slot have met so far (R415 stage 1): one is not available yet; the first cause an element or an address gave, which the slot's waits precede; whether the guard is false or not known yet, under which no cause of an operand is raised (R80); and the rings it will push onto, whose room counts also where a check fails (R79). -/
structure Operands where
  missing : Bool
  cause   : Option (Cause × Word)
  quiet   : Bool
  owed    : List Nat
deriving DecidableEq, Repr

/-- Before the first operand of a slot. -/
def Operands.start : Operands := { missing := false, cause := none, quiet := false, owed := [] }

/-- The effect of one slot: it reads the state, stages effects on the bundle, notes what its operands meet, or stops. -/
abbrev Act (α : Type) := ExceptT Stop (StateT State (StateM Operands)) α

/-- What the operands have met changes. -/
def meet (f : Operands → Operands) : Act Unit := modifyThe Operands f

/-- A check of the slot fails (R415 stage 2). -/
def raise {α : Type} (c : Cause) (v : Word) : Act α := throw (.raise c v)

/-- A ring's mode does not permit the operand, which no wait delays (R209, R415); under a false guard nothing is raised (R80). -/
def raiseEarly (c : Cause) (v : Word) : Act Unit := do
  let o ← getThe Operands
  if o.quiet then pure () else throw (.raiseEarly c v)

/-- An operand's element or address has a cause (R43, R215): it is raised once every operand is available, unless the guard is false (R80, R415). -/
def note (c : Cause) (v : Word) : Act Unit :=
  meet fun o => if o.quiet || o.cause.isSome then o else { o with cause := some (c, v) }

/-- A check of a slot: when it fails, the slot raises the cause. -/
def check (ok : Bool) (c : Cause) (v : Word) : Act Unit := if ok then pure () else raise c v

/-- A condition the slot's operands wait for; the slot goes on to its other operands, whose ring modes no wait delays (R415 stage 1). -/
def await (ok : Bool) : Act Unit := if ok then pure () else meet fun o => { o with missing := true }

/-- The mark of a bundle with a wait condition of one slot added (R415 stage 3); a wait instruction that blocks decides the context's state (R416). -/
def Mark.hold (m : Mark) (w : Option WaitOn) : Mark :=
  match m, w with
  | .none, .none => .held
  | .none, .some x => .waits x
  | .held, .some x => .waits x
  | m, _ => m

/-- A wait condition of a slot that passed its checks: when it does not hold, the bundle is held (R415 stage 3). -/
def hold (ok : Bool) : Act Unit := modify fun s => if ok then s else s.onBundle fun b => { b with mark := b.mark.hold .none }

/-- A wait instruction whose condition does not hold: the context waits (R101 row 10, R416). -/
def holdWaiting (ok : Bool) (w : WaitOn) : Act Unit :=
  modify fun s => if ok then s else s.onBundle fun b => { b with mark := b.mark.hold (some w) }

/-- An effect staged for the commit of the bundle (R103). -/
def stage (e : Effect) : Act Unit := modify fun s => s.onBundle fun b => { b with effects := b.effects ++ [e] }

/-- The number of pops of ring q that older slots and operands of the bundle have staged (R79). -/
def Bundle.pops (b : Bundle) (q : Nat) : Nat :=
  (b.effects.filter fun e => match e with | .pop r => r == q | _ => false).length

/-- The number of pushes of ring q that the bundle has staged. -/
def Bundle.pushes (b : Bundle) (q : Nat) : Nat :=
  (b.effects.filter fun e => match e with | .push r _ => r == q | _ => false).length

/-! ## Traps and faults -/

/-- The fields of TVEC (Table 5.3). -/
def TrapRegs.enabled (t : TrapRegs) : Bool := t.tvec.getLsbD 0

/-- The handler address. -/
def TrapRegs.handler (t : TrapRegs) : Nat := bits t.tvec.toNat 5 16 * 32

/-- An interlocked result: a consumer of its destination stalls until it lands (R84). -/
def Pending.isInter (p : Pending) : Bool := p.inter != 0

/-- An interlocked result of the context is pending: among its results, or in its global queues (R105). -/
def Ctx.interPending (c : Ctx) : Bool :=
  c.pend.any Pending.isInter || c.awaits != [] || c.gq.any fun a => a.dest != .none

/-- CaptureLateWrites: every exposed result moves to the late-write buffer, with the clks it had left when the context stopped (R105). In compatibility mode every result is interlocked, so none moves (R88). -/
def Ctx.capture (c : Ctx) : Ctx :=
  { c with
    late := c.late ++ (c.pend.filter fun p => !p.isInter).map (fun p => { p with left := p.left + c.stopped.getD 0, inh := c.inh })
    pend := c.pend.filter Pending.isInter
    stopped := none }

/-- The context waits for its interlocked results before it stops (R105): the clks of the wait count from the first. -/
def Ctx.stopWaits (c : Ctx) : Ctx := { c with stopped := some (c.stopped.getD 0) }

/-- The rest of EnterHandler once no interlocked result is pending (R110). -/
def Ctx.enterHandler (c : Ctx) (e : Entry) : Ctx :=
  { c with
    tr := { c.tr with
      tcause := word ((if e.defer then 2 ^ 15 else 0) + (if c.late.length ≠ 0 then 2 ^ 14 else 0) + e.cause.code)
      tval := e.val
      tepc := word (bits e.epc 5 16 * 32)
      tslot := word (e.slots % 256)
      tpend := if bitAt c.tr.tpend.toNat e.cause.code then c.tr.tpend - word (2 ^ e.cause.code) else c.tr.tpend }
    held := c.loops
    loops := .empty
    inh := true
    st := .trapped
    replay := false
    safeHold := false
    served := 0
    order := { c.order with scDrain := none, scPassed := false }
    probes := []
    pc := word c.tr.handler
    entry := none }

/-- EnterHandler (R110): the entry waits until every interlocked result has landed, and what is then still exposed is captured (R105). A TRAP whose bundle ended at a safe point captures nothing: its results land first (R114). -/
def Ctx.takeTrap (c : Ctx) (e : Entry) : Ctx :=
  if c.safeHold then { c with entry := some e, st := .running } else
  let c : Ctx := { c with barWait := [], released := [] }
  if c.interPending then { c.stopWaits with entry := some e, st := .running } else c.capture.enterHandler e

/-- The commands of context x that have not started, the oldest first. -/
def Core.unstarted (k : Core) (x : Nat) : List Command := k.pool.cmds.filter fun c => c.ctx == x && !c.started

/-- The pool without the unstarted commands of context x (R117). -/
def Core.withdraw (k : Core) (x : Nat) : Core :=
  { k with pool := { k.pool with cmds := k.pool.cmds.filter fun c => !(c.ctx == x && !c.started) } }

/-- The trap registers a system fault leaves (R104, R107, R111, R176): TEPC, TVAL and TSLOT hold its bundle, its value and its slots, and an escalation sets TCAUSE.ESC. DEDUCED (log 72). -/
def TrapRegs.faulted (t : TrapRegs) (val : Word) (epc slots : Nat) (esc : Bool) : TrapRegs :=
  { t with tepc := word (bits epc 5 16 * 32), tval := val, tslot := word (slots % 256), tcause := if esc then t.tcause ||| word (2 ^ 13) else t.tcause }

/-- A system fault stops the focused context in FAULTED, with its fault record, and withdraws its unstarted commands (R101 row 2, R102, R112). -/
def State.takeFault (s : State) (cause : Cause) (val : Word) (epc slots : Nat) (esc : Bool) : State :=
  let w := s.core.unstarted s.phys
  { s with
    core := s.core.withdraw s.phys
    ctx := { s.ctx with
      st := .faulted
      entry := none
      wait := .nothing
      barWait := []
      ringWait := none
      withdrawn := s.ctx.withdrawn ++ w
      rseq := s.dev.revSeq
      released := []
      safeHold := false
      force := false
      served := 0
      probes := []
      stopped := none
      tr := s.ctx.tr.faulted val epc slots esc
      blk := { s.ctx.blk with fpc := epc % 2 ^ 21, fslots := slots % 256, fcause := cause.code, fval := val, esc := esc } } }

/-- A function result of the context is pending: its tag is not 0, and younger writes wait for it (R338, R339). -/
def Ctx.fnPending (c : Ctx) : Bool := c.pend.any fun p => 2 ≤ p.inter && p.tag != 0

/-- A fault found where an access of the context performed, for its next bundle boundary; the first stays (R176). -/
def Ctx.lateFault (c : Ctx) (cause : Cause) (val pc slots : Nat) : Ctx :=
  if c.gfault.isSome then c else { c with gfault := some (cause, word val, pc, slots) }

/-- The entry is a system fault, or a program cause that escalated to one (R111). -/
def Entry.isFault (e : Entry) : Bool := !e.cause.isProgram || e.esc

/-- A system fault of the focused context: its function results land first (R341), and meanwhile it issues nothing. -/
def State.stopFault (s : State) (cause : Cause) (val : Word) (epc slots : Nat) (esc : Bool) : State :=
  if s.ctx.fnPending then
    s.onCtx fun c => { c with
      st := if c.st = .waiting then .running else c.st
      wait := .nothing
      barWait := []
      ringWait := none
      released := []
      entry := some { cause := cause, val := val, epc := epc, slots := slots, defer := false, esc := esc } }
  else s.takeFault cause val epc slots esc

/-- An entry that waited is taken, or waits on. -/
def State.takeEntry (s : State) (e : Entry) : State :=
  if e.isFault then s.stopFault e.cause e.val e.epc e.slots e.esc else s.onCtx fun c => c.takeTrap e

/-- A precise cause of the bundle at issue: a program trap enters the handler, or escalates with the vector disabled (R111) or in the handler (DOUBLE); a system fault stops the context. -/
def State.takePrecise (s : State) (cause : Cause) (val : Word) (epc slots : Nat) : State :=
  if cause.isProgram then
    if s.ctx.inh then s.stopFault .double (word cause.code) epc slots false
    else if s.ctx.tr.enabled then
      s.onCtx fun c => c.takeTrap { cause := cause, val := val, epc := epc, slots := slots, defer := false }
    else s.stopFault cause val epc slots true
  else s.stopFault cause val epc slots false

/-- A pop or a push, which later slots of the bundle count (R79). -/
def Effect.ofRing : Effect → Bool
  | .pop _ | .push .. => true
  | _ => false

/-- The pushes that the slot at work owes and has not staged: the room of later slots counts them (R79). -/
def State.owePushes (s : State) (l : List Nat) : State :=
  let p := fun (q : Nat) => Effect.push q { dest := .ring q, val := 0, addr := 0, left := 0, inter := 0, flags := 0, pc := s.bundle.pc, bno := s.accNo }
  let own := fun (e : Effect) => match e with | .push _ p => p.bno == s.accNo | _ => false
  if s.bundle.effects.any own then s else s.onBundle fun b => { b with effects := b.effects ++ l.map p }

/-- A slot raises a cause: the bundle does not commit (R103), and the context takes the exception with the slot's bit in TSLOT (R104). Of the staged effects only the pops and pushes remain, so that later slots count them (R79). -/
def State.raised (s : State) (cause : Cause) (val : Word) (early : Bool) : State :=
  let b := { s.bundle with
    mark := .raised cause val early
    effects := s.bundle.effects.filter Effect.ofRing }
  { s.takePrecise cause val s.bundle.pc (2 ^ s.bundle.pos) with bundle := b }

/-- How a slot ended (R415): the cause a ring's mode raised at once; else the bundle is stalled while an operand is missing; else the cause an operand met, then that of a check. -/
def slotEnd (r : (Except Stop Unit × State) × Operands) : State :=
  match r with
  | ((.error (.raiseEarly c v), t), _) => t.raised c v true
  | ((.ok _, t), o) =>
    if o.missing then t.onBundle fun b => { b with mark := .stalled }
    else match o.cause with
      | some (c, v) => t.raised c v false
      | none => t
  | ((.error (.raise c v), t), o) =>
    if o.missing then t.onBundle fun b => { b with mark := .stalled }
    else
      let t := t.owePushes o.owed
      match o.cause with
      | some (d, w) => t.raised d w false
      | none => t.raised c v false

/-- The outcome of one slot. -/
def runSlot (m : Act Unit) (s : State) : Host.Outcome State Fault Refusal := .next (slotEnd ((m.run.run s).run .start))

/-- A duration the part draws within the manual's bound (R8, R11, log 7): the head of the list, 0 when none is left. -/
def State.draw (s : State) : Nat × State := (s.delays.headD 0, { s with delays := s.delays.tail })

/-! ## The agenda (log 1) -/

/-- An event in its place on an agenda, n reference periods from now, behind those of the same time. -/
def agendaInsert (n : Nat) (i : Instr) (e : Event) : List (Nat × Instr × Event) → List (Nat × Instr × Event)
  | [] => [(n, i, e)]
  | x :: t => if n < x.1 then (n, i, e) :: (x.1 - n, x.2) :: t else x :: agendaInsert (n - x.1) i e t

/-- An event that happens n reference periods from now. -/
def State.postpone (s : State) (n : Nat) (i : Instr) (e : Event) : State := { s with agenda := agendaInsert n i e s.agenda }

/-- A fresh free value of n bits (log 5). -/
def State.freshBits (s : State) (n : Nat) : Nat × State :=
  (Config.freeBits s.free % 2 ^ n, { s with free := s.free + 1 })

end Sys2Proof.Machine
end

