-- ==== Sys2Proof/Machine/Rings.lean ====
section
/-! DEFINITION. Rings.lean: the fields of a ring binding and what one pop, peek or push finds (R206 to R215). -/

namespace Sys2Proof.Machine

/-- MODE of a configuration word (Table 10.1); 0 is UNBOUND (R206). -/
def Ring.mode (r : Ring) : Nat := bits r.cfg.toNat 61 3
/-- A ring that a pop or a peek is permitted of by its mode (R209). -/
def Ring.readable (r : Ring) : Bool := r.mode == 1 || r.mode == 2
/-- SPACE. -/
def Ring.spaceNo (r : Ring) : Nat := bits r.cfg.toNat 59 2
/-- ELEM. -/
def Ring.elem (r : Ring) : Nat := bits r.cfg.toNat 57 2
/-- EW + 1, the width of a scalar element. -/
def Ring.ew (r : Ring) : Nat := bits r.cfg.toNat 51 6 + 1
/-- SGN. -/
def Ring.sgn (r : Ring) : Bool := bitAt r.cfg.toNat 50
/-- FE. -/
def Ring.fe (r : Ring) : Nat := bits r.cfg.toNat 48 2
/-- ESTR as a signed distance. -/
def Ring.estr (r : Ring) : Int := sext (bits r.cfg.toNat 20 24) 24
/-- ESTR as the capacity of a FIFO. -/
def Ring.capacity (r : Ring) : Nat := bits r.cfg.toNat 20 24
/-- FMT. -/
def Ring.fmt (r : Ring) : Nat := bits r.cfg.toNat 15 5
/-- POL. -/
def Ring.pol (r : Ring) : Nat := bits r.cfg.toNat 13 2

/-- The memory a SPACE code names (Table 10.1). -/
def spaceOf : Nat → Space
  | 0 => .act | 1 => .stg | _ => .glob

/-- The record length L of an MX format code (Table 3.5); of MXI4Z, the length with every element stored. -/
def recordBits : Nat → Nat
  | 0x08 => 266 | 0x09 => 202 | 0x0A => 138 | 0x0B => 138 | 0x0C => 106 | 0x0D => 170 | _ => 0

/-- The format code of a half-vector ring: its own field, or that of the bank of the binding, kept at bind (R208). -/
def Ring.halfFmt (r : Ring) : Nat := if r.fmt ≠ 0 then r.fmt else r.widen

/-- The bits of one element in memory (R209). -/
def Ring.size (r : Ring) : Nat :=
  match r.elem with
  | 0 => r.ew
  | 1 => if r.widen = 0 then 1024 else 512
  | 2 => 1024
  | _ => 8 * recordBits r.halfFmt

/-- The step of CUR per element of a READ or WRITE ring (R210). -/
def Ring.step (r : Ring) : Int := if r.elem = 3 then (8 * recordBits r.halfFmt : Nat) else r.estr

/-- The elements a READ window holds, and the room of a push buffer (R211, R213). -/
def Ring.depth (r : Ring) : Nat := if r.elem = 0 then 8 else 2

/-- PEND: the pushes allocated and not performed (Table 10.4). -/
def Ring.pending (r : Ring) : Nat := r.alloc + r.buf.length

/-- STATE of a handle (Table 9.4). -/
def hState (h : HandleBits) : Nat := bits h.toNat 254 2
/-- PageSize of a handle. -/
def hSize (h : HandleBits) : Nat := if bitAt h.toNat 253 then 2 ^ 28 else 2 ^ 19
/-- PBASE. -/
def hBase (h : HandleBits) : Nat := bits h.toNat 136 60
/-- The right RD. -/
def hRd (h : HandleBits) : Bool := bitAt h.toNat 252
/-- The right WR. -/
def hWr (h : HandleBits) : Bool := bitAt h.toNat 251
/-- The right AT. -/
def hAt (h : HandleBits) : Bool := bitAt h.toNat 250
/-- LEAFA. -/
def hLeaf (h : HandleBits) : Nat := bits h.toNat 76 60
/-- VPN. -/
def hVpn (h : HandleBits) : Nat := bits h.toNat 208 38
/-- ASID. -/
def hAsid (h : HandleBits) : Nat := bits h.toNat 196 12
/-- An access may pass: VALID or DOOMED (R187). -/
def hUsable (h : HandleBits) : Bool := hState h == 1 || hState h == 2
/-- A handle with its STATE replaced (Table 9.5). -/
def hSetState (h : HandleBits) (n : Nat) : HandleBits := BitVec.ofNat 256 (setBits h.toNat 254 2 n)

/-- The address the k-th next element of a READ or WRITE ring is given (R210). -/
def Ring.addrAt (r : Ring) (k : Nat) : Word := r.cur + wordI (r.step * k)

/-- The address of element k of a FIFO, counted from its head (R214). -/
def Ring.fifoAddr (r : Ring) (k : Nat) : Nat := r.cur.toNat + (r.head + k) % r.capacity * r.size

/-! ## Bank formats (R170, R172) -/

/-- FMT of BFMT (Table 8.2). -/
def bfmtFmt (w : Word) : Nat := bits w.toNat 0 5
/-- POL. -/
def bfmtPol (w : Word) : Nat := bits w.toNat 5 2
/-- LAYOUT: skew. -/
def bfmtSkew (w : Word) : Bool := bitAt w.toNat 7
/-- SGN. -/
def bfmtSgn (w : Word) : Bool := bitAt w.toNat 8
/-- EW. -/
def bfmtEw (w : Word) : Nat := bits w.toNat 9 6
/-- ROWLEN. -/
def bfmtRow (w : Word) : Nat := bits w.toNat 15 17
/-- TYPED. -/
def bfmtTyped (w : Word) : Bool := bitAt w.toNat 32

/-- BFMT of the bank that holds bit address a of the activation scratch. -/
def Core.bankFmt (c : Core) (a : Nat) : Word := nth c.bfmt (a / 2 ^ 20 % 16)

/-- The element width w of a format (Tables 3.1 and 7.5). -/
def Fmt.width : Fmt → Nat
  | .fp32 | .s32 | .n32 => 32
  | .bf16 | .fp16 | .s16 | .n16 => 16
  | .fp8e4 | .fp8e5 | .s8 | .n8 | .mxi8 => 8
  | .s64 | .n64 => 64
  | .mxi6 => 6 | .mxi4 | .mxf4 | .mxi4z => 4 | .mxi3 => 3

/-- The sub-banks by which the skew layout of a bank turns each row more than the row before; 0 for the linear one (R166). -/
def bfmtTurn (w : Word) : Nat :=
  if bfmtSkew w then (if ((Fmt.ofCode (bfmtFmt w)).map Fmt.width) = some 32 then 2 else 1) else 0

/-- The byte of a bank to which a byte moves when the turn of its rows changes from t to u: the cell keeps its bits, and the address that names the cell changes (R166, R172). -/
def turnByte (t u k : Nat) : Nat :=
  k / 128 * 128 + (k % 128 / 2 + (64 - u) * (k / 128 % 1024) + t * (k / 128 % 1024)) % 64 * 2 + k % 2

/-- A memory whose bank b takes another turn (R172). -/
def Memory.turn (m : Memory) (b t u : Nat) : Memory :=
  let l := m.filter fun x => x.1 / 2 ^ 17 == b
  let m := l.foldl (fun (m : Memory) x => m.writeByte x.1 0) m
  l.foldl (fun (m : Memory) x => m.writeByte (turnByte t u x.1) x.2) m

/-- The poisoned words of the scratch whose bank b takes another turn: a word that holds a unit of a poisoned one is poisoned (R43, R172). DEDUCED (log 87). -/
def turnPoison (l : List Nat) (b t u : Nat) : List Nat :=
  (l.flatMap fun k =>
    if k < 2 ^ 18 ∧ k / 2 ^ 14 = b then (List.range 4).map fun j => turnByte t u (8 * k + 2 * j) / 8 else [k]).dedup

/-- BFMT of a bank written (R171): a change of LAYOUT or of K moves no bit of a cell, and the addresses change that read them (R172). -/
def Core.setBfmt (c : Core) (b : Nat) (v : Word) : Core :=
  let t := bfmtTurn (nth c.bfmt b)
  let u := bfmtTurn v
  let c := { c with bfmt := c.bfmt.set b v }
  if t = u then c else { c with act := c.act.turn b t u, poison := turnPoison c.poison b t u }

/-- The turns of the banks of the scratch as they stand (R166). -/
def Core.turns (c : Core) : List Nat := c.bfmt.map bfmtTurn

/-- The parts of w bits at a that lie in one unit of 16 bits each, the lowest first (R166). Fuel counts the units. -/
def unitParts : Nat → Nat → Nat → Nat → List BitWrite
  | 0, _, _, _ => []
  | fuel + 1, a, w, v =>
    if w = 0 then []
    else
      let n := min w (16 - a % 16)
      { addr := a, width := n, val := v % 2 ^ n } :: unitParts fuel (a + n) (w - n) (v / 2 ^ n)

/-- A write to the scratch that issued when its banks had some turns, at the addresses its cells have now (R171, R172). -/
def Core.placed (c : Core) (turns : List Nat) (x : BitWrite) : List BitWrite :=
  if turns = [] ∨ turns = c.turns then [x]
  else (unitParts (x.width / 16 + 2) x.addr x.width x.val).map fun p =>
    let b := p.addr / 2 ^ 20
    { p with addr := 8 * turnByte (turns.getD b 0) (c.turns.getD b 0) (p.addr / 8) + p.addr % 8 }

/-- The bits of some parts, one after the other. -/
def Memory.gather (m : Memory) (l : List BitWrite) : Nat := l.foldr (fun p acc => m.readBits p.addr p.width + acc * 2 ^ p.width) 0

/-- A value cut into the parts that are to hold it. -/
def scatter : Nat → List BitWrite → List BitWrite
  | _, [] => []
  | v, p :: t => { p with val := v % 2 ^ p.width } :: scatter (v / 2 ^ p.width) t

/-- How a 16-bit access whose first element lies at a widens (R172): 0 not, 1 with zeros, 2 with the sign. -/
def Core.widening (c : Core) (a : Nat) : Nat :=
  if bfmtTyped (c.bankFmt a) then
    match bfmtFmt (c.bankFmt a) with
    | 0x03 | 0x04 | 0x14 => 1
    | 0x10 => 2
    | _ => 0
  else 0

/-- A binding as its element at address a is written (R209): a WRITE ring of 16-bit lanes in the scratch narrows by the format its bank has now. -/
def Ring.asWritten (r : Ring) (c : Core) (a : Nat) : Ring :=
  if r.mode = 3 ∧ r.spaceNo = 0 ∧ r.elem = 1 then { r with widen := c.widening a } else r

/-- The cause an address of a READ or WRITE ring raises, if any (R210, R215). -/
def Ring.addrCause (r : Ring) (n : Nat) (a : Word) : Option (Cause × Word) :=
  if r.spaceNo = 2 then
    if !hUsable r.copy then some (.invhandle, word (16 + n))
    else if a.toNat + r.size > hSize r.copy then some (.bounds, a) else none
  else if a.toNat + r.size > (spaceOf r.spaceNo).size then some (.illegalUse, a) else none

/-- The memory of a typed space of the focused core. -/
def Core.mem (c : Core) : Space → Memory
  | .act => c.act | .stg => c.stg | .imem => c.imem | .glob => []

/-- A core with a typed space replaced. -/
def Core.setMem (c : Core) (sp : Space) (m : Memory) : Core :=
  match sp with
  | .act => { c with act := m } | .stg => { c with stg := m } | .imem => { c with imem := m } | .glob => c

/-- The code of a space (R27, Table 10.1). -/
def Space.code : Space → Nat
  | .act => 0 | .stg => 1 | .glob => 2 | .imem => 3

/-- The number by which a core keeps a poisoned word (R43). -/
def poisonKey (sp : Space) (a : Nat) : Nat := sp.code * 2 ^ 20 + a / 64

/-- The address of the first poisoned word of a range of a typed space (R43). -/
def Core.poisoned (c : Core) (sp : Space) (a w : Nat) : Option Nat :=
  if w = 0 then none
  else (c.poison.find? fun k => poisonKey sp a ≤ k && k ≤ poisonKey sp (a + w - 1)).map fun k => k % 2 ^ 20 * 64

/-- The words a write covers whole, its parts taken together (R36, R43). -/
def coveredWords (l : List BitWrite) : List Nat :=
  (l.flatMap fun x => if x.width = 0 then [] else
    (List.range ((x.addr + x.width - 1) / 64 + 1 - x.addr / 64)).map fun k => x.addr / 64 + k).dedup.filter fun k =>
    (l.foldl (fun m x =>
      let lo := max x.addr (64 * k)
      let hi := min (x.addr + x.width) (64 * k + 64)
      if lo < hi then m ||| (2 ^ (hi - lo) - 1) * 2 ^ (lo - 64 * k) else m) 0) == 2 ^ 64 - 1

/-- A write performed on a typed space of the core (R36, R43): the bits of its mask; the words it covers lose their poison. -/
def Core.putAll (c : Core) (sp : Space) (l : List BitWrite) : Core :=
  let c := c.setMem sp ((c.mem sp).writeAll l)
  if c.poison.isEmpty then c
  else
    let done := (coveredWords l).map fun k => poisonKey sp (64 * k)
    { c with poison := c.poison.filter fun k => !done.contains k }

/-- The granules of the activation scratch that hold a bit of [a, a + w) (R173), as first and last. -/
def granules (a w : Nat) : Nat × Nat := (a / 128, (a + w - 1) / 128)

/-- Every granule of a range is full. -/
def Core.allFull (c : Core) (a w : Nat) : Bool :=
  w == 0 || (List.range ((granules a w).2 + 1 - (granules a w).1)).all fun k => c.full.contains ((granules a w).1 + k)

/-- The full bits of a range set. -/
def Core.fill (c : Core) (a w : Nat) : Core :=
  if w = 0 then c
  else { c with full := (List.range ((granules a w).2 + 1 - (granules a w).1)).foldl (fun l k => setAdd l ((granules a w).1 + k)) c.full }

/-- The full bits of a range cleared. -/
def Core.drain (c : Core) (a w : Nat) : Core :=
  if w = 0 then c
  else { c with full := (List.range ((granules a w).2 + 1 - (granules a w).1)).foldl (fun l k => setDel l ((granules a w).1 + k)) c.full }

/-- 64 elements of 8 bits widened to lanes of 16 bits, with their sign when sg holds (R172). -/
def widenLanes (sg : Bool) (x : Nat) : Nat :=
  unchunks 16 ((chunks 8 64 x).map fun e => if sg then uns (sext e 8) 16 else e)

/-- The low 8 bits of 64 lanes of 16 bits, packed (R172). -/
def narrowLanes (x : Nat) : Nat := unchunks 8 ((chunks 16 64 x).map (· % 256))

/-- The value of a popped element as its operand reads it (R209). -/
def Ring.deliver (r : Ring) (x : Nat) : Nat :=
  match r.elem with
  | 0 => if r.sgn then uns (sext x r.ew) 64 else x % 2 ^ r.ew
  | 1 => if r.widen = 0 then x else widenLanes (r.widen == 2) x
  | _ => x

end Sys2Proof.Machine
end

