-- ==== Sys2Proof/Machine/Operands.lean ====
section
/-! DEFINITION. Operands.lean: every operand form: registers, ring pops and peeks as sources, registers and ring pushes as destinations, guards (R78 to R80, R209 to R215, R415). -/

namespace Sys2Proof.Machine

/-- A pending result lands in what a reader of x reads. -/
def Dest.meets (d x : Dest) : Bool :=
  match d, x with
  | .preds, .pair _ => true
  | .pair _, .preds => true
  | .b i _, .b j _ => i == j
  | d, x => d == x && d != .none && d != .s 0

/-- A reader of x stalls: an interlocked result of x is pending, or any result of x in compatibility mode (R84, R88). -/
def Ctx.busy (c : Ctx) (x : Dest) : Bool :=
  (c.pend.any fun p => p.dest.meets x && ((p.isInter && p.inter != 3) || c.compat)) || (c.gq.any fun a => a.dest.meets x) || c.awaits.any fun d => d.meets x

/-- A writer of x stalls: a division or function result of x is pending (R147, R339), or any result of x in compatibility mode (R88). -/
def Ctx.busyWrite (c : Ctx) (x : Dest) : Bool :=
  (c.pend.any fun p => p.dest.meets x && (2 ≤ p.inter || c.compat)) || (c.compat && ((c.gq.any fun a => a.dest.meets x) || c.awaits.any fun d => d.meets x))

/-- The value of an s register as a source. -/
def readReg (i : Nat) : Act Word := do
  let s ← get
  await (!s.ctx.busy (.s i))
  pure (s.ctx.regs.readS i)

/-- The value of a v register as a source. -/
def readVReg (i : Nat) : Act Wide := do
  let s ← get
  await (!s.ctx.busy (.v i))
  pure (s.ctx.regs.readV i)

/-- A predicate as a source: p0 is always true, p1 always false (R129). -/
def readPred (g : Nat) : Act Bool := do
  let s ← get
  await (g < 2 || !s.ctx.busy (.pair (g / 2)))
  pure (s.ctx.regs.readP g)

/-- A guard (R80), read before the slot's other operands: while it is false or not available, no operand raises a cause. -/
def readGuard (g : Nat) : Act Bool := do
  let p ← readPred g
  meet fun o => { o with quiet := o.missing || !p }
  pure p

/-- A mask register as a source. -/
def readMask (i : Nat) : Act Word := do
  let s ← get
  await (!s.ctx.busy (.m i))
  pure (s.ctx.regs.readM i)

/-- A window base as a source. -/
def readBase (i : Nat) : Act Nat := do
  let s ← get
  await (!s.ctx.busy (.e i))
  pure (s.ctx.regs.readE i)

/-- Ring q of the context. -/
def Ctx.ring (c : Ctx) (q : Nat) : Ring := c.rings.getD q .unbound

/-- A ring's mode and element kind permit a pop or a peek (R209). -/
def Ring.gives (r : Ring) (elemOk : Ring → Bool) : Bool := r.readable && elemOk r

/-- The cause an element or an address of a ring gives, if any. -/
def noteAny : Option (Cause × Word) → Act Unit
  | some (c, v) => note c v
  | none => pure ()

/-- The element k from the head that a ring gives, the ring's mode permitting it (R79, R211, R214): the wait for the element, or the cause it met, and its bits. A FIFO waits for a function result that will push onto it (R339). -/
def Ring.elem? (s : State) (q k : Nat) (r : Ring) : Bool × Option (Cause × Word) × Nat :=
  if r.mode = 1 then
    (k < r.count && !s.ctx.busy (.ring q),
     if k < r.count then (s.core.poisoned (spaceOf r.spaceNo) (r.fifoAddr k) r.size).map fun a => (.poison, word a) else none,
     r.deliver ((s.core.mem (spaceOf r.spaceNo)).readBits (r.fifoAddr k) r.size))
  else
    match r.addrCause q (r.addrAt k) with
    | some x => (true, some x, 0)
    | none =>
      match r.window[k]? with
      | none => (false, none, 0)
      | some w => (true, w.cause.map fun c => (c, word w.addr), r.deliver w.val)

/-- Element k from the head of a ring as an operand (R79, R209, R415): a ring that does not give it raises its cause at once; else the operand waits for it, and its own cause is raised when every operand is there. -/
def ringElem (q k field : Nat) (elemOk : Ring → Bool) : Act Nat := do
  let s ← get
  let r := s.ctx.ring q
  if r.gives elemOk then
    let e := Ring.elem? s q k r
    await e.1
    noteAny e.2.1
    pure e.2.2
  else do
    raiseEarly .illegalUse (word field)
    pure 0

/-- A source that delivers 64 bits, or 1,024, or a half-vector: a register, the next element of a ring (a pop), or the head as it stood before the bundle (a peek). -/
def readSrc (a : Src) (elemOk : Ring → Bool) (reg : Nat → Act Nat) : Act Nat :=
  match a with
  | .reg i => reg i.val
  | .pop q => do
    let s ← get
    let x ← ringElem q.val (s.bundle.pops q.val) (32 + q.val) elemOk
    if (s.ctx.ring q.val).gives elemOk then stage (.pop q.val)
    pure x
  | .peek q => ringElem q.val 0 (48 + q.val) elemOk

/-- A scalar operand (R78, R209). -/
def readS (a : Src) : Act Word := do
  let x ← readSrc a (fun r => r.elem == 0) fun i => do let v ← readReg i; pure v.toNat
  pure (word x)

/-- A vector operand (R78, R209). -/
def readV (a : Src) : Act Wide := do
  let x ← readSrc a (fun r => r.elem == 1 || r.elem == 2) fun i => do let v ← readVReg i; pure v.toNat
  pure (BitVec.ofNat 1024 x)

/-- The address the next push of ring q is given (R210, R214). -/
def Ring.pushAddr (r : Ring) (staged : Nat) : Nat :=
  if r.mode = 1 then r.fifoAddr (r.count + r.pending + staged) else (r.addrAt staged).toNat

/-- A push finds room (R79, R213, R214). -/
def Ring.hasRoom (r : Ring) (staged : Nat) : Bool :=
  r.pending + staged < r.depth && (r.mode != 1 || r.count + r.pending + staged < r.capacity)

/-- The stage-1 part of a push onto ring q (R209, R415): its mode, its element kind and its room; then the check of its address (R210). -/
def readyPush (q : Nat) (elemOk : Ring → Bool) : Act Unit := do
  let s ← get
  let r := s.ctx.ring q
  if !(r.mode == 1 || r.mode == 3) || !elemOk r then raiseEarly .illegalUse (word (32 + q))
  else
    await (r.hasRoom (s.bundle.pushes q))
    meet fun o => { o with owed := o.owed ++ [q] }
    let a := r.addrAt (s.bundle.pushes q)
    noteAny (if r.mode = 3 then (r.asWritten s.core a.toNat).addrCause q a else none)

/-- The stage-1 part of a register destination (R88, R147). -/
def readyDest (d : Dest) : Act Unit := do
  let s ← get
  await (!s.ctx.busyWrite d)

/-- The ring a destination pushes onto, if any. -/
def Dst.rings : Dst → List Nat
  | .reg _ => []
  | .push q => [q.val]

/-- The stage-1 part of a scalar destination. -/
def readyS (d : Dst) : Act Unit :=
  match d with
  | .reg i => readyDest (.s i.val)
  | .push q => readyPush q.val fun r => r.elem == 0

/-- The stage-1 part of a vector destination. -/
def readyV (d : Dst) : Act Unit :=
  match d with
  | .reg i => readyDest (.v i.val)
  | .push q => readyPush q.val fun r => r.elem == 1 || r.elem == 2

/-- A result staged for a register of the context: it lands lat clks after issue (R84). -/
def putDest (d : Dest) (lat val flags : Nat) : Act Unit := do
  let s ← get
  stage (.result { dest := d, val := val, addr := 0, left := lat, inter := 0, flags := flags, pc := s.bundle.pc, bno := s.accNo })

/-- An interlocked result (R84); kind 2 holds younger writes as well (R147). -/
def putInter (d : Dest) (lat val kind : Nat) : Act Unit := do
  let s ← get
  stage (.result { dest := d, val := val, addr := 0, left := lat, inter := kind, flags := 0, pc := s.bundle.pc, bno := s.accNo })

/-- A push staged for ring q, with the address given to it now (R210). -/
def putPush (q lat val flags : Nat) : Act Unit := do
  let s ← get
  stage (.push q { dest := .ring q, val := val, addr := (s.ctx.ring q).pushAddr (s.bundle.pushes q), left := lat,
                   inter := 0, flags := flags, pc := s.bundle.pc, bno := s.accNo })

/-- An interlocked push (R84, R196): a stop waits for it, and so does a pop of its ring. -/
def putPushInter (q lat val : Nat) : Act Unit := do
  let s ← get
  stage (.push q { dest := .ring q, val := val, addr := (s.ctx.ring q).pushAddr (s.bundle.pushes q), left := lat,
                   inter := 1, flags := 0, pc := s.bundle.pc, bno := s.accNo })

/-- A scalar result. -/
def putS (d : Dst) (lat : Nat) (v : Word) : Act Unit :=
  match d with
  | .reg i => putDest (.s i.val) lat v.toNat 0
  | .push q => putPush q.val lat v.toNat 0

/-- A vector result with the flags it raises. -/
def putV (d : Dst) (lat : Nat) (v : Wide) (flags : Nat) : Act Unit :=
  match d with
  | .reg i => putDest (.v i.val) lat v.toNat flags
  | .push q => putPush q.val lat v.toNat flags

/-- A predicate pair (R129): c and its complement land together. -/
def putPair (k lat : Nat) (c : Bool) : Act Unit := putDest (.pair k) lat (if c then 1 else 0) 0

/-- A slot with two scalar sources and a scalar result (R146). -/
def scalar2 (f : Word → Word → Word) (lat : Nat) (d : Dst) (a b : Src) (s : State) : Host.Outcome State Fault Refusal :=
  runSlot (do
    let x ← readS a
    let y ← readS b
    readyS d
    putS d lat (f x y)) s

/-- A slot with one scalar source and a scalar result. -/
def scalar1 (f : Word → Word) (lat : Nat) (d : Dst) (a : Src) (s : State) : Host.Outcome State Fault Refusal :=
  runSlot (do
    let x ← readS a
    readyS d
    putS d lat (f x)) s

end Sys2Proof.Machine
end

