-- ==== Sys2Proof/Machine/Flags.lean ====
section
/-! DEFINITION. Flags.lean: the five floating-point flags, how a landing result sets them, and the FPE trap they make pending (R54, Table 3.4). -/

namespace Sys2Proof.Machine

/-- Inexact. -/
def flagNX : Nat := 1
/-- Underflow. -/
def flagUF : Nat := 2
/-- Overflow. -/
def flagOF : Nat := 4
/-- Division by zero. -/
def flagDZ : Nat := 8
/-- Invalid operation. -/
def flagIV : Nat := 16

/-- The flags of several lanes or slots, ORed (R54). -/
def orFlags (l : List Nat) : Nat := l.foldl (fun a b => a ||| b) 0

/-- The flags of a result as its instruction stages them: bit 5 says that the instruction can raise a flag (R54). -/
def raising (fl : Nat) : Nat := fl % 32 + 32

/-- The instruction of a pending result can raise a flag. -/
def Pending.canRaise (p : Pending) : Bool := bitAt p.flags 5

/-- A deferred cause becomes pending (R107): its TPEND bit is set. -/
def TrapRegs.pendCause (t : TrapRegs) (c : Cause) : TrapRegs := { t with tpend := t.tpend ||| word (2 ^ c.code) }

/-- A deferred cause is pending. -/
def TrapRegs.isPending (t : TrapRegs) (c : Cause) : Bool := bitAt t.tpend.toNat c.code

/-- SetFlag for a result that lands (R54): the flags go to FFLAGS, and the enabled ones make FPE pending or join the pending one. -/
def Ctx.landFlags (c : Ctx) (fl pc : Nat) : Ctx :=
  let f := BitVec.ofNat 5 fl
  let en := (f &&& c.fp.fmask).toNat
  let c := { c with fp := { c.fp with fflags := c.fp.fflags ||| f } }
  if en = 0 then c
  else if c.tr.isPending .fpe then { c with tr := { c.tr with fpeVal := c.tr.fpeVal ||| word en } }
  else { c with tr := { (c.tr.pendCause .fpe) with fpeVal := word (en + pc % 2 ^ 21 * 2 ^ 32) } }

/-- The TVAL a pending deferred cause gives (Table 5.6). -/
def TrapRegs.deferVal (t : TrapRegs) (c : Cause) : Word :=
  match c with
  | .fpe => t.fpeVal
  | .checksum => t.chkVal
  | .nanscale => t.nanVal
  | _ => 0

/-- The lowest pending deferred cause (R108). -/
def TrapRegs.lowest (t : TrapRegs) : Option Cause :=
  if t.isPending .fpe then some .fpe
  else if t.isPending .checksum then some .checksum
  else if t.isPending .nanscale then some .nanscale else none

end Sys2Proof.Machine
end

