-- ==== Sys2Proof/Machine/Scalar.lean ====
section
/-! DEFINITION. Scalar.lean: the scalar instructions of ports X: arithmetic, moves, multiplies and divisions, immediates, bit fields, compares, predicate logic and sel (R129 to R132, R146 to R153). -/

namespace Sys2Proof.Machine

/-- The smaller of two words, read as signed. -/
def wordMin (x y : Word) : Word := if x.toInt ≤ y.toInt then x else y
/-- The larger of two words, read as signed. -/
def wordMax (x y : Word) : Word := if x.toInt ≤ y.toInt then y else x
/-- The smaller of two words, read as unsigned. -/
def wordMinu (x y : Word) : Word := if x.toNat ≤ y.toNat then x else y
/-- The larger of two words, read as unsigned. -/
def wordMaxu (x y : Word) : Word := if x.toNat ≤ y.toNat then y else x
/-- A shift or rotate amount: B<5:0> (R148). -/
def amount (y : Word) : Nat := y.toNat % 64
/-- A rotated left. -/
def wordRol (x : Word) (n : Nat) : Word := (x <<< n) ||| (x >>> (64 - n))

/-- add (R148). -/
def execAdd (d : Dst) (a b : Src) (s : State) : Host.Outcome State Fault Refusal := scalar2 (· + ·) 1 d a b s
/-- sub (R148). -/
def execSub (d : Dst) (a b : Src) (s : State) : Host.Outcome State Fault Refusal := scalar2 (· - ·) 1 d a b s
/-- and (R148). -/
def execAnd (d : Dst) (a b : Src) (s : State) : Host.Outcome State Fault Refusal := scalar2 (· &&& ·) 1 d a b s
/-- or (R148). -/
def execOr (d : Dst) (a b : Src) (s : State) : Host.Outcome State Fault Refusal := scalar2 (· ||| ·) 1 d a b s
/-- xor (R148). -/
def execXor (d : Dst) (a b : Src) (s : State) : Host.Outcome State Fault Refusal := scalar2 (· ^^^ ·) 1 d a b s
/-- andn (R148). -/
def execAndn (d : Dst) (a b : Src) (s : State) : Host.Outcome State Fault Refusal := scalar2 (fun x y => x &&& ~~~y) 1 d a b s
/-- min (R148). -/
def execMin (d : Dst) (a b : Src) (s : State) : Host.Outcome State Fault Refusal := scalar2 wordMin 1 d a b s
/-- max (R148). -/
def execMax (d : Dst) (a b : Src) (s : State) : Host.Outcome State Fault Refusal := scalar2 wordMax 1 d a b s
/-- minu (R148). -/
def execMinu (d : Dst) (a b : Src) (s : State) : Host.Outcome State Fault Refusal := scalar2 wordMinu 1 d a b s
/-- maxu (R148). -/
def execMaxu (d : Dst) (a b : Src) (s : State) : Host.Outcome State Fault Refusal := scalar2 wordMaxu 1 d a b s
/-- shl (R148). -/
def execShl (d : Dst) (a b : Src) (s : State) : Host.Outcome State Fault Refusal := scalar2 (fun x y => x <<< amount y) 1 d a b s
/-- shr (R148). -/
def execShr (d : Dst) (a b : Src) (s : State) : Host.Outcome State Fault Refusal := scalar2 (fun x y => x >>> amount y) 1 d a b s
/-- sra (R148). -/
def execSra (d : Dst) (a b : Src) (s : State) : Host.Outcome State Fault Refusal := scalar2 (fun x y => x.sshiftRight (amount y)) 1 d a b s
/-- rol (R148). -/
def execRol (d : Dst) (a b : Src) (s : State) : Host.Outcome State Fault Refusal := scalar2 (fun x y => wordRol x (amount y)) 1 d a b s
/-- ror (R148). -/
def execRor (d : Dst) (a b : Src) (s : State) : Host.Outcome State Fault Refusal :=
  scalar2 (fun x y => wordRol x ((64 - amount y) % 64)) 1 d a b s
/-- clz (R148). -/
def execClz (d : Dst) (a : Src) (s : State) : Host.Outcome State Fault Refusal := scalar1 (fun x => word (leadZeros 64 x.toNat)) 1 d a s
/-- ctz (R148). -/
def execCtz (d : Dst) (a : Src) (s : State) : Host.Outcome State Fault Refusal := scalar1 (fun x => word (trailZeros 64 x.toNat)) 1 d a s
/-- popc (R148). -/
def execPopc (d : Dst) (a : Src) (s : State) : Host.Outcome State Fault Refusal := scalar1 (fun x => word (popCount 64 x.toNat)) 1 d a s
/-- brev (R148). -/
def execBrev (d : Dst) (a : Src) (s : State) : Host.Outcome State Fault Refusal := scalar1 (fun x => word (revBits 64 x.toNat)) 1 d a s
/-- abs (R148): the most negative word stays as it is. -/
def execAbs (d : Dst) (a : Src) (s : State) : Host.Outcome State Fault Refusal := scalar1 (fun x => wordI x.toInt.natAbs) 1 d a s

/-- A move from a register of another class to a scalar destination (R148, R149): the register as it stands at issue. -/
def moveTo (d : Dst) (x : Dest) (f : Regs → Word) (s : State) : Host.Outcome State Fault Refusal :=
  runSlot (do
    let s ← get
    await (!s.ctx.busy x)
    readyS d
    putS d 1 (f s.ctx.regs)) s

/-- rdb (R148). -/
def execRdb (d : Dst) (n : Fin 4) (s : State) : Host.Outcome State Fault Refusal := moveTo d (.b n.val false) (fun r => r.readB n.val) s
/-- rdp (R148). -/
def execRdp (d : Dst) (s : State) : Host.Outcome State Fault Refusal :=
  runSlot (do
    let s ← get
    await ((List.range 8).all fun k => !s.ctx.busy (.pair k))
    readyS d
    putS d 1 (word s.ctx.regs.preds)) s
/-- rdm (R148). -/
def execRdm (d : Dst) (n : Fin 8) (s : State) : Host.Outcome State Fault Refusal := moveTo d (.m n.val) (fun r => r.readM n.val) s
/-- rde (R148). -/
def execRde (d : Dst) (n : Fin 8) (s : State) : Host.Outcome State Fault Refusal := moveTo d (.e n.val) (fun r => word (r.readE n.val)) s

/-- Index of level k of the loop stack; 0 when the level is not active (R136). -/
def LoopStack.index (l : LoopStack) (k : Nat) : Nat := match l.levels[k]? with | some x => x.index | none => 0

/-- rdi (R136, R148). -/
def execRdi (d : Dst) (n : Fin 8) (s : State) : Host.Outcome State Fault Refusal :=
  runSlot (do
    let s ← get
    readyS d
    putS d 1 (word (s.ctx.loops.index n.val))) s

/-- wrb (R148). -/
def execWrb (n : Fin 4) (a : Src) (s : State) : Host.Outcome State Fault Refusal :=
  runSlot (do
    let x ← readS a
    readyDest (.b n.val false)
    putDest (.b n.val false) 1 x.toNat 0) s
/-- wrp (R148, R149): for each k from 2 with B<k> set, pk := A<k>. -/
def execWrp (a b : Src) (s : State) : Host.Outcome State Fault Refusal :=
  runSlot (do
    let x ← readS a
    let y ← readS b
    let s ← get
    await ((List.range 8).all fun k => !s.ctx.busyWrite (.pair k))
    putDest .preds 1 (x.toNat % 2 ^ 16 + y.toNat % 2 ^ 16 * 2 ^ 16) 0) s
/-- wrm (R148). -/
def execWrm (n : Fin 8) (a : Src) (s : State) : Host.Outcome State Fault Refusal :=
  runSlot (do
    let x ← readS a
    readyDest (.m n.val)
    putDest (.m n.val) 1 x.toNat 0) s
/-- wre (R148, R149): the base must be a multiple of 64 below 4,096. -/
def execWre (n : Fin 8) (a : Src) (s : State) : Host.Outcome State Fault Refusal :=
  runSlot (do
    let x ← readS a
    readyDest (.e n.val)
    check (x.toNat % 64 == 0 && x.toNat < 4096) .illegalUse x
    putDest (.e n.val) 1 x.toNat 0) s

/-- mul (R150). -/
def execMul (d : Dst) (a b : Src) (s : State) : Host.Outcome State Fault Refusal := scalar2 (· * ·) 3 d a b s
/-- mulh (R150). -/
def execMulh (d : Dst) (a b : Src) (s : State) : Host.Outcome State Fault Refusal :=
  scalar2 (fun x y => wordI (x.toInt * y.toInt / 2 ^ 64)) 3 d a b s
/-- mulhu (R150). -/
def execMulhu (d : Dst) (a b : Src) (s : State) : Host.Outcome State Fault Refusal :=
  scalar2 (fun x y => word (x.toNat * y.toNat / 2 ^ 64)) 3 d a b s

/-- A division (R147, R150): interlocked, at most 40 clk; the part draws how many (log 7). -/
def divide (f : Word → Word → Word) (d : Fin 32) (a b : Src) (s : State) : Host.Outcome State Fault Refusal :=
  runSlot (do
    let x ← readS a
    let y ← readS b
    readyDest (.s d.val)
    let n ← modifyGet State.draw
    putInter (.s d.val) (min (n + 1) 40) (f x y).toNat 2) s

/-- div (R150): quotient towards zero; all ones for a zero divisor; A for the one overflow. -/
def execDiv (d : Fin 32) (a b : Src) (s : State) : Host.Outcome State Fault Refusal :=
  divide (fun x y => if y = 0 then -1 else wordI (x.toInt.tdiv y.toInt)) d a b s
/-- divu (R150). -/
def execDivu (d : Fin 32) (a b : Src) (s : State) : Host.Outcome State Fault Refusal :=
  divide (fun x y => if y = 0 then -1 else word (x.toNat / y.toNat)) d a b s
/-- rem (R150): the sign of the dividend; A for a zero divisor. -/
def execRem (d : Fin 32) (a b : Src) (s : State) : Host.Outcome State Fault Refusal :=
  divide (fun x y => if y = 0 then x else wordI (x.toInt.tmod y.toInt)) d a b s
/-- remu (R150). -/
def execRemu (d : Fin 32) (a b : Src) (s : State) : Host.Outcome State Fault Refusal :=
  divide (fun x y => if y = 0 then x else word (x.toNat % y.toNat)) d a b s

/-- addi (R151). -/
def execAddi (d : Dst) (a : Src) (imm : BitVec 10) (s : State) : Host.Outcome State Fault Refusal := scalar1 (· + wordI imm.toInt) 1 d a s
/-- andi (R151). -/
def execAndi (d : Dst) (a : Src) (imm : BitVec 10) (s : State) : Host.Outcome State Fault Refusal := scalar1 (· &&& wordI imm.toInt) 1 d a s
/-- ori (R151). -/
def execOri (d : Dst) (a : Src) (imm : BitVec 10) (s : State) : Host.Outcome State Fault Refusal := scalar1 (· ||| wordI imm.toInt) 1 d a s
/-- xori (R151). -/
def execXori (d : Dst) (a : Src) (imm : BitVec 10) (s : State) : Host.Outcome State Fault Refusal := scalar1 (· ^^^ wordI imm.toInt) 1 d a s
/-- shli (R151). -/
def execShli (d : Dst) (a : Src) (n : Fin 64) (s : State) : Host.Outcome State Fault Refusal := scalar1 (· <<< n.val) 1 d a s
/-- shri (R151). -/
def execShri (d : Dst) (a : Src) (n : Fin 64) (s : State) : Host.Outcome State Fault Refusal := scalar1 (· >>> n.val) 1 d a s
/-- srai (R151). -/
def execSrai (d : Dst) (a : Src) (n : Fin 64) (s : State) : Host.Outcome State Fault Refusal := scalar1 (fun x => x.sshiftRight n.val) 1 d a s

/-- li (R152). -/
def execLi (d : Dst) (imm : BitVec 16) (s : State) : Host.Outcome State Fault Refusal :=
  runSlot (do
    readyS d
    putS d 1 (wordI imm.toInt)) s

/-- lih.k (R152): bits 16k + 15 to 16k of sd are replaced. -/
def loadHigh (k : Nat) (d : Fin 32) (imm : BitVec 16) (s : State) : Host.Outcome State Fault Refusal :=
  runSlot (do
    let x ← readReg d.val
    readyDest (.s d.val)
    putDest (.s d.val) 1 (setBits x.toNat (16 * k) 16 imm.toNat) 0) s
/-- lih.1 (R152). -/
def execLih1 (d : Fin 32) (imm : BitVec 16) (s : State) : Host.Outcome State Fault Refusal := loadHigh 1 d imm s
/-- lih.2 (R152). -/
def execLih2 (d : Fin 32) (imm : BitVec 16) (s : State) : Host.Outcome State Fault Refusal := loadHigh 2 d imm s
/-- lih.3 (R152). -/
def execLih3 (d : Fin 32) (imm : BitVec 16) (s : State) : Host.Outcome State Fault Refusal := loadHigh 3 d imm s

/-- bfx (R153): a field extracted, zero- or sign-extended. -/
def execBfx (signed : Bool) (d : Dst) (a : Src) (pos wid : Fin 64) (s : State) : Host.Outcome State Fault Refusal :=
  scalar1 (fun x =>
    let f := bits x.toNat pos.val (wid.val + 1)
    if signed then wordI (sext f (wid.val + 1)) else word f) 1 d a s
/-- bfi (R153): a field of the prior sd replaced. -/
def execBfi (d : Fin 32) (a : Src) (pos wid : Fin 64) (s : State) : Host.Outcome State Fault Refusal :=
  runSlot (do
    let old ← readReg d.val
    let x ← readS a
    readyDest (.s d.val)
    putDest (.s d.val) 1 (setBits old.toNat pos.val (wid.val + 1) x.toNat) 0) s
/-- bfm (R153): a mask of N ones at pos. -/
def execBfm (d : Dst) (pos wid : Fin 64) (s : State) : Host.Outcome State Fault Refusal :=
  runSlot (do
    readyS d
    putS d 1 (word ((2 ^ (wid.val + 1) - 1) * 2 ^ pos.val))) s

/-- Cond of Table 6.2. -/
def condHolds (c : Cond) (a b : Word) : Bool :=
  match c with
  | .eq => a == b
  | .ne => a != b
  | .lt => a.toInt < b.toInt
  | .ge => a.toInt ≥ b.toInt
  | .ltu => a.toNat < b.toNat
  | .geu => a.toNat ≥ b.toNat
  | .tst => a &&& b != 0
  | .ntst => a &&& b == 0

/-- cmp (R130). -/
def execCmp (c : Cond) (k : Fin 8) (a b : Src) (s : State) : Host.Outcome State Fault Refusal :=
  runSlot (do
    let x ← readS a
    let y ← readS b
    readyDest (.pair k.val)
    putPair k.val 1 (condHolds c x y)) s
/-- cmpi (R130). -/
def execCmpi (c : Cond) (k : Fin 8) (a : Src) (imm : BitVec 12) (s : State) : Host.Outcome State Fault Refusal :=
  runSlot (do
    let x ← readS a
    readyDest (.pair k.val)
    putPair k.val 1 (condHolds c x (wordI imm.toInt))) s

/-- A slot of predicate logic (R131): both predicates are read before the pair is written. -/
def predLogic (f : Bool → Bool → Bool) (k : Fin 8) (pa pb : Fin 16) (s : State) : Host.Outcome State Fault Refusal :=
  runSlot (do
    let x ← readPred pa.val
    let y ← readPred pb.val
    readyDest (.pair k.val)
    putPair k.val 1 (f x y)) s
/-- pand (R131). -/
def execPand (k : Fin 8) (pa pb : Fin 16) (s : State) : Host.Outcome State Fault Refusal := predLogic (· && ·) k pa pb s
/-- por (R131). -/
def execPor (k : Fin 8) (pa pb : Fin 16) (s : State) : Host.Outcome State Fault Refusal := predLogic (· || ·) k pa pb s
/-- pxor (R131). -/
def execPxor (k : Fin 8) (pa pb : Fin 16) (s : State) : Host.Outcome State Fault Refusal := predLogic (fun x y => x != y) k pa pb s
/-- pandn (R131). -/
def execPandn (k : Fin 8) (pa pb : Fin 16) (s : State) : Host.Outcome State Fault Refusal := predLogic (fun x y => x && !y) k pa pb s

/-- sel (R132): the predicate chooses the source; both sources are read. -/
def execSel (d : Dst) (a b : Src) (g : Fin 16) (s : State) : Host.Outcome State Fault Refusal :=
  runSlot (do
    let c ← readPred g.val
    let x ← readS a
    let y ← readS b
    readyS d
    putS d 1 (if c then x else y)) s

end Sys2Proof.Machine
end

