-- ==== Sys2Proof/Machine/Pointer.lean ====
section
/-! DEFINITION. Pointer.lean: the bit-pointer instructions (R154 to R164): plain pointers and cursors of MX records. -/

namespace Sys2Proof.Machine

/-- The record length L of an MX format of fixed length (Table 7.5); 0 for a plain pointer. -/
def Fmt.recLen : Fmt → Nat
  | .mxi8 => 266 | .mxi6 => 202 | .mxi4 | .mxf4 => 138 | .mxi3 => 106 | _ => 0

/-- The two kinds of pointer (R154): plain with its width, or a cursor with its width and record length. -/
structure Stride where
  w : Nat
  l : Nat
deriving DecidableEq, Repr

/-- The stride of a format. -/
def Fmt.stride (t : Fmt) : Stride := { w := Fmt.width t, l := Fmt.recLen t }

/-- Cur(c): the element index of a cursor (R157). -/
def curJ (c : Word) : Nat := bits c.toNat 59 5
/-- Cur(c): the record address of a cursor (R157). -/
def curR (c : Word) : Int := sext c.toNat 59

/-- A plain pointer that fits (R157). -/
def mkPlain (x : Int) : Option Word := if -2 ^ 63 ≤ x ∧ x < 2 ^ 63 then some (wordI x) else none

/-- MkCur(j, R) of R157; none when R does not fit. -/
def mkCur (j : Nat) (r : Int) : Option Word :=
  if -2 ^ 58 ≤ r ∧ r < 2 ^ 58 then some (word (j * 2 ^ 59 + uns r 59)) else none

/-- Step(T, c, n) of R157; none when the result does not fit. -/
def ptrStep (t : Stride) (c : Word) (n : Int) : Option Word :=
  if t.l = 0 then mkPlain (c.toInt + n * t.w)
  else
    let m := (curJ c : Int) + n
    mkCur (m % 32).toNat (curR c + m / 32 * t.l)

/-- Addr(T, c) of R157. -/
def ptrAddr (t : Stride) (c : Word) : Int :=
  if t.l = 0 then c.toInt else curR c + 10 + curJ c * t.w

/-- A slot with two scalar sources whose result may not fit: it then raises ILLEGAL-USE with the TVAL its rule gives (R157). -/
def pointer2 (f : Word → Word → Except Word Word) (d : Dst) (a b : Src) (s : State) : Host.Outcome State Fault Refusal :=
  runSlot (do
    let x ← readS a
    let y ← readS b
    readyS d
    match f x y with
    | .ok v => putS d 1 v
    | .error v => raise .illegalUse v) s

/-- A result that fits, or the TVAL of its trap. -/
def orTval (r : Option Word) (v : Word) : Except Word Word := match r with | some x => .ok x | none => .error v

/-- padd of R158. -/
def ptrAdd (t : Stride) (x y : Word) : Except Word Word := orTval (ptrStep t x y.toInt) y

/-- pdif of R158: the elements from B to A. -/
def ptrDif (t : Stride) (x y : Word) : Except Word Word :=
  if t.l = 0 then
    let n := x.toInt - y.toInt
    if n % t.w = 0 then orTval (mkPlain (n / t.w)) (wordI n) else .error (wordI n)
  else
    let n := curR x - curR y
    if n % t.l = 0 then orTval (mkPlain (n / t.l * 32 + curJ x - curJ y)) (wordI n) else .error (wordI n)

/-- pidx of R159: the bit address of the element B places after A. -/
def ptrIdx (t : Stride) (x y : Word) : Except Word Word :=
  match ptrStep t x y.toInt with
  | none => .error y
  | some c => orTval (mkPlain (ptrAddr t c)) y

/-- pidx of R159 for MXI4Z: the place of the code of element i of a record whose bitmap is B<31:0>. -/
def bitmapIdx (x y : Word) : Except Word Word :=
  if bits y.toNat 37 27 ≠ 0 then .error y
  else orTval (mkPlain (x.toInt + (42 + 4 * popCount (bits y.toNat 32 5) y.toNat : Nat))) y

/-- prec of R160: element 0 of the record B records after A's. -/
def ptrRec (t : Stride) (x y : Word) : Except Word Word := orTval (mkCur 0 (curR x + y.toInt * t.l)) y

/-- prec of R160 for MXI4Z: the record after the one at A with bitmap B. -/
def bitmapRec (x y : Word) : Except Word Word :=
  if bits y.toNat 32 32 ≠ 0 then .error y
  else orTval (mkPlain (x.toInt + (42 + 4 * popCount 32 y.toNat : Nat))) y

/-- pal of R162: the first element at or after A in the row based at B. -/
def ptrAlign (t : Stride) (x y : Word) : Except Word Word :=
  let o := x.toInt - y.toInt
  if o < 0 then .error x
  else if t.l = 0 then orTval (mkPlain (y.toInt + (o + t.w - 1) / t.w * t.w)) x
  else
    let k := o / t.l
    let q := o % t.l
    let j := if q ≤ 10 then 0 else (q - 10 + t.w - 1) / t.w
    if j = 32 then orTval (mkCur 0 (y.toInt + (k + 1) * t.l)) x
    else orTval (mkCur j.toNat (y.toInt + k * t.l)) x

/-- The alignment class of a span at an address read as an unbounded integer (R32). -/
def classCode (x : Int) (w : Int) : Nat :=
  if x / 64 = (x + w - 1) / 64 then 0 else if x / 512 = (x + w - 1) / 512 then 1 else 2

/-- pcls of R163: the class of an access to B elements from A. DESIGN CHOICE (log 73): a last element that does not fit the pointer's kind raises ILLEGAL-USE with TVAL B, as a result of R157 does. -/
def ptrClass (t : Stride) (x y : Word) : Except Word Word :=
  if y.toInt < 1 then .error y
  else
    match ptrStep t x (y.toInt - 1) with
    | none => .error y
    | some c => .ok (word (classCode (ptrAddr t x) (ptrAddr t c + t.w - ptrAddr t x)))

/-- padd (R158). -/
def execPadd (t : Fmt) (d : Dst) (a b : Src) (s : State) : Host.Outcome State Fault Refusal := pointer2 (ptrAdd (Fmt.stride t)) d a b s
/-- pdif (R158). -/
def execPdif (t : Fmt) (d : Dst) (a b : Src) (s : State) : Host.Outcome State Fault Refusal := pointer2 (ptrDif (Fmt.stride t)) d a b s
/-- padd.bN (R155). -/
def execPaddB (wid : Fin 64) (d : Dst) (a b : Src) (s : State) : Host.Outcome State Fault Refusal := pointer2 (ptrAdd ⟨wid.val + 1, 0⟩) d a b s
/-- pdif.bN (R155). -/
def execPdifB (wid : Fin 64) (d : Dst) (a b : Src) (s : State) : Host.Outcome State Fault Refusal := pointer2 (ptrDif ⟨wid.val + 1, 0⟩) d a b s
/-- pidx (R159). -/
def execPidx (t : Fmt) (d : Dst) (a b : Src) (s : State) : Host.Outcome State Fault Refusal :=
  pointer2 (if t = .mxi4z then bitmapIdx else ptrIdx (Fmt.stride t)) d a b s
/-- prec (R160). -/
def execPrec (t : Fmt) (d : Dst) (a b : Src) (s : State) : Host.Outcome State Fault Refusal :=
  pointer2 (if t = .mxi4z then bitmapRec else ptrRec (Fmt.stride t)) d a b s
/-- pscl (R161): the address of the scale of A's record. -/
def execPscl (_t : Fmt) (d : Dst) (a : Src) (s : State) : Host.Outcome State Fault Refusal := scalar1 (fun x => wordI (curR x)) 1 d a s
/-- pal (R162). -/
def execPal (t : Fmt) (d : Dst) (a b : Src) (s : State) : Host.Outcome State Fault Refusal := pointer2 (ptrAlign (Fmt.stride t)) d a b s
/-- pcls (R163). -/
def execPcls (t : Fmt) (d : Dst) (a b : Src) (s : State) : Host.Outcome State Fault Refusal := pointer2 (ptrClass (Fmt.stride t)) d a b s

end Sys2Proof.Machine
end

