-- ==== Sys2Proof/Machine/Local.lean ====
section
/-! DEFINITION. Local.lean: the loads, stores and atomics of the typed spaces, and fmt (R165 to R180). -/

namespace Sys2Proof.Machine

/-! ## Bank formats (R170 to R172) -/

/-- A value fmt may write (R171); the reserved bits are ignored (R9). -/
def bfmtOk (w : Word) : Bool :=
  let mx := 0x08 ≤ bfmtFmt w && bfmtFmt w ≤ 0x0D
  (!bfmtTyped w || (Fmt.ofCode (bfmtFmt w)).isSome) &&
  bfmtPol w != 3 &&
  !(bfmtTyped w && mx && (bfmtRow w == 0 || bfmtRow w % 32 != 0)) &&
  !(bfmtSkew w && (!bfmtTyped w || mx ||
      bfmtRow w * ((Fmt.ofCode (bfmtFmt w)).map Fmt.width).getD 0 > 1024)) &&
  !(bfmtTyped w && (bfmtEw w != 0 || bfmtSgn w)) &&
  !(!bfmtTyped w && bfmtFmt w != 0)

/-- fmt (R171). -/
def execFmt (bank : Fin 16) (a : Src) (s : State) : Host.Outcome State Fault Refusal :=
  runSlot (do
    let x ← readS a
    check (bfmtOk x) .format x
    stage (.fmt bank.val (word (x.toNat % 2 ^ 33)))) s

/-! ## Banks (R166, R167) -/

/-- The sub-bank and bank row of the unit at bit address a (R166): the bank, the sub-bank and the row. -/
def Core.cell (c : Core) (sp : Space) (a : Nat) : Nat × Nat × Nat :=
  match sp with
  | .act =>
    let f := c.bankFmt a
    let r := a % 2 ^ 20 / 1024
    let u := a % 1024 / 16
    (a / 2 ^ 20, (u + bfmtTurn f * r) % 64, r)
  | _ => (16, a % 1024 / 16, a / 1024)

/-- The cells a set of accesses needs, without repeats (R167). -/
def Core.cells (c : Core) (l : List (Space × Nat × Nat)) : List (Nat × Nat × Nat) :=
  (l.flatMap fun (sp, a, w) =>
    if w = 0 then [] else (List.range ((a + w - 1) / 16 + 1 - a / 16)).map fun k => c.cell sp ((a / 16 + k) * 16)).dedup

/-- The largest number of bank rows one sub-bank serves (R167); 0 when there is no access. -/
def Core.conflict (c : Core) (l : List (Space × Nat × Nat)) : Nat :=
  let cs := c.cells l
  cs.foldl (fun m x => max m (cs.filter fun y => y.1 == x.1 && y.2.1 == x.2.1).length) 0

/-- No bundle of this clk, and no engine or ring that has had its turn in it, uses a sub-bank that w bits at a need (R166, R167). -/
def Core.cellsFree (c : Core) (sp : Space) (a w : Nat) : Bool :=
  (c.cells [(sp, a, w)]).all fun x => c.cellsNow.all fun y => !(x.1 == y.1 && x.2.1 == y.2.1)

/-- The cells of w bits at a used in this clk (R166). -/
def Core.useCells (c : Core) (sp : Space) (a w : Nat) : Core := { c with cellsNow := c.cellsNow ++ c.cells [(sp, a, w)] }

/-! ## Loads -/

/-- Two bit ranges share a word (R40). -/
def sharesWord (a w b v : Nat) : Bool := w != 0 && v != 0 && a / 64 ≤ (b + v - 1) / 64 && b / 64 ≤ (a + w - 1) / 64

/-- A merge or atomic of an older clk is pending on a word of the range (R40, R168). -/
def Core.mergePending (c : Core) (sp : Space) (a w : Nat) : Bool :=
  c.locals.any fun x => x.slow && x.left ≤ 1 && x.space == sp && (x.writes.flatMap (c.placed x.turns)).any fun y => sharesWord a w y.addr y.width

/-- A ring push of the context merges on a word of the range (R40, R213). -/
def Ctx.mergePending (c : Ctx) (sp : Space) (a w : Nat) : Bool :=
  c.rings.any fun r => spaceOf r.spaceNo == sp && r.buf.any fun y => y.slow && y.left ≤ 1 && sharesWord a w y.addr r.size

/-- A merge, an atomic or a merging push of either context is pending on a word of the range (R40, R168). -/
def State.mergePending (s : State) (sp : Space) (a w : Nat) : Bool :=
  s.core.mergePending sp a w || s.ctx.mergePending sp a w || s.partner.mergePending sp a w

/-- The wait conditions of a local load (R168, R173), the poison it may meet once it reads (R43), and the cells it needs. -/
def loadWaits (sp : Space) (fe : Nat) (rs : List (Nat × Nat)) : Act Unit := do
  let s ← get
  let ready := rs.all fun r => !s.mergePending sp r.1 r.2 && (fe == 0 || s.core.allFull r.1 r.2)
  match (if ready then rs.findSome? fun r => s.core.poisoned sp r.1 r.2 else none) with
  | some a => raise .poison (word a)
  | none => hold ready
  if fe ≠ 0 ∧ !(rs.all fun r => s.core.allFull r.1 r.2) then modify fun s => s.onBundle fun b => { b with waitFull := true }
  stage (.cells sp rs)
  if fe = 2 then (rs.forM fun r => stage (.clearFull r.1 r.2))

/-- A scalar local load (R175): the bits at issue, landing after 6 clk. -/
def loadLocal (sp : Space) (signed : Bool) (wid : Fin 64) (d : Dst) (a : Src) (fe : Nat) (s : State) :
    Host.Outcome State Fault Refusal :=
  runSlot (do
    let x ← readS a
    readyS d
    check (x.toNat + (wid.val + 1) ≤ sp.size) .illegalUse x
    loadWaits sp fe [(x.toNat, wid.val + 1)]
    let s ← get
    let v := (s.core.mem sp).readBits x.toNat (wid.val + 1)
    putS d 6 (if signed then wordI (sext v (wid.val + 1)) else word v)) s

/-- ld.act (R175). -/
def execLdAct (signed : Bool) (wid : Fin 64) (d : Dst) (a : Src) (fe : Fin 4) (s : State) : Host.Outcome State Fault Refusal :=
  loadLocal .act signed wid d a fe.val s
/-- ld.stg (R175). -/
def execLdStg (signed : Bool) (wid : Fin 64) (d : Dst) (a : Src) (s : State) : Host.Outcome State Fault Refusal :=
  loadLocal .stg signed wid d a 0 s

/-- The lanes of a vector access: 64 of 16 bits or 32 of 32 bits (R177). -/
def laneCount (w32 : Bool) : Nat := if w32 then 32 else 64
/-- The width of a lane. -/
def laneBits (w32 : Bool) : Nat := if w32 then 32 else 16

/-- The address of lane i of a vector access, exact (Table 8.3). -/
def laneAddr (x : Word) (stride : Int) (i : Nat) : Int := x.toNat + stride * i

/-- The first of some lanes whose element lies outside its space (R177, R178). -/
def firstBadLane (sp : Space) (x : Word) (stride : Int) (m : Nat) (lanes : List Nat) : Option Nat :=
  lanes.find? fun i => laneAddr x stride i < 0 || laneAddr x stride i + m > sp.size

/-- A vector load of a typed space (R177): every element address is checked, lane i reads m bits at X + i × stride. -/
def vloadLocal (sp : Space) (fe : Nat) (w32 : Bool) (contig : Bool) (stride : Nat → Int) (d : Dst) (x : Word) : Act Unit := do
  let s ← get
  let wd := if sp = .act ∧ !w32 ∧ x.toNat < sp.size then s.core.widening x.toNat else 0
  let m := if wd = 0 then laneBits w32 else 8
  let n := laneCount w32
  match firstBadLane sp x (stride m) m (List.range n) with
  | some i => raise .illegalUse (wordI (laneAddr x (stride m) i))
  | none =>
    let at_ := fun i => (laneAddr x (stride m) i).toNat
    loadWaits sp fe (if contig then [(x.toNat, n * m)] else (List.range n).map fun i => (at_ i, m))
    let mem := s.core.mem sp
    let lanes := (List.range n).map fun i =>
      let e := mem.readBits (at_ i) m
      if wd = 2 then uns (sext e 8) 16 else e
    putV d 6 (BitVec.ofNat 1024 (unchunks (laneBits w32) lanes)) 0

/-- vld.act (R177 kind 0). -/
def execVldAct (fe : Fin 4) (e32 : Bool) (d : Dst) (a : Src) (s : State) : Host.Outcome State Fault Refusal :=
  runSlot (do
    let x ← readS a
    readyV d
    vloadLocal .act fe.val e32 true (fun m => m) d x) s
/-- vld.act.str (R177 kind 1). -/
def execVldActStr (e32 : Bool) (d : Dst) (a b : Src) (s : State) : Host.Outcome State Fault Refusal :=
  runSlot (do
    let x ← readS a
    let y ← readS b
    readyV d
    vloadLocal .act 0 e32 false (fun _ => y.toInt) d x) s
/-- vld.act.col (R177 kind 2). -/
def execVldActCol (e32 : Bool) (d : Dst) (a : Src) (s : State) : Host.Outcome State Fault Refusal :=
  runSlot (do
    let x ← readS a
    readyV d
    vloadLocal .act 0 e32 false (fun _ => 1024) d x) s
/-- vld.stg (R177 kind 3). -/
def execVldStg (e32 : Bool) (d : Dst) (a : Src) (s : State) : Host.Outcome State Fault Refusal :=
  runSlot (do
    let x ← readS a
    readyV d
    vloadLocal .stg 0 e32 true (fun m => m) d x) s

/-! ## Stores -/

/-- Some word that the writes touch is not covered whole (R39): such a store is merged. -/
def partialWords (l : List BitWrite) : Bool :=
  let whole := coveredWords l
  l.any fun x => x.width != 0 &&
    (List.range ((x.addr + x.width - 1) / 64 + 1 - x.addr / 64)).any fun k => !whole.contains (x.addr / 64 + k)

/-- A local store staged: it performs in clk issue + 1, or + 2 when it merges (R40, R168). -/
def stageStore (sp : Space) (writes : List BitWrite) (slow setFull : Bool) : Act Unit := do
  let s ← get
  if writes ≠ [] then
    stage (.cells sp (writes.map fun x => (x.addr, x.width)))
    stage (.store { slot := s.slot, left := if slow then 2 else 1, slow := slow, space := sp, writes := writes,
                    setFull := setFull, atomic := none, dest := .none, order := 0, bno := s.accNo, pc := s.bundle.pc })

/-- A scalar local store (R175): nothing but its pops under a false guard, which raises no cause of theirs (R80). -/
def storeLocal (sp : Space) (setfull : Bool) (wid : Fin 64) (v a : Src) (g : Fin 16) (s : State) :
    Host.Outcome State Fault Refusal :=
  runSlot (do
    let p ← readGuard g.val
    let val ← readS v
    let x ← readS a
    if p then
      check (x.toNat + (wid.val + 1) ≤ sp.size) .illegalUse x
      let w : BitWrite := { addr := x.toNat, width := wid.val + 1, val := val.toNat }
      stageStore sp [w] (partialWords [w]) setfull) s

/-- st.act (R175). -/
def execStAct (setfull : Bool) (wid : Fin 64) (v a : Src) (g : Fin 16) (s : State) : Host.Outcome State Fault Refusal :=
  storeLocal .act setfull wid v a g s
/-- st.stg (R175). -/
def execStStg (wid : Fin 64) (v a : Src) (g : Fin 16) (s : State) : Host.Outcome State Fault Refusal :=
  storeLocal .stg false wid v a g s

/-- The lanes a mask enables (R178). -/
def enabledLanes (w32 : Bool) (m : Word) : List Nat := (List.range (laneCount w32)).filter fun i => m.getLsbD i

/-- A vector store to a typed space (R178): only enabled lanes are checked and written, the lowest lane first. DESIGN CHOICE (log 74): the bank of X decides the widening of R172 also when lane 0 is disabled, and an X outside the scratch widens nothing. -/
def vstoreLocal (sp : Space) (w32 contig setFull : Bool) (stride : Nat → Int) (m : Fin 8) (v : Fin 32) (g : Fin 16) (x : Word) :
    Act Unit := do
  let mask ← readMask m.val
  let val ← readVReg v.val
  let p ← readGuard g.val
  let s ← get
  let wd := if sp = .act ∧ !w32 ∧ x.toNat < sp.size then s.core.widening x.toNat else 0
  let w := if wd = 0 then laneBits w32 else 8
  let lanes := enabledLanes w32 mask
  if p then
    match firstBadLane sp x (stride w) w lanes with
    | some i => raise .illegalUse (wordI (laneAddr x (stride w) i))
    | none =>
      let writes := lanes.map fun i =>
        ({ addr := (laneAddr x (stride w) i).toNat, width := w, val := bits val.toNat (laneBits w32 * i) w } : BitWrite)
      stageStore sp writes (if contig then partialWords writes else writes != []) setFull

/-- vst.act (R178 kind 0). -/
def execVstAct (m : Fin 8) (v a : Fin 32) (e32 : Bool) (g : Fin 16) (s : State) : Host.Outcome State Fault Refusal :=
  runSlot (do
    let x ← readReg a.val
    vstoreLocal .act e32 true false (fun w => w) m v g x) s
/-- vst.act.str.e16 (R178 kind 1). -/
def execVstActStr16 (m : Fin 8) (v a b : Fin 32) (g : Fin 16) (s : State) : Host.Outcome State Fault Refusal :=
  runSlot (do
    let x ← readReg a.val
    let y ← readReg b.val
    vstoreLocal .act false false false (fun _ => y.toInt) m v g x) s
/-- vst.act.col (R178 kind 2). -/
def execVstActCol (m : Fin 8) (v a : Fin 32) (e32 : Bool) (g : Fin 16) (s : State) : Host.Outcome State Fault Refusal :=
  runSlot (do
    let x ← readReg a.val
    vstoreLocal .act e32 false false (fun _ => 1024) m v g x) s
/-- vst.stg (R178 kind 3). -/
def execVstStg (m : Fin 8) (v a : Fin 32) (e32 : Bool) (g : Fin 16) (s : State) : Host.Outcome State Fault Refusal :=
  runSlot (do
    let x ← readReg a.val
    vstoreLocal .stg e32 true false (fun w => w) m v g x) s
/-- vst.act.fill (R178 kind 5). -/
def execVstActFill (m : Fin 8) (v a : Fin 32) (e32 : Bool) (g : Fin 16) (s : State) : Host.Outcome State Fault Refusal :=
  runSlot (do
    let x ← readReg a.val
    vstoreLocal .act e32 true true (fun w => w) m v g x) s
/-- vst.act.str.e32 (R178 kind 6). -/
def execVstActStr32 (m : Fin 8) (v a b : Fin 32) (g : Fin 16) (s : State) : Host.Outcome State Fault Refusal :=
  runSlot (do
    let x ← readReg a.val
    let y ← readReg b.val
    vstoreLocal .act true false false (fun _ => y.toInt) m v g x) s

/-! ## Local atomics (R179) -/

/-- The width of a width code (R82). -/
def atomWidth (w : Nat) : Nat := if w < 8 then w + 1 else if w = 8 then 16 else if w = 9 then 32 else 64

/-- The new value of an atomic on w bits; none when a compare fails (R179). -/
def atomNew (op w old x n : Nat) : Option Nat :=
  match op with
  | 0 => some ((old + x) % 2 ^ w)
  | 1 => some (old &&& x)
  | 2 => some (old ||| x)
  | 3 => some (old ^^^ x)
  | 4 => some (min old x)
  | 5 => some (max old x)
  | 6 => some x
  | _ => if old = x then some n else none

/-- A local atomic (R179): class W within the scratch, performed at its bank as one step. -/
def atomicLocal (op : Nat) (w ord : Fin 16) (d a : Fin 32) (g : Fin 16) (s : State) : Host.Outcome State Fault Refusal :=
  runSlot (do
    let width := atomWidth w.val
    let x ← readReg d.val
    let addr ← readReg a.val
    let n ← if op = 7 then readReg (d.val + 1) else pure 0
    let p ← readGuard g.val
    readyDest (.s d.val)
    if p then
      check (addr.toNat + width ≤ Space.act.size) .illegalUse addr
      check (alignClass addr.toNat width == .w) .illegalUse addr
      let s ← get
      stage (.cells .act [(addr.toNat, width)])
      stage (.store { slot := s.slot, left := 2, slow := true, space := .act,
                      writes := [{ addr := addr.toNat, width := width, val := 0 }], setFull := false,
                      atomic := some (op, x.toNat % 2 ^ width, n.toNat % 2 ^ width), dest := .s d.val,
                      order := ord.val, bno := s.accNo, pc := s.bundle.pc })) s

/-- aadd.act (R179). -/
def execAaddAct (w ord : Fin 16) (d a : Fin 32) (g : Fin 16) (s : State) : Host.Outcome State Fault Refusal := atomicLocal 0 w ord d a g s
/-- aand.act (R179). -/
def execAandAct (w ord : Fin 16) (d a : Fin 32) (g : Fin 16) (s : State) : Host.Outcome State Fault Refusal := atomicLocal 1 w ord d a g s
/-- aor.act (R179). -/
def execAorAct (w ord : Fin 16) (d a : Fin 32) (g : Fin 16) (s : State) : Host.Outcome State Fault Refusal := atomicLocal 2 w ord d a g s
/-- axor.act (R179). -/
def execAxorAct (w ord : Fin 16) (d a : Fin 32) (g : Fin 16) (s : State) : Host.Outcome State Fault Refusal := atomicLocal 3 w ord d a g s
/-- amin.act (R179). -/
def execAminAct (w ord : Fin 16) (d a : Fin 32) (g : Fin 16) (s : State) : Host.Outcome State Fault Refusal := atomicLocal 4 w ord d a g s
/-- amax.act (R179). -/
def execAmaxAct (w ord : Fin 16) (d a : Fin 32) (g : Fin 16) (s : State) : Host.Outcome State Fault Refusal := atomicLocal 5 w ord d a g s
/-- aswap.act (R179). -/
def execAswapAct (w ord : Fin 16) (d a : Fin 32) (g : Fin 16) (s : State) : Host.Outcome State Fault Refusal := atomicLocal 6 w ord d a g s
/-- acas.act (R179). -/
def execAcasAct (w ord : Fin 16) (d a : Fin 32) (g : Fin 16) (s : State) : Host.Outcome State Fault Refusal := atomicLocal 7 w ord d a g s

end Sys2Proof.Machine
end

