-- ==== Sys2Proof/Machine/Control.lean ====
section
/-! DEFINITION. Control.lean: the control slots of the contexts and of the loop sequencer: traps and their return, control registers, branches, loops (R123 to R128, R133 to R145). -/

namespace Sys2Proof.Machine

/-- nop (R77): no effect. -/
def execNop (s : State) : Host.Outcome State Fault Refusal := runSlot (pure ()) s

/-- trap (R123): the bundle commits in full, and the trap is then taken. -/
def execTrap (code : Fin 4096) (s : State) : Host.Outcome State Fault Refusal := runSlot (stage (.trap code.val)) s

/-- tret (R124): outside a handler it raises ILLEGAL-USE. -/
def execTret (s : State) : Host.Outcome State Fault Refusal :=
  runSlot (do
    let s ← get
    check s.ctx.inh .illegalUse 0
    stage .tret) s

/-- safe (R125). -/
def execSafe (s : State) : Host.Outcome State Fault Refusal := runSlot (stage .safePoint) s

/-- TNOW: the device time in ns (R254). -/
def Device.tnow (d : Device) : Nat := d.ref * 5 / 6

/-- BEAT: the heartbeat ticks (R254). -/
def Device.beat (d : Device) : Nat := d.ref / 1024

/-- CTXID (Table 5.3). -/
def State.ctxid (s : State) : Nat := s.ctx.lcore * 2 ^ 16 + s.phys

/-- CSTAT (Table 5.3). -/
def Ctx.cstat (c : Ctx) : Nat :=
  c.late.length % 128 * 16 + c.forced.toNat * 8 + c.sliceUp.toNat * 4 + c.compat.toNat * 2 + c.inh.toNat

/-- A control register as crd reads it (Tables 5.2, 11.6, 18.4); a WO register reads 0. -/
def State.readCreg (s : State) (n : Nat) : Word :=
  match n with
  | 0x000 => s.ctx.fp.fflags.setWidth 64
  | 0x001 => s.ctx.fp.fmask.setWidth 64
  | 0x002 => s.ctx.fp.frm.setWidth 64
  | 0x003 => s.ctx.fp.seed
  | 0x004 => s.ctx.fp.sctr
  | 0x010 => s.ctx.tr.tvec
  | 0x011 => s.ctx.tr.tcause
  | 0x012 => s.ctx.tr.tepc
  | 0x013 => s.ctx.tr.tval
  | 0x014 => s.ctx.tr.tslot
  | 0x015 => s.ctx.tr.tscr
  | 0x016 => s.ctx.tr.tena
  | 0x017 => s.ctx.tr.tpend
  | 0x020 => word s.ctx.gen
  | 0x021 => word s.ctxid
  | 0x022 => word s.ctx.cstat
  | 0x040 => word s.dev.tnow
  | 0x041 => word s.dev.beat
  | 0x042 => word s.ctx.power.level
  | _ => 0

/-- What LWBCLR leaves of an entry of the late-write buffer (R106): a ring push, also one whose ring has been bound anew, still writes its address, without its flags. -/
def Pending.cleared (p : Pending) : Option Pending :=
  match p.dest with
  | .ring _ | .bits .. => some { p with flags := 0 }
  | _ => none

/-- A control register written (R127): reserved bits are ignored (R9). DESIGN CHOICE (log 75): the pushes that LWBCLR leaves still count in CSTAT.LWBN and for TCAUSE.REPLAY until they replay. -/
def Ctx.writeCreg (c : Ctx) (n : Nat) (v : Word) : Ctx :=
  match n with
  | 0x000 => { c with fp := { c.fp with fflags := BitVec.ofNat 5 v.toNat } }
  | 0x001 => { c with fp := { c.fp with fmask := BitVec.ofNat 5 v.toNat } }
  | 0x002 => { c with fp := { c.fp with frm := BitVec.ofNat 3 v.toNat } }
  | 0x003 => { c with fp := { c.fp with seed := v } }
  | 0x004 => { c with fp := { c.fp with sctr := v } }
  | 0x010 => { c with tr := { c.tr with tvec := v &&& 0x1FFFE1 } }
  | 0x011 => { c with tr := { c.tr with tcause := v &&& 0xE0FF } }
  | 0x012 => { c with tr := { c.tr with tepc := v &&& 0x1FFFE0 } }
  | 0x015 => { c with tr := { c.tr with tscr := v } }
  | 0x016 => { c with tr := { c.tr with tena := v &&& 3 } }
  | 0x023 => if v.getLsbD 0 then { c with late := c.late.filterMap Pending.cleared } else c
  | _ => c

/-- A value a field of the register refuses (R54, R127). -/
def cregRefuses (n : Nat) (v : Word) : Bool := n == 2 && (bits v.toNat 0 3 == 6 || bits v.toNat 0 3 == 7)

/-- Some older instruction of the context that can raise a flag has not written its result (R54, R340). -/
def Ctx.flagsPending (c : Ctx) : Bool := c.pend.any Pending.canRaise

/-- crd (R126): interlocked; FFLAGS waits for every older instruction that can raise a flag (R54). -/
def execCrd (d : Fin 32) (creg : Fin 4096) (s : State) : Host.Outcome State Fault Refusal :=
  runSlot (do
    readyDest (.s d.val)
    let s ← get
    hold (creg.val != 0 || !s.ctx.flagsPending)
    let n ← modifyGet State.draw
    putInter (.s d.val) (n + 1) (s.readCreg creg.val).toNat 1) s

/-- cwr (R127): the write takes effect at commit. -/
def execCwr (creg : Fin 4096) (a : Fin 32) (s : State) : Host.Outcome State Fault Refusal :=
  runSlot (do
    let x ← readReg a.val
    check (!cregRefuses creg.val x) .illegalUse x
    stage (.cwr creg.val x)) s

/-- The commands of context x that have not completed. -/
def Core.commandsOf (k : Core) (x : Nat) : List Command := k.pool.cmds.filter fun c => c.ctx == x

/-- Tag a is older than tag b (R116). -/
def tagOlder (a b : Nat) : Bool :=
  let n := (b + 2 ^ 16 - a % 2 ^ 16) % 2 ^ 16
  1 ≤ n && n ≤ 2 ^ 15 - 1

/-- gfence (R128): held while a command's tag would not be older than the new GEN. -/
def execGfence (s : State) : Host.Outcome State Fault Refusal :=
  runSlot (do
    let s ← get
    hold ((s.core.commandsOf s.phys).all fun c => tagOlder c.tag ((s.ctx.gen + 1) % 2 ^ 16))
    stage .gfence) s

/-! ## Branches (R133 to R135, R142) -/

/-- The target of a displacement, counted in slots from the first slot of the bundle (R133). -/
def dispTarget (pc : Nat) (disp : BitVec 18) : Word := wordI (pc + 32 * disp.toInt)

/-- br (R134). -/
def execBr (disp : BitVec 18) (g : Fin 16) (s : State) : Host.Outcome State Fault Refusal :=
  runSlot (do
    let p ← readGuard g.val
    let s ← get
    if p then
      stage (.bubble 2)
      stage (.branch (dispTarget s.bundle.pc disp))) s

/-- call (R134): b3 receives the address after the bundle. -/
def execCall (disp : BitVec 18) (g : Fin 16) (s : State) : Host.Outcome State Fault Refusal :=
  runSlot (do
    let p ← readGuard g.val
    let s ← get
    if p then
      readyDest (.b 3 false)
      putDest (.b 3 false) 1 s.bundle.next 0
      stage (.bubble 2)
      stage (.branch (dispTarget s.bundle.pc disp))) s

/-- bri (R134): no bubble when a pbr that issued at least 3 clk before wrote the value. -/
def execBri (b : Fin 4) (g : Fin 16) (s : State) : Host.Outcome State Fault Refusal :=
  runSlot (do
    let p ← readGuard g.val
    let s ← get
    if p then
      await (!s.ctx.busy (.b b.val false))
      if !(s.ctx.regs.bPbr.getD b.val false && 3 ≤ s.ctx.regs.bAge.getD b.val 0) then stage (.bubble 2)
      stage (.branch (s.ctx.regs.readB b.val))) s

/-- ret (R134): to the address in b3. -/
def execRet (g : Fin 16) (s : State) : Host.Outcome State Fault Refusal :=
  runSlot (do
    let p ← readGuard g.val
    let s ← get
    if p then
      await (!s.ctx.busy (.b 3 false))
      stage (.bubble 2)
      stage (.branch (s.ctx.regs.readB 3))) s

/-- pbr (R135). -/
def execPbr (b : Fin 4) (disp : BitVec 18) (s : State) : Host.Outcome State Fault Refusal :=
  runSlot (do
    readyDest (.b b.val true)
    let s ← get
    putDest (.b b.val true) 1 (dispTarget s.bundle.pc disp).toNat 0) s

/-- TakeBranch (R142): levels whose body does not hold the target are popped. -/
def popLevels (t : Nat) : List Level → List Level
  | [] => []
  | l :: ls => if l.start ≤ t ∧ t < l.stop then l :: ls else popLevels t ls

/-- TakeBranch of the loop stack; the innermost level stands last. -/
def LoopStack.branchTo (l : LoopStack) (t : Nat) : LoopStack := { l with levels := (popLevels t l.levels.reverse).reverse }

/-! ## The loop sequencer (R136 to R141) -/

/-- Where a context's code lies in instruction memory: its base and its length (R351). -/
def Ctx.code (c : Ctx) : Nat × Nat := (c.claims.ibase, c.claims.imem * 2 ^ 16)

/-- The length in slots of the bundle at pc, none when it is malformed (R72, R351): its last slot is the first whose S is 1, from the fourth to the eighth, and every slot lies in the code region. -/
def frameLen (m : Memory) (code : Nat × Nat) (pc : Nat) : Nat → Nat → Option Nat
  | 0, _ => none
  | fuel + 1, k =>
    if pc % 32 ≠ 0 ∨ pc + 32 * k + 32 > code.2 ∨ code.1 + pc + 32 * k + 32 > 2 ^ 21 then none
    else if bitAt (m.readBits (code.1 + pc + 32 * k) 32) 31 then (if k < 3 then none else some (k + 1))
    else frameLen m code pc fuel (k + 1)

/-- Frame(Start, len) of R137: the address after len bundles, none when one is malformed. -/
def frameBody (m : Memory) (code : Nat × Nat) (pc : Nat) : Nat → Option Nat
  | 0 => some pc
  | n + 1 => match frameLen m code pc 8 0 with | none => none | some k => frameBody m code (pc + 32 * k) n

/-- A LOOP with its count read (R137): the checks in the order of the rule. DEDUCED (log 103): the body is framed from instruction memory, inside an active level too. -/
def enterLoop (safe : Bool) (len : Fin 64) (n : Nat) : Act Unit := do
  let s ← get
  let start := s.bundle.next
  match frameBody s.core.imem s.ctx.code start (len.val + 1) with
  | none => raise .bundle 0
  | some stop =>
    check (n < 2 ^ 32) .illegalUse (word n)
    check (s.ctx.loops.levels.length < 6) .illegalUse 6
    check (match s.ctx.loops.levels.getLast? with | none => true | some l => stop ≤ l.stop) .illegalUse (word stop)
    check (len.val + 1 ≤ s.ctx.claims.loopBuf) .illegalUse (word (len.val + 1))
    if n = 0 then stage (.endStep stop)
    else stage (.enter { start := start, stop := stop, count := n, index := 0, safe := safe })

/-- loop with an immediate count (R137). -/
def execLoop (len : Fin 64) (count : Fin 131072) (s : State) : Host.Outcome State Fault Refusal :=
  runSlot (enterLoop false len count.val) s
/-- loop with a count operand (R137). -/
def execLoopReg (len : Fin 64) (a : Src) (s : State) : Host.Outcome State Fault Refusal :=
  runSlot (do
    let n ← readS a
    enterLoop false len n.toNat) s
/-- loop.safe with an immediate count (R137). -/
def execLoopSafe (len : Fin 64) (count : Fin 131072) (s : State) : Host.Outcome State Fault Refusal :=
  runSlot (enterLoop true len count.val) s
/-- loop.safe with a count operand (R137). -/
def execLoopSafeReg (len : Fin 64) (a : Src) (s : State) : Host.Outcome State Fault Refusal :=
  runSlot (do
    let n ← readS a
    enterLoop true len n.toNat) s

/-- Slot position j (from 0) of a bundle with this LTAG executes in the iteration of level L (R140). -/
def ltagAllows (l : LoopStack) (level : Nat) (first last : Nat) (j : Nat) : Bool :=
  match l.levels[level]? with
  | none => true
  | some x => (!bitAt first j || x.index == 0) && (!bitAt last j || x.index + 1 == x.count)

/-- ltag (R140): it gates the other slots of its bundle, which the issue of the bundle applies before it runs them. -/
def execLtag (level : Fin 8) (first last : Fin 256) (s : State) : Host.Outcome State Fault Refusal :=
  runSlot (modify fun s => s.onBundle fun b => { b with gate := some (level.val, first.val, last.val) }) s

/-- The position j executes: its bundle's LTAG, where there is one, allows it (R140). -/
def State.executes (s : State) (j : Nat) : Bool :=
  match s.bundle.gate with
  | none => true
  | some (k, f, l) => ltagAllows s.ctx.loops k f l j

/-- The bundle at issue holds a slot, and its LTAG does not suppress it (R140). -/
def State.holdsSlot (s : State) (i : Instr) : Bool := s.bundle.slots.zipIdx.any fun x => x.1 == i && s.executes x.2

/-- lbrk (R141): the level must be active. -/
def execLbrk (level : Fin 8) (s : State) : Host.Outcome State Fault Refusal :=
  runSlot (do
    let s ← get
    check (level.val < s.ctx.loops.levels.length) .illegalUse (word level.val)
    stage (.lbrk level.val)) s

end Sys2Proof.Machine
end

