-- ==== Sys2Proof/Machine/Phys.lean ====
section
/-! DEFINITION. Phys.lean: the local physical map (R26 to R29): which region an address lies in, what an agent may do there, and reading and writing it; the storage view of the macros (R44 to R46) and the core windows (R30). -/

namespace Sys2Proof.Machine

/-- The fabric port a request to device n travels on (R373): n mod 8, or the next that is UP or DEGRADED; 8 when none is. -/
def Device.portOf (d : Device) (n : Nat) : Nat :=
  (((List.range 8).map fun k => (n + k) % 8).find? fun k =>
    match (d.links.ports.map Port.st).getD k 0 with | 2 | 3 => true | _ => false).getD 8

/-- Locked mode (R400): PSTAT.LOCK follows TSTAT.LOCKED. -/
def Device.lockedMode (d : Device) : Bool := d.power.plock && d.locked

/-- f / 1.2 GHz in 24ths (Table 18.3). -/
def clockOf (ratio step : Nat) : Nat :=
  match ratio with
  | 0 => [24, 20, 16, 12].getD step 24
  | 1 => [20, 16, 12, 8].getD step 20
  | _ => [15, 12, 9, 6].getD step 15

/-- The cluster of a core (R389). -/
def Device.clusterOf (d : Device) (n : Nat) : Cluster := d.power.clusters.getD (n / 8) { ratio := 0, step := 0, stop := 0 }

/-- A request to another device leaves; in locked mode it waits for a slot of its class (R376). -/
def Device.send (d : Device) (e : Event) : Device :=
  if d.lockedMode then { d with links := { d.links with held := d.links.held ++ [e] } } else { d with outbox := d.outbox ++ [e] }

/-- A request of a unit leaves for another device, which is to answer it (R374). -/
def Device.ask (d : Device) (kind n k : Nat) (e : Event) : Device :=
  let d := d.send e
  { d with links := { d.links with asks := d.links.asks ++ [{ kind := kind, n := n, k := k, since := d.ref, req := e }] } }

/-- The oldest n requests that satisfy f have been answered. -/
def Device.askEnds (d : Device) (f : Ask → Bool) (n : Nat) : Device :=
  let gone := (d.links.asks.filter f).take n
  { d with links := { d.links with asks := gone.foldl List.erase d.links.asks } }

/-- A request first sent at REF since has waited FTMO.US µs (R374). -/
def Device.expired (d : Device) (since : Nat) : Bool := since + d.links.ftmo * 1200 ≤ d.ref

/-- The device answers requests of others and of the host: in OFF, and while the rails are off in RETAIN, it does not (R401). -/
def Device.away (d : Device) : Bool := d.power.st == .off || d.power.retStep == 5

/-- The regions of Table 2.1. -/
inductive Region where
  | hbm | lpddr | macros | window | physMacros | regs | hole
deriving DecidableEq, Repr

/-- The agents of Table 2.2; unit stands for the units of the device that reach memory by physical address and neither core windows nor the storage view (R165, R276): the transports, and what posts a word. -/
inductive Agent where
  | ctx | engine | fabric | host | firmware | unit
deriving DecidableEq, Repr

/-- The device number of a physical address (R26). -/
def physDev (a : Nat) : Nat := bits a 47 13

/-- The longest a request of core n may draw on its way to a fabric port: in locked mode a remote one takes 48 reference periods at most (R413), which are 2F clk of the core. -/
def Device.reachCap (d : Device) (n a left : Nat) : Nat :=
  if d.lockedMode ∧ physDev a ≠ d.devId then min left (2 * clockOf (d.clusterOf n).ratio (d.clusterOf n).step) else left

/-- The local bit address of a physical address (R26). -/
def physLocal (a : Nat) : Nat := a % 2 ^ 47

/-- The region of a local bit address (Table 2.1); LPDDR-6 up to the installed size, in bits. -/
def regionOf (lpddr a : Nat) : Region :=
  if a < 0x30000000000 then .hbm
  else if a < 0x40000000000 then .hole
  else if a < 0x48000000000 then .macros
  else if a < 0x48200000000 then .window
  else if a < 0x50000000000 then .hole
  else if a < 0x60000000000 then .physMacros
  else if a < 0x70000000000 then .hole
  else if a < 0x71000000000 then .regs
  else if a < 0x80000000000 then .hole
  else if a < 0x100000000000 then (if a < 0x80000000000 + lpddr then .lpddr else .hole)
  else .hole

/-- The address lies in memory the store cache caches (R27, R203). -/
def State.isDram (s : State) (a : Nat) : Bool :=
  match regionOf s.dev.lpddr a with | .hbm | .lpddr => true | _ => false

/-- A word wholly written loses its poison (R43). -/
def clearPoison (l : List Nat) (x : BitWrite) : List Nat :=
  l.filter fun k => !(x.addr ≤ 64 * k && 64 * k + 64 ≤ x.addr + x.width)

/-! ## HBM4 and LPDDR-6 -/

/-- The lines of the range, as line numbers. -/
def linesOf (a w : Nat) : List Nat := if w = 0 then [] else (List.range ((a + w - 1) / 512 + 1 - a / 512)).map (a / 512 + ·)

/-- A migration marks a line written in its old frame (R200). -/
def Migration.wrote (m : Migration) (l : Nat) : Migration :=
  if physLocal m.old / 512 ≤ l ∧ l < physLocal m.old / 512 + (if m.big then 2 ^ 19 else 2 ^ 10) then { m with dirty := setAdd m.dirty l } else m

/-! ### The store cache (R203) and the lines of the host (R41, R259) -/

/-- The set of a line of the store cache (R203): one of the 2^15 sets of 16 ways of 512-bit lines in each of its 512 slices of 32 MiB, 16 GiB in all (R12, R17). -/
def storeSetOf (l : Nat) : Nat := Config.storeSet l % 2 ^ 24

/-- The lines of a list that share their set with line l; a part of the list of less than n lines is not looked at. -/
def sameSet (n l : Nat) (t : List StoreLine) : List StoreLine :=
  if t.length < n then [] else t.filter fun x => storeSetOf x.line == storeSetOf l

/-- The least recently used line of its set that is not pinned gives its place up, where 16 lines hold the set of l (R203); what it held is in memory. -/
def evictFor (l : Nat) (t : List StoreLine) : List StoreLine :=
  let s := sameSet 16 l t
  if s.length < 16 then t
  else match (s.filter fun x => !x.pinned).getLast? with
    | some x => t.filter fun y => y.line != x.line
    | none => t

/-- The store cache takes a line that is written, as the most recently used of its set (R203); with pin it is pinned, unless 8 ways of its set are: it is then written through and not held. -/
def Device.cacheLine (d : Device) (pin : Bool) (l : Nat) : Device :=
  let old := d.store.find? fun x => x.line == l
  let rest := d.store.filter fun x => x.line != l
  let held := match old with | some x => x.pinned | none => false
  if pin && !held && 8 ≤ ((sameSet 8 l rest).filter StoreLine.pinned).length then { d with store := rest }
  else { d with store := { line := l, dirty := true, pinned := pin || held } :: evictFor l rest }

/-- A line that is read is the most recently used of its set, if it is held (R203). -/
def Device.useLine (d : Device) (l : Nat) : Device :=
  match d.store.find? fun x => x.line == l with
  | some x => { d with store := x :: d.store.filter fun y => y.line != l }
  | none => d

/-- A line of the store cache holds a bit of w bits at local address a. -/
def StoreLine.meets (x : StoreLine) (a w : Nat) : Bool := w != 0 && a / 512 ≤ x.line && 512 * x.line < a + w

/-- clean writes the lines of a range back and leaves them valid; inv evicts them as well, but those a save pinned (R181). -/
def Device.maintain (d : Device) (evict : Bool) (a w : Nat) : Device :=
  { d with store := (d.store.filter fun x => !(evict && x.meets a w && !x.pinned)).map fun x => if x.meets a w then { x with dirty := false } else x }

/-- The lines of a range are pinned no more (R118). -/
def Device.unpin (d : Device) (a w : Nat) : Device :=
  { d with store := d.store.map fun x => if x.meets a w then { x with pinned := false } else x }

/-- The home slice takes a line back that the host holds under HDM-DB before a write performs on it (R41, R259); the host is told (log 77). -/
def Device.backInvalidate (d : Device) (l : Nat) : Device :=
  if d.owned.contains l then
    { d with
      owned := setDel d.owned l
      outbox := d.outbox ++ [{ who := 17, sub := 0, addr := 512 * l, val := 0, len := 512, data := [] }] }
  else d

/-- A write that performs on local memory at its home slice (R36, R39, R41): the bits of its mask, the poison of the words it covers, its lines in the store cache (R203), the written mark of each 64 KiB frame (R204), the lines of a migrating page (R200). -/
def Device.merge (d : Device) (a w v : Nat) : Device :=
  if w = 0 then d
  else
    let d := (linesOf a w).foldl (Device.cacheLine · false) d
    { d with
      mem := d.mem.writeBits a w v
      poison := clearPoison d.poison { addr := a, width := w, val := v }
      reserves := d.reserves.filter fun r => r.2.1 + r.2.2 ≤ a || a + w ≤ r.2.1
      marks := (List.range ((a + w - 1) / 2 ^ 19 + 1 - a / 2 ^ 19)).foldl (fun l k => setAdd l (a / 2 ^ 19 + k)) d.marks
      migs := (linesOf a w).foldl (fun ms l => ms.map fun m => m.wrote l) d.migs }

/-- A write of another agent than the host: a line the host holds is taken back first. -/
def Device.put (d : Device) (a w v : Nat) : Device := ((linesOf a w).foldl Device.backInvalidate d).merge a w v

/-- A write of the host: the lines it holds stay its own (log 77). -/
def Device.hostMerge (d : Device) (l : List BitWrite) : Device :=
  let d := l.foldl (fun d x => d.merge x.addr x.width x.val) d
  if d.poison.isEmpty then d else { d with poison := d.poison.filter fun k => !(coveredWords l).contains k }

/-- The writes of one access. -/
def Device.putAll (d : Device) : List BitWrite → Device
  | [] => d
  | x :: t => Device.putAll (d.put x.addr x.width x.val) t

/-- Writes applied to local memory as one access: the words they cover together lose their poison (R36, R43). -/
def Device.putMasked (d : Device) (l : List BitWrite) : Device :=
  let l := l.map fun x => { x with addr := physLocal x.addr }
  let d := d.putAll l
  if d.poison.isEmpty then d else { d with poison := d.poison.filter fun k => !(coveredWords l).contains k }

/-! ## Halves (R44 to R47, R306) -/

/-- The number by which the state keeps a physical half: tower, layer, macro, half. -/
def halfKey (t l p h : Nat) : Nat := ((t * 8 + l) * 65536 + p) * 2 + h

/-- The logical macro of field index f of core n, within its layer (R306). -/
def macroOf (n f : Nat) : Nat := n % 64 * 512 + bits f 1 9

/-- The number of a remap register: tower, layer, logical macro (R306). -/
def remapKey (n f : Nat) : Nat := (8 * (n / 64) + bits f 10 3) * 32768 + macroOf n f

/-- The physical macro that holds a logical macro; a register not yet written maps each macro to its live position (log 3). -/
def Device.remapped (d : Device) (k : Nat) : Nat := (assoc? d.remap k).getD (k % 32768)

/-- The physical half that field index f of core n names (R46, R47, R306). -/
def Device.place (d : Device) (n f : Nat) : Nat :=
  halfKey (n / 64) (bits f 10 3) (d.remapped (remapKey n f)) (f % 2)

/-- A physical half; one that nothing has touched is EMPTY, and scrubbed until now (R305). -/
def Device.half (d : Device) (k : Nat) : Half := (assoc? d.halves k).getD { Half.empty with seen := d.ref }

/-- A physical half replaced. -/
def Device.setHalf (d : Device) (k : Nat) (h : Half) : Device := { d with halves := assocSet d.halves k h }

/-- The half of a field index of the focused core. -/
def State.halfAt (s : State) (f : Nat) : Half := s.dev.half (s.dev.place s.coreNo f)

/-- Storage mode (R45): EMPTY or STORE. -/
def Half.storage (h : Half) : Bool := h.st < 2

/-- The window a storage-view address lies in: the physical half, and the offset in it (R44, R46). -/
def Device.window (d : Device) (a : Nat) : Option (Nat × Nat) :=
  if a < 0x48000000000 then
    let x := a - 0x40000000000
    some (d.place (x / 2 ^ 31) (x / 2 ^ 18 % 8192), x % 2 ^ 18)
  else
    let x := a - 0x50000000000
    let p := bits x 19 16
    if p < 33792 then some (halfKey (x / 2 ^ 38) (bits x 35 3) p (bits x 18 1), x % 2 ^ 18) else none

/-- The rows of a half, and the words of its scale file as 256 + k, that hold a bit of some bits of its window (R44). -/
def rowsOf (o n : Nat) : List Nat :=
  if n = 0 then []
  else if o < 2 ^ 17 then (List.range ((o + n - 1) / 512 + 1 - o / 512)).map (o / 512 + ·)
  else (List.range ((o + n - 1) / 64 + 1 - o / 64)).map fun k => 256 + (o / 64 + k - 2 ^ 11)

/-- A write covers a row, or a word of the scale file, whole (R43, R276). -/
def rowCovered (o n j : Nat) : Bool :=
  if j < 256 then o ≤ 512 * j && 512 * j + 400 ≤ o + n
  else o ≤ 2 ^ 17 + 64 * (j - 256) && 2 ^ 17 + 64 * (j - 256) + 64 ≤ o + n

/-- A part of a row or of the scale file written (R44): bits 511:400 of a row are ignored, and what is covered whole loses its poison (R43). -/
def Half.writePart (h : Half) (o n v : Nat) : Half :=
  let h := { h with poison := h.poison.filter fun j => !rowCovered o n j }
  if o < 2 ^ 17 then
    let m := min n (400 - o % 512)
    if m = 0 then h else { h with mem := h.mem.writeBits o m v }
  else { h with mem := h.mem.writeBits o n v }

/-- A storage-view write that performs (R276; Table 13.3 row 18). -/
def Half.write (h : Half) (o w v : Nat) : Half :=
  let h := (lineParts (w / 512 + 2) o w).foldl (fun h p => h.writePart p.1 p.2 (v / 2 ^ (p.1 - o) % 2 ^ p.2)) h
  if h.st = 0 then { h with st := 1 } else h

/-- The rows that a write covers in part, whose bits 399:0 merge at the periphery (R276). -/
def partRows (o w : Nat) : List Nat :=
  (lineParts (w / 512 + 2) o w).filterMap fun p =>
    if p.1 < 2 ^ 17 ∧ p.1 % 512 < 400 ∧ !rowCovered p.1 p.2 (p.1 / 512) then some (p.1 / 512) else none

/-- The half in the storage view that holds a local address. -/
def State.viewed (s : State) (a : Nat) : Option (Nat × Nat) :=
  match regionOf s.dev.lpddr a with
  | .macros | .physMacros => s.dev.window a
  | _ => none

/-- A merge is pending on a row that the range holds (R276). -/
def State.rowsBusy (s : State) (a w : Nat) : Bool :=
  match s.viewed a with
  | some (k, o) => (rowsOf o w).any fun j => (s.dev.half k).merges.contains j
  | none => false

/-- A check pass runs in storage mode on the half in the storage view that holds the address (R303). -/
def State.passHolds (s : State) (a : Nat) : Bool :=
  match s.viewed a with
  | some (k, _) => (s.dev.half k).storage && s.coreList.any fun n => (s.focusCore n).core.passes.any fun p => s.dev.place n p.f == k
  | none => false

/-- The merges of a write are pending on its rows, or have performed. -/
def State.setMerges (s : State) (a w : Nat) (on : Bool) : State :=
  match s.viewed a with
  | some (k, o) => s.onDev fun d =>
    let h := d.half k
    d.setHalf k { h with merges := (partRows o w).foldl (fun l j => if on then l ++ [j] else l.erase j) h.merges }
  | none => s

/-! ## Core windows (R30, Table 2.4) -/

/-- A lane of the sum file. -/
def Core.lane (c : Core) (k : Nat) : Lane := (assoc? c.lanes k).getD { v := 0, flags := 0 }
/-- A lane of the sum file replaced. -/
def Core.setLane (c : Core) (k : Nat) (l : Lane) : Core := { c with lanes := assocSet c.lanes k l }

/-- A part of a core window within one line (Table 2.4). -/
def Core.readWindow (c : Core) (o n : Nat) : Nat :=
  if o < 0x1000000 then c.act.readBits o n
  else if o < 0x1400000 then c.stg.readBits (o - 0x1000000) n
  else if o < 0x1600000 then c.imem.readBits (o - 0x1400000) n
  else if o < 0x1700000 then
    let x := o - 0x1600000
    bits (unchunks 256 ((List.range 3).map fun k => (c.lane (x / 256 + k)).v.toNat)) (x % 256) n
  else
    let x := o - 0x1700000
    bits (unchunks 8 ((List.range 65).map fun k => (c.lane (x / 8 + k)).flags.toNat)) (x % 8) n

/-- The number by which a core keeps the poison of the word at an offset of its window (R43). -/
def windowKey (o : Nat) : Nat :=
  if o < 0x1000000 then poisonKey .act o
  else if o < 0x1400000 then poisonKey .stg (o - 0x1000000)
  else if o < 0x1600000 then poisonKey .imem (o - 0x1400000)
  else if o < 0x1700000 then 4 * 2 ^ 20 + (o - 0x1600000) / 64
  else 5 * 2 ^ 20 + (o - 0x1700000) / 64

/-- The offset of the first poisoned word of a part of a core window within one line. -/
def Core.windowPoison (c : Core) (o n : Nat) : Option Nat :=
  if n = 0 ∨ c.poison.isEmpty then none
  else ((List.range ((o + n - 1) / 64 + 1 - o / 64)).find? fun k => c.poison.contains (windowKey (64 * (o / 64 + k)))).map fun k => 64 * (o / 64 + k)

/-- The words of the sum file that a write covers whole lose their poison (R43). -/
def Core.cleanWindow (c : Core) (o n : Nat) : Core :=
  if c.poison.isEmpty then c
  else { c with poison := c.poison.filter fun k =>
    !((List.range (n / 64 + 2)).any fun j => o ≤ 64 * (o / 64 + j) && 64 * (o / 64 + j) + 64 ≤ o + n && windowKey (64 * (o / 64 + j)) == k) }

/-- Bits of the sum-file values written through the window. -/
def Core.writeLanes (c : Core) (x n v : Nat) : Core :=
  (List.range ((x + n - 1) / 256 + 1 - x / 256)).foldl (fun c k =>
    let j := x / 256 + k
    let lo := max x (256 * j)
    let hi := min (x + n) (256 * j + 256)
    let l := c.lane j
    c.setLane j { l with v := BitVec.ofNat 256 (setBits l.v.toNat (lo - 256 * j) (hi - lo) (v / 2 ^ (lo - x))) }) c

/-- Bits of the sum-file flags written through the window; the reserved bits are ignored. -/
def Core.writeFlags (c : Core) (x n v : Nat) : Core :=
  (List.range ((x + n - 1) / 8 + 1 - x / 8)).foldl (fun c k =>
    let j := x / 8 + k
    let lo := max x (8 * j)
    let hi := min (x + n) (8 * j + 8)
    let l := c.lane j
    c.setLane j { l with flags := BitVec.ofNat 5 (setBits l.flags.toNat (lo - 8 * j) (hi - lo) (v / 2 ^ (lo - x))) }) c

/-- A part of a core window within one line written (R36, R173). -/
def Core.writeWindow (c : Core) (o n v : Nat) : Core :=
  if o < 0x1000000 then (c.putAll .act [{ addr := o, width := n, val := v }]).fill o n
  else if o < 0x1400000 then c.putAll .stg [{ addr := o - 0x1000000, width := n, val := v }]
  else if o < 0x1600000 then c.putAll .imem [{ addr := o - 0x1400000, width := n, val := v }]
  else if o < 0x1700000 then (c.writeLanes (o - 0x1600000) n v).cleanWindow o n
  else (c.writeFlags (o - 0x1700000) n v).cleanWindow o n

/-- The first poisoned word of a range (R43): the local address of the word, or of the row of a half. -/
def State.poisoned (s : State) (a w : Nat) : Option Nat :=
  match regionOf s.dev.lpddr a with
  | .macros | .physMacros =>
    match s.dev.window a with
    | some (k, o) => ((rowsOf o w).find? fun j => (s.dev.half k).poison.contains j).map fun j =>
      a - o + if j < 256 then 512 * j else 2 ^ 17 + 64 * (j - 256)
    | none => none
  | .window =>
    (lineParts (w / 512 + 2) a w).findSome? fun p =>
      ((s.focusCore ((a - 0x48000000000) / 2 ^ 25)).core.windowPoison (p.1 % 2 ^ 25) p.2).map fun o => p.1 - p.1 % 2 ^ 25 + o
  | _ => (s.dev.poison.find? fun k => a / 64 ≤ k && k ≤ (a + w - 1) / 64).map (64 * ·)

/-! ## Refusals and accesses (R28, R29, R45, R46, R165) -/

/-- The cause with which an agent's access at one bit is refused, if any. -/
def State.bitCause (s : State) (g : Agent) (a : Nat) : Option Cause :=
  match regionOf s.dev.lpddr a with
  | .hbm | .lpddr => none
  | .macros =>
    if g = .ctx ∨ g = .unit ∨ a % 2 ^ 18 ≥ 2 ^ 17 + 7680 then some .unmapped
    else match s.dev.window a with
      | some (k, _) => if (s.dev.half k).storage then none else some .halfstate
      | none => some .unmapped
  | .physMacros =>
    if g ≠ .firmware ∨ a % 2 ^ 18 ≥ 2 ^ 17 + 7680 then some .unmapped
    else match s.dev.window a with
      | some (k, _) => if (s.dev.half k).storage then none else some .halfstate
      | none => some .unmapped
  | .window => if (g = .firmware ∨ g = .engine) ∧ a % 2 ^ 25 < 0x1708000 then none else some .unmapped
  | .regs | .hole => some .unmapped

/-- The cause with which an agent's access of w bits at a physical address is refused, if any (R29). -/
def State.physCause (s : State) (g : Agent) (a w : Nat) : Option Cause :=
  if a ≥ 2 ^ 60 ∨ physLocal a + w > 2 ^ 47 then some .unmapped
  else if w = 0 then none
  else ((physLocal a) :: (lineParts (w / 512 + 2) (physLocal a) w).map fun p => p.1 + p.2 - 1).findSome? (s.bitCause g)

/-- Reading w bits at a local address that no rule refuses. -/
def State.physRead (s : State) (a w : Nat) : Nat :=
  match regionOf s.dev.lpddr a with
  | .macros | .physMacros =>
    match s.dev.window a with
    | some (k, o) => (s.dev.half k).mem.readBits o w
    | none => 0
  | .window =>
    let n := (a - 0x48000000000) / 2 ^ 25
    let c := (s.focusCore n).core
    (lineParts (w / 512 + 2) a w).foldr (fun p acc => c.readWindow (p.1 % 2 ^ 25) p.2 + acc * 2 ^ p.2) 0
  | _ => s.dev.mem.readBits a w

/-- Writing w bits at a local address that no rule refuses (R36). -/
def State.physWrite (s : State) (a w v : Nat) : State :=
  match regionOf s.dev.lpddr a with
  | .macros | .physMacros =>
    match s.dev.window a with
    | some (k, o) => s.onDev fun d => d.setHalf k ((d.half k).write o w v)
    | none => s
  | .window =>
    s.atCore ((a - 0x48000000000) / 2 ^ 25) fun t => t.onCore fun c =>
      (lineParts (w / 512 + 2) a w).foldl (fun c p => c.writeWindow (p.1 % 2 ^ 25) p.2 (v / 2 ^ (p.1 - a) % 2 ^ p.2)) c
  | _ => s.onDev fun d => d.put a w v

/-- The cells of a core that an access through its window needs are used in this clk (R167): only the scratch and weight staging have cells. -/
def State.windowBusy (s : State) (a w : Nat) : Bool :=
  let o := a % 2 ^ 25
  regionOf s.dev.lpddr a == .window && o < 0x1400000 &&
    !(s.focusCore ((a - 0x48000000000) / 2 ^ 25)).core.cellsFree (if o < 0x1000000 then .act else .stg) (if o < 0x1000000 then o else o - 0x1000000) w

/-- A read at the store cache makes the lines it holds the most recently used (R203). -/
def State.readsLines (s : State) (a w : Nat) : State :=
  if s.dev.store.isEmpty || !s.isDram a then s else s.onDev fun d => (linesOf a w).foldl Device.useLine d

/-! ## Records (R234, R235, R408) -/

/-- A statistics record of the focused core (Table 10.9), appended at the end of the clk. -/
def State.record (s : State) (event ctx pc info val : Nat) : State :=
  s.onCore fun c => { c with stats := { c.stats with fresh := c.stats.fresh ++
    [val % 2 ^ 64 * 2 ^ 64 + event * 2 ^ 56 + ctx % 512 * 2 ^ 47 + pc % 2 ^ 21 * 2 ^ 26 + info % 2 ^ 26] } }

/-- The order of the records of one clk: context, then event (R235). -/
def recordKey (r : Nat) : Nat := bits r 47 9 * 256 + bits r 56 8

/-- A record in its place among those of its clk. -/
def recordInsert (r : Nat) : List Nat → List Nat
  | [] => [r]
  | x :: t => if recordKey x ≤ recordKey r then x :: recordInsert r t else r :: x :: t

/-- The records of the clk reach the buffer of 64, or are dropped (R235). -/
def Stats.settle (t : Stats) : Stats :=
  (t.fresh.foldl (fun l r => recordInsert r l) []).foldl (fun t r =>
    if t.len = 0 ∨ t.recs.length ≥ 64 then { t with drop := (t.drop + 1) % 2 ^ 32 } else { t with recs := t.recs ++ [r] })
    { t with fresh := [] }

/-- A record of the error log written to its region (R408). -/
def Device.putLog (d : Device) (r : Nat) : Device :=
  if (d.log.wr + 2 ^ 32 - d.log.rd) % 2 ^ 32 ≥ d.log.len then { d with log := { d.log with drop := (d.log.drop + 1) % 2 ^ 32 } }
  else
    let d := d.put (physLocal (d.log.base * 512) + d.log.wr % d.log.len * 256) 256 r
    { d with log := { d.log with wr := (d.log.wr + 1) % 2 ^ 32 } }

/-- An error log record (Tables 18.10 and 18.11): kept in the base die while there is no region, up to 64. -/
def Device.logError (d : Device) (event cause source addr info : Nat) : Device :=
  let seq := (d.log.wr + d.log.held.length) % 2 ^ 32
  let time := if d.refSet then d.ref * 5 / 6 else 0
  let r := event * 2 ^ 56 + cause * 2 ^ 48 + source % 2 ^ 16 * 2 ^ 32 + seq + addr % 2 ^ 64 * 2 ^ 64 +
    time % 2 ^ 64 * 2 ^ 128 + info % 2 ^ 64 * 2 ^ 192
  if d.log.len = 0 then
    if d.log.held.length < 64 then { d with log := { d.log with held := d.log.held ++ [r] } }
    else { d with log := { d.log with drop := (d.log.drop + 1) % 2 ^ 32 } }
  else d.putLog r

end Sys2Proof.Machine
end

