-- ==== Sys2Proof/Machine/Global.lean ====
section
/-! DEFINITION. Global.lean: accesses through handles and the order instructions (R176 to R181, R187, R259 to R270). -/

namespace Sys2Proof.Machine

/-- The cause a context's access of w bits at a physical address meets (R29, Table 2.2); the device of another number judges an access to its own memory. -/
def State.ctxCause (s : State) (a w : Nat) : Option Cause :=
  if physDev a ≠ s.dev.devId then none else s.physCause .ctx a w

/-- GAddr of R176 with the right of R187: the physical address of w bits at an offset of a handle's page. -/
def gaddr (h : Nat) (off : Word) (w : Nat) (right : HandleBits → Bool) : Act Nat := do
  let s ← get
  await (!s.ctx.busy (.h h))
  let hv := s.ctx.regs.readH h
  check (hUsable hv) .invhandle (word h)
  check (off.toNat + w ≤ hSize hv) .bounds off
  check (right hv) .invhandle (word h)
  let a := hBase hv + off.toNat
  match s.ctxCause a w with
  | some c => raise c (word a)
  | none => pure a

/-- A global access staged (R262): it performs no earlier than 3 clk after its issue (R261); the part draws how much later (log 7), within the bound of R413. The sampler counts it (R198). -/
def stageGlob (kind : GlobKind) (a w : Nat) (writes : List BitWrite) (dest : Dest) (order h : Nat) : Act Unit := do
  let n ← modifyGet State.draw
  let s ← get
  stage (.glob { id := 0, kind := kind, addr := a, width := w, got := 0, gotBits := 0, writes := writes, dest := dest,
                 order := order, bno := s.accNo, pc := s.bundle.pc, slots := 2 ^ s.bundle.pos,
                 left := s.dev.reachCap s.coreNo a (3 + n), sent := false })
  stage (.sample (hLeaf (s.ctx.regs.readH h)) (match kind with | .load _ | .vload _ | .ringRead .. => false | _ => true))

/-- ld.g (R176). -/
def execLdG (signed : Bool) (wid : Fin 64) (d : Dst) (h : Fin 16) (o : Fin 32) (s : State) : Host.Outcome State Fault Refusal :=
  runSlot (do
    let off ← readReg o.val
    readyS d
    let a ← gaddr h.val off (wid.val + 1) hRd
    match d with
    | .reg i => stageGlob (.load signed) a (wid.val + 1) [] (.s i.val) 0 h.val
    | .push q => do
      let s ← get
      putPush q.val 0 0 0
      stageGlob (.load signed) a (wid.val + 1) [] (.ringAt q.val ((s.ctx.ring q.val).pushAddr (s.bundle.pushes q.val))) 0 h.val) s

/-- The writes of a store split at line boundaries (R33). -/
def splitLines (l : List BitWrite) : List BitWrite :=
  l.flatMap fun x => (lineParts 4 x.addr x.width).map fun p =>
    { addr := p.1, width := p.2, val := x.val / 2 ^ (p.1 - x.addr) % 2 ^ p.2 }

/-- st.g (R176): a false guard makes no check. -/
def execStG (wid : Fin 64) (v : Fin 32) (h : Fin 16) (o : Fin 32) (g : Fin 16) (s : State) : Host.Outcome State Fault Refusal :=
  runSlot (do
    let val ← readReg v.val
    let off ← readReg o.val
    let p ← readGuard g.val
    if p then
      let a ← gaddr h.val off (wid.val + 1) hWr
      stageGlob .store a (wid.val + 1) (splitLines [{ addr := a, width := wid.val + 1, val := val.toNat % 2 ^ (wid.val + 1) }]) .none 0 h.val) s

/-- vld.g (R177 kind 4). -/
def execVldG (e32 : Bool) (d : Dst) (h : Fin 16) (o : Src) (s : State) : Host.Outcome State Fault Refusal :=
  runSlot (do
    let off ← readS o
    readyV d
    let a ← gaddr h.val off 1024 hRd
    match d with
    | .reg i => stageGlob (.vload e32) a 1024 [] (.v i.val) 0 h.val
    | .push q => do
      let s ← get
      putPush q.val 0 0 0
      stageGlob (.vload e32) a 1024 [] (.ringAt q.val ((s.ctx.ring q.val).pushAddr (s.bundle.pushes q.val))) 0 h.val) s

/-- vst.g (R178 kind 4): the handle and its WR right are checked whenever the guard is true, the bounds for the bits of enabled lanes only. -/
def execVstG (m : Fin 8) (v : Fin 32) (e32 : Bool) (h : Fin 16) (o : Fin 32) (g : Fin 16) (s : State) : Host.Outcome State Fault Refusal :=
  runSlot (do
    let off ← readReg o.val
    let mask ← readMask m.val
    let val ← readVReg v.val
    let p ← readGuard g.val
    let s ← get
    await (!s.ctx.busy (.h h.val))
    let hv := s.ctx.regs.readH h.val
    let w := laneBits e32
    let lanes := enabledLanes e32 mask
    if p then
      check (hUsable hv && hWr hv) .invhandle (word h.val)
      match lanes.find? fun i => off.toNat + i * w + w > hSize hv with
      | some i => raise .bounds (word (max (off.toNat + i * w) (hSize hv)))
      | none =>
        let a := hBase hv + off.toNat
        match lanes.findSome? fun i => (s.ctxCause (a + i * w) w).map fun c => (c, a + i * w) with
        | some (c, x) => raise c (word x)
        | none =>
          if lanes ≠ [] then
            stageGlob .store a 1024
              (splitLines (lanes.map fun i => { addr := a + i * w, width := w, val := bits val.toNat (w * i) w })) .none 0 h.val) s

/-- A global atomic (R179, R180): the offset is s(d + 1), the new value of acas s(d + 2). -/
def atomicGlobal (op : Nat) (w ord h : Fin 16) (d : Fin 32) (g : Fin 16) (s : State) : Host.Outcome State Fault Refusal :=
  runSlot (do
    let width := atomWidth w.val
    let x ← readReg d.val
    let off ← readReg (d.val + 1)
    let n ← if op = 7 then readReg (d.val + 2) else pure 0
    let p ← readGuard g.val
    readyDest (.s d.val)
    if p then
      let a ← gaddr h.val off width hAt
      check (alignClass a width == .w) .illegalUse off
      stageGlob (.atomic op (x.toNat % 2 ^ width) (n.toNat % 2 ^ width)) a width
        [{ addr := a, width := width, val := 0 }] (.s d.val) ord.val h.val) s

/-- aadd.g (R179). -/
def execAaddG (w ord h : Fin 16) (d : Fin 32) (g : Fin 16) (s : State) : Host.Outcome State Fault Refusal := atomicGlobal 0 w ord h d g s
/-- aand.g (R179). -/
def execAandG (w ord h : Fin 16) (d : Fin 32) (g : Fin 16) (s : State) : Host.Outcome State Fault Refusal := atomicGlobal 1 w ord h d g s
/-- aor.g (R179). -/
def execAorG (w ord h : Fin 16) (d : Fin 32) (g : Fin 16) (s : State) : Host.Outcome State Fault Refusal := atomicGlobal 2 w ord h d g s
/-- axor.g (R179). -/
def execAxorG (w ord h : Fin 16) (d : Fin 32) (g : Fin 16) (s : State) : Host.Outcome State Fault Refusal := atomicGlobal 3 w ord h d g s
/-- amin.g (R179). -/
def execAminG (w ord h : Fin 16) (d : Fin 32) (g : Fin 16) (s : State) : Host.Outcome State Fault Refusal := atomicGlobal 4 w ord h d g s
/-- amax.g (R179). -/
def execAmaxG (w ord h : Fin 16) (d : Fin 32) (g : Fin 16) (s : State) : Host.Outcome State Fault Refusal := atomicGlobal 5 w ord h d g s
/-- aswap.g (R179). -/
def execAswapG (w ord h : Fin 16) (d : Fin 32) (g : Fin 16) (s : State) : Host.Outcome State Fault Refusal := atomicGlobal 6 w ord h d g s
/-- acas.g (R179). -/
def execAcasG (w ord h : Fin 16) (d : Fin 32) (g : Fin 16) (s : State) : Host.Outcome State Fault Refusal := atomicGlobal 7 w ord h d g s

/-- clean and inv (R181): the handle and the range are checked at issue; one entry of the store queue, which changes no bit any agent reads. -/
def maintain (evict : Bool) (h : Fin 16) (a b : Src) (s : State) : Host.Outcome State Fault Refusal :=
  runSlot (do
    let off ← readS a
    let len ← readS b
    let s ← get
    await (!s.ctx.busy (.h h.val))
    let hv := s.ctx.regs.readH h.val
    check (hUsable hv) .invhandle (word h.val)
    check (off.toNat + len.toNat ≤ hSize hv) .bounds off
    let n ← modifyGet State.draw
    stage (.glob { id := 0, kind := .maintain evict, addr := hBase hv + off.toNat, width := len.toNat, got := 0,
                   gotBits := 0, writes := [], dest := .none, order := 0, bno := s.accNo,
                   pc := s.bundle.pc, slots := 2 ^ s.bundle.pos, left := 3 + n, sent := false })) s
/-- clean (R181). -/
def execClean (h : Fin 16) (a b : Src) (s : State) : Host.Outcome State Fault Refusal := maintain false h a b s
/-- inv (R181). -/
def execInv (h : Fin 16) (a b : Src) (s : State) : Host.Outcome State Fault Refusal := maintain true h a b s

/-! ## Order (R263 to R270) -/

/-- An order code has an acquire (Table 4.6). -/
def ordAcquire (o : Nat) : Bool := (1 ≤ o && o ≤ 5) || (11 ≤ o && o ≤ 15)
/-- An order code has a release (Table 4.6). -/
def ordRelease (o : Nat) : Bool := 6 ≤ o
/-- The scope of an order code: 0 core, 1 tower, 2 device, 3 domain, 4 system (Table 4.6). -/
def ordScope (o : Nat) : Nat := if o = 0 then 0 else (o - 1) % 5

/-- An entry of the load queue (R262). -/
def GlobAcc.isLoad (a : GlobAcc) : Bool := match a.kind with | .load _ | .vload _ | .ringRead .. => true | _ => false
/-- An atomic. -/
def GlobAcc.isAtomic (a : GlobAcc) : Bool := match a.kind with | .atomic .. => true | _ => false

/-- A write of the store queue that carries bits: a store, a push or an atomic. -/
def GlobAcc.isWrite (a : GlobAcc) : Bool := match a.kind with | .store | .ringPush _ | .oldPush _ | .atomic .. => true | _ => false

/-- Every access of the focused context that is older than its access number bno has performed at a scope, 2 for the device and wider above (R263 to R265): typed-space accesses and pushes at their bank, barrier operations, and the accesses to the sum file, drains among them (R165, R272), and global accesses, which a port of the fabric has accepted at device scope and another device has answered at the wider ones. DEDUCED (log 117): a push that the late-write buffer holds is not waited for. -/
def State.olderDone (s : State) (bno scope : Nat) : Bool :=
  (s.core.locals.all fun x => x.slot != s.slot || bno ≤ x.bno) &&
  (s.core.barOps.all fun o => o.ctx != s.phys || bno ≤ o.bno) &&
  (s.core.laneActs.all fun a => a.slot != s.slot || bno ≤ a.bno) &&
  (s.core.drains.all fun d => d.slot != s.slot || bno ≤ d.bno) &&
  (s.ctx.gq.all fun a => a.orphan || bno ≤ a.bno || (a.acc && scope ≤ 2)) &&
  (s.ctx.pend.all fun p => match p.dest with | .ring _ | .bits .. => bno ≤ p.bno | _ => true) &&
  s.ctx.rings.all fun r => r.buf.all fun w => bno ≤ w.bno

/-- Every read of the focused context that is older than its access number bno has performed (R269): loads and atomics have returned, btest has landed. -/
def State.readsDone (s : State) (bno : Nat) : Bool :=
  (s.ctx.gq.all fun a => a.orphan || bno ≤ a.bno || !(a.isLoad || a.isAtomic)) && s.ctx.awaits.isEmpty &&
  s.ctx.pend.all fun p => match p.dest with | .pair _ => !p.isInter | _ => true

/-- An acquire of an older bundle has not performed (Table 12.2). -/
def State.acquirePending (s : State) : Bool :=
  (s.ctx.gq.any fun a => a.isAtomic && ordAcquire a.order) ||
  s.core.locals.any fun x => x.slot == s.slot && x.atomic.isSome && ordAcquire x.order

/-- Every global access that is older than access number m has performed, pushes whose value is still to come among them (R268). -/
def Ctx.globalsDone (c : Ctx) (m : Nat) : Bool :=
  (c.gq.all fun e => m ≤ e.bno) &&
  c.pend.all fun p => match p.dest with
    | .ring q => m ≤ p.bno || (c.ring q).spaceNo != 2
    | .bits _ sp .. => m ≤ p.bno || sp != 2
    | _ => true

/-- A mark holds back the global accesses from its own bundle on while an older one has not performed (R268). -/
def Ctx.marked (c : Ctx) (bno : Nat) : Bool := c.order.marks.any fun m => m ≤ bno && !c.globalsDone m

/-- mark (R268). -/
def execMark (s : State) : Host.Outcome State Fault Refusal := runSlot (stage .mark) s

/-- fence (R269): an acquire fence is held until every older read has performed; a release fence holds back the writes of its own and of younger bundles. -/
def execFence (ord : Fin 16) (s : State) : Host.Outcome State Fault Refusal :=
  runSlot (do
    let s ← get
    hold (!ordAcquire ord.val || s.readsDone s.bundleNo)
    if ordRelease ord.val then stage (.fence ord.val)) s

/-- The drain of a fence.sc is complete (R270). -/
def State.scDrained (s : State) : Bool := s.olderDone s.bundleNo 4 && (s.core.commandsOf s.phys).isEmpty

/-- fence.sc (R270): held until its drain and then until its tick. -/
def execFenceSc (s : State) : Host.Outcome State Fault Refusal :=
  runSlot (do
    let s ← get
    hold (s.scDrained && s.ctx.order.scPassed)
    stage .fenceSc) s

end Sys2Proof.Machine
end

