-- ==== Sys2Proof/Machine/Barrier.lean ====
section
/-! DEFINITION. Barrier.lean: the barriers, their arrivals and waits, and the waits on the clocks (R240 to R254). -/

namespace Sys2Proof.Machine

/-- A barrier in UNINIT, every field 0 (Table 11.3 row 1). -/
def Barrier.uninit : Barrier := { state := 0, phase := false, epoch := 0, count := 0, cause := 0, target := 0, notify := 0 }

/-- A number names a core barrier (Table 11.1). -/
def barIsCore (n : Nat) : Bool := n < 256
/-- A number names a device barrier (Table 11.1). -/
def barIsDev (n : Nat) : Bool := 0x8000 ≤ n && n < 0x8400
/-- A number names a barrier. -/
def barOk (n : Nat) : Bool := barIsCore n || barIsDev n

/-- The barrier a number names, on the focused core or on the device (R240). -/
def State.barrier (s : State) (n : Nat) : Barrier :=
  if barIsCore n then (assoc? s.core.bars n).getD .uninit else (assoc? s.dev.bars (n - 0x8000)).getD .uninit

/-- The barrier a number names, replaced. -/
def State.setBarrier (s : State) (n : Nat) (b : Barrier) : State :=
  if barIsCore n then s.onCore fun c => { c with bars := assocSet c.bars n b }
  else s.onDev fun d => { d with bars := assocSet d.bars (n - 0x8000) b }

/-- NUM of a descriptor (Table 11.4). -/
def descNum (d : Word) : Nat := bits d.toNat 0 16

/-- Passed(b, D) of R248. -/
def Barrier.passed (b : Barrier) (d : Word) : Bool :=
  if !bitAt d.toNat 17 then b.phase != bitAt d.toNat 16
  else
    let n := (b.epoch + 2 ^ 16 - bits d.toNat 32 16) % 2 ^ 16
    1 ≤ n && n ≤ 2 ^ 15 - 1

/-- The reserved bits of a descriptor that binit and barv read (R248). -/
def descOkArrive (d : Word) : Bool := bits d.toNat 16 48 == 0 && barOk (descNum d)
/-- The reserved bits of a descriptor that bwait and btest read (R248). -/
def descOkWait (d : Word) : Bool := bits d.toNat 48 16 == 0 && bits d.toNat 18 14 == 0 && barOk (descNum d)

/-- ARMED. -/
def Barrier.armed (b : Barrier) : Bool := b.state == 1
/-- ERROR. -/
def Barrier.inError (b : Barrier) : Bool := b.state == 2

/-- A binit performs (Table 11.3 row 4). -/
def Barrier.arm (b : Barrier) (t : Nat) : Barrier := { b with state := 1, target := t, count := 0, cause := 0 }

/-- Arrive of R244 on the barrier alone: the count, and how many phases it completes. Fuel bounds the phases. -/
def Barrier.arrive (b : Barrier) (n : Nat) : Barrier × Nat :=
  if b.armed ∧ b.target ≠ 0 then
    let k := (b.count + n) / b.target
    ({ b with count := (b.count + n) % b.target, phase := if k % 2 = 1 then !b.phase else b.phase,
              epoch := (b.epoch + k) % 2 ^ 16 }, k)
  else (b, 0)

/-- The barrier after the j-th phase an arrival completes, which each registered waiter is tested against (R244). -/
def Barrier.after (b : Barrier) (j : Nat) : Barrier :=
  { b with phase := if j % 2 = 1 then !b.phase else b.phase, epoch := (b.epoch + j) % 2 ^ 16 }

/-- A descriptor passes after one of the first k phases an arrival completes, each tested in turn (R248). -/
def Barrier.passedWithin (b : Barrier) (d : Word) : Nat → Bool
  | 0 => false
  | k + 1 => (b.after (k + 1)).passed d || b.passedWithin d k

/-- A registered waiter of barrier n is released when its descriptor passes after one of the phases (R244, R248). Of a run of more than 2^17 phases the part sees every phase and epoch, so a longer one releases no more. -/
def Ctx.releaseIf (c : Ctx) (num : Nat) (b : Barrier) (k : Nat) : Ctx :=
  { c with released := c.released ++
    (c.barWait.filter fun (w : Nat × Word) => w.1 == num && b.passedWithin w.2 (min k (2 ^ 17))).map Prod.snd }

/-- A waiter of a barrier that went to ERROR is released with its trap (Table 11.3 row 2). -/
def Ctx.releaseError (c : Ctx) (num : Nat) : Ctx :=
  { c with released := c.released ++ (c.barWait.filter fun (w : Nat × Word) => w.1 == num).map Prod.snd }

/-- Every context of the device with f applied. -/
def State.mapCtx (s : State) (f : Ctx → Ctx) : State :=
  { s with
    ctx := f s.ctx
    partner := f s.partner
    others := s.others.map fun p => (p.1, { p.2 with ctx := f p.2.ctx, partner := f p.2.partner }) }

/-- Both contexts of the focused core with f applied. -/
def State.mapOwn (s : State) (f : Ctx → Ctx) : State := { s with ctx := f s.ctx, partner := f s.partner }

/-- Both contexts of the focused core with f applied to their slot and themselves. -/
def State.mapOwn2 (s : State) (f : Nat → Ctx → Ctx) : State := { s with ctx := f s.slot s.ctx, partner := f (1 - s.slot) s.partner }

/-- The waiters a barrier may release: those of its core, or of the device (R240). -/
def State.mapWaiters (s : State) (n : Nat) (f : Ctx → Ctx) : State := if barIsCore n then s.mapOwn f else s.mapCtx f

/-- NOTIFY.EN (Table 11.2). -/
def Barrier.notifyOn (b : Barrier) : Bool := bitAt b.notify.toNat 63

/-- The notices of k completed phases of a device barrier, in order (R244): each writes the epoch to the notice word. A notice to the host or to another device leaves on the device's outbox. -/
def State.postNotices (s : State) (b : Barrier) : Nat → State
  | 0 => s
  | k + 1 =>
    let t := s.postNotices b k
    let e := (b.epoch + k + 1) % 2 ^ 16
    let a := bits b.notify.toNat 0 60
    if bitAt b.notify.toNat 62 then
      t.onDev fun d => { d with outbox := d.outbox ++ [{ who := 1, sub := 1, addr := a, val := e, len := 64, data := [] }] }
    else if physDev a ≠ t.dev.devId then
      t.onDev fun d => d.send { who := 1, sub := 0, addr := a, val := e, len := 64, data := [] }
    else if t.isDram (physLocal a) then
      t.onDev fun d => d.put (physLocal a) 64 e
    else t

/-- An arrival of n bits at barrier num of the focused core or of the device (Table 11.3 rows 5 and 6, R244). -/
def State.arriveAt (s : State) (num n : Nat) : State :=
  let b := s.barrier num
  let r := b.arrive n
  let s := (s.setBarrier num r.1).mapWaiters num fun c => c.releaseIf num b r.2
  if barIsDev num && b.notifyOn then s.postNotices b r.2 else s

/-- An engine command that names the barrier ends in error (Table 11.3 rows 2 and 3). -/
def State.barrierError (s : State) (num cause : Nat) : State :=
  let b := s.barrier num
  if b.armed then
    (s.setBarrier num { b with state := 2, cause := cause }).mapWaiters num fun c => c.releaseError num
  else s

/-- A binit or an arrival of the focused context is on its way to barrier n (R245). -/
def State.barBusy (s : State) (n : Nat) : Bool := s.core.barOps.any fun o => o.ctx == s.phys && o.bar == n

/-- binit (R249). -/
def execBinit (a b : Src) (s : State) : Host.Outcome State Fault Refusal :=
  runSlot (do
    let d ← readS a
    let t ← readS b
    check (descOkArrive d) .illegalUse d
    check (t.toNat != 0 && t.toNat < 2 ^ 40) .illegalUse t
    let n ← modifyGet State.draw
    let s ← get
    stage (.barOp { bar := descNum d, init := true, n := t.toNat, order := 0, ctx := s.phys, bno := s.accNo,
                    left := if barIsCore (descNum d) then 1 else min (n + 1) 48 })) s

/-- barv (R250): the barrier must be ARMED at issue. -/
def execBarv (ord : Fin 64) (a b : Src) (s : State) : Host.Outcome State Fault Refusal :=
  runSlot (do
    let d ← readS a
    let n ← readS b
    check (descOkArrive d) .illegalUse d
    check (n.toNat < 2 ^ 40) .illegalUse n
    let s ← get
    check (s.barrier (descNum d)).armed .illegalUse d
    let k ← modifyGet State.draw
    stage (.barOp { bar := descNum d, init := false, n := n.toNat, order := ord.val, ctx := s.phys, bno := s.accNo,
                    left := if barIsCore (descNum d) then 1 else min (k + 1) 48 })) s

/-- bwait (R251): the descriptor is registered; a context released by an error raises ILLEGAL-USE. It reaches the barrier after its context's older binits and arrivals (R245): it is held at issue until they have performed (DEDUCED, log 78). -/
def execBwait (ord : Fin 64) (a : Src) (s : State) : Host.Outcome State Fault Refusal :=
  runSlot (do
    let d ← readS a
    check (descOkWait d) .illegalUse d
    let s ← get
    if s.barBusy (descNum d) then hold false
    else
      let b := s.barrier (descNum d)
      check b.armed .illegalUse d
      modify fun s => s.onBundle fun x => { x with waitBar := some (descNum d, d) }
      holdWaiting (s.ctx.released.contains d || b.passed d) .barrier
      stage (.acquire ord.val)) s

/-- btest (R252): the pair is interlocked and lands within 8 clk, or 48 for a device barrier. Like bwait it is held at issue until its context's older binits and arrivals have performed (R245, log 78). One that fails is an access all the same, which an older acquire holds back (R265). -/
def execBtest (k : Fin 8) (a : Src) (ord : Fin 64) (s : State) : Host.Outcome State Fault Refusal :=
  runSlot (do
    let d ← readS a
    readyDest (.pair k.val)
    check (descOkWait d) .illegalUse d
    let s ← get
    if s.barBusy (descNum d) then hold false
    else
      let b := s.barrier (descNum d)
      check b.armed .illegalUse d
      let n ← modifyGet State.draw
      putInter (.pair k.val) (if barIsCore (descNum d) then min (n + 1) 8 else min (n + 1) 48) (if b.passed d then 1 else 0) 1
      stage (if b.passed d then .acquire ord.val else .cells .act [])) s

/-- hbwait (R253). -/
def execHbwait (a : Src) (s : State) : Host.Outcome State Fault Refusal :=
  runSlot (do
    let x ← readS a
    let s ← get
    modify fun s => s.onBundle fun b => { b with waitVal := x }
    holdWaiting (s.dev.beat ≥ x.toNat) .tick) s

/-- waitt (R253). -/
def execWaitt (a : Src) (s : State) : Host.Outcome State Fault Refusal :=
  runSlot (do
    let x ← readS a
    let s ← get
    modify fun s => s.onBundle fun b => { b with waitVal := x }
    holdWaiting (s.dev.tnow ≥ x.toNat) .time) s

end Sys2Proof.Machine
end

