-- ==== Sys2Proof/Machine/Pages.lean ====
section
/-! DEFINITION. Pages.lean: the page table, handles, the translation cache and the handle instructions (R182 to R198). -/

namespace Sys2Proof.Machine

/-- A canonical virtual address (R24): bits 63:57 all equal bit 56. DESIGN CHOICE (log 82): an address past 2^64, which a range of PROBE may come to, is not canonical. -/
def isCanonical (va : Nat) : Bool := va < 2 ^ 64 && (bits va 56 8 == 0 || bits va 56 8 == 255)

/-- V (Table 9.2). -/
def pteV (e : Nat) : Bool := bitAt e 63
/-- LEAF. -/
def pteLeaf (e : Nat) : Bool := bitAt e 62
/-- PIN. -/
def ptePin (e : Nat) : Bool := bitAt e 58
/-- MIG. -/
def pteMig (e : Nat) : Nat := bits e 56 2
/-- RH. -/
def pteRh (e : Nat) : Nat := bits e 54 2
/-- WH. -/
def pteWh (e : Nat) : Nat := bits e 52 2
/-- FRAME × 2^15, the address of the next table or of the frame. -/
def pteAddr (e : Nat) : Nat := bits e 0 45 * 2 ^ 15

/-- What a walk finds (R182 to R184): a valid leaf with its address and its level, no valid entry, or a poisoned word. -/
inductive WalkEnd where
  | leaf (e addr : Nat) (big : Bool)
  | invalid
  | poison (addr : Nat)
deriving DecidableEq, Repr

/-- The index into the table of one level (Table 9.1). -/
def walkIndex (va : Nat) : Nat → Nat
  | 1 => bits va 44 13
  | 2 => bits va 28 16
  | _ => bits va 19 9

/-- The alignment of a table at one level (Table 9.1). -/
def tableSize : Nat → Nat
  | 1 => 2 ^ 19 | 2 => 2 ^ 22 | _ => 2 ^ 15

/-- A walk from the table of one level, `left` levels above the last (R182, R184). -/
def State.walkFrom (s : State) (va table : Nat) : Nat → WalkEnd
  | 0 => .invalid
  | left + 1 =>
    let level := 3 - left
    if !s.isDram (physLocal table) || physDev table != s.dev.devId || table % tableSize level ≠ 0 then .invalid
    else
      let a := table + 64 * walkIndex va level
      match s.poisoned (physLocal a) 64 with
      | some p => .poison (table - physLocal table + p)
      | none =>
        let e := s.dev.mem.readBits (physLocal a) 64
        if !pteV e || bits e 45 7 ≠ 0 then .invalid
        else if pteLeaf e then
          if level = 1 then .invalid
          else if pteAddr e % (if level = 2 then 2 ^ 28 else 2 ^ 19) ≠ 0 then .invalid
          else if physDev (pteAddr e) = s.dev.devId ∧ !s.isDram (physLocal (pteAddr e)) then .invalid
          else .leaf e a (level == 2)
        else if level = 3 then .invalid
        else s.walkFrom va (pteAddr e) left

/-- The walk of a virtual address from a root (R182): the root is treated as a pointer entry (R184). -/
def State.walk (s : State) (root va : Nat) : WalkEnd :=
  if isCanonical va then s.walkFrom va (root * 2 ^ 19) 3 else .invalid

/-- The bits of a leaf with a heat field raised by one, saturating at 3 (R198). -/
def heat (e lo : Nat) : Nat := if bits e lo 2 = 3 then e else e + 2 ^ lo

/-- One indivisible step on some fields of a leaf word, each given by its lowest bit and its width (R42, R183, R198): no other bit of the word changes, and a poisoned word stays so (R43). -/
def State.stepLeaf (s : State) (a : Nat) (fields : List (Nat × Nat)) (f : Nat → Nat) : State :=
  if physDev a = s.dev.devId ∧ s.isDram (physLocal a) then
    s.onDev fun d =>
      let e := f (d.mem.readBits (physLocal a) 64)
      d.putMasked (fields.map fun x => { addr := a + x.1, width := x.2, val := bits e x.1 x.2 })
  else s

/-- The fields RH and WH of a leaf (Table 9.2). -/
def heatFields : List (Nat × Nat) := [(52, 4)]

/-- A sampled access or a walk heats a leaf (R198). -/
def State.heatLeaf (s : State) (leaf : Nat) (write : Bool) : State := s.stepLeaf leaf heatFields fun e => heat e (if write then 52 else 54)

/-- An access through a handle is counted; every 2^SAMPLE-th is sampled (R198). -/
def State.sample (s : State) (leaf : Nat) (write : Bool) : State :=
  let n := s.core.sampled + 1
  let s := s.onCore fun c => { c with sampled := n % 2 ^ 15 }
  if n % 2 ^ s.dev.mig.sample = 0 then s.heatLeaf leaf write else s

/-- The entries that a walk from the table of one level reads (R182), by their local addresses. -/
def State.walkReads (s : State) (va table : Nat) : Nat → List Nat
  | 0 => []
  | left + 1 =>
    let level := 3 - left
    if !s.isDram (physLocal table) || physDev table != s.dev.devId || table % tableSize level ≠ 0 then []
    else
      let a := physLocal table + 64 * walkIndex va level
      let e := s.dev.mem.readBits a 64
      if (s.poisoned a 64).isSome || !pteV e || bits e 45 7 ≠ 0 || pteLeaf e then [a] else a :: s.walkReads va (pteAddr e) left

/-- The walker has read the entries of a virtual address: their lines are the most recently used of their sets (R203). -/
def State.walkUses (s : State) (root va : Nat) : State :=
  if s.dev.store.isEmpty || !isCanonical va then s else (s.walkReads va (root * 2 ^ 19) 3).foldl (fun (t : State) a => t.readsLines a 64) s

/-- The page base VPN of an address (R193). -/
def vpnOf (va : Nat) (big : Bool) : Nat := if big then bits va 19 38 / 512 * 512 else bits va 19 38

/-- The translation cache with an entry filled, at most 1,024, the least recently used last (R191). -/
def tcFill (l : List TcEntry) (x : TcEntry) : List TcEntry :=
  (x :: l.filter fun y => !(y.asid == x.asid && y.vpn == x.vpn)).take 1024

/-- The entry that maps an address (R191). -/
def tcFind (l : List TcEntry) (asid va : Nat) : Option TcEntry :=
  l.find? fun y => y.asid == asid && y.vpn == vpnOf va y.big

/-- The handle built from an entry (R193, Table 9.4). -/
def handleOf (devId : Nat) (x : TcEntry) (va : Nat) : Nat :=
  let e := x.leaf.toNat
  let remote := physDev (pteAddr e) != devId
  1 * 2 ^ 254 + x.big.toNat * 2 ^ 253 + bits e 59 3 * 2 ^ 250 + (ptePin e || remote).toNat * 2 ^ 249 +
  vpnOf va x.big * 2 ^ 208 + x.asid * 2 ^ 196 + pteAddr e % 2 ^ 60 * 2 ^ 136 + x.addr % 2 ^ 60 * 2 ^ 76

/-- A trans or hmov result is pending in handle register h (R193). -/
def Ctx.handlePending (c : Ctx) (h : Nat) : Bool := c.pend.any fun p => p.dest == .h h

/-- trans (R193): the handle and the pair land together 16 clk later. -/
def execTrans (h : Fin 16) (a : Src) (k : Fin 8) (s : State) : Host.Outcome State Fault Refusal :=
  runSlot (do
    let va ← readS a
    let s ← get
    await (!s.ctx.handlePending h.val)
    readyDest (.h h.val)
    readyDest (.pair k.val)
    let hit := if isCanonical va.toNat then tcFind s.core.tcache s.ctx.blk.asid va.toNat else none
    match hit with
    | some x =>
      if pteMig x.leaf.toNat = 2 ∨ pteMig x.leaf.toNat = 3 then
        stage (.walk va)
        putDest (.h h.val) 16 0 0
        putPair k.val 16 false
      else
        stage (.touch x)
        putDest (.h h.val) 16 (handleOf s.dev.devId x va.toNat) 0
        putPair k.val 16 true
    | none =>
      stage (.walk va)
      putDest (.h h.val) 16 0 0
      putPair k.val 16 false) s

/-- hrev (R195): INVALID when its bundle commits; in compatibility mode it waits for the results its handle has pending (R88). -/
def execHrev (h : Fin 16) (s : State) : Host.Outcome State Fault Refusal :=
  runSlot (do
    readyDest (.h h.val)
    stage (.hrev h.val)) s

/-- LOC of Table 9.7. -/
def State.hLoc (s : State) (h : HandleBits) : Nat :=
  if physDev (hBase h) ≠ s.dev.devId then 2
  else match regionOf s.dev.lpddr (physLocal (hBase h)) with | .lpddr => 1 | _ => 0

/-- The summary of a handle (Table 9.7); 0 for an INVALID one. -/
def State.hSummary (s : State) (h : HandleBits) : Nat :=
  if hState h = 0 then 0
  else bits h.toNat 249 7 * 2 ^ 57 + s.hLoc h * 2 ^ 55 + bits h.toNat 183 13 * 2 ^ 38 + hVpn h

/-- hinfo (R196): it waits until no trans or hmov result is pending for the handle. -/
def execHinfo (d : Dst) (h : Fin 16) (s : State) : Host.Outcome State Fault Refusal :=
  runSlot (do
    readyS d
    let s ← get
    await (!s.ctx.handlePending h.val && !s.ctx.busy (.h h.val))
    let n ← modifyGet State.draw
    let v := s.hSummary (s.ctx.regs.readH h.val)
    match d with
    | .reg i => putInter (.s i.val) (n + 1) v 1
    | .push q => putPushInter q.val (n + 1) v) s

/-- hmov (R197): the copy lands 1 clk after issue. -/
def execHmov (d h : Fin 16) (s : State) : Host.Outcome State Fault Refusal :=
  runSlot (do
    let s ← get
    await (!s.ctx.handlePending d.val)
    readyDest (.h d.val)
    await (!s.ctx.busy (.h h.val))
    if d ≠ h then putDest (.h d.val) 1 (s.ctx.regs.readH h.val).toNat 0) s

/-- Every result of the focused context has landed (R114, R194). -/
def State.allLanded (s : State) : Bool :=
  s.ctx.pend.isEmpty && s.ctx.awaits.isEmpty && s.ctx.gq.all fun a => a.dest == .none

/-- Every result has landed and every global access has performed (R194). -/
def State.quiet (s : State) : Bool := s.allLanded && s.ctx.gq.isEmpty

/-- What a probe meets (R194): every page walked with the fills it makes, a page under migration with the fills before it, its address and the pages still to walk, a fault, or more than 64 pages. DESIGN CHOICE (log 105): the fills and requests of the pages walked remain in the last case as they do on a fault. -/
inductive ProbeEnd where
  | done (fills : List TcEntry)
  | migrating (va left : Nat) (fills : List TcEntry)
  | fault (c : Cause) (v : Nat) (fills : List TcEntry)
  | tooMany (fills : List TcEntry)
deriving DecidableEq, Repr

/-- The pages of a probe from address va to stop, at most n of them (R194). -/
def State.probePages (s : State) (va stop : Nat) (acc : List TcEntry) : Nat → ProbeEnd
  | 0 => if va < stop then .tooMany acc else .done acc
  | n + 1 =>
    if stop ≤ va then .done acc
    else if !isCanonical va then .fault .noncanon va acc
    else
      match s.walk s.ctx.blk.root va with
      | .poison a => .fault .poison a acc
      | .invalid => .fault .pagefault va acc
      | .leaf e addr big =>
        if pteMig e ≠ 0 then .migrating va (n + 1) acc
        else
          s.probePages ((va / (if big then 2 ^ 28 else 2 ^ 19) + 1) * (if big then 2 ^ 28 else 2 ^ 19)) stop
            (acc ++ [{ asid := s.ctx.blk.asid, vpn := vpnOf va big, leaf := word e, addr := addr, big := big }]) n

/-- Where the probe of the slot at work goes on: its first address and 64 pages, or where it waited for a migration (R194). -/
def State.probeFrom (s : State) (va : Nat) : Nat × Nat := (assoc? s.ctx.probes s.accNo).getD (va, 64)

/-- probe (R194): it needs a safe slot in its bundle, waits for an empty pipeline, then walks its pages; its fills and requests are made whether or not it faults, and those before a page under migration before it waits. -/
def execProbe (a b : Src) (s : State) : Host.Outcome State Fault Refusal :=
  runSlot (do
    let va ← readS a
    let len ← readS b
    let s ← get
    check (s.holdsSlot .safe) .illegalUse va
    if s.quiet then
      match s.probePages (s.probeFrom va.toNat).1 (va.toNat + len.toNat) [] (s.probeFrom va.toNat).2 with
      | .tooMany fills => do
        modify fun s => s.onBundle fun x => { x with kept := x.kept ++ fills }
        raise .illegalUse len
      | .migrating x n fills => do
        modify fun s => s.onBundle fun b => { b with kept := b.kept ++ fills, reach := b.reach ++ [(s.accNo, x, n)] }
        hold false
      | .done fills => stage (.fills fills)
      | .fault c v fills => do
        modify fun s => s.onBundle fun x => { x with kept := x.kept ++ fills }
        raise c (word v)
    else hold false) s

end Sys2Proof.Machine
end

