-- ==== Sys2Proof/Machine/Queue.lean ====
section
/-! DEFINITION. Queue.lean: the ring instructions, the engine-command pool and the commands of the copy and transfer queues (R206 to R236). -/

namespace Sys2Proof.Machine

/-- A configuration word that qbind refuses with FORMAT (R208), given the BFMT of the base's bank. DESIGN CHOICE (log 114): a FIFO of capacity 0 is refused too. -/
def ringCfgOk (w : Word) (bank : Word) : Bool :=
  let r : Ring := { Ring.unbound with cfg := w }
  (r.mode == 1 || r.mode == 2 || r.mode == 3) && r.spaceNo != 3 && !(r.mode == 1 && r.spaceNo == 2) &&
  (r.elem == 0 || (bits w.toNat 51 6 == 0 && !r.sgn)) &&
  r.fe != 3 && !(r.fe == 2 && r.mode != 2) && !(r.fe != 0 && r.spaceNo != 0) && !(r.fe != 0 && r.mode == 1) &&
  (r.spaceNo == 2 || bits w.toNat 44 4 == 0) &&
  !(r.mode == 1 && r.capacity == 0) &&
  !(r.elem == 3 && r.mode != 2) && !(r.elem == 3 && r.estr != 0) &&
  (if r.elem == 3 && r.spaceNo != 0 then
     (0x08 ≤ r.fmt && r.fmt ≤ 0x0B) && r.pol != 3 && bits w.toNat 0 13 != 0
   else r.fmt == 0 && r.pol == 0 && bits w.toNat 0 13 == 0) &&
  !(r.elem == 3 && r.spaceNo == 0 && !(bfmtTyped bank && 0x08 ≤ bfmtFmt bank && bfmtFmt bank ≤ 0x0B))

/-- The binding a configuration word makes (R209, R219): CUR, empty counts, its handle copy, and the widening its bank gives, or for a half-vector in the scratch the bank's format with its policy. -/
def State.bindRing (s : State) (a w : Word) : Ring :=
  let r : Ring := { Ring.unbound with cfg := w, cur := a }
  { r with
    copy := if r.spaceNo = 2 then s.ctx.regs.readH (bits w.toNat 44 4) else 0
    widen :=
      if r.spaceNo = 0 ∧ r.elem = 3 then bfmtFmt (s.core.bankFmt a.toNat)
      else if r.spaceNo = 0 ∧ r.elem = 1 ∧ r.mode ≠ 3 then s.core.widening a.toNat else 0
    bankPol := if r.spaceNo = 0 then bfmtPol (s.core.bankFmt a.toNat) else 0 }

/-- qbind (R208, R214, R215, R219). -/
def execQbind (q : Fin 16) (a b : Fin 32) (s : State) : Host.Outcome State Fault Refusal :=
  runSlot (do
    let x ← readReg a.val
    let w ← readReg b.val
    let s ← get
    check (ringCfgOk w (s.core.bankFmt x.toNat)) .format w
    let r := s.bindRing x w
    check (r.mode != 1 || x.toNat + r.capacity * r.size ≤ (spaceOf r.spaceNo).size) .illegalUse
      (word (x.toNat + r.capacity * r.size - 1))
    let h := bits w.toNat 44 4
    await (r.spaceNo != 2 || !s.ctx.busy (.h h))
    check (r.spaceNo != 2 || (hUsable r.copy && (if r.mode == 2 then hRd r.copy else hWr r.copy))) .invhandle (word h)
    stage (.qbind q.val x w r.copy)) s

/-- qunb (R220). -/
def execQunb (q : Fin 16) (s : State) : Host.Outcome State Fault Refusal := runSlot (stage (.qunb q.val)) s

/-- qadv (R221): a FIFO waits until it holds the elements it drops. -/
def execQadv (q : Fin 16) (a : Fin 32) (s : State) : Host.Outcome State Fault Refusal :=
  runSlot (do
    let n ← readReg a.val
    let s ← get
    let r := s.ctx.ring q.val
    check (r.mode != 0) .illegalUse (word q.val)
    check (n.toNat < 2 ^ 24) .illegalUse n
    check (r.mode != 1 || n.toNat ≤ r.capacity) .illegalUse n
    hold (r.mode != 1 || n.toNat ≤ r.count)
    stage (.qadv q.val n.toNat)) s

/-- A push of ring q that an earlier binding of it allocated has not performed (R213, R219). -/
def State.oldPushes (s : State) (q : Nat) : Bool :=
  let old := fun (d : Dest) => match d with | .bits n .. => n == q | _ => false
  s.ctx.pend.any (fun p => old p.dest) || s.ctx.late.any (fun p => old p.dest) ||
  s.ctx.gq.any (fun g => old g.dest || g.kind == .oldPush q) ||
  s.core.locals.any fun x => x.slot == s.slot && x.push.any fun p => p.1 == q

/-- The condition a qwait waits for (R222). -/
def State.qwaitOver (s : State) (q n : Nat) : Bool :=
  let r := s.ctx.ring q
  match r.mode with
  | 1 => n ≤ r.count
  | 2 => n ≤ r.window.length
  | 3 => r.pending == 0 && !s.oldPushes q
  | _ => true

/-- qwait (R222). -/
def execQwait (q : Fin 16) (a : Fin 32) (s : State) : Host.Outcome State Fault Refusal :=
  runSlot (do
    let n ← readReg a.val
    let s ← get
    let r := s.ctx.ring q.val
    check (match r.mode with | 1 => n.toNat ≤ r.capacity | 2 => n.toNat ≤ r.depth | _ => true) .illegalUse n
    modify fun s => s.onBundle fun b => { b with waitBar := some (q.val, n) }
    holdWaiting (s.qwaitOver q.val n.toNat) .ring) s

/-- qstr (R223): a stride of 24 signed bits. -/
def execQstr (q : Fin 16) (a : Fin 32) (level : Fin 8) (s : State) : Host.Outcome State Fault Refusal :=
  runSlot (do
    let x ← readReg a.val
    check (-2 ^ 23 ≤ x.toInt && x.toInt < 2 ^ 23) .illegalUse x
    stage (.qstr q.val level.val x.toInt)) s

/-- The value qstat selects (Table 10.4). -/
def Ring.stat (r : Ring) (sel : Nat) : Word :=
  match sel with
  | 0 => r.cfg
  | 1 => r.cur
  | _ => word (r.window.length % 256 * 2 ^ 32 + r.pending % 256 * 2 ^ 24 + if r.mode = 1 then r.count else 0)

/-- qstat (R224): interlocked. -/
def execQstat (d : Fin 32) (q : Fin 16) (what : Fin 4) (s : State) : Host.Outcome State Fault Refusal :=
  runSlot (do
    readyDest (.s d.val)
    let s ← get
    let n ← modifyGet State.draw
    putInter (.s d.val) (n + 1) ((s.ctx.ring q.val).stat what.val).toNat 1) s

/-- sqrd (R236): sel 3 waits until the core's buffer is empty. -/
def execSqrd (d : Fin 32) (what : Fin 4) (s : State) : Host.Outcome State Fault Refusal :=
  runSlot (do
    readyDest (.s d.val)
    let s ← get
    hold (what.val != 3 || (s.core.stats.recs.isEmpty && s.core.stats.fresh.isEmpty))
    let n ← modifyGet State.draw
    let v := match what.val with
      | 1 => s.core.stats.recs.length
      | 2 => s.core.stats.drop
      | _ => s.core.stats.wr
    putInter (.s d.val) (n + 1) v 1) s

/-! ## The pool (R225, R226) -/

/-- The entries queue k holds. -/
def Pool.held (p : Pool) (k : Nat) : Nat := (p.cmds.filter fun c => c.queue == k).length

/-- The entries free (EQSTAT.FREE). -/
def Pool.free (p : Pool) : Nat := 512 - p.cmds.length

/-- The unused minimums of the queues but k. -/
def Pool.reserved (p : Pool) (k : Nat) : Nat :=
  (List.range 4).foldl (fun a j => if j = k then a else a + (p.mins.getD j 0 - p.held j)) 0

/-- Queue k obtains an entry for context x (R225). -/
def Pool.room (p : Pool) (k x : Nat) : Bool :=
  p.cmds.length < 512 && (p.cmds.filter fun c => c.ctx == x).length < 256 &&
  (p.held k < p.mins.getD k 0 || (p.held k < p.caps.getD k 0 && p.reserved k < p.free))

/-- The fields of a completion word (Table 10.7). -/
def cwBV (e : Word) : Bool := bitAt e.toNat 63
/-- BAR. -/
def cwBAR (e : Word) : Nat := bits e.toNat 32 16
/-- SBV. -/
def cwSBV (e : Word) : Bool := bitAt e.toNat 31
/-- SBAR. -/
def cwSBAR (e : Word) : Nat := bits e.toNat 0 16
/-- The reserved bits of a completion word are 0. -/
def cwReserved (e : Word) : Bool := bits e.toNat 48 15 == 0 && bits e.toNat 16 15 == 0
/-- The barriers a completion word names are accepted (R240). -/
def cwBarsOk (e : Word) : Bool := (!cwBV e || barOk (cwBAR e)) && (!cwSBV e || barOk (cwSBAR e))

/-- The fields of a copy control word (Table 10.6). -/
def ccDSP (b : Word) : Nat := bits b.toNat 62 2
/-- SSP. -/
def ccSSP (b : Word) : Nat := bits b.toNat 60 2
/-- TCORE. -/
def ccTCORE (b : Word) : Nat := bits b.toNat 52 8
/-- CONV. -/
def ccCONV (b : Word) : Bool := bitAt b.toNat 51
/-- DFMT. -/
def ccDFMT (b : Word) : Nat := bits b.toNat 46 5
/-- SFMT. -/
def ccSFMT (b : Word) : Nat := bits b.toNat 41 5
/-- POL. -/
def ccPOL (b : Word) : Nat := bits b.toNat 39 2
/-- RM. -/
def ccRM (b : Word) : Nat := bits b.toNat 36 3
/-- FE. -/
def ccFE (b : Word) : Nat := bits b.toNat 34 2
/-- N. -/
def ccN (b : Word) : Nat := bits b.toNat 0 34

/-- A format code is an MX format. -/
def codeIsMx (c : Nat) : Bool := 0x08 ≤ c && c ≤ 0x0D

/-- The bits n elements of a format code take at one side; raw fields of a bank take the width of its BFMT (R61, R228, R229). -/
def spanBits (code ew n : Nat) : Nat :=
  if codeIsMx code then (if code = 0x0D then 138 else recordBits code) * (n / 32)
  else match Fmt.ofCode code with | some f => if ew = 0 then Fmt.width f * n else ew * n | none => ew * n

/-- The format of a side of a copy on core k as the check sees it: its code and, for raw fields of a bank, their width. -/
def Core.sideFmt (k : Core) (space code a : Nat) : Nat × Nat :=
  if space = 0 then
    let f := k.bankFmt a
    if bfmtTyped f then (bfmtFmt f, 0) else (0x1F, bfmtEw f + 1)
  else (code, 0)

/-- The bits one side of a copy covers. -/
def Core.sideSpan (k : Core) (conv : Bool) (space code a n : Nat) : Nat :=
  if conv then let f := k.sideFmt space code a; spanBits f.1 f.2 n else n

/-- The physical core that the loader bound to a logical core of the focused context's kernel (R233); its own core while no kernel is known. -/
def State.coreOf (s : State) (l : Nat) : Nat :=
  match s.ctx.kernel with
  | some k => (match assoc? s.dev.kernels k with | some x => x.place.getD l s.phys / 2 | none => s.coreNo)
  | none => s.coreNo

/-- The core a copy writes into: its own, or that of TCORE, whose bank formats an xfer uses (R233). -/
def State.targetCore (s : State) (op : Nat) (b : Word) : Core :=
  if op = 0 then s.core else (s.focusCore (s.coreOf (ccTCORE b))).core

/-- The FORMAT check of R228 (Table 10.8, first row). -/
def State.copyFormatOk (s : State) (op : Nat) (b e src dst : Word) : Bool :=
  let conv := ccCONV b
  ccDSP b != 3 && ccSSP b != 3 && ccRM b != 6 && ccFE b != 3 && cwReserved e &&
  !(ccFE b != 0 && ccSSP b != 0) &&
  !(op == 1 && (ccDSP b == 2 || ccSSP b == 2)) &&
  !(ccDSP b == 0 && ccDFMT b != 0) && !(ccSSP b == 0 && ccSFMT b != 0) &&
  (conv || (ccDFMT b == 0 && ccSFMT b == 0)) &&
  !(conv && ccPOL b == 3) &&
  !(conv && ccDSP b != 0 && (Fmt.ofCode (ccDFMT b)).isNone) && !(conv && ccSSP b != 0 && (Fmt.ofCode (ccSFMT b)).isNone) &&
  !(conv && ccN b % 32 != 0 &&
    (codeIsMx ((s.targetCore op b).sideFmt (ccDSP b) (ccDFMT b) dst.toNat).1 || codeIsMx (s.core.sideFmt (ccSSP b) (ccSFMT b) src.toNat).1))

/-- The first address a copy's local ranges offend with (Table 10.8): beyond its space, or where source and destination of one space of one core overlap. -/
def localOffence (dsp ssp : Nat) (dst dspan src sspan : Nat) (sameCore : Bool) : Option Nat :=
  if dsp ≠ 2 ∧ dst + dspan > (spaceOf dsp).size then some dst
  else if ssp ≠ 2 ∧ src + sspan > (spaceOf ssp).size then some src
  else if dsp ≠ 2 ∧ dsp = ssp ∧ sameCore ∧ dspan ≠ 0 ∧ sspan ≠ 0 ∧ dst < src + sspan ∧ src < dst + dspan then some dst
  else none

/-- The number of a command of the slot at work, unique among those of its context. -/
def State.newCommand (s : State) : Nat := s.accNo

/-- The entry of the pool an engine command waits for and then takes (R225, R226). -/
def stageCommand (queue : Nat) (c : Command) : Act Unit := do
  let s ← get
  let staged := s.bundle.effects.filterMap fun e => match e with | .command x => some x | _ => none
  hold (({ s.core.pool with cmds := s.core.pool.cmds ++ staged }).room queue s.phys)
  stage (.command c)

/-- The rounding mode a command takes at issue: DYN reads FRM (Table 10.6). -/
def resolveRm (rm : Nat) (frm : Nat) : Nat := if rm = 7 then frm else rm

/-- cpy and xfer: the checks of Table 10.8 in its order, then an entry of the pool (R227, R228). -/
def copyCommand (op : Nat) (iss : Bool) (ord : Fin 16) (d a b : Fin 32) (s : State) : Host.Outcome State Fault Refusal :=
  runSlot (do
    let dst ← readReg d.val
    let src ← readReg a.val
    let cc ← readReg b.val
    let cw ← readReg (b.val + 1)
    let s ← get
    if op = 0 ∧ ccDSP cc = 2 then await (!s.ctx.busy (.h (bits cc.toNat 56 4)))
    if op = 0 ∧ ccSSP cc = 2 then await (!s.ctx.busy (.h (bits cc.toNat 52 4)))
    check (s.copyFormatOk op cc cw src dst) .format (if cwReserved cw then cc else cw)
    let hd := bits cc.toNat 56 4
    let hs := bits cc.toNat 52 4
    let hdv := if op = 0 ∧ ccDSP cc = 2 then s.ctx.regs.readH hd else 0
    let hsv := if op = 0 ∧ ccSSP cc = 2 then s.ctx.regs.readH hs else 0
    check (ccSSP cc != 2 || (hUsable hsv && hRd hsv)) .invhandle (word hs)
    check (ccDSP cc != 2 || (hUsable hdv && hWr hdv)) .invhandle (word hd)
    check (cwBarsOk cw) .illegalUse cw
    check (op == 0 || ccTCORE cc < s.ctx.kcores) .illegalUse (word (ccTCORE cc))
    let dspan := (s.targetCore op cc).sideSpan (ccCONV cc) (ccDSP cc) (ccDFMT cc) dst.toNat (ccN cc)
    let sspan := s.core.sideSpan (ccCONV cc) (ccSSP cc) (ccSFMT cc) src.toNat (ccN cc)
    match localOffence (ccDSP cc) (ccSSP cc) dst.toNat dspan src.toNat sspan (op == 0 || ccTCORE cc == s.ctx.lcore) with
    | some x => raise .illegalUse (word x)
    | none =>
      check (ccSSP cc != 2 || src.toNat + sspan ≤ hSize hsv) .bounds src
      check (ccDSP cc != 2 || dst.toNat + dspan ≤ hSize hdv) .bounds dst
      stageCommand (if op = 0 then 0 else 1)
        { queue := if op = 0 then 0 else 1, ctx := s.phys, lcore := s.ctx.lcore, tag := s.ctx.gen, op := op, order := ord.val,
          issuer := iss, a := src, b := cc, d := dst, e := cw, hsrc := hsv, hdst := hdv,
          frm := resolveRm (ccRM cc) s.ctx.fp.frm.toNat, seed := s.ctx.fp.seed, sctr := s.ctx.fp.sctr, pc := s.bundle.pc,
          older := s.accNo, id := s.newCommand,
          target := if op = 0 then s.coreNo else s.coreOf (ccTCORE cc), started := false, left := 0 }) s

/-- cpy (R227). -/
def execCpy (iss : Bool) (ord : Fin 16) (d a b : Fin 32) (s : State) : Host.Outcome State Fault Refusal := copyCommand 0 iss ord d a b s
/-- xfer (R227, R233). -/
def execXfer (iss : Bool) (ord : Fin 16) (d a b : Fin 32) (s : State) : Host.Outcome State Fault Refusal := copyCommand 1 iss ord d a b s

/-! ## Rings at commit, at a loop step and at a park (R210 to R217) -/

/-- The window of a READ ring discarded: with FE = 2 the granules it emptied are set full again (R212). -/
def State.discard (s : State) (q : Nat) : State :=
  let r := s.ctx.ring q
  let s := if r.mode = 2 ∧ r.fe = 2 then s.onCore fun c => r.window.foldl (fun c w => c.fill w.addr r.size) c else s
  s.onCtx fun c => { c with
    rings := c.rings.set q { r with window := [] }
    gq := c.gq.filter fun a => match a.kind with | .ringRead k _ => k != q | _ => true }

/-- A pop commits (R210, R214). -/
def Ring.popped (r : Ring) : Ring :=
  if r.mode = 1 then { r with head := (r.head + 1) % r.capacity, count := r.count - 1 }
  else { r with cur := r.addrAt 1, window := r.window.tail }

/-- A push is allocated (R210, R214). -/
def Ring.pushed (r : Ring) : Ring :=
  if r.mode = 1 then { r with alloc := r.alloc + 1 } else { r with alloc := r.alloc + 1, cur := r.addrAt 1 }

/-- The ring step of level k for ring n (R216). -/
def State.ringStep (s : State) (k n : Nat) : State :=
  let r := s.ctx.ring n
  let x := s.ctx.loops.strides.getD (16 * k + n) 0
  if (r.mode = 2 ∨ r.mode = 3) ∧ x ≠ 0 then
    let s := s.discard n
    s.onCtx fun c => { c with rings := c.rings.set n { c.ring n with cur := r.cur + wordI x } }
  else s

/-- IterationEnd(k) of R216: the step of every ring. -/
def State.iterationEnd (s : State) (k : Nat) : State := (List.range 16).foldl (fun t n => t.ringStep k n) s

/-- What a push of a binding writes at an address (R209): narrowed where the format of its bank says so. -/
def Ring.written (r : Ring) (c : Core) (addr v : Nat) : BitWrite :=
  let x := r.asWritten c addr
  { addr := addr, width := x.size, val := if x.elem = 1 ∧ x.widen ≠ 0 then narrowLanes v else v % 2 ^ x.size }

/-- Where a push of ring q still goes that is bound anew: its space, its width and its address (R219, R220). -/
def Ring.leaves (r : Ring) (q addr : Nat) : Dest :=
  .bits q r.spaceNo r.size ((if r.spaceNo = 2 then hBase r.copy else 0) + addr) (hLeaf r.copy) (r.fe == 1) (r.elem == 1 && r.mode == 3)

/-- A push that has entered ring q, as an access of its own. -/
def Ring.loose (r : Ring) (q : Nat) (c : Core) (slot : Nat) (w : RingWrite) : LocalAcc :=
  { slot := slot, left := w.left, slow := w.slow, space := spaceOf r.spaceNo, writes := [r.written c w.addr w.val],
    setFull := r.fe == 1, atomic := none, dest := .none, order := 0, bno := w.bno, pc := 0, push := some (q, w.seq) }

/-- Pending pushes of ring q that a new binding leaves behind still perform to their addresses (R219, R220): those in flight keep their space and width, those entered go to their bank, those in the store queue count in the ring no more. DESIGN CHOICE (log 104): they take no room of the new binding and do not show in its PEND. -/
def State.detachPushes (s : State) (q : Nat) : State :=
  let r := s.ctx.ring q
  let f := fun (p : Pending) => if p.dest = .ring q then { p with dest := r.leaves q p.addr } else p
  let s := s.onCtx fun c => { c with
    pend := c.pend.map f
    late := c.late.map f
    gq := c.gq.map fun g =>
      let g := if g.kind = .ringPush q then { g with kind := .oldPush q } else g
      match g.dest with
      | .ringAt k a => if k = q then { g with dest := r.leaves q a } else g
      | _ => g }
  s.onCore fun c => { c with locals := c.locals ++ r.buf.map (r.loose q c s.slot) }

/-- qbind commits (R219), with the handle copy it took at issue (R215). -/
def State.commitQbind (s : State) (q : Nat) (a w : Word) (copy : HandleBits) : State :=
  let r := { s.bindRing a w with copy := copy }
  let t := (s.discard q).detachPushes q
  t.onCtx fun c => { c with rings := c.rings.set q r }

/-- qunb commits (R220). -/
def State.commitQunb (s : State) (q : Nat) : State :=
  ((s.discard q).detachPushes q).onCtx fun c => { c with rings := c.rings.set q .unbound }

/-- qadv commits (R221). -/
def State.commitQadv (s : State) (q n : Nat) : State :=
  let r := s.ctx.ring q
  if r.mode = 1 then
    s.onCtx fun c => { c with rings := c.rings.set q { r with head := (r.head + n) % r.capacity, count := r.count - n } }
  else
    (s.discard q).onCtx fun c => { c with rings := c.rings.set q { c.ring q with cur := r.addrAt n } }

end Sys2Proof.Machine
end

