-- ==== Sys2Proof/Machine/Float.lean ====
section
/-! DEFINITION. Float.lean: the floating-point elements, rounding, the draws of stochastic rounding and the conversions between element formats (R48 to R54, R68 to R70). A real value is exact: a sign and a fraction of two naturals. -/

namespace Sys2Proof.Machine

/-- The value of an element: a NaN, an infinity, or an exact number, a signed fraction num / den with den > 0 that keeps the sign of its zero. -/
inductive Exact where
  | nan (signalling : Bool)
  | inf (neg : Bool)
  | fin (neg : Bool) (num den : Nat)
deriving DecidableEq, Repr

/-- A floating-point format (Table 3.2): the widths of its exponent and fraction fields and its bias; FP8E4 has no infinities. -/
structure FloatSpec where
  eb   : Nat
  fb   : Nat
  bias : Nat
  noInf : Bool
deriving DecidableEq, Repr

/-- The formats of Table 3.2. -/
def FloatFmt.spec : FloatFmt → FloatSpec
  | .fp32 => ⟨8, 23, 127, false⟩
  | .bf16 => ⟨8, 7, 127, false⟩
  | .fp16 => ⟨5, 10, 15, false⟩
  | .fp8e4 => ⟨4, 3, 7, true⟩
  | .fp8e5 => ⟨5, 2, 15, false⟩

/-- The float format of a format code, if it is one. -/
def Fmt.float? : Fmt → Option FloatFmt
  | .fp32 => some .fp32 | .bf16 => some .bf16 | .fp16 => some .fp16 | .fp8e4 => some .fp8e4 | .fp8e5 => some .fp8e5
  | _ => none

/-- The width of an element. -/
def FloatSpec.width (f : FloatSpec) : Nat := 1 + f.eb + f.fb
/-- The precision p (Table 3.2). -/
def FloatSpec.p (f : FloatSpec) : Nat := f.fb + 1
/-- Emin (Table 3.2). -/
def FloatSpec.emin (f : FloatSpec) : Int := 1 - f.bias
/-- The sign bit in place. -/
def FloatSpec.sign (f : FloatSpec) (neg : Bool) : Nat := if neg then 2 ^ (f.eb + f.fb) else 0
/-- The canonical NaN (Table 3.2, R50). -/
def FloatSpec.nan (f : FloatSpec) : Nat :=
  if f.noInf then 2 ^ (f.eb + f.fb) - 1 else (2 ^ f.eb - 1) * 2 ^ f.fb + 2 ^ (f.fb - 1)
/-- An infinity (R49). -/
def FloatSpec.inf (f : FloatSpec) (neg : Bool) : Nat := f.sign neg + (2 ^ f.eb - 1) * 2 ^ f.fb
/-- The largest finite magnitude (Table 3.2). -/
def FloatSpec.maxFinite (f : FloatSpec) : Nat :=
  if f.noInf then 2 ^ (f.eb + f.fb) - 2 else (2 ^ f.eb - 1) * 2 ^ f.fb - 1

/-- The fraction num × 2^e / den as a fraction of naturals. -/
def scale2 (num den : Nat) (e : Int) : Nat × Nat :=
  if 0 ≤ e then (num * 2 ^ e.toNat, den) else (num, den * 2 ^ (-e).toNat)

/-- A finite value num × 2^e. -/
def Exact.dyadic (neg : Bool) (num : Nat) (e : Int) : Exact := .fin neg (scale2 num 1 e).1 (scale2 num 1 e).2

/-- The value of an encoding (R49, R50). -/
def FloatSpec.decode (f : FloatSpec) (x : Nat) : Exact :=
  let neg := bitAt x (f.eb + f.fb)
  let e := bits x f.fb f.eb
  let m := bits x 0 f.fb
  if e = 2 ^ f.eb - 1 ∧ !f.noInf then
    if m = 0 then .inf neg else .nan (!bitAt m (f.fb - 1))
  else if e = 2 ^ f.eb - 1 ∧ m = 2 ^ f.fb - 1 then .nan false
  else if e = 0 then Exact.dyadic neg m (1 - f.bias - f.fb)
  else Exact.dyadic neg (2 ^ f.fb + m) ((e : Int) - f.bias - f.fb)

/-- floor(log2(num / den)) of a positive fraction. -/
def fracLog2 (num den : Nat) : Int :=
  let k : Int := (num.log2 : Int) - den.log2
  let s := scale2 num den (-k)
  if s.1 ≥ s.2 then k else k - 1

/-- RoundInt of R52 on the fraction num / den: mode as Table 3.3, neg the sign of the value, r the draw of SR. -/
def roundInt (mode num den : Nat) (neg : Bool) (r : Nat) : Nat :=
  let lo := num / den
  let rem := num % den
  if rem = 0 then lo
  else
    match mode with
    | 0 => if 2 * rem < den then lo else if 2 * rem > den then lo + 1 else if lo % 2 = 0 then lo else lo + 1
    | 1 => if 2 * rem ≥ den then lo + 1 else lo
    | 2 => lo
    | 3 => if neg then lo else lo + 1
    | 4 => if neg then lo + 1 else lo
    | _ => if r * den < rem * 2 ^ 24 then lo + 1 else lo

/-- The encoding of the magnitude m × 2^q, where m has at most p bits or is 2^p and q is the quantum of R52; none beyond the largest finite value. -/
def FloatSpec.encodeMag (f : FloatSpec) (m : Nat) (q : Int) : Option Nat :=
  let n := if m = 2 ^ f.p then (m / 2, q + 1) else (m, q)
  if n.1 < 2 ^ f.fb then some n.1
  else
    let e := n.2 + f.fb + f.bias
    let x := e.toNat * 2 ^ f.fb + (n.1 - 2 ^ f.fb)
    if x > f.maxFinite then none else some x

/-- RoundTo of R52: the encoding and the flags. -/
def roundTo (f : FloatSpec) (mode : Nat) (x : Exact) (r : Nat) : Nat × Nat :=
  match x with
  | .nan _ => (f.nan, 0)
  | .inf neg => if f.noInf then (f.nan, 16) else (f.inf neg, 0)
  | .fin neg num den =>
    if num = 0 then (f.sign neg, 0)
    else
      let e := fracLog2 num den
      let q := max e f.emin - f.p + 1
      let s := scale2 num den (-q)
      let m := roundInt mode s.1 s.2 neg r
      let t := scale2 num den (-(e - f.p + 1))
      let mt := roundInt mode t.1 t.2 neg r
      let tiny := e < f.emin && !(e + 1 == f.emin && mt == 2 ^ f.p)
      let inexact := m * s.2 != s.1
      let fl := if inexact then (if tiny then 3 else 1) else 0
      match f.encodeMag m q with
      | some v => (f.sign neg + v, fl)
      | none =>
        if mode = 2 ∨ (mode = 3 ∧ neg) ∨ (mode = 4 ∧ !neg) then (f.sign neg + f.maxFinite, fl ||| 5)
        else if f.noInf then (f.nan, fl ||| 5)
        else (f.inf neg, fl ||| 5)

/-- R53: a value converted to an integer of range [lo, hi], with the flags. -/
def toInteger (mode : Nat) (x : Exact) (lo hi : Int) (r : Nat) : Int × Nat :=
  match x with
  | .nan _ => (0, 16)
  | .inf neg => (if neg then lo else hi, 16)
  | .fin neg num den =>
    let m : Int := roundInt mode num den neg r
    let n := if neg then -m else m
    if n < lo ∨ n > hi then (saturate n lo hi, 16)
    else (n, if (roundInt mode num den neg r) * den = num then 0 else 1)

/-- An integer as an exact value. -/
def Exact.ofInt (x : Int) : Exact := .fin (x < 0) x.natAbs 1

/-- IV for a signalling NaN operand (R50). -/
def Exact.ivOf (x : Exact) : Nat := match x with | .nan true => 16 | _ => 0
/-- A NaN. -/
def Exact.isNan (x : Exact) : Bool := match x with | .nan _ => true | _ => false
/-- The sign of a value. -/
def Exact.neg? (x : Exact) : Bool := match x with | .nan _ => false | .inf n => n | .fin n _ _ => n
/-- The value with its sign changed. -/
def Exact.negate (x : Exact) : Exact := match x with | .nan s => .nan s | .inf n => .inf (!n) | .fin n a b => .fin (!n) a b

/-- The exact sum of two finite values; an exact zero takes the sign R313 gives, which RDN decides. -/
def finAdd (rdn : Bool) (n1 : Bool) (a b : Nat) (n2 : Bool) (c d : Nat) : Exact :=
  let x : Int := (if n1 then -1 else 1) * (a * d : Nat) + (if n2 then -1 else 1) * (c * b : Nat)
  if x = 0 then .fin (if a = 0 ∧ c = 0 ∧ n1 = n2 then n1 else rdn) 0 1
  else .fin (x < 0) x.natAbs (b * d)

/-- a + b with the flags of special operands (R313). -/
def realAdd (rdn : Bool) (x y : Exact) : Exact × Nat :=
  match x, y with
  | .nan _, _ => (.nan false, x.ivOf ||| y.ivOf)
  | _, .nan _ => (.nan false, x.ivOf ||| y.ivOf)
  | .inf n, .inf m => if n = m then (.inf n, 0) else (.nan false, 16)
  | .inf n, .fin .. => (.inf n, 0)
  | .fin .., .inf m => (.inf m, 0)
  | .fin n a b, .fin m c d => (finAdd rdn n a b m c d, 0)

/-- a × b with the flags of special operands (R313). -/
def realMul (x y : Exact) : Exact × Nat :=
  match x, y with
  | .nan _, _ => (.nan false, x.ivOf ||| y.ivOf)
  | _, .nan _ => (.nan false, x.ivOf ||| y.ivOf)
  | .inf n, .inf m => (.inf (n != m), 0)
  | .inf n, .fin m c _ => if c = 0 then (.nan false, 16) else (.inf (n != m), 0)
  | .fin n a _, .inf m => if a = 0 then (.nan false, 16) else (.inf (n != m), 0)
  | .fin n a b, .fin m c d => (.fin (n != m) (a * c) (b * d), 0)

/-- a × b + c, rounded once by its caller: 0 × ∞ sets IV even beside a quiet NaN (R313). -/
def realFma (rdn : Bool) (x y z : Exact) : Exact × Nat :=
  let p := realMul x y
  let q := realAdd rdn p.1 z
  (q.1, p.2 ||| q.2 ||| z.ivOf)

/-- a < b of two values; false beside a NaN (R315). -/
def realLt (x y : Exact) : Bool :=
  match x, y with
  | .nan _, _ => false
  | _, .nan _ => false
  | .inf n, .inf m => n && !m
  | .inf n, .fin .. => n
  | .fin .., .inf m => !m
  | .fin n a b, .fin m c d =>
    (if n then -1 else 1) * ((a * d : Nat) : Int) < (if m then -1 else 1) * ((c * b : Nat) : Int)

/-- a = b of two values; −0 equals +0 (R315). -/
def realEq (x y : Exact) : Bool := !x.isNan && !y.isNan && !realLt x y && !realLt y x

/-- One round of Mix (R68). -/
def mixRound (seed x : Word) : Word :=
  let x := x ^^^ (x >>> 29)
  let x := x * 0x8CB92BA72F3D8DD7
  let x := x ^^^ (x >>> 32)
  let x := x * 0xD35A2D974C6E1B2B
  let x := x ^^^ (x >>> 30)
  x + seed

/-- Mix(seed, ctr) of R68. -/
def mix (seed ctr : Word) : Word :=
  mixRound seed (mixRound seed (mixRound seed (seed ^^^ (ctr * 0x9E3779B97F4A7C15))))

/-- Draw(i): the 24-bit draw of the element with global index i (R68). -/
def srDraw (seed sctr : Word) (i : Nat) : Nat := bits (mix seed (sctr + word i)).toNat 40 24

/-- The rounding modes of Table 3.3 in force: rm, or FRM for DYN (R51). -/
def modeOf (rm : Rnd) (frm : Nat) : Nat := if rm = .dyn then frm else rm.code

/-- The mode of an instruction that is no conversion: SR rounds as RNE (R51). -/
def modeNoSr (rm : Rnd) (frm : Nat) : Nat := if modeOf rm frm = 5 then 0 else modeOf rm frm

/-! ## Elements of any lane format (R48, R310, R320) -/

/-- An integer format is signed. -/
def Fmt.signed : Fmt → Bool
  | .s8 | .s16 | .s32 | .s64 => true | _ => false

/-- The exact value of an element; 8-bit elements lie in the low bits of their lane (R310). -/
def Fmt.value (t : Fmt) (x : Nat) : Exact :=
  match Fmt.float? t with
  | some f => (FloatFmt.spec f).decode (x % 2 ^ (FloatFmt.spec f).width)
  | none => .ofInt (if Fmt.signed t then sext x (Fmt.width t) else (x % 2 ^ Fmt.width t : Nat))

/-- The range of an integer format. -/
def Fmt.range (t : Fmt) : Int × Int :=
  if Fmt.signed t then (-2 ^ (Fmt.width t - 1), 2 ^ (Fmt.width t - 1) - 1) else (0, 2 ^ Fmt.width t - 1)

/-- An integer result placed in a lane: its low bits, sign-extended to 16 bits for s8 (R310). -/
def Fmt.place (t : Fmt) (x : Int) : Nat := if t = .s8 then uns (sext (uns x 8) 8) 16 else uns x (Fmt.width t)

/-- One element converted between lane formats (R320): the lane value and the flags. -/
def convert (dst src : Fmt) (mode x r : Nat) : Nat × Nat :=
  match Fmt.float? dst with
  | some f =>
    let v := Fmt.value src x
    let y := roundTo (FloatFmt.spec f) mode v r
    (y.1, y.2 ||| v.ivOf)
  | none =>
    if (Fmt.float? src).isSome then
      let y := toInteger mode (Fmt.value src x) (Fmt.range dst).1 (Fmt.range dst).2 r
      (Fmt.place dst y.1, y.2)
    else
      (Fmt.place dst (if Fmt.signed src then sext x (Fmt.width src) else (x % 2 ^ Fmt.width src : Nat)), 0)

/-- The lane width of a format: 32 for FP32, s32 and n32, 16 otherwise (R320). -/
def Fmt.lane32 : Fmt → Bool
  | .fp32 | .s32 | .n32 => true | _ => false

end Sys2Proof.Machine
end

