-- ==== Sys2Proof/Machine/Mx.lean ====
section
/-! DEFINITION. Mx.lean: the shared scale S10, the MX block records, their decoding and their quantisation (R55 to R62). Formats stand as their codes of Table 3.1, which descriptors hold too. -/

namespace Sys2Proof.Machine

/-- The element width of an MX format code (Table 3.5). -/
def mxWidth : Nat → Nat
  | 0x08 => 8 | 0x09 => 6 | 0x0C => 3 | _ => 4

/-- S10Value (R55) as a fraction; the NaN scale is no value. -/
def s10Value (t : Nat) : Nat × Nat := scale2 (4 + t % 4) 4 ((t / 4 : Nat) - 127)

/-- The magnitudes of MXF4 in halves (R57). -/
def mxf4Halves : Nat → Nat
  | 0 => 0 | 1 => 1 | 2 => 2 | 3 => 3 | 4 => 4 | 5 => 6 | 6 => 8 | _ => 12

/-- The code of an MXF4 magnitude in halves (R57). -/
def mxf4Code : Nat → Nat
  | 0 => 0 | 1 => 1 | 2 => 2 | 3 => 3 | 4 => 4 | 6 => 5 | 8 => 6 | _ => 7

/-- The integer a code of an MX format stands for, in units of u(F) or for MXF4 of one half, under a substitute policy (R57, R59). -/
def mxInt (f pol code : Nat) : Int :=
  if f = 0x0B then (if bitAt code 3 then -(mxf4Halves (code % 8) : Int) else mxf4Halves (code % 8))
  else
    let w := mxWidth f
    let x := sext code w
    if x = -2 ^ (w - 1) then (if pol = 0 then x else if pol = 1 then x + 1 else 0) else x

/-- The unit of mxInt as a power of two: u(F) is 2^−(w−2), and one half for MXF4 (Table 3.5). -/
def mxUnit (f : Nat) : Int := if f = 0x0B then -1 else 2 - (mxWidth f : Int)

/-- A record as its scale and its 32 codes. -/
structure Record where
  scale : Nat
  codes : List Nat
deriving DecidableEq, Repr

/-- The codes of an MXI4Z record: code j of those its bitmap marks, 0 for the others (R58). -/
def bitmapCodes (bm : Nat) (x : Nat) : Nat → List Nat
  | 0 => []
  | n + 1 => if bm % 2 = 1 then x % 16 :: bitmapCodes (bm / 2) (x / 16) n else 0 :: bitmapCodes (bm / 2) x n

/-- A record read from the low bits of x (R56, R58). -/
def readRecord (f x : Nat) : Record :=
  if f = 0x0D then { scale := bits x 0 10, codes := bitmapCodes (bits x 10 32) (x / 2 ^ 42) 32 }
  else { scale := bits x 0 10, codes := chunks (mxWidth f) 32 (x / 2 ^ 10) }

/-- The length in bits of the record in the low bits of x (Table 3.5). -/
def recordLen (f x : Nat) : Nat := if f = 0x0D then 42 + 4 * popCount 32 (bits x 10 32) else recordBits f

/-- A record packed; MXI4Z canonically (R56, R58). -/
def Record.pack (f : Nat) (r : Record) : Nat :=
  if f = 0x0D then
    bits r.scale 0 10 + unchunks 1 (r.codes.map fun c => if c = 0 then 0 else 1) * 2 ^ 10 +
      unchunks 4 (r.codes.filter (· != 0)) * 2 ^ 42
  else bits r.scale 0 10 + unchunks (mxWidth f) r.codes * 2 ^ 10

/-- The bits a packed record takes. -/
def Record.len (f : Nat) (r : Record) : Nat := if f = 0x0D then 42 + 4 * (r.codes.filter (· != 0)).length else recordBits f

/-- The exact value of an element of a record (R56, R57, R60). -/
def Record.value (f pol : Nat) (r : Record) (i : Nat) : Exact :=
  if r.scale = 0x3FF then .nan false
  else
    let c := r.codes.getD i 0
    let n := mxInt f pol c
    let s := s10Value r.scale
    let u := scale2 (s.1 * n.natAbs) s.2 (mxUnit f)
    .fin (if f = 0x0B then bitAt c 3 else n < 0) u.1 u.2

/-- Grid of R62 for a magnitude num / den in the unit of mxInt: integers, or for MXF4 the E2M1 grid with no overflow step. -/
def mxGrid (f mode num den : Nat) (neg : Bool) (r : Nat) : Nat :=
  if f = 0x0B then
    if num = 0 then 0
    else
      -- the quantum is 2^(max(e, 0) − 1); in halves it is 2^max(e, 0), where num / (2 den) lies in [2^e, 2^(e+1))
      let q := (max (fracLog2 num (2 * den)) 0).toNat
      roundInt mode num (den * 2 ^ q) neg r * 2 ^ q
  else roundInt mode num den neg r

/-- The quantisation range in the unit of mxInt (Table 3.6). -/
def mxRange (f pol : Nat) : Int × Int :=
  if f = 0x0B then (-12, 12)
  else
    let m : Int := 2 ^ (mxWidth f - 1)
    (if pol = 0 then -m else 1 - m, m - 1)

/-- x / (S10Value(t) × u(F)) as a magnitude, in the unit of mxInt (R62). -/
def mxQuotient (f t num den : Nat) : Nat × Nat :=
  let s := s10Value t
  scale2 (num * s.2) (den * s.1) (-mxUnit f)

/-- The fitting test of one element at scale t (R62). -/
def mxFits (f mode pol t : Nat) (x : Exact) : Bool :=
  match x with
  | .fin neg num den =>
    let v := mxQuotient f t num den
    let g : Int := mxGrid f (if mode = 5 then 3 else mode) v.1 v.2 (mode != 5 && neg) 0
    let c := if neg then -g else g
    (mxRange f pol).1 ≤ c && c ≤ (mxRange f pol).2
  | _ => false

/-- One element of QuantiseBlock at the chosen scale: its code and flags (R62). -/
def mxEncode (f mode pol t : Nat) (x : Exact) (r : Nat) : Nat × Nat :=
  match x with
  | .fin neg num den =>
    let v := mxQuotient f t num den
    let g : Int := mxGrid f mode v.1 v.2 neg r
    let c := saturate (if neg then -g else g) (mxRange f pol).1 (mxRange f pol).2
    let fl := (if c.natAbs * v.2 = v.1 then 0 else flagNX) ||| (if num ≠ 0 ∧ c = 0 then flagUF else 0)
    (if f = 0x0B then mxf4Code c.natAbs + (if neg then 8 else 0) else uns c (mxWidth f), fl)
  | _ => (0, 0)

/-- A value that makes a block a NaN block (R62). -/
def Exact.special (x : Exact) : Bool := match x with | .fin .. => false | _ => true

/-- Quantising such a value sets IV: a signalling NaN or an infinity. -/
def Exact.specialIv (x : Exact) : Bool := match x with | .nan true => true | .inf _ => true | _ => false

/-- QuantiseBlock of R62 with the draw of each element: the record and the flags. -/
def quantiseBlock (f mode pol : Nat) (xs : List Exact) (draws : Nat → Nat) : Record × Nat :=
  if xs.any Exact.special then
    ({ scale := 0x3FF, codes := List.replicate 32 0 }, if xs.any Exact.specialIv then flagIV else 0)
  else
    let fit := (List.range 0x3FF).find? fun t => xs.all (mxFits f mode pol t)
    let t := fit.getD 0x3FE
    let es := xs.mapIdx fun i x => mxEncode f mode pol t x (draws i)
    ({ scale := t, codes := es.map Prod.fst }, orFlags (es.map Prod.snd) ||| (if fit.isNone then flagOF else 0))

end Sys2Proof.Machine
end

