-- ==== Sys2Proof/Machine/Vector.lean ====
section
/-! DEFINITION. Vector.lean: the lane instructions on vectors and masks (R310 to R321). -/

namespace Sys2Proof.Machine

/-- The lanes of a vector in the view of 16 or of 32 bits (R310). -/
def lanesOf (w32 : Bool) (x : Wide) : List Nat := if w32 then chunks 32 32 x.toNat else chunks 16 64 x.toNat

/-- A vector of lanes. -/
def ofLanes (w32 : Bool) (l : List Nat) : Wide := BitVec.ofNat 1024 (unchunks (if w32 then 32 else 16) l)

/-- A mask of lane conditions, lane 0 first. -/
def maskOf (l : List Bool) : Nat := unchunks 1 (l.map Bool.toNat)

/-- The lane bits of a view. -/
def laneW (w32 : Bool) : Nat := if w32 then 32 else 16

/-! ## Floating-point lanes (R312 to R315) -/

/-- The lanes of a float format are 32 bits wide. -/
def FloatFmt.is32 (f : FloatFmt) : Bool := f == .fp32

/-- The latency of the float lane instructions (Table 4.8). -/
def FloatFmt.lat (f : FloatFmt) : Nat := if f = .fp32 then 5 else 4

/-- The exact value of a lane of a float format (R310). -/
def FloatFmt.value (f : FloatFmt) (x : Nat) : Exact := (FloatFmt.spec f).decode (x % 2 ^ (FloatFmt.spec f).width)

/-- An exact result with its flags rounded into a lane. -/
def FloatFmt.round (f : FloatFmt) (mode : Nat) (x : Exact × Nat) : Nat × Nat :=
  let y := roundTo (FloatFmt.spec f) mode x.1 0
  (y.1, x.2 ||| y.2)

/-- A lane instruction with two vector sources: the lane results and flags. -/
def floatLanes2 (f : FloatFmt) (op : Nat → Nat → Nat × Nat) (d : Dst) (a b : Src) (s : State) : Host.Outcome State Fault Refusal :=
  runSlot (do
    let x ← readV a
    let y ← readV b
    readyV d
    let r := List.zipWith op (lanesOf (FloatFmt.is32 f) x) (lanesOf (FloatFmt.is32 f) y)
    putV d (FloatFmt.lat f) (ofLanes (FloatFmt.is32 f) (r.map Prod.fst)) (raising (orFlags (r.map Prod.snd)))) s

/-- The mode of a lane instruction: rm, or FRM, with SR read as RNE (R312). -/
def State.laneMode (s : State) (rm : Rnd) : Nat := modeNoSr rm s.ctx.fp.frm.toNat

/-- fadd (R312, R313). -/
def execFadd (f : FloatFmt) (rm : Rnd) (d : Dst) (a b : Src) (s : State) : Host.Outcome State Fault Refusal :=
  floatLanes2 f (fun x y => FloatFmt.round f (s.laneMode rm) (realAdd (s.laneMode rm == 4) (FloatFmt.value f x) (FloatFmt.value f y))) d a b s
/-- fsub (R312, R313). -/
def execFsub (f : FloatFmt) (rm : Rnd) (d : Dst) (a b : Src) (s : State) : Host.Outcome State Fault Refusal :=
  floatLanes2 f (fun x y => FloatFmt.round f (s.laneMode rm) (realAdd (s.laneMode rm == 4) (FloatFmt.value f x) (FloatFmt.value f y).negate)) d a b s
/-- fmul (R312, R313). -/
def execFmul (f : FloatFmt) (rm : Rnd) (d : Dst) (a b : Src) (s : State) : Host.Outcome State Fault Refusal :=
  floatLanes2 f (fun x y => FloatFmt.round f (s.laneMode rm) (realMul (FloatFmt.value f x) (FloatFmt.value f y))) d a b s

/-- A fused lane instruction: vd is a source as well (R311, R312). -/
def floatFused (f : FloatFmt) (rm : Rnd) (negProd negAdd : Bool) (d : Fin 32) (a b : Src) (s : State) : Host.Outcome State Fault Refusal :=
  runSlot (do
    let x ← readV a
    let y ← readV b
    let z ← readVReg d.val
    readyDest (.v d.val)
    let s ← get
    let mode := s.laneMode rm
    let lane := fun (p : Nat × Nat) (c : Nat) =>
      let u := FloatFmt.value f p.1
      let w := FloatFmt.value f c
      FloatFmt.round f mode (realFma (mode == 4) (if negProd then u.negate else u) (FloatFmt.value f p.2) (if negAdd then w.negate else w))
    let r := List.zipWith lane (List.zip (lanesOf (FloatFmt.is32 f) x) (lanesOf (FloatFmt.is32 f) y)) (lanesOf (FloatFmt.is32 f) z)
    putDest (.v d.val) (FloatFmt.lat f) (ofLanes (FloatFmt.is32 f) (r.map Prod.fst)).toNat (raising (orFlags (r.map Prod.snd)))) s
/-- fma (R312, R313). -/
def execFma (f : FloatFmt) (rm : Rnd) (d : Fin 32) (a b : Src) (s : State) : Host.Outcome State Fault Refusal := floatFused f rm false false d a b s
/-- fms (R312, R313). -/
def execFms (f : FloatFmt) (rm : Rnd) (d : Fin 32) (a b : Src) (s : State) : Host.Outcome State Fault Refusal := floatFused f rm false true d a b s
/-- fnma (R312, R313). -/
def execFnma (f : FloatFmt) (rm : Rnd) (d : Fin 32) (a b : Src) (s : State) : Host.Outcome State Fault Refusal := floatFused f rm true false d a b s

/-- fmin's choice of the first operand: smaller, with −0 below +0 (R314). -/
def floatBelow (x y : Exact) : Bool := realLt x y || (realEq x y && x.neg? && !y.neg?)

/-- A lane of fmin or fmax (R314). -/
def floatPick (f : FloatFmt) (greater : Bool) (x y : Nat) : Nat × Nat :=
  let w := 2 ^ (FloatFmt.spec f).width
  let u := FloatFmt.value f x
  let v := FloatFmt.value f y
  if u.isNan || v.isNan then ((FloatFmt.spec f).nan, u.ivOf ||| v.ivOf)
  else if floatBelow u v != greater then (x % w, 0) else (y % w, 0)
/-- fmin (R314). -/
def execFmin (f : FloatFmt) (d : Dst) (a b : Src) (s : State) : Host.Outcome State Fault Refusal := floatLanes2 f (floatPick f false) d a b s
/-- fmax (R314). -/
def execFmax (f : FloatFmt) (d : Dst) (a b : Src) (s : State) : Host.Outcome State Fault Refusal := floatLanes2 f (floatPick f true) d a b s

/-- A lane of fabs or fneg (R314): no flag, and a NaN gives the canonical NaN. -/
def floatSign (f : FloatFmt) (flip : Bool) (x : Nat) : Nat :=
  let sp := FloatFmt.spec f
  let m := x % 2 ^ (sp.width - 1)
  if (FloatFmt.value f x).isNan then sp.nan
  else if flip && !bitAt x (sp.width - 1) then m + 2 ^ (sp.width - 1) else m

/-- A lane instruction with one vector source and no flag. -/
def lanes1 (w32 : Bool) (op : Nat → Nat) (lat : Nat) (d : Dst) (a : Src) (s : State) : Host.Outcome State Fault Refusal :=
  runSlot (do
    let x ← readV a
    readyV d
    putV d lat (ofLanes w32 ((lanesOf w32 x).map op)) 0) s
/-- fabs (R314). -/
def execFabs (f : FloatFmt) (d : Dst) (a : Src) (s : State) : Host.Outcome State Fault Refusal :=
  lanes1 (FloatFmt.is32 f) (floatSign f false) (FloatFmt.lat f) d a s
/-- fneg (R314). -/
def execFneg (f : FloatFmt) (d : Dst) (a : Src) (s : State) : Host.Outcome State Fault Refusal :=
  lanes1 (FloatFmt.is32 f) (floatSign f true) (FloatFmt.lat f) d a s

/-- A compare (R315): quiet, IV for a signalling NaN only. -/
def floatCmp (f : FloatFmt) (rel : Exact → Exact → Bool) (md : Fin 8) (a b : Src) (s : State) : Host.Outcome State Fault Refusal :=
  runSlot (do
    let x ← readV a
    let y ← readV b
    readyDest (.m md.val)
    let p := List.zip ((lanesOf (FloatFmt.is32 f) x).map (FloatFmt.value f)) ((lanesOf (FloatFmt.is32 f) y).map (FloatFmt.value f))
    putDest (.m md.val) (FloatFmt.lat f) (maskOf (p.map fun q => rel q.1 q.2)) (raising (orFlags (p.map fun q => q.1.ivOf ||| q.2.ivOf)))) s
/-- fcmp.eq (R315). -/
def execFcmpEq (f : FloatFmt) (md : Fin 8) (a b : Src) (s : State) : Host.Outcome State Fault Refusal := floatCmp f realEq md a b s
/-- fcmp.lt (R315). -/
def execFcmpLt (f : FloatFmt) (md : Fin 8) (a b : Src) (s : State) : Host.Outcome State Fault Refusal := floatCmp f realLt md a b s
/-- fcmp.le (R315). -/
def execFcmpLe (f : FloatFmt) (md : Fin 8) (a b : Src) (s : State) : Host.Outcome State Fault Refusal :=
  floatCmp f (fun x y => realLt x y || realEq x y) md a b s
/-- fcmp.un (R315). -/
def execFcmpUn (f : FloatFmt) (md : Fin 8) (a b : Src) (s : State) : Host.Outcome State Fault Refusal :=
  floatCmp f (fun x y => x.isNan || y.isNan) md a b s

/-! ## Integer lanes (R316) -/

/-- A lane instruction with two vector sources and no flag. -/
def lanes2 (w32 : Bool) (op : Nat → Nat → Nat) (lat : Nat) (d : Dst) (a b : Src) (s : State) : Host.Outcome State Fault Refusal :=
  runSlot (do
    let x ← readV a
    let y ← readV b
    readyV d
    putV d lat (ofLanes w32 (List.zipWith op (lanesOf w32 x) (lanesOf w32 y))) 0) s

/-- An integer lane instruction on lanes of W bits: op takes W and the two lanes. -/
def intLanes (op : Nat → Nat → Nat → Int) (w32 : Bool) (d : Dst) (a b : Src) (s : State) : Host.Outcome State Fault Refusal :=
  lanes2 w32 (fun x y => uns (op (laneW w32) x y) (laneW w32)) 2 d a b s

/-- Saturate to W signed bits. -/
def satS (w : Nat) (x : Int) : Int := saturate x (-2 ^ (w - 1)) (2 ^ (w - 1) - 1)
/-- Saturate to W unsigned bits. -/
def satU (w : Nat) (x : Int) : Int := saturate x 0 (2 ^ w - 1)

/-- vadd (R316). -/
def execVadd (w32 : Bool) (d : Dst) (a b : Src) (s : State) : Host.Outcome State Fault Refusal := intLanes (fun _ x y => x + y) w32 d a b s
/-- vsub (R316). -/
def execVsub (w32 : Bool) (d : Dst) (a b : Src) (s : State) : Host.Outcome State Fault Refusal := intLanes (fun _ x y => x - y) w32 d a b s
/-- vmul (R316). -/
def execVmul (w32 : Bool) (d : Dst) (a b : Src) (s : State) : Host.Outcome State Fault Refusal := intLanes (fun _ x y => x * y) w32 d a b s
/-- vadds (R316). -/
def execVadds (w32 : Bool) (d : Dst) (a b : Src) (s : State) : Host.Outcome State Fault Refusal :=
  intLanes (fun w x y => satS w (sext x w + sext y w)) w32 d a b s
/-- vaddus (R316). -/
def execVaddus (w32 : Bool) (d : Dst) (a b : Src) (s : State) : Host.Outcome State Fault Refusal :=
  intLanes (fun w x y => satU w (x + y)) w32 d a b s
/-- vsubs (R316). -/
def execVsubs (w32 : Bool) (d : Dst) (a b : Src) (s : State) : Host.Outcome State Fault Refusal :=
  intLanes (fun w x y => satS w (sext x w - sext y w)) w32 d a b s
/-- vsubus (R316). -/
def execVsubus (w32 : Bool) (d : Dst) (a b : Src) (s : State) : Host.Outcome State Fault Refusal :=
  intLanes (fun w x y => satU w (x - y)) w32 d a b s
/-- vmin (R316). -/
def execVmin (w32 : Bool) (d : Dst) (a b : Src) (s : State) : Host.Outcome State Fault Refusal :=
  intLanes (fun w x y => min (sext x w) (sext y w)) w32 d a b s
/-- vmax (R316). -/
def execVmax (w32 : Bool) (d : Dst) (a b : Src) (s : State) : Host.Outcome State Fault Refusal :=
  intLanes (fun w x y => max (sext x w) (sext y w)) w32 d a b s
/-- vminu (R316). -/
def execVminu (w32 : Bool) (d : Dst) (a b : Src) (s : State) : Host.Outcome State Fault Refusal :=
  intLanes (fun _ x y => ((min x y : Nat) : Int)) w32 d a b s
/-- vmaxu (R316). -/
def execVmaxu (w32 : Bool) (d : Dst) (a b : Src) (s : State) : Host.Outcome State Fault Refusal :=
  intLanes (fun _ x y => ((max x y : Nat) : Int)) w32 d a b s
/-- vand (R316). -/
def execVand (w32 : Bool) (d : Dst) (a b : Src) (s : State) : Host.Outcome State Fault Refusal :=
  intLanes (fun _ x y => ((x &&& y : Nat) : Int)) w32 d a b s
/-- vor (R316). -/
def execVor (w32 : Bool) (d : Dst) (a b : Src) (s : State) : Host.Outcome State Fault Refusal :=
  intLanes (fun _ x y => ((x ||| y : Nat) : Int)) w32 d a b s
/-- vxor (R316). -/
def execVxor (w32 : Bool) (d : Dst) (a b : Src) (s : State) : Host.Outcome State Fault Refusal :=
  intLanes (fun _ x y => ((x ^^^ y : Nat) : Int)) w32 d a b s
/-- The shift amount of a lane: the low 4 bits for 16-bit lanes, 5 for 32-bit lanes (R316). -/
def laneShift (w y : Nat) : Nat := y % w
/-- vshl (R316). -/
def execVshl (w32 : Bool) (d : Dst) (a b : Src) (s : State) : Host.Outcome State Fault Refusal :=
  intLanes (fun w x y => x * 2 ^ laneShift w y) w32 d a b s
/-- vshr (R316). -/
def execVshr (w32 : Bool) (d : Dst) (a b : Src) (s : State) : Host.Outcome State Fault Refusal :=
  intLanes (fun w x y => ((x / 2 ^ laneShift w y : Nat) : Int)) w32 d a b s
/-- vsra (R316). -/
def execVsra (w32 : Bool) (d : Dst) (a b : Src) (s : State) : Host.Outcome State Fault Refusal :=
  intLanes (fun w x y => sext x w / 2 ^ laneShift w y) w32 d a b s
/-- vabs (R316). -/
def execVabs (w32 : Bool) (d : Dst) (a : Src) (s : State) : Host.Outcome State Fault Refusal :=
  lanes1 w32 (fun x => uns (sext x (laneW w32)).natAbs (laneW w32)) 2 d a s

/-- An integer compare into a mask (R316). -/
def intCmp (rel : Nat → Nat → Nat → Bool) (w32 : Bool) (md : Fin 8) (a b : Src) (s : State) : Host.Outcome State Fault Refusal :=
  runSlot (do
    let x ← readV a
    let y ← readV b
    readyDest (.m md.val)
    putDest (.m md.val) 2 (maskOf (List.zipWith (rel (laneW w32)) (lanesOf w32 x) (lanesOf w32 y))) 0) s
/-- vcmp.eq (R316). -/
def execVcmpEq (w32 : Bool) (md : Fin 8) (a b : Src) (s : State) : Host.Outcome State Fault Refusal := intCmp (fun _ x y => x == y) w32 md a b s
/-- vcmp.lt (R316). -/
def execVcmpLt (w32 : Bool) (md : Fin 8) (a b : Src) (s : State) : Host.Outcome State Fault Refusal :=
  intCmp (fun w x y => sext x w < sext y w) w32 md a b s
/-- vcmp.ltu (R316). -/
def execVcmpLtu (w32 : Bool) (md : Fin 8) (a b : Src) (s : State) : Host.Outcome State Fault Refusal := intCmp (fun _ x y => x < y) w32 md a b s

/-! ## Select, permute and masks (R317 to R319) -/

/-- vsel (R317): both sources are read whatever the mask holds. -/
def execVsel (m : Fin 8) (w32 : Bool) (d : Dst) (a b : Src) (s : State) : Host.Outcome State Fault Refusal :=
  runSlot (do
    let k ← readMask m.val
    let x ← readV a
    let y ← readV b
    readyV d
    let l := List.zip (lanesOf w32 x) (lanesOf w32 y)
    putV d 2 (ofLanes w32 (l.mapIdx fun i p => if k.getLsbD i then p.1 else p.2)) 0) s

/-- The lane count of a view. -/
def laneN (w32 : Bool) : Nat := if w32 then 32 else 64

/-- vperm (R318). -/
def execVperm (w32 : Bool) (d : Dst) (a b : Src) (s : State) : Host.Outcome State Fault Refusal :=
  runSlot (do
    let x ← readV a
    let y ← readV b
    readyV d
    putV d 3 (ofLanes w32 ((lanesOf w32 y).map fun i => (lanesOf w32 x).getD (i % laneN w32) 0)) 0) s

/-- vbcast (R318). -/
def execVbcast (w32 : Bool) (d : Dst) (a : Src) (s : State) : Host.Outcome State Fault Refusal :=
  runSlot (do
    let x ← readS a
    readyV d
    putV d 3 (ofLanes w32 (List.replicate (laneN w32) (x.toNat % 2 ^ laneW w32))) 0) s

/-- vins (R318): vd is a source as well. -/
def execVins (w32 : Bool) (d : Fin 32) (a b : Src) (s : State) : Host.Outcome State Fault Refusal :=
  runSlot (do
    let x ← readS a
    let y ← readS b
    let v ← readVReg d.val
    readyDest (.v d.val)
    check (y.toNat < laneN w32) .illegalUse y
    putDest (.v d.val) 3 (ofLanes w32 ((lanesOf w32 v).set y.toNat (x.toNat % 2 ^ laneW w32))).toNat 0) s

/-- vext (R318). -/
def execVext (w32 : Bool) (d : Dst) (a b : Src) (s : State) : Host.Outcome State Fault Refusal :=
  runSlot (do
    let x ← readV a
    let y ← readS b
    readyS d
    check (y.toNat < laneN w32) .illegalUse y
    putS d 3 (word ((lanesOf w32 x).getD y.toNat 0))) s

/-- A mask instruction with two sources (R319). -/
def mask2 (f : Word → Word → Word) (d a b : Fin 8) (s : State) : Host.Outcome State Fault Refusal :=
  runSlot (do
    let x ← readMask a.val
    let y ← readMask b.val
    readyDest (.m d.val)
    putDest (.m d.val) 1 (f x y).toNat 0) s
/-- mand (R319). -/
def execMand (d a b : Fin 8) (s : State) : Host.Outcome State Fault Refusal := mask2 (fun x y => x &&& y) d a b s
/-- mor (R319). -/
def execMor (d a b : Fin 8) (s : State) : Host.Outcome State Fault Refusal := mask2 (fun x y => x ||| y) d a b s
/-- mxor (R319). -/
def execMxor (d a b : Fin 8) (s : State) : Host.Outcome State Fault Refusal := mask2 (fun x y => x ^^^ y) d a b s
/-- mandn (R319). -/
def execMandn (d a b : Fin 8) (s : State) : Host.Outcome State Fault Refusal := mask2 (fun x y => x &&& ~~~y) d a b s
/-- mnot (R319). -/
def execMnot (d a : Fin 8) (s : State) : Host.Outcome State Fault Refusal := mask2 (fun x _ => ~~~x) d a a s
/-- mpopc (R319). -/
def execMpopc (d : Dst) (a : Fin 8) (s : State) : Host.Outcome State Fault Refusal :=
  runSlot (do
    let x ← readMask a.val
    readyS d
    putS d 1 (word (popCount 64 x.toNat))) s

/-! ## Conversions (R320, R321) -/

/-- The mode of a conversion: rm, or FRM (R320). -/
def State.cvtMode (s : State) (rm : Rnd) : Nat := modeOf rm s.ctx.fp.frm.toNat

/-- Draw(i) of the context (R68). -/
def State.drawAt (s : State) (i : Nat) : Nat := srDraw s.ctx.fp.seed s.ctx.fp.sctr i

/-- cvt (R320). -/
def execCvt (t f : Fmt) (rm : Rnd) (d : Dst) (a : Src) (s : State) : Host.Outcome State Fault Refusal :=
  runSlot (do
    let x ← readV a
    readyV d
    let s ← get
    let n := if Fmt.lane32 t || Fmt.lane32 f then 32 else 64
    let r := ((lanesOf (Fmt.lane32 f) x).take n).mapIdx fun i e => convert t f (s.cvtMode rm) e (s.drawAt i)
    putV d 3 (ofLanes (Fmt.lane32 t) (r.map Prod.fst)) (raising (orFlags (r.map Prod.snd)))) s

/-- The element format of qnt and dqnt (R321). -/
def eltFmt (e : Nat) : FloatFmt := if e = 0 then .bf16 else if e = 1 then .fp16 else .fp32

/-- The records of qnt packed one after the other (R321). -/
def packRecords (f : Nat) : List Record → Nat
  | [] => 0
  | r :: t => r.pack f + packRecords f t * 2 ^ r.len f

/-- The first n records packed in the low bits of x. -/
def unpackRecords (f : Nat) : Nat → Nat → List Record
  | 0, _ => []
  | n + 1, x => readRecord f x :: unpackRecords f n (x / 2 ^ recordLen f x)

/-- The element blocks of a register: 2 of 16-bit elements, 1 of FP32 (R321). -/
def blockCount (e : FloatFmt) : Nat := if e = .fp32 then 1 else 2

/-- qnt (R321). -/
def execQnt (f : Fmt) (pol : Fin 4) (rm : Rnd) (elt : Fin 4) (d : Dst) (a : Src) (s : State) : Host.Outcome State Fault Refusal :=
  runSlot (do
    let x ← readV a
    readyV d
    let s ← get
    let e := eltFmt elt.val
    let l := (lanesOf (FloatFmt.is32 e) x).map (FloatFmt.value e)
    let r := (List.range (blockCount e)).map fun b =>
      quantiseBlock f.code (s.cvtMode rm) pol.val ((l.drop (32 * b)).take 32) fun j => s.drawAt (32 * b + j)
    putV d 3 (BitVec.ofNat 1024 (packRecords f.code (r.map Prod.fst))) (raising (orFlags (r.map Prod.snd)))) s

/-- dqnt (R321). -/
def execDqnt (f : Fmt) (pol : Fin 4) (rm : Rnd) (elt : Fin 4) (d : Dst) (a : Src) (s : State) : Host.Outcome State Fault Refusal :=
  runSlot (do
    let x ← readV a
    readyV d
    let s ← get
    let e := eltFmt elt.val
    let r := (unpackRecords f.code (blockCount e) x.toNat).mapIdx fun b rec =>
      (List.range 32).map fun j => roundTo (FloatFmt.spec e) (s.cvtMode rm) (rec.value f.code pol.val j) (s.drawAt (32 * b + j))
    putV d 3 (ofLanes (FloatFmt.is32 e) (r.flatten.map Prod.fst)) (raising (orFlags (r.flatten.map Prod.snd)))) s

end Sys2Proof.Machine
end

