-- ==== Sys2Proof/Machine/Half.lean ====
section
/-! DEFINITION. Half.lean: the weights of a half and its states: transitions, check passes, deferred events of the macros, mmode, mglaze and mchk (R275 to R280, R301 to R303, R305, R308). -/

namespace Sys2Proof.Machine

/-! ## Weights in a half (R275) -/

/-- The slot width of a recorded format (Table 13.1). -/
def halfSw : Nat → Nat
  | 0x08 => 8 | 0x09 => 6 | 0x0A => 4 | _ => 6
/-- The number of outputs K (Table 13.1). -/
def halfK : Nat → Nat
  | 0x08 => 48 | 0x0A => 96 | _ => 64
/-- gw (Table 13.1). -/
def halfG : Nat → Int
  | 0x08 => -6 | 0x09 => -4 | 0x0A => -2 | _ => -1

/-- The K of a half. -/
def Half.k (h : Half) : Nat := halfK h.fmt
/-- The weights W(j, o) of row j. -/
def Half.row (h : Half) (j : Nat) : List Int := (chunks (halfSw h.fmt) h.k (h.mem.readBits (512 * j) 384)).map fun c => sext c (halfSw h.fmt)
/-- C(j): the check columns of row j. -/
def Half.check (h : Half) (j : Nat) : Int := sext (h.mem.readBits (512 * j + 384) 16) 16
/-- SF(k, o): an entry of the scale file. -/
def Half.scale (h : Half) (k o : Nat) : Nat := h.mem.readBits (2 ^ 17 + (96 * k + o) * 10) 10
/-- Row j fails (R279): it has an uncorrectable error, or its check columns do not agree. -/
def Half.rowFails (h : Half) (j : Nat) : Bool := h.poison.contains j || (h.row j).sum != h.check j

/-! ## Transitions (Table 13.3) -/

/-- The events of Table 13.3 that a half meets after boot. -/
inductive HalfEvent where
  | fail (spare : Bool)
  | reloadStart
  | reloadDone (fmt : Nat)
  | toDot (fmt : Nat)
  | toStore
  | passOk
deriving DecidableEq, Repr

/-- A half in transition (R277). -/
def Half.inTransition (h : Half) : Bool := h.st == 2 || (h.st == 3 && h.chk)

/-- The half after an event, and whether a check pass starts (Table 13.3 rows 3, 4, 7 to 17); an event that matches no row changes nothing (R278). -/
def Half.react (h : Half) (e : HalfEvent) : Half × Bool :=
  match e, h.st with
  | .fail _, 3 => ({ h with st := 4, chk := false }, false)
  | .fail spare, 0 => ({ h with st := if spare then 5 else 4 }, false)
  | .fail spare, 1 => ({ h with st := if spare then 5 else 4 }, false)
  | .reloadStart, 0 => ({ h with st := 2, dotPend := false }, false)
  | .reloadStart, 1 => ({ h with st := 2, dotPend := false }, false)
  | .reloadDone fmt, 2 =>
    if h.dotPend then ({ h with st := 3, chk := true, dotPend := false, fmt := h.held }, true)
    else ({ h with st := 1, fmt := fmt }, false)
  | .toDot fmt, 0 => ({ h with st := 3, chk := true, fmt := fmt }, true)
  | .toDot fmt, 1 => ({ h with st := 3, chk := true, fmt := fmt }, true)
  | .toDot fmt, 2 => ({ h with dotPend := true, held := fmt }, false)
  | .toDot fmt, 3 => if fmt = h.fmt then (h, false) else ({ h with chk := true, fmt := fmt }, true)
  | .passOk, 3 => ({ h with chk := false }, false)
  | .toStore, 3 => ({ h with st := 1, chk := false }, false)
  | .toStore, 2 => ({ h with dotPend := false }, false)
  | _, _ => (h, false)

/-- A half of the focused core's field replaced. -/
def State.setHalfAt (s : State) (f : Nat) (h : Half) : State := s.onDev fun d => d.setHalf (d.place s.coreNo f) h

/-- A check pass on half f starts, for context ctx of birth b and its bundle at pc; it takes the place of a running one of that half; scrubs says that MCHK runs it. -/
def State.startPass (s : State) (f ctx b pc : Nat) (scrubs : Bool) : State :=
  s.onCore fun c => { c with passes := c.passes.filter (·.f != f) ++ [{ f := f, left := 256, ctx := ctx, pc := pc, birth := b, scrubs := scrubs }] }

/-- A half of the focused core's field meets an event; a pass that starts replaces a running one of that half, and leaving DOT for STORE abandons it (Table 13.3 rows 10, 12, 14, 16). A half that changes its state counts as scrubbed (R305). -/
def State.halfEvent (s : State) (f : Nat) (e : HalfEvent) (ctx b pc : Nat) : State :=
  let h := s.halfAt f
  let r := h.react e
  let s := s.setHalfAt f (if r.1.st = h.st then r.1 else { r.1 with seen := s.dev.ref })
  if r.2 then s.startPass f ctx b pc false
  else if e = .toStore ∧ h.st = 3 then s.onCore fun c => { c with passes := c.passes.filter (·.f != f) }
  else s

/-! ## Deferred events of the macros (R108, R295, R308) -/

/-- The enable of a cause in TENA (Table 5.3). -/
def TrapRegs.armed (t : TrapRegs) (c : Cause) : Bool :=
  match c with | .checksum => bitAt t.tena.toNat 0 | .nanscale => bitAt t.tena.toNat 1 | _ => false

/-- A CHECKSUM or NANSCALE event reaches its context (R108); while one is pending its TVAL stays that of the first (log 24). -/
def Ctx.macroEvent (c : Ctx) (cause : Cause) (f pc : Nat) : Ctx :=
  let v := word (f % 2 ^ 13 + pc % 2 ^ 21 * 2 ^ 32)
  if c.st = .free ∨ c.st = .retired ∨ !c.tr.armed cause ∨ c.tr.isPending cause then c
  else
    match cause with
    | .checksum => { c with tr := { (c.tr.pendCause .checksum) with chkVal := v } }
    | .nanscale => { c with tr := { (c.tr.pendCause .nanscale) with nanVal := v } }
    | _ => c

/-- The event reaches the context of birth b, which issued the beat, the check pass or MCHK (R295): in its slot ctx, also while it is SAVED, or in its record while it is detached (R108); a context that no longer exists takes none. -/
def State.toContext (s : State) (ctx b : Nat) (f : Ctx → Ctx) : State :=
  if (s.ctxAt ctx).birth = b then s.atCtx ctx fun t => t.onCtx f
  else s.onDev fun d => { d with records := d.records.map fun r => if r.2.ctx.birth = b then (r.1, { r.2 with ctx := f r.2.ctx }) else r }

/-- The event with its statistics record, stamped with the issuing context and bundle (Table 13.15). -/
def State.macroRecord (s : State) (cause : Cause) (f info val ctx b pc : Nat) : State :=
  (s.record (if cause = .checksum then 1 else 2) ctx pc (f + info * 2 ^ 13) val).toContext ctx b fun c => c.macroEvent cause f pc

/-- A checksum failure: the half is quarantined, SOFTERR is set and the events counted (Table 13.3 rows 3 and 4, R308). -/
def State.checkFailed (s : State) (f info val ctx b pc : Nat) : State :=
  let s := s.halfEvent f (.fail false) ctx b pc
  let s := s.onCore fun c => { c with mcnt := { c.mcnt with softErr := true, chk := (c.mcnt.chk + 1) % 2 ^ 16 } }
  s.macroRecord .checksum f info val ctx b pc

/-! ## Check passes (R279, R303, R305) -/

/-- A pass fails at a row: in DOT the CHECKSUM event; in storage mode the half's failure is also logged (rows 3 and 4). -/
def State.passFailed (s : State) (p : CheckPass) (row : Nat) : State :=
  let stored := (s.halfAt p.f).storage
  let s := s.checkFailed p.f (2 ^ 8) row p.ctx p.birth p.pc
  let s := s.onCore fun c => { c with passes := c.passes.filter (·.f != p.f) }
  if stored then
    s.onDev fun d => d.logError 0x04 Cause.checksum.code (d.place s.coreNo p.f / 2 ^ 17) (d.place s.coreNo p.f % 2 ^ 17) row
  else s

/-- A pass ends without a failure; that of MCHK, or on a half in storage mode, counts as the half's scrub (R303, R305). -/
def State.passDone (s : State) (p : CheckPass) : State :=
  let s := s.halfEvent p.f .passOk p.ctx p.birth p.pc
  let h := s.halfAt p.f
  (s.setHalfAt p.f (if p.scrubs || h.storage then { h with seen := s.dev.ref } else h)).onCore fun c => { c with passes := c.passes.filter (·.f != p.f) }

/-- One clk of a pass: one row, in ascending order; it stops at the first that fails. -/
def State.passClk (s : State) (p : CheckPass) : State :=
  let h := s.halfAt p.f
  let row := 256 - p.left
  if h.st ≠ 2 ∧ h.st < 4 ∧ h.rowFails row then s.passFailed p row
  else if p.left ≤ 1 then s.passDone p
  else s.onCore fun c => { c with passes := c.passes.map fun q => if q.f = p.f then { q with left := p.left - 1 } else q }

/-- The passes of the focused core advance one clk. -/
def State.passesClk (s : State) : State := s.core.passes.foldl State.passClk s

/-- A pass on half f runs to its end, or until it has read the rows before `stop`; fuel counts the rows. -/
def State.passToEnd (s : State) (f stop : Nat) : Nat → State
  | 0 => s
  | n + 1 => match s.core.passes.find? (·.f == f) with
    | some p => if stop ≤ 256 - p.left then s else (s.passClk p).passToEnd f stop n
    | none => s

/-- A pass meets an uncorrectable error in a row that it has still to read: it fails there unless an earlier row fails (R279). -/
def State.passHits (s : State) (f row : Nat) : State :=
  let s := s.passToEnd f row 256
  match s.core.passes.find? (·.f == f) with
  | some p => s.passFailed p row
  | none => s

/-- The address of row j of a physical half through the physical window (R46). -/
def Device.rowAddr (d : Device) (k j : Nat) : Nat :=
  d.devId * 2 ^ 47 + 0x50000000000 + k / 2 ^ 20 * 2 ^ 38 + bits k 17 3 * 2 ^ 35 + k % 2 ^ 17 * 2 ^ 18 + 512 * j

/-- Correctable errors that a pass finds in rows of a physical half are corrected in place, and each is entered in the device error log (R279); its syndrome is free (log 5). -/
def State.rowsFixed (s : State) (k : Nat) (rows : List Nat) : State :=
  rows.foldl (fun s j =>
    let r := s.freshBits 64
    r.2.onDev fun d => d.logError 0x01 0 2 (d.rowAddr k (j % 256)) r.1) s

/-- CHECK_PASS_END (R279): the pass on half addr of core who ends, at row val − 1, which has an uncorrectable ECC error, when val is not 0 and no earlier row fails; data lists the rows in which it corrected an error. -/
def execCheckPassEnd (s : State) : Host.Outcome State Fault Refusal :=
  if s.ev.who ≥ 256 then .fault (.noSuchAgent s.ev.who)
  else .next (s.atCore s.ev.who fun t =>
    match t.core.passes.find? (·.f == s.ev.addr % 8192) with
    | none => t
    | some p =>
      let t := t.rowsFixed (t.dev.place t.coreNo p.f) s.ev.data
      if s.ev.val = 0 then t.passToEnd p.f 256 256 else t.passHits p.f ((s.ev.val - 1) % 256))

/-- The first row of a half that fails, if any (R279). -/
def Half.firstFail (h : Half) : Option Nat := (List.range 256).find? h.rowFails

/-- The core whose field holds a physical half through the remap registers, if any (R306). -/
def Device.holder (d : Device) (k : Nat) : Option Nat :=
  let tl := k / 2 ^ 17
  let p := k / 2 % 65536
  let core := fun m => 64 * (tl / 8) + m / 512
  if p < 32768 ∧ d.remapped (tl * 32768 + p) = p then some (core p)
  else (d.remap.find? fun r => r.1 / 32768 == tl && r.2 == p).map fun r => core (r.1 % 32768)

/-- A storage-view merge or a check pass uses a physical half (R305). -/
def State.halfBusy (s : State) (k : Nat) : Bool :=
  (s.dev.half k).merges != [] || s.coreList.any fun n => (s.focusCore n).core.passes.any fun p => s.dev.place n p.f == k

/-- The scrubber's pass on a physical half has read its rows without a failure. -/
def Device.scrubbed (d : Device) (k : Nat) : Device := d.setHalf k { d.half k with seen := d.ref }

/-- The scrubber's pass on a physical half in storage mode, which may be a spare that no logical macro maps, fails at a row (R305, Table 13.3 row 4): it is logged, and SOFTERR is set at the core that holds the half. -/
def State.scrubFails (s : State) (k row : Nat) : State :=
  let n := s.dev.holder k
  let s := s.onDev fun d =>
    (d.setHalf k { ((d.half k).react (.fail n.isNone)).1 with seen := d.ref }).logError 0x04 Cause.checksum.code (k / 2 ^ 17) (k % 2 ^ 17) row
  match n with
  | none => s
  | some n => s.atCore n fun t => t.onCore fun c => { c with mcnt := { c.mcnt with softErr := true } }

/-- The rest of the scrubber's pass on physical half k, from a row on: it fails at the first row that fails, bad among them, a row given to it as uncorrectable (R279). -/
def State.scrub (s : State) (k row : Nat) (bad : Option Nat) : State :=
  let h := s.dev.half k
  match (List.range 256).find? fun j => row ≤ j && (h.rowFails j || bad == some j) with
  | none => s.onDev fun d => d.scrubbed k
  | some j => s.scrubFails k j

/-- The row that the scrubber's pass on physical half k reads next, 0 where none runs. -/
def Device.scrubRow (d : Device) (k : Nat) : Nat := (assoc? d.scrubs k).getD 0

/-- SCRUB_PASS (R305): the scrubber's pass on physical half addr ends, or is made before its interval is over, where the half is in storage mode and nothing uses it; val and data as of CHECK_PASS_END. With MSCRUB.INT = 0 the scrubber makes none (log 83). -/
def execScrubPass (s : State) : Host.Outcome State Fault Refusal :=
  let k := s.ev.addr
  if k ≥ 2 ^ 22 then .fault (.noSuchAgent k)
  else if s.dev.scrubInt = 0 ∨ !(s.dev.half k).storage || s.halfBusy k then .next s
  else .next (((s.rowsFixed k s.ev.data).scrub k (s.dev.scrubRow k) (if s.ev.val = 0 then none else some ((s.ev.val - 1) % 256))).onDev fun d =>
    { d with scrubs := assocDel d.scrubs k })

/-- The interval of a half has passed since it last counted as scrubbed (R305); MSCRUB.INT of 0 gives none (DESIGN CHOICE, log 83). -/
def Device.scrubDue (d : Device) (h : Half) : Bool := d.scrubInt != 0 && h.seen + 1200 * d.scrubInt ≤ d.ref

/-- A half in DOT has missed an interval (R305): MCNT.LATE of the core that holds it counts it, and the device error log takes it. -/
def State.scrubMissed (s : State) (k : Nat) : State :=
  let h := s.dev.half k
  let s := s.onDev fun d => d.setHalf k { h with seen := h.seen + 1200 * d.scrubInt }
  match s.dev.holder k with
  | none => s
  | some n => s.atCore n fun t =>
    let m := (t.core.mcnt.late + 1) % 2 ^ 16
    (t.onCore fun c => { c with mcnt := { c.mcnt with late := m } }).onDev fun d => d.logError 0x05 0 (k / 2 ^ 17) (k % 2 ^ 17) m

/-- SCRUB_LATE (R305): physical half addr, where it is in DOT and its interval has passed, has missed it. -/
def execScrubLate (s : State) : Host.Outcome State Fault Refusal :=
  let k := s.ev.addr
  if k ≥ 2 ^ 22 then .fault (.noSuchAgent k)
  else .next (if (s.dev.half k).st = 3 ∧ s.dev.scrubDue (s.dev.half k) then s.scrubMissed k else s)

/-- The scrubber looks at a half: at the end of its interval a pass starts on one in storage mode, one in DOT has missed it (R305). -/
def State.scrubHalf (s : State) (k : Nat) : State :=
  let h := s.dev.half k
  if !s.dev.scrubDue h ∨ (assoc? s.dev.scrubs k).isSome then s
  else if h.storage then s.onDev fun d => { d with scrubs := d.scrubs ++ [(k, 0)] }
  else if h.st = 3 then s.scrubMissed k else s

/-- One reference period of a pass of the scrubber: one row (R279), where nothing uses the half; a half that has left storage mode ends it. -/
def State.scrubStep (s : State) (x : Nat × Nat) : State :=
  let h := s.dev.half x.1
  let ends := fun (s : State) => s.onDev fun d => { d with scrubs := assocDel d.scrubs x.1 }
  if !h.storage then ends s
  else if s.halfBusy x.1 then s
  else if h.rowFails x.2 then ends (s.scrubFails x.1 x.2)
  else if 255 ≤ x.2 then ends (s.onDev fun d => d.scrubbed x.1)
  else s.onDev fun d => { d with scrubs := assocSet d.scrubs x.1 (x.2 + 1) }

/-- The scrubber as REF advances: an untouched half has nothing to find. -/
def State.scrubClk (s : State) : State :=
  let s := s.dev.scrubs.foldl State.scrubStep s
  if s.dev.halves.any fun p => s.dev.scrubDue p.2 then (s.dev.halves.map Prod.fst).foldl State.scrubHalf s else s

/-! ## mmode, mglaze and mchk (R301 to R303) -/

/-- A half is a valid entry of the focused core's dot set (R301, Table 13.13). -/
def State.inSet (s : State) (f : Nat) : Bool := s.core.dot.entries.any (·.f == f)

/-- The third check of mmode on one half: true when it may change (R301). -/
def State.mmodeOk (s : State) (f fmt : Nat) (dot : Bool) : Bool :=
  let h := s.halfAt f
  !s.inSet f || (dot && (if h.st = 2 ∧ h.dotPend then fmt == h.held else fmt == h.fmt))

/-- mmode (R301). -/
def execMmode (a b : Fin 32) (s : State) : Host.Outcome State Fault Refusal :=
  runSlot (do
    let x ← readReg a.val
    let n ← readReg b.val
    let f := bits x.toNat 0 13
    let dot := bitAt x.toNat 13
    let fmt := bits x.toNat 14 5
    check (bits x.toNat 19 45 == 0 && (if dot then 0x08 ≤ fmt && fmt ≤ 0x0B else fmt == 0)) .format x
    check (n.toNat != 0 && n.toNat ≤ 128 && f + n.toNat ≤ 8192) .illegalUse n
    let s ← get
    match ((List.range n.toNat).map (f + ·)).find? fun k => !s.mmodeOk k fmt dot with
    | some k => raise .illegalUse (word k)
    | none => stage (.mmode f n.toNat fmt dot)) s

/-- mmode commits: each half meets its event. -/
def State.commitMmode (s : State) (f n fmt : Nat) (dot : Bool) (pc : Nat) : State :=
  (List.range n).foldl (fun t k => t.halfEvent (f + k) (if dot then .toDot fmt else .toStore) s.phys s.ctx.birth pc) s

/-- The halves of the focused core's field in DOT with CHK = 0, at most n (R302). -/
def State.glazeHalves (s : State) (n : Nat) : Nat :=
  min n ((s.dev.halves.filter fun p => p.2.st == 3 && !p.2.chk).filter fun p =>
    (List.range 8192).any fun f => s.dev.place s.coreNo f == p.1).length

/-- mglaze (R302): the beats draw energy and change no state; each placed one is charged (R392). -/
def execMglaze (a : Fin 32) (s : State) : Host.Outcome State Fault Refusal :=
  runSlot (do
    let n ← readReg a.val
    check (n.toNat ≤ 128) .illegalUse n
    let s ← get
    stage (.charge (14 * s.glazeHalves n.toNat))
    stage (.mglaze n.toNat)) s

/-- mchk (R303). -/
def execMchk (a : Fin 32) (s : State) : Host.Outcome State Fault Refusal :=
  runSlot (do
    let x ← readReg a.val
    check (bits x.toNat 13 51 == 0) .illegalUse x
    let s ← get
    let h := s.halfAt x.toNat
    check (h.storage || (h.st == 3 && !h.chk)) .illegalUse x
    stage (.mchk x.toNat)) s

/-- mchk commits: the pass starts, with CHK set on a half in DOT. -/
def State.commitMchk (s : State) (f pc : Nat) : State :=
  let h := s.halfAt f
  let s := if h.st = 3 then s.setHalfAt f { h with chk := true } else s
  s.startPass f s.phys s.ctx.birth pc true

end Sys2Proof.Machine
end

