-- ==== Sys2Proof/Machine/SumFile.lean ====
section
/-! DEFINITION. SumFile.lean: the exact accumulators: addends, readouts and the instructions of major 0x2B (R63 to R67, R322 to R331). -/

namespace Sys2Proof.Machine

/-- The flags byte of a lane (Table 3.7). -/
def laneNINF : BitVec 5 := 1
/-- PINF. -/
def lanePINF : BitVec 5 := 2
/-- NAN. -/
def laneNAN : BitVec 5 := 4
/-- LOSS. -/
def laneLOSS : BitVec 5 := 8
/-- RANGE. -/
def laneRANGE : BitVec 5 := 16

/-- A lane with flags set. -/
def Lane.flag (l : Lane) (f : BitVec 5) : Lane := { l with flags := l.flags ||| f }

/-- AddToLane of R64: one addend at anchor a. -/
def Lane.add (l : Lane) (x : Exact) (a : Int) : Lane :=
  match x with
  | .nan _ => l.flag laneNAN
  | .inf neg => l.flag (if neg then laneNINF else lanePINF)
  | .fin neg num den =>
    let u := scale2 num den (-a)
    let q := u.1 / u.2
    let exact := u.1 % u.2 == 0
    let k : Int := if neg then (if exact then -(q : Int) else -(q : Int) - 1) else q
    let l := if exact then l else l.flag laneLOSS
    let l := if u.1 ≥ u.2 * 2 ^ 200 then l.flag laneRANGE else l
    { l with v := l.v + BitVec.ofInt 256 k }

/-- The anchor of the window that holds a lane (R63). -/
def Core.anchorOf (c : Core) (lane : Nat) : Int := c.anchors.getD (lane / 64) 0

/-- An addend reaches a lane at the anchor of its window. -/
def Core.addTo (c : Core) (lane : Nat) (x : Exact) : Core := c.setLane lane ((c.lane lane).add x (c.anchorOf lane))

/-- The value V × 2^A of a lane. -/
def Lane.value (l : Lane) (a : Int) : Exact := Exact.dyadic (l.v.toInt < 0) l.v.toInt.natAbs a

/-- Readout to a format (R67, R328): the lane element and the flags. -/
def Lane.read (l : Lane) (a : Int) (t : Fmt) (mode : Nat) : Nat × Nat :=
  let nan := l.flags &&& laneNAN != 0
  let p := l.flags &&& lanePINF != 0
  let n := l.flags &&& laneNINF != 0
  match Fmt.float? t with
  | some f =>
    let sp := FloatFmt.spec f
    if nan then (sp.nan, 0)
    else if p && n then (sp.nan, flagIV)
    else if p then roundTo sp mode (.inf false) 0
    else if n then roundTo sp mode (.inf true) 0
    else roundTo sp mode (l.value a) 0
  | none =>
    if nan || (p && n) then (0, flagIV)
    else
      let x := if p then Exact.inf false else if n then Exact.inf true else l.value a
      let y := toInteger mode x (Fmt.range t).1 (Fmt.range t).2 0
      (Fmt.place t y.1, y.2)

/-- A new anchor rescales a lane (R331). -/
def Lane.rescale (l : Lane) (d : Int) : Lane :=
  let v := l.v.toInt
  if 0 ≤ d then
    let k := v / 2 ^ d.toNat
    { (if k * 2 ^ d.toNat = v then l else l.flag laneLOSS) with v := BitVec.ofInt 256 k }
  else
    let k := v * 2 ^ (-d).toNat
    { (if k < -2 ^ 255 ∨ 2 ^ 255 ≤ k then l.flag laneRANGE else l) with v := BitVec.ofInt 256 k }

/-- The lane count of a format (R323). -/
def Fmt.lanes (t : Fmt) : Nat := if Fmt.lane32 t then 32 else 64

/-- The step of its clk in which an effect applies (R324). -/
def LaneOp.step : LaneOp → Nat
  | .add .. | .into .. | .grid .. => 1
  | .read .. | .flags .. => 3
  | .clear .. => 4
  | .anchor .. => 5

/-- The value a tagged result waited for (R324, R338): it replaces the placeholder in the pipeline or in the late-write buffer; an entry that LWBCLR cleared takes no flags (R106). -/
def Ctx.fillTag (c : Ctx) (tag val flags : Nat) : Ctx :=
  let f := fun (p : Pending) => if p.tag = tag then { p with val := val, flags := if p.canRaise then raising flags else 0 } else p
  { c with pend := c.pend.map f, late := c.late.map f }

/-- An effect on the lanes of the focused core, with the value and flags of a readout (R326 to R331). -/
def Core.laneOp (c : Core) (o : LaneOp) : Core × Nat × Nat :=
  match o with
  | .add l0 t es => (es.zipIdx.foldl (fun c p => c.addTo (l0 + p.2) (Fmt.value t p.1)) c, 0, 0)
  | .into k t es => (es.foldl (fun c x => c.addTo k (Fmt.value t x)) c, 0, 0)
  | .read l0 t mode =>
    let r := (List.range (Fmt.lanes t)).map fun i => (c.lane (l0 + i)).read (c.anchorOf l0) t mode
    (c, unchunks (if Fmt.lane32 t then 32 else 16) (r.map Prod.fst), orFlags (r.map Prod.snd))
  | .grid l0 vs fs =>
    ((vs.zip fs).zipIdx.foldl (fun (c : Core) (p : (Nat × Nat) × Nat) =>
      let l := c.lane (l0 + p.2)
      c.setLane (l0 + p.2) { v := l.v + BitVec.ofNat 256 p.1.1, flags := l.flags ||| BitVec.ofNat 5 p.1.2 }) c, 0, 0)
  | .flags l0 => (c, unchunks 16 ((List.range 64).map fun i => (c.lane (l0 + i)).flags.toNat), 0)
  | .clear l0 m =>
    ((List.range 64).foldl (fun c i => if bitAt m i then { c with lanes := assocDel c.lanes (l0 + i) } else c) c, 0, 0)
  | .anchor l0 a =>
    let d := a - c.anchorOf l0
    let w := l0 / 64
    ({ c with
        lanes := c.lanes.map fun p => if p.1 / 64 = w then (p.1, p.2.rescale d) else p
        anchors := c.anchors.set w a }, 0, 0)

/-- The window offset of the first poisoned word that a readout reads (R43): among the values and the flags of its lanes. -/
def Core.laneBad (c : Core) (o : LaneOp) : Option Nat :=
  match o with
  | .read l0 t _ => (c.windowPoison (0x1600000 + 256 * l0) (256 * Fmt.lanes t)).or (c.windowPoison (0x1700000 + 8 * l0) (8 * Fmt.lanes t))
  | .flags l0 => c.windowPoison (0x1700000 + 8 * l0) 512
  | _ => none

/-- A clear writes the whole of its lanes: their words lose their poison, a word of flags where all of its eight lanes are cleared (R43, R330). -/
def Core.laneClean (c : Core) (o : LaneOp) : Core :=
  match o with
  | .clear l0 m =>
    if c.poison.isEmpty then c
    else
      let gone := fun (k : Nat) => l0 ≤ k && k < l0 + 64 && bitAt m (k - l0)
      { c with poison := c.poison.filter fun k =>
          !((k / 2 ^ 20 == 4 && gone (k % 2 ^ 20 / 4)) || (k / 2 ^ 20 == 5 && (List.range 8).all fun j => gone (8 * (k % 2 ^ 20) + j))) }
  | _ => c

/-- One instruction acts (R324); a readout that meets a poisoned word stops its context with POISON (R43). -/
def State.laneAct (s : State) (a : LaneAct) : State :=
  let r := s.core.laneOp a.op
  let bad := s.core.laneBad a.op
  let s := { s with core := r.1.laneClean a.op }
  if a.op.step = 3 then
    s.atCtx (2 * s.coreNo + a.slot) fun t => t.onCtx fun c =>
      let c := c.fillTag a.tag r.2.1 r.2.2
      match bad, (c.pend ++ c.late).find? fun p => p.tag == a.tag with
      | some o, some p => c.lateFault .poison (s.dev.devId * 2 ^ 47 + 0x48000000000 + s.coreNo * 2 ^ 25 + o) p.pc (2 ^ (p.bno % 8))
      | _, _ => c
  else s

/-- The addends of a drain reach their lanes (R293). -/
def Core.drainLands (c : Core) (d : Drain) : Core :=
  d.adds.foldl (fun c a =>
    let x := if a.nan then Exact.nan false else Exact.dyadic (a.mant < 0) a.mant.natAbs a.exp
    let c := c.addTo a.lane x
    if a.span then c.setLane a.lane ((c.lane a.lane).flag laneLOSS) else c) c

/-- Effects at the lanes of the focused core that come within n clk, those of one step. -/
def Core.lanesDue (c : Core) (n step : Nat) : List LaneAct := c.laneActs.filter fun a => decide (a.left ≤ n) && a.op.step == step

/-- The window writes of the clk perform at the sum file of the focused core, in arrival order (R324). -/
def Core.windowsLand (c : Core) : Core := c.winWrites.foldl (fun c x => c.writeWindow x.addr x.width x.val) { c with winWrites := [] }

/-- The first steps of R324 in the clk that is n away: the drains and the addends, then the window writes. -/
def State.sumAdds (s : State) (n : Nat) : State :=
  let dueD := s.core.drains.filter (·.left ≤ n)
  let dueA := s.core.lanesDue n 1
  let s := s.onCore fun c => dueD.foldl Core.drainLands
    { c with drains := c.drains.filter (n < ·.left), laneActs := c.laneActs.filter fun a => decide (n < a.left) || a.op.step != 1 }
  (dueA.foldl State.laneAct s).onCore Core.windowsLand

/-- The last steps of R324: what window writes the clk has brought, the readouts, then the clears, then the anchors. -/
def State.sumReads (s : State) : State :=
  let s := s.onCore Core.windowsLand
  let due := [3, 4, 5].flatMap fun k => s.core.lanesDue 0 k
  due.foldl State.laneAct (s.onCore fun c => { c with laneActs := c.laneActs.filter fun a => a.left != 0 || a.op.step == 1 })

/-- The effects of one clk on the sum file of the focused core, in the order of R324. -/
def State.sumClk (s : State) : State := (s.sumAdds 0).sumReads

/-- The sum file of the focused core as a window read finds it in this clk, with n = 0, or between two clks, with n = 1, in the next (R324): after the addends and the window writes of that clk. -/
def State.sumPreview (s : State) (n : Nat) : State := s.sumAdds n

/-- LANE_ACT (R324): the effects due at the sum file of core who. -/
def execLaneAct (s : State) : Host.Outcome State Fault Refusal :=
  if s.ev.who ≥ 256 then .fault (.noSuchAgent s.ev.who) else .next (s.atCore s.ev.who State.sumClk)

/-- DRAIN_ARRIVAL (R294): the drains due at core who reach their lanes. -/
def execDrainArrival (s : State) : Host.Outcome State Fault Refusal :=
  if s.ev.who ≥ 256 then .fault (.noSuchAgent s.ev.who)
  else .next (s.atCore s.ev.who fun t =>
    let due := t.core.drains.filter (·.left == 0)
    t.onCore fun c => due.foldl Core.drainLands { c with drains := c.drains.filter (·.left != 0) })

/-! ## The instructions (R323 to R331) -/

/-- The elements of a vector in the view of a format. -/
def Fmt.elems (t : Fmt) (x : Wide) : List Nat := lanesOf (Fmt.lane32 t) x

/-- The owner of the dot set waits for the drains of its older bundles (R325). -/
def State.drainsPast (s : State) : Bool := s.core.drains.all fun d => !(s.core.dot.owner == some s.slot) || d.slot != s.slot || d.left ≤ 3

/-- An instruction of the sum file staged: it acts 3 clk after issue. -/
def stageLane (op : LaneOp) (tag : Nat) : Act Unit := do
  let s ← get
  stage (.laneAct { slot := s.slot, left := 3, op := op, tag := tag, bno := s.accNo })

/-- The tag of a result of the slot at work, unique among those on their way. -/
def State.newTag (s : State) : Nat := s.accNo + 1

/-- A tagged result whose value and flags come later, landing lat clk after issue. -/
def putTagged (d : Dst) (lat inter tag flags : Nat) : Act Unit := do
  let s ← get
  let p : Pending := { dest := .none, val := 0, addr := 0, left := lat, inter := inter, flags := flags, pc := s.bundle.pc, tag := tag, bno := s.accNo }
  match d with
  | .reg i => stage (.result { p with dest := .v i.val })
  | .push q => stage (.push q.val { p with dest := .ring q.val, addr := (s.ctx.ring q.val).pushAddr (s.bundle.pushes q.val) })

/-- eacc (R326). -/
def execEacc (t : Fmt) (e : Fin 8) (a : Src) (s : State) : Host.Outcome State Fault Refusal :=
  runSlot (do
    let x ← readV a
    let l0 ← readBase e.val
    stageLane (.add l0 t (Fmt.elems t x)) 0) s

/-- evred (R327). -/
def execEvred (t : Fmt) (l : Fin 32) (a : Src) (s : State) : Host.Outcome State Fault Refusal :=
  runSlot (do
    let k ← readReg l.val
    let x ← readV a
    check (k.toNat < 4096) .illegalUse k
    stageLane (.into k.toNat t (Fmt.elems t x)) 0) s

/-- eread (R325, R328): lands 8 clk after issue. -/
def execEread (t : Fmt) (rm : Rnd) (d : Dst) (e : Fin 8) (s : State) : Host.Outcome State Fault Refusal :=
  runSlot (do
    let l0 ← readBase e.val
    readyV d
    let s ← get
    hold s.drainsPast
    putTagged d 8 0 s.newTag (raising 0)
    stageLane (.read l0 t (s.laneMode rm)) s.newTag) s

/-- eclr (R330). -/
def execEclr (e m : Fin 8) (s : State) : Host.Outcome State Fault Refusal :=
  runSlot (do
    let l0 ← readBase e.val
    let k ← readMask m.val
    let s ← get
    hold s.drainsPast
    stageLane (.clear l0 k.toNat) 0) s

/-- eanc (R331). -/
def execEanc (e : Fin 8) (a : Fin 32) (s : State) : Host.Outcome State Fault Refusal :=
  runSlot (do
    let l0 ← readBase e.val
    let x ← readReg a.val
    check (-2048 ≤ x.toInt && x.toInt ≤ 2047) .illegalUse x
    let s ← get
    hold s.drainsPast
    stageLane (.anchor l0 x.toInt) 0) s

/-- eflg (R329). -/
def execEflg (d : Dst) (e : Fin 8) (s : State) : Host.Outcome State Fault Refusal :=
  runSlot (do
    let l0 ← readBase e.val
    readyV d
    let s ← get
    hold s.drainsPast
    putTagged d 8 0 s.newTag 0
    stageLane (.flags l0) s.newTag) s

end Sys2Proof.Machine
end

