-- ==== Sys2Proof/Machine/Dot.lean ====
section
/-! DEFINITION. Dot.lean: the dot set, its shafts and its beats, and mset and mstat (R281 to R295, R304). -/

namespace Sys2Proof.Machine

/-! ## Shafts (Tables 13.4, 13.8, 13.9) -/

/-- AF of a shaft. -/
def Shaft.af (h : Shaft) : Nat := h.byte % 8
/-- RB. -/
def Shaft.rb (h : Shaft) : Bool := bitAt h.byte 7
/-- RING. -/
def Shaft.ringNo (h : Shaft) : Nat := bits h.byte 3 4
/-- POL. -/
def Shaft.pol (h : Shaft) : Nat := bits h.byte 3 2
/-- The MX format code of an AF (Table 13.9). -/
def afFmt (af : Nat) : Nat := af + 7
/-- B, the number of planes of an AF (Table 13.9). -/
def afPlanes : Nat → Nat
  | 1 => 8 | 2 => 6 | 3 => 4 | _ => 5
/-- ga (Table 13.9). -/
def afG : Nat → Int
  | 1 => -6 | 2 => -4 | 3 => -2 | _ => -1

/-- A byte of the shaft word is accepted (Table 13.4). -/
def shaftByteOk (b : Nat) : Bool := b % 8 ≤ 4 && (bitAt b 7 || (bits b 5 2 == 0 && bits b 3 2 != 3))

/-- A ring a shaft may be bound to: READ, ELEM 3, with the format of the AF (R284, R287). -/
def Ring.feeds (r : Ring) (af : Nat) : Bool := r.mode == 2 && r.elem == 3 && r.halfFmt == afFmt af

/-- The substitute policy of a half-vector ring: its own field, or that of the bank of its base at qbind (R208, R219, R287). -/
def Ring.halfPol (r : Ring) : Nat := if r.fmt ≠ 0 then r.pol else r.bankPol

/-- The codes and scales of eight records (R287). -/
def halfVecOf (fmt pol : Nat) (rs : List Record) : HalfVec :=
  { codes := rs.flatMap fun r => r.codes.map (mxInt fmt pol), scales := rs.map Record.scale }

/-- A half-vector read from a ring: eight records back to back (R209). -/
def halfVecOfRing (fmt pol x : Nat) : HalfVec := halfVecOf fmt pol (unpackRecords fmt 8 x)

/-- A half-vector read from registers: the codes in v(a + 1):v(a), scale k in bits 10k + 9:10k of v(b) (R287). -/
def halfVecOfRegs (fmt pol codes scales : Nat) : HalfVec :=
  { codes := (chunks (mxWidth fmt) 256 codes).map (mxInt fmt pol), scales := chunks 10 8 scales }

/-- Bit B − 1 − q of a code: plane q (R286). -/
def planeBit (af q : Nat) (c : Int) : Bool := bitAt (uns c (afPlanes af)) (afPlanes af - 1 - q)

/-- PlaneZero of R288. -/
def Shaft.planeZero (h : Shaft) (q : Nat) : Bool := h.front.codes.all fun c => !planeBit h.af q c

/-! ## Beats (R285 to R293) -/

/-- The shafts a mask names. -/
def maskShafts (mask : Nat) : List Nat := (List.range 8).filter (bitAt mask)

/-- Shaft k of the focused core. -/
def State.shaft (s : State) (k : Nat) : Shaft := s.core.dot.shafts.getD k .off

/-- The first check of every beat: its context owns the dot set (R285). -/
def checkOwner (mask : Nat) : Act Unit := do
  let s ← get
  check (s.core.dot.owner == some s.slot) .illegalUse (word mask)

/-- A beat that names a half in transition waits (R277). -/
def holdTransition (mask : Nat) : Act Unit := do
  let s ← get
  hold (s.core.dot.entries.all fun e => !bitAt mask e.shaft || !(s.halfAt e.f).inTransition)

/-- The halves a shaft feeds that take part in its planes (R288). -/
def State.fedHalves (s : State) (k : Nat) : List DotEntry := s.core.dot.entries.filter fun e => e.shaft == k && (s.halfAt e.f).st != 4

/-- mpush (R287). -/
def execMpush (shafts : Fin 256) (a b : Src) (s : State) : Host.Outcome State Fault Refusal :=
  runSlot (do
    let mask := shafts.val
    let s ← get
    let af := match maskShafts mask with | [] => 0 | k :: _ => (s.shaft k).af
    let pol := match maskShafts mask with | [] => 0 | k :: _ => (s.shaft k).pol
    let ring := match a with | .reg _ => none | .pop q => some (q.val, true) | .peek q => some (q.val, false)
    -- stage 1 of R415: the operands
    let vec ← match a, b with
      | .reg i, .reg j => do
        let lo ← readVReg i.val
        let hi ← if af ≤ 2 ∧ i.val < 31 then readVReg (i.val + 1) else pure 0
        let sc ← readVReg j.val
        pure (fun k => halfVecOfRegs (afFmt af) (s.shaft k).pol (lo.toNat + hi.toNat * 2 ^ 1024) sc.toNat)
      | _, _ =>
        match ring with
        | none => pure (fun _ => halfVecOfRegs (afFmt af) pol 0 0)
        | some (q, pops) =>
          if mask != 0 && (s.ctx.ring q).feeds af then do
            let x ← ringElem q (if pops then s.bundle.pops q else 0) (if pops then 32 + q else 48 + q) (fun r => r.feeds af)
            if pops then stage (.pop q)
            pure (fun _ => halfVecOfRing (afFmt af) (s.ctx.ring q).halfPol x)
          else do
            if mask != 0 && !(s.ctx.ring q).readable then raiseEarly .illegalUse (word (if pops then 32 + q else 48 + q))
            pure (fun _ => halfVecOfRegs (afFmt af) pol 0 0)
    checkOwner mask
    if mask != 0 then
      check ((maskShafts mask).all fun k => (s.shaft k).af != 0 && !(s.shaft k).rb && (s.shaft k).af == af) .illegalUse (word mask)
      check ((maskShafts mask).all fun k => (s.shaft k).back.isNone) .illegalUse (word mask)
      match ring with
      | none => check (!(af ≤ 2 && a.code == 31)) .illegalUse 31
      | some (q, _) => check ((s.ctx.ring q).feeds af) .illegalUse (word a.code)
      holdTransition mask
      let sh := s.core.dot.shafts.mapIdx fun k x => if bitAt mask k then { x with back := some (vec k) } else x
      stage (.charge (8 * (maskShafts mask).length))
      stage (.beat 0 mask [] sh)) s

/-- ImplicitPush of R289: the vector a ring-bound shaft pops. -/
def implicitPush (h : Shaft) : Act HalfVec := do
  let s ← get
  let r := s.ctx.ring h.ringNo
  if !r.readable then
    raiseEarly .illegalUse (word (32 + h.ringNo))
    pure { codes := [], scales := [] }
  else if !r.feeds h.af then raise .illegalUse (word (32 + h.ringNo))
  else
    let x ← ringElem h.ringNo (s.bundle.pops h.ringNo) (32 + h.ringNo) (fun r => r.feeds h.af)
    stage (.pop h.ringNo)
    pure (halfVecOfRing (afFmt h.af) r.halfPol x)

/-- The zero planes passed from plane p up (R288): the planes, and the count of planes after them. -/
def passZeros (h : Shaft) (p : Nat) : Nat → List Nat × Nat
  | 0 => ([], p)
  | n + 1 => if p < afPlanes h.af ∧ h.planeZero p then ((p :: (passZeros h (p + 1) n).1), (passZeros h (p + 1) n).2) else ([], p)

/-- The planes one mshift takes from a shaft in SHIFTING (R288): those passed and the one presented, in order, the count after them, and how many were presented. -/
def shiftPlanes (h : Shaft) (z : Bool) : List Nat × Nat × Nat :=
  let a := if z then passZeros h h.planes 8 else ([], h.planes)
  let b := if a.2 < afPlanes h.af then (a.1 ++ [a.2], a.2 + 1, 1) else (a.1, a.2, 0)
  let c := if z then passZeros h b.2.1 8 else ([], b.2.1)
  (b.1 ++ c.1, c.2, b.2.2)

/-- One shaft of an mshift (R288): the shaft after it, its planes, and how many were presented. -/
def shiftShaft (mask : Nat) (z : Bool) (h : Shaft) : Act (Shaft × List Nat × Nat) :=
  if h.st = 2 then pure (h, [], 0)
  else do
    let h1 ←
      if h.st = 1 then pure h
      else do
        let v ← match h.back with
          | some v => pure v
          | none => if h.rb then implicitPush h else raise .illegalUse (word mask)
        pure { h with front := v, back := none, planes := 0, st := 1 }
    let r := shiftPlanes h1 z
    let h2 := { h1 with planes := r.2.1 }
    if r.2.1 = afPlanes h.af then do
      let bk ← match h2.back with
        | some v => pure (some v)
        | none => if h.rb then do let v ← implicitPush h; pure (some v) else pure none
      pure ({ h2 with st := 2, back := bk }, r.1, r.2.2)
    else pure (h2, r.1, r.2.2)

/-- The shafts of an mshift, ascending: the shafts after it, and the planes of each. -/
def shiftAll (mask : Nat) (z : Bool) : List Nat → List Shaft → List (Nat × Nat) → Act (List Shaft × List (Nat × Nat))
  | [], sh, ps => pure (sh, ps)
  | k :: ks, sh, ps => do
    let s ← get
    let r ← shiftShaft mask z (sh.getD k .off)
    stage (.charge (14 * r.2.2 * (s.fedHalves k).length))
    shiftAll mask z ks (sh.set k r.1) (ps ++ r.2.1.map fun q => (k, q))

/-- mshift (R288, R289). -/
def execMshift (shafts : Fin 256) (z : Bool) (s : State) : Host.Outcome State Fault Refusal :=
  runSlot (do
    checkOwner shafts.val
    let r ← shiftAll shafts.val z (maskShafts shafts.val) s.core.dot.shafts []
    holdTransition shafts.val
    stage (.beat 1 shafts.val r.2 r.1)) s

/-- The output groups fed by a named shaft: one base each (R283, R290). -/
def State.groupBases (s : State) (mask : Nat) : List Nat :=
  ((s.core.dot.entries.filter fun e => bitAt mask e.shaft).map DotEntry.base).dedup

/-- The halves of those groups. -/
def State.groupHalves (s : State) (mask : Nat) : List DotEntry :=
  s.core.dot.entries.filter fun e => (s.groupBases mask).contains e.base

/-- A group has a half on a named shaft and one on an unnamed shaft (R290 item 2): the latter's F. -/
def State.splitGroup (s : State) (mask : Nat) : Option Nat :=
  ((s.groupHalves mask).find? fun e => !bitAt mask e.shaft).map DotEntry.f

/-- The clk a draining beat holds the up-bus (R294). -/
def State.busClks (s : State) (bases : List Nat) : Nat :=
  cdiv (96 * (bases.map fun b => match s.core.dot.entries.find? (·.base == b) with
    | some e => (s.halfAt e.f).k | none => 0).sum) 16384

/-- macc, mdrain and macc.d (R290, R293): the checks of the folds, those of the drains, the up-bus. -/
def foldBeat (kind : Nat) (fold drain : Bool) (shafts : Fin 256) (s : State) : Host.Outcome State Fault Refusal :=
  runSlot (do
    let mask := shafts.val
    checkOwner mask
    let s ← get
    if fold then check ((maskShafts mask).all fun k => (s.shaft k).st == 2) .illegalUse (word mask)
    match s.splitGroup mask with
    | some f => raise .illegalUse (word f)
    | none =>
      if fold then
        match (s.groupHalves mask).find? DotEntry.held with
        | some e => raise .illegalUse (word e.f)
        | none => pure ()
      holdTransition mask
      let moves := if fold then s.groupHalves mask else (s.groupHalves mask).filter DotEntry.held
      hold (!drain || moves.isEmpty || s.core.busLeft == 0)
      stage (.charge ((if kind = 4 then 8 else 4) * (s.groupHalves mask).length))
      stage (.beat kind mask [] s.core.dot.shafts)) s

/-- macc (R290). -/
def execMacc (shafts : Fin 256) (s : State) : Host.Outcome State Fault Refusal := foldBeat 2 true false shafts s
/-- mdrain (R293). -/
def execMdrain (shafts : Fin 256) (s : State) : Host.Outcome State Fault Refusal := foldBeat 3 false true shafts s
/-- macc.d (R293). -/
def execMaccD (shafts : Fin 256) (s : State) : Host.Outcome State Fault Refusal := foldBeat 4 true true shafts s

/-! ## What a beat does when its bundle commits -/

/-- The sum over the rows of block k whose plane bit is 1: per output, and of the check columns (R288). -/
def blockPlane (h : Half) (bitsOn : List Bool) (k : Nat) : List Int × Int :=
  (List.range 32).foldl (fun acc i =>
    if bitsOn.getD (32 * k + i) false then
      (List.zipWith (· + ·) acc.1 (h.row (32 * k + i)), acc.2 + h.check (32 * k + i))
    else acc) (List.replicate h.k 0, 0)

/-- Plane(s, q) on one half (R288). -/
def DotEntry.plane (e : DotEntry) (h : Half) (af q : Nat) (front : HalfVec) : DotEntry :=
  let on := front.codes.map (planeBit af q)
  let c := (List.range 8).map (blockPlane h on)
  let step := fun (p x : Int) => 2 * p + (if q = 0 then -x else x)
  { e with sums := List.zipWith step e.sums (c.flatMap Prod.fst), chks := List.zipWith step e.chks (c.map Prod.snd) }

/-- Plane(s, q) on every half shaft k feeds. -/
def State.plane (s : State) (k q : Nat) : State :=
  let h := s.shaft k
  let upd := fun (e : DotEntry) => if e.shaft = k ∧ (s.halfAt e.f).st ≠ 4 then e.plane (s.halfAt e.f) h.af q h.front else e
  s.onCore fun c => { c with dot := { c.dot with entries := c.dot.entries.map upd } }

/-- The plane sum P[h][k][o]. -/
def DotEntry.p (e : DotEntry) (outs k o : Nat) : Int := e.sums.getD (outs * k + o) 0

/-- BlockCheck of R291: per block, Σ P − Pc. -/
def DotEntry.blockDiffs (e : DotEntry) (outs : Nat) : List Int :=
  (List.range 8).map fun k => ((e.sums.drop (outs * k)).take outs).sum - e.chks.getD k 0

/-- The numbers below 8 that satisfy a test, as a mask. -/
def mask8 (f : Nat → Bool) : Nat := unchunks 1 ((List.range 8).map fun k => (f k).toNat)

/-- BlockCheck(h) of a half in DOT (R291, Table 13.15). -/
def State.blockCheck (s : State) (e : DotEntry) (pc : Nat) : State :=
  let h := s.halfAt e.f
  let d := e.blockDiffs h.k
  if h.st = 3 then
    match d.find? (· != 0) with
    | some v => s.checkFailed e.f (mask8 fun k => d.getD k 0 != 0) (uns v 64) s.phys s.ctx.birth pc
    | none => s
  else s

/-- The NaN scales a fold reads from one half: the activation blocks and the weight blocks (R292). -/
def nanBlocks (h : Half) (front : HalfVec) : Nat × Nat :=
  (mask8 fun k => front.scales.getD k 0 == 0x3FF, mask8 fun k => (List.range h.k).any fun o => h.scale k o == 0x3FF)

/-- The NANSCALE record and event of one half (R292, Table 13.15); the fold reads the scales of a QUARANTINED half too (R290). -/
def State.nanScale (s : State) (e : DotEntry) (pc : Nat) : State :=
  let h := s.halfAt e.f
  let m := nanBlocks h (s.shaft e.shaft).front
  if m.1 ≠ 0 ∨ m.2 ≠ 0 then s.macroRecord .nanscale e.f m.1 m.2 s.phys s.ctx.birth pc else s

/-- The terms of output o that half e gives a fold: t and x of each block, none for a NaN (R290). -/
def State.terms (s : State) (e : DotEntry) (o : Nat) : List (Option (Int × Nat)) :=
  let h := s.halfAt e.f
  (List.range 8).map fun k =>
    let sa := (s.shaft e.shaft).front.scales.getD k 0
    let sw := h.scale k o
    if h.st = 4 ∨ sa = 0x3FF ∨ sw = 0x3FF then none
    else some (e.p h.k k o * (4 + sa % 4 : Nat) * (4 + sw % 4 : Nat), sa / 4 + sw / 4)

/-- The anchor α of a list of terms (R290). -/
def anchorOfTerms (l : List (Int × Nat)) : Int :=
  match (l.filter (·.1 != 0)).map Prod.snd with
  | [] => 0
  | x :: t => ((t.foldl max x : Nat) : Int) - 48

/-- floor(t × 2^(x − α)). -/
def shiftTerm (t : Int) (x : Nat) (α : Int) : Int := if α ≤ x then t * 2 ^ ((x : Int) - α).toNat else t / 2 ^ (α - x).toNat

/-- The fold of one output group: the values, anchors and flags of its halves (R290). -/
def State.foldGroup (s : State) (base : Nat) : State :=
  let es := s.core.dot.entries.filter (·.base == base)
  let outs := match es with | e :: _ => (s.halfAt e.f).k | [] => 0
  let res := (List.range outs).map fun o =>
    let ts := es.map fun e => s.terms e o
    let all := ts.flatMap fun l => l.filterMap id
    let α := anchorOfTerms all
    let vals := ts.map fun l => ((l.filterMap id).map fun p => shiftTerm p.1 p.2 α).sum
    (vals, α, ts.any fun l => l.any Option.isNone, all.any fun p => p.1 != 0 && decide ((p.2 : Int) < α))
  let spans := (res.filter fun r => r.2.2.2).length
  let fill := fun (e : DotEntry) (j : Nat) =>
    { e with sums := e.sums.map fun _ => 0, chks := e.chks.map fun _ => 0, vals := res.map fun r => r.1.getD j 0,
             anc := res.map fun r => r.2.1, nanF := res.map fun r => r.2.2.1, spanF := res.map fun r => r.2.2.2, held := true }
  let upd := fun (e : DotEntry) => if e.base = base then fill e ((es.findIdx? (·.f == e.f)).getD 0) else e
  s.onCore fun c => { c with mcnt := { c.mcnt with span := (c.mcnt.span + spans) % 2 ^ 16 }, dot := { c.dot with entries := c.dot.entries.map upd } }

/-- The fold of macc (R290). -/
def State.foldAll (s : State) (mask pc : Nat) : State :=
  let hs := s.groupHalves mask
  let s := hs.foldl (fun t e => t.blockCheck e pc) s
  let s := hs.foldl (fun t e => t.nanScale e pc) s
  let s := (s.groupBases mask).foldl State.foldGroup s
  s.onCore fun c => { c with dot := { c.dot with shafts := c.dot.shafts.mapIdx fun k h => if bitAt mask k then { h with st := 3 } else h } }

/-- The addends of one group (R293). -/
def State.groupAdds (s : State) (base : Nat) : List DrainAdd :=
  match s.core.dot.entries.filter (·.base == base) with
  | [] => []
  | e :: es =>
    let gx := afG (s.shaft e.shaft).af + halfG (s.halfAt e.f).fmt
    (List.range (s.halfAt e.f).k).map fun o =>
      { lane := base + o, nan := e.nanF.getD o false, mant := ((e :: es).map fun x => x.vals.getD o 0).sum,
        exp := e.anc.getD o 0 - 258 + gx, span := e.spanF.getD o false }

/-- The halves of a group held by spares (R294); every spare lies outside the group's column (log 25). -/
def State.spareHalves (s : State) (base : Nat) : Nat :=
  ((s.core.dot.entries.filter (·.base == base)).filter fun e => s.dev.remapped (remapKey s.coreNo e.f) ≥ 32768).length

/-- The drain of mdrain (R293, R294): one addend for each group output, reaching its lane 8 + U clk later, 2 more for each half held by a spare. -/
def State.drainAll (s : State) (mask : Nat) : State :=
  let bases := (s.groupBases mask).filter fun b => s.core.dot.entries.any fun e => e.base == b && e.held
  let u := s.busClks bases
  if bases.isEmpty then s
  else
    let new : List Drain := bases.map fun b => { slot := s.slot, left := 8 + u + 2 * s.spareHalves b, adds := s.groupAdds b, bno := s.bundleNo }
    let clear := fun (e : DotEntry) =>
      if bases.contains e.base then
        { e with vals := e.vals.map fun _ => 0, nanF := e.nanF.map fun _ => false, spanF := e.spanF.map fun _ => false, held := false }
      else e
    s.onCore fun c => { c with busLeft := u, drains := c.drains ++ new, dot := { c.dot with entries := c.dot.entries.map clear } }

/-- A beat commits. -/
def State.commitBeat (s : State) (kind mask : Nat) (planes : List (Nat × Nat)) (sh : List Shaft) (pc : Nat) : State :=
  let s := if kind ≤ 1 then s.onCore fun c => { c with dot := { c.dot with shafts := sh } } else s
  let s := planes.foldl (fun t p => t.plane p.1 p.2) s
  let s := if kind = 2 ∨ kind = 4 then s.foldAll mask pc else s
  if kind = 3 ∨ kind = 4 then s.drainAll mask else s

/-! ## mset (R282 to R284) -/

/-- V of a descriptor entry (Table 13.5). -/
def descV (e : Nat) : Bool := bitAt e 63
/-- SHAFT. -/
def descShaft (e : Nat) : Nat := bits e 60 3
/-- F. -/
def descF (e : Nat) : Nat := bits e 47 13
/-- BASE. -/
def descBase (e : Nat) : Nat := bits e 35 12

/-- The recorded format a half counts with: its held MMODE format while RELOADING with DOTPEND set (R283). -/
def Half.setFmt (h : Half) : Nat := if h.st = 2 ∧ h.dotPend then h.held else h.fmt

/-- An entry offends beside the valid ones before it (R283). -/
def State.entryBad (s : State) (w : Nat) (before : List Nat) (e : Nat) : Bool :=
  let af := fun x => bits w (8 * descShaft x) 3
  let fmt := fun x => (s.halfAt (descF x)).setFmt
  let k := halfK (fmt e)
  bits e 0 35 != 0 || af e == 0 || before.any (fun x => descF x == descF e) || descBase e + k > 4096 ||
  before.any fun x =>
    if descBase x = descBase e then descF x % 1024 != descF e % 1024 || fmt x != fmt e || af x != af e
    else decide (descBase e < descBase x + halfK (fmt x)) && decide (descBase x < descBase e + k)

/-- The first offending entry in ascending order (R283). -/
def State.badEntry (s : State) (w : Nat) (before : List Nat) : List Nat → Option Nat
  | [] => none
  | e :: t => if descV e then (if s.entryBad w before e then some e else s.badEntry w (before ++ [e]) t) else s.badEntry w before t

/-- A valid entry with its plane sums, check sums and periphery values zero (R284). -/
def State.newEntry (s : State) (i e : Nat) : DotEntry :=
  let k := halfK (s.halfAt (descF e)).setFmt
  { index := i, shaft := descShaft e, f := descF e, base := descBase e, sums := List.replicate (8 * k) 0,
    chks := List.replicate 8 0, vals := List.replicate k 0, anc := List.replicate k 0, nanF := List.replicate k false,
    spanF := List.replicate k false, held := false }

/-- A half a dot set may name: DOT, or RELOADING with DOTPEND set (R284). -/
def Half.nameable (h : Half) : Bool := h.st == 3 || (h.st == 2 && h.dotPend)

/-- mset (R284): its checks in order. -/
def execMset (a b : Fin 32) (s : State) : Host.Outcome State Fault Refusal :=
  runSlot (do
    let d ← readReg a.val
    let w ← readReg b.val
    let s ← get
    let dot := s.core.dot
    check (dot.owner.isNone || dot.owner == some s.slot) .illegalUse w
    check (!(dot.shafts.any fun h => h.st == 1 || h.st == 2) && !dot.entries.any DotEntry.held) .illegalUse w
    if w = 0 then stage .mrelease
    else
      let sh := (chunks 8 8 w.toNat).map fun x => { Shaft.off with byte := x }
      check (sh.all fun h => shaftByteOk h.byte && (!h.rb || (s.ctx.ring h.ringNo).feeds h.af)) .format w
      check (d.toNat % 64 == 0 && d.toNat + 8192 ≤ 2 ^ 24) .illegalUse d
      loadWaits .act 0 [(d.toNat, 8192)]
      let es := chunks 64 128 (s.core.act.readBits d.toNat 8192)
      match s.badEntry w.toNat [] es with
      | some e => raise .format (word e)
      | none =>
        match es.find? fun e => descV e && !(s.halfAt (descF e)).nameable with
        | some e => raise .illegalUse (word (descF e))
        | none => stage (.mset sh ((es.zipIdx.filter fun p => descV p.1).map fun p => s.newEntry p.2 p.1))) s

/-- mset commits: the context owns the dot set and the descriptor takes effect (R284). -/
def State.commitMset (s : State) (sh : List Shaft) (es : List DotEntry) : State :=
  s.onCore fun c => { c with dot := { owner := some s.slot, shafts := sh, entries := es } }

/-- The dot set released (R281, R284). -/
def State.releaseDot (s : State) : State := s.onCore fun c => { c with dot := .none }

/-! ## mstat (R304) -/

/-- The context of a slot is resident: it is no saved, retained or faulted owner (R281, Table 13.13). -/
def CtxState.resident (c : CtxState) : Bool :=
  match c with | .saved | .retained | .faulted => false | _ => true

/-- The owner of the dot set is not resident. -/
def State.dotReserved (s : State) : Bool :=
  match s.core.dot.owner with
  | none => false
  | some k => if k = s.slot then !s.ctx.st.resident else if k < 2 then !s.partner.st.resident else true

/-- The value mstat gives (Table 13.13). -/
def State.mstatVal (s : State) (sel f : Nat) : Nat :=
  let d := s.core.dot
  match sel with
  | 0 =>
    let h := s.halfAt f
    s.dev.remapped (remapKey s.coreNo f) % 2 ^ 16 * 2 ^ 11 + (s.inSet f).toNat * 2 ^ 10 +
      (if h.dotPend then h.held else h.fmt) * 2 ^ 5 + h.dotPend.toNat * 16 + h.chk.toNat * 8 + h.st
  | 1 =>
    let own := d.owner.isSome
    own.toNat * 2 ^ 63 + (match d.owner with | some k => k % 2 | none => 0) * 2 ^ 62 + s.dotReserved.toNat * 2 ^ 61 +
      (own && d.entries.isEmpty).toNat * 2 ^ 40 + mask8 (fun k => d.entries.any fun e => e.shaft == k && e.held) * 2 ^ 32 +
      mask8 (fun k => (s.shaft k).back.isSome) * 2 ^ 24 + (d.entries.length - 1) % 256 * 2 ^ 16 +
      unchunks 2 ((List.range 8).map fun k => (s.shaft k).st)
  | _ => s.core.mcnt.softErr.toNat * 2 ^ 63 + s.core.mcnt.late * 2 ^ 32 + s.core.mcnt.chk * 2 ^ 16 + s.core.mcnt.span

/-- mstat (R304): interlocked. -/
def execMstat (d a : Fin 32) (s : State) : Host.Outcome State Fault Refusal :=
  runSlot (do
    let x ← readReg a.val
    readyDest (.s d.val)
    let sel := bits x.toNat 13 3
    check (sel ≤ 2 && bits x.toNat 16 48 == 0 && (sel == 0 || bits x.toNat 0 13 == 0)) .illegalUse x
    let s ← get
    let n ← modifyGet State.draw
    putInter (.s d.val) (n + 1) (s.mstatVal sel (bits x.toNat 0 13)) 1) s

end Sys2Proof.Machine
end

