-- ==== Sys2Proof/Machine/Exact.lean ====
section
/-! DEFINITION. Exact.lean: enclosures of the elementary functions at rational arguments, in fixed point with outward rounding. A value of scale q is an integer in units of 2^−q. The functions of chapter 15 are irrational wherever their value is not one of the exact results, so a narrow enough enclosure decides every rounding. -/

namespace Sys2Proof.Machine

/-- An interval of fixed point. -/
structure Iv where
  lo : Int
  hi : Int
deriving DecidableEq, Repr

/-- Sum. -/
def Iv.add (a b : Iv) : Iv := ⟨a.lo + b.lo, a.hi + b.hi⟩
/-- Difference. -/
def Iv.sub (a b : Iv) : Iv := ⟨a.lo - b.hi, a.hi - b.lo⟩
/-- Sign change. -/
def Iv.neg (a : Iv) : Iv := ⟨-a.hi, -a.lo⟩
/-- A wider interval. -/
def Iv.widen (a : Iv) (n : Int) : Iv := ⟨a.lo - n, a.hi + n⟩
/-- Ceiling of a quotient with a positive divisor. -/
def ceilDiv (a : Int) (b : Int) : Int := -((-a) / b)
/-- Product at scale q. -/
def Iv.mul (q : Nat) (a b : Iv) : Iv :=
  let x := a.lo * b.lo
  let y := a.lo * b.hi
  let z := a.hi * b.lo
  let w := a.hi * b.hi
  ⟨min (min x y) (min z w) / 2 ^ q, ceilDiv (max (max x y) (max z w)) (2 ^ q)⟩
/-- Quotient by a positive natural. -/
def Iv.divN (a : Iv) (n : Nat) : Iv := ⟨a.lo / n, ceilDiv a.hi n⟩
/-- Product with an integer. -/
def Iv.mulI (a : Iv) (n : Int) : Iv := if 0 ≤ n then ⟨a.lo * n, a.hi * n⟩ else ⟨a.hi * n, a.lo * n⟩
/-- Quotient of a nonnegative interval by a positive one, at scale q. -/
def Iv.div (q : Nat) (a b : Iv) : Iv := ⟨a.lo * 2 ^ q / b.hi, ceilDiv (a.hi * 2 ^ q) b.lo⟩
/-- A rational at scale q. -/
def Iv.ofFrac (neg : Bool) (num den q : Nat) : Iv :=
  let a : Iv := ⟨(num * 2 ^ q / den : Nat), ceilDiv (num * 2 ^ q : Nat) den⟩
  if neg then a.neg else a
/-- A value of scale q + k brought to scale q. -/
def Iv.drop (k : Nat) (a : Iv) : Iv := ⟨a.lo / 2 ^ k, ceilDiv a.hi (2 ^ k)⟩
/-- The interval is as small as rounding makes it. -/
def Iv.tiny (a : Iv) : Bool := decide (-2 ≤ a.lo) && decide (a.hi ≤ 2)
/-- A nonnegative interval. -/
def Iv.clip (a : Iv) : Iv := ⟨max a.lo 0, max a.hi 0⟩

/-- A power series from one term on: next gives each term from the one before; the rest is less than the last term, which has become tiny. -/
def seriesFrom (next : Nat → Iv → Iv) : Nat → Nat → Iv → Iv → Iv
  | 0, _, _, acc => acc
  | fuel + 1, k, t, acc => if t.tiny then acc.widen 8 else seriesFrom next fuel (k + 1) (next k t) (acc.add t)

/-- atanh z for z with |z| ≤ 1/2, at scale q: the series of z^(2k+1)/(2k+1). -/
def atanhIv (q : Nat) (z : Iv) : Iv :=
  let z2 := Iv.mul q z z
  let rec go : Nat → Nat → Iv → Iv → Iv
    | 0, _, _, acc => acc
    | fuel + 1, k, p, acc => if p.tiny then acc.widen 8 else go fuel (k + 1) (Iv.mul q p z2) (acc.add (p.divN (2 * k + 1)))
  go (q + 8) 0 z ⟨0, 0⟩

/-- atan (1/n) at scale q. -/
def atanInv (q n : Nat) : Iv :=
  let rec go : Nat → Nat → Iv → Iv → Iv
    | 0, _, _, acc => acc
    | fuel + 1, k, p, acc =>
      if p.tiny then acc.widen 8
      else go fuel (k + 1) (p.divN (n * n)) (if k % 2 = 0 then acc.add (p.divN (2 * k + 1)) else acc.sub (p.divN (2 * k + 1)))
  go (q + 8) 0 (Iv.ofFrac false 1 n q) ⟨0, 0⟩

/-- π at scale q (Machin). -/
def piIv (q : Nat) : Iv := ((atanInv (q + 8) 5).mulI 16 |>.sub ((atanInv (q + 8) 239).mulI 4)).drop 8

/-- ln 2 at scale q. -/
def ln2Iv (q : Nat) : Iv := ((atanhIv (q + 8) (Iv.ofFrac false 1 3 (q + 8))).mulI 2).drop 8

/-- e^r at scale q for |r| ≤ 1. -/
def expIv (q : Nat) (r : Iv) : Iv :=
  seriesFrom (fun k t => (Iv.mul q t r).divN (k + 1)) (q + 16) 0 ⟨2 ^ q, 2 ^ q⟩ ⟨0, 0⟩

/-- e^r − 1 at scale q for |r| ≤ 1. -/
def expm1Iv (q : Nat) (r : Iv) : Iv :=
  seriesFrom (fun k t => (Iv.mul q t r).divN (k + 1)) (q + 16) 1 r ⟨0, 0⟩

/-- sin r at scale q for |r| ≤ 2. -/
def sinIv (q : Nat) (r : Iv) : Iv :=
  let r2 := (Iv.mul q r r).neg
  seriesFrom (fun k t => (Iv.mul q t r2).divN ((2 * k + 2) * (2 * k + 3))) (q + 16) 0 r ⟨0, 0⟩

/-- cos r at scale q for |r| ≤ 2. -/
def cosIv (q : Nat) (r : Iv) : Iv :=
  let r2 := (Iv.mul q r r).neg
  seriesFrom (fun k t => (Iv.mul q t r2).divN ((2 * k + 1) * (2 * k + 2))) (q + 16) 0 ⟨2 ^ q, 2 ^ q⟩ ⟨0, 0⟩

/-- √(num/den) at scale q. -/
def sqrtIv (num den q : Nat) : Iv :=
  let x := num * 2 ^ (2 * q) / den
  let r := isqrt x
  ⟨r, r + 1⟩

/-- ln(num/den) at scale q + ℓ, where ℓ bits are added for an argument near 1; the scale used is the second value. -/
def lnIv (num den q : Nat) : Iv × Nat :=
  let e := fracLog2 num den
  let m0 := scale2 num den (-e)
  -- m in [2/3, 4/3)
  let up := 3 * m0.1 ≥ 4 * m0.2
  let m : Nat × Nat := if up then (m0.1, 2 * m0.2) else m0
  let e : Int := if up then e + 1 else e
  let neg := m.1 < m.2
  let zn := (if neg then m.2 - m.1 else m.1 - m.2)
  let zd := m.1 + m.2
  let l := if e = 0 ∧ zn ≠ 0 then (-(fracLog2 zn zd)).toNat else 0
  let Q := q + l + 16
  let a := (atanhIv Q (Iv.ofFrac neg zn zd Q)).mulI 2
  let extra := e.natAbs.log2 + 2
  let b := ((ln2Iv (Q + extra)).mulI e).drop extra
  (a.add b, Q)

/-- e^x at scale q for a rational x: the mantissa and the exponent n, so that e^x is in mantissa × 2^n. -/
def expFrac (neg : Bool) (num den q : Nat) : Iv × Int :=
  let l := (fracLog2 (num + den) den).toNat + 4
  let Q := q + l
  let x := Iv.ofFrac neg num den Q
  let ln2 := ln2Iv Q
  let n : Int := x.lo / ln2.lo
  -- x / ln 2 needs ln 2 to as many more bits as n has
  let r := x.sub (((ln2Iv (Q + l)).mulI n).drop l)
  (expIv q (r.drop l), n)

/-- sin and cos of an angle of up to π/4 beyond a multiple of π/2: the quadrant's choice. -/
def quadrant (q : Nat) (n : Int) (r : Iv) (cosine : Bool) : Iv :=
  match ((n + (if cosine then 1 else 0)) % 4).toNat with
  | 0 => sinIv q r
  | 1 => cosIv q r
  | 2 => (sinIv q r).neg
  | _ => (cosIv q r).neg

/-- sin x or cos x at scale q for a rational x of any size. -/
def trigFrac (neg : Bool) (num den q : Nat) (cosine : Bool) : Iv :=
  let l := (fracLog2 (num + den) den).toNat + 4
  let Q := q + 2 * l
  let h := piIv Q
  let x := Iv.ofFrac neg num den Q
  -- π/2 is h / 2; n is the nearest multiple
  let n : Int := (4 * x.lo / h.lo + 1) / 2
  let r := (x.mulI 2).sub ((piIv (Q + l)).mulI n |>.drop l)
  quadrant q n (r.drop (2 * l + 1)) cosine

/-- sin πx or cos πx at scale q for a rational x: exact reduction of x. -/
def trigPiFrac (neg : Bool) (num den q : Nat) (cosine : Bool) : Iv :=
  let x : Int := if neg then -(num : Int) else num
  let n : Int := (4 * x / den + 1) / 2
  -- x = n/2 + r/(2 den), with r = 2x·… − n·den
  let r : Int := 2 * x - n * den
  let rv := Iv.ofFrac (r < 0) r.natAbs (2 * den) q
  quadrant q n (Iv.mul q rv (piIv q)) cosine

/-- sinh w / w at scale q as a series in v = w². -/
def sinhcIv (q : Nat) (v : Iv) : Iv :=
  seriesFrom (fun k t => (Iv.mul q t v).divN ((2 * k + 2) * (2 * k + 3))) (q + 16) 0 ⟨2 ^ q, 2 ^ q⟩ ⟨0, 0⟩
/-- cosh w at scale q as a series in v = w². -/
def coshIv (q : Nat) (v : Iv) : Iv :=
  seriesFrom (fun k t => (Iv.mul q t v).divN ((2 * k + 1) * (2 * k + 2))) (q + 16) 0 ⟨2 ^ q, 2 ^ q⟩ ⟨0, 0⟩

/-- tanh x at scale q for a positive rational x: from e^(2x) − 1, or from the series where x is at most 1/2. -/
def tanhFrac (num den q : Nat) : Iv :=
  if 2 * num ≤ den then
    let x := Iv.ofFrac false num den q
    let v := Iv.mul q x x
    Iv.mul q x (Iv.div q (sinhcIv q v) (coshIv q v))
  else
    let t := expFrac true (2 * num) den q
    let u := t.1.drop (-t.2).toNat |>.clip
    Iv.div q ⟨2 ^ q - u.hi, 2 ^ q - u.lo⟩ ⟨2 ^ q + u.lo, 2 ^ q + u.hi⟩

/-- erf x at scale q for a positive rational x: 2/√π e^(−x²) times a series of positive terms. -/
def erfFrac (num den q : Nat) : Iv :=
  let up := 16 + 3 * (num * num / (den * den) + 1)
  let Q := q + up
  let x := Iv.ofFrac false num den Q
  let x2 := Iv.mul Q x x
  let fuel := Q + 16 + 8 * (num * num / (den * den))
  let s := seriesFrom (fun k t => ((Iv.mul Q t x2).mulI 2).divN (2 * k + 3)) fuel 0 x ⟨0, 0⟩
  let e := expFrac true (num * num) (den * den) Q
  let ex := e.1.drop (-e.2).toNat |>.clip
  let p := piIv Q
  let rp : Iv := ⟨isqrt (p.lo.toNat * 2 ^ Q), isqrt (p.hi.toNat * 2 ^ Q) + 1⟩
  (Iv.div Q ((Iv.mul Q s ex).mulI 2) rp).drop up

end Sys2Proof.Machine
end

