-- ==== Sys2Proof/Machine/Elem.lean ====
section
/-! DEFINITION. Elem.lean: the function port: the correctly rounded functions with their two phases, division, and the fast X family (R332 to R347). -/

namespace Sys2Proof.Machine

/-- The functions of Table 15.2. -/
inductive Fn where
  | exp | exp2 | expm1 | log | log2 | log1p | sin | cos | sinpi | cospi | tanh | logi | erf | rsq | sqrt | rcp
deriving DecidableEq, Repr

/-- func of Table 15.2. -/
def Fn.code : Fn → Nat
  | .exp => 0 | .exp2 => 1 | .expm1 => 2 | .log => 3 | .log2 => 4 | .log1p => 5 | .sin => 6 | .cos => 7 | .sinpi => 8
  | .cospi => 9 | .tanh => 10 | .logi => 11 | .erf => 12 | .rsq => 13 | .sqrt => 14 | .rcp => 15

/-! ## Special operands (R335, R336) -/

/-- A finite zero. -/
def Exact.zero (neg : Bool) : Exact := .fin neg 0 1
/-- One. -/
def Exact.one (neg : Bool) : Exact := .fin neg 1 1
/-- Twice the value is an integer: that integer's absolute value. -/
def halfInt (num den : Nat) : Option Nat := if 2 * num % den = 0 then some (2 * num / den) else none

/-- The results of Table 15.3, none for an operand it does not list. -/
def Fn.special (fn : Fn) (x : Exact) : Option (Exact × Nat) :=
  let iv := some (Exact.nan false, flagIV)
  match fn, x with
  | _, .nan sg => some (.nan false, if sg then flagIV else 0)
  | .exp, .inf n | .exp2, .inf n => some (if n then .zero false else .inf false, 0)
  | .expm1, .inf n => some (if n then .one true else .inf false, 0)
  | .log, .inf n | .log2, .inf n | .log1p, .inf n => if n then iv else some (.inf false, 0)
  | .sin, .inf _ | .cos, .inf _ | .sinpi, .inf _ | .cospi, .inf _ => iv
  | .tanh, .inf n | .erf, .inf n => some (.one n, 0)
  | .logi, .inf n => some (if n then .zero false else .one false, 0)
  | .rsq, .inf n => if n then iv else some (.zero false, 0)
  | .sqrt, .inf n => if n then iv else some (.inf false, 0)
  | .rcp, .inf n => some (.zero n, 0)
  | fn, .fin neg num den =>
    if num = 0 then
      match fn with
      | .exp | .exp2 | .cos | .cospi => some (.one false, 0)
      | .expm1 | .log1p | .sin | .sinpi | .tanh | .erf | .sqrt => some (.zero neg, 0)
      | .log | .log2 => some (.inf true, flagDZ)
      | .logi => some (.fin false 1 2, 0)
      | .rsq | .rcp => some (.inf neg, flagDZ)
    else
      match fn with
      | .log | .log2 => if neg then iv else if num = den then some (.zero false, 0) else none
      | .log1p => if neg ∧ num > den then iv else if neg ∧ num = den then some (.inf true, flagDZ) else none
      | .rsq | .sqrt => if neg then iv else none
      | .sinpi =>
        match halfInt num den with
        | some k =>
          if k % 2 = 0 then some (.zero neg, 0) else some (.one ((k % 4 == 3) != neg), 0)
        | none => none
      | .cospi =>
        match halfInt num den with
        | some k => if k % 2 = 1 then some (.zero false, 0) else some (.one (k % 4 == 2), 0)
        | none => none
      | _ => none

/-- A value that is rational: exp2 at an integer, log2 at an integral power of two, roots of squares, reciprocals (R335, R337). -/
def Fn.rational (fn : Fn) (neg : Bool) (num den : Nat) : Option Exact :=
  let g := Nat.gcd num den
  let n := num / g
  let d := den / g
  match fn with
  | .exp2 => if d = 1 then some (if neg then .fin false 1 (2 ^ min n 4096) else .fin false (2 ^ min n 4096) 1) else none
  | .log2 =>
    if d = 1 ∧ n = 2 ^ n.log2 then some (.fin false n.log2 1)
    else if n = 1 ∧ d = 2 ^ d.log2 then some (.fin true d.log2 1) else none
  | .sqrt => if isqrt n * isqrt n = n ∧ isqrt d * isqrt d = d then some (.fin false (isqrt n) (isqrt d)) else none
  | .rsq => if isqrt n * isqrt n = n ∧ isqrt d * isqrt d = d then some (.fin false (isqrt d) (isqrt n)) else none
  | .rcp => some (.fin neg d n)
  | _ => none

/-! ## Enclosures -/

/-- An enclosure of a positive magnitude: between lo and hi, times 2^exp, with a sign. -/
structure Enc where
  neg : Bool
  lo  : Nat
  hi  : Nat
  exp : Int
deriving DecidableEq, Repr

/-- An interval of scale q that excludes 0, with a power of two. -/
def Enc.ofIv (a : Iv) (e : Int) : Enc :=
  if a.hi ≤ 0 then { neg := true, lo := (-a.hi).toNat, hi := (-a.lo).toNat, exp := e }
  else { neg := false, lo := a.lo.toNat, hi := a.hi.toNat, exp := e }

/-- A value a hair from n towards 0, or a hair from 0: it stands for every value nearer still, which rounds the same way. -/
def Enc.nearOne (neg : Bool) : Enc := { neg := neg, lo := 2 ^ 600 - 2 ^ 231, hi := 2 ^ 600 - 2 ^ 231, exp := -600 }
/-- A tiny value. -/
def Enc.tiny (neg : Bool) : Enc := { neg := neg, lo := 5, hi := 5, exp := -3000 }

/-- The bits to add for a small argument, so that a result near it keeps its precision. -/
def smallBits (num den : Nat) : Nat := (-(fracLog2 num den)).toNat

/-- f(x) enclosed with about q bits, for an operand that Table 15.3 and Fn.rational do not settle (R334). -/
def Fn.enclose (fn : Fn) (neg : Bool) (num den q : Nat) : Enc :=
  let l := smallBits num den
  let Q := q + l
  let big := fun (n : Nat) => num ≥ n * den
  match fn with
  | .exp =>
    if neg ∧ big 4000 then .tiny false
    else let r := expFrac neg num den q; Enc.ofIv r.1 (r.2 - q)
  | .exp2 =>
    let x : Int := if neg then -(num : Int) else num
    let n : Int := x / den
    let u := (x - n * den).toNat
    if n < -4000 then .tiny false
    else Enc.ofIv (expIv q (Iv.mul q (Iv.ofFrac false u den q) (ln2Iv q))) (n - q)
  | .expm1 =>
    if neg ∧ big 256 then .nearOne true
    else if num ≤ den then Enc.ofIv (expm1Iv Q (Iv.ofFrac neg num den Q)) (-Q)
    else
      let r := expFrac neg num den q
      if 0 ≤ r.2 then
        -- one unit of scale 2^(n − q) covers the 1 that is taken away when n ≥ q
        if r.2 ≥ q then Enc.ofIv ⟨r.1.lo - 1, r.1.hi⟩ (r.2 - q)
        else Enc.ofIv ((r.1.mulI (2 ^ r.2.toNat)).sub ⟨2 ^ q, 2 ^ q⟩) (-q)
      else Enc.ofIv ((r.1.drop (-r.2).toNat).sub ⟨2 ^ q, 2 ^ q⟩) (-q)
  | .log => let r := lnIv num den q; Enc.ofIv r.1 (-(r.2 : Int))
  | .log2 =>
    let r := lnIv num den q
    let d := ln2Iv r.2
    if r.1.hi ≤ 0 then Enc.ofIv (Iv.div r.2 r.1.neg d).neg (-(r.2 : Int)) else Enc.ofIv (Iv.div r.2 r.1 d) (-(r.2 : Int))
  | .log1p => let r := lnIv (if neg then den - num else den + num) den q; Enc.ofIv r.1 (-(r.2 : Int))
  | .sin => Enc.ofIv (trigFrac neg num den Q false) (-Q)
  | .cos => Enc.ofIv (trigFrac neg num den (q + 2 * l) true) (-(q + 2 * l : Nat))
  | .sinpi => Enc.ofIv (trigPiFrac neg num den Q false) (-Q)
  | .cospi => Enc.ofIv (trigPiFrac neg num den (q + 2 * l) true) (-(q + 2 * l : Nat))
  | .tanh =>
    if big 128 then .nearOne neg
    else { Enc.ofIv (tanhFrac num den Q) (-Q) with neg := neg }
  | .logi =>
    if big 256 then (if neg then .tiny false else .nearOne false)
    else
      let r := expFrac true num den q
      let t := r.1.drop (-r.2).toNat
      if neg then Enc.ofIv (Iv.div q r.1 ((t.add ⟨2 ^ q, 2 ^ q⟩))) (r.2 - q)
      else Enc.ofIv (Iv.div q ⟨2 ^ q, 2 ^ q⟩ (t.add ⟨2 ^ q, 2 ^ q⟩)) (-q)
  | .erf =>
    if big 16 then .nearOne neg
    else { Enc.ofIv (erfFrac num den Q) (-Q) with neg := neg }
  | .rsq => let k := (fracLog2 num den).natAbs + 1; Enc.ofIv (sqrtIv den num (q + k)) (-(q + k : Nat))
  | .sqrt => let k := (fracLog2 num den).natAbs + 1; Enc.ofIv (sqrtIv num den (q + k)) (-(q + k : Nat))
  | .rcp => { neg := neg, lo := den, hi := den, exp := 0 }

/-- The magnitude v × 2^exp as a value for rounding; beyond 2^±3000 every format rounds alike. -/
def Enc.point (e : Enc) (v : Nat) : Exact :=
  let k : Int := (v.log2 : Int) + e.exp
  if k > 3000 then Exact.dyadic e.neg v (3000 - v.log2)
  else if k < -3000 then Exact.dyadic e.neg v (-3000 - v.log2)
  else Exact.dyadic e.neg v e.exp

/-- The rounding of every value in an enclosure, if they agree; the value is irrational, so it is inexact. -/
def Enc.round? (sp : FloatSpec) (mode : Nat) (e : Enc) : Option (Nat × Nat) :=
  let mid := roundTo sp mode (e.point ((e.lo + e.hi) / 2)) 0
  if e.lo = e.hi then some mid
  else if e.lo = 0 then none
  else
    let a := roundTo sp mode (e.point e.lo) 0
    let b := roundTo sp mode (e.point e.hi) 0
    if a = mid ∧ b = mid then some mid else none

/-- The rounding of f(x) by enclosures of doubling width until one decides; 160 bits decide all but a few operands, and 160 × 2^6 every operand of the formats. -/
def Fn.decide (fn : Fn) (sp : FloatSpec) (mode : Nat) (neg : Bool) (num den : Nat) : Nat → Nat → (Nat × Nat) × Enc
  | 0, q =>
    let e := fn.enclose neg num den q
    (roundTo sp mode (e.point ((e.lo + e.hi) / 2)) 0, e)
  | fuel + 1, q =>
    let e := fn.enclose neg num den q
    match Enc.round? sp mode e with
    | some r => (r, e)
    | none => fn.decide sp mode neg num den fuel (2 * q)

/-! ## The two phases (R337) -/

/-- The distance of a magnitude from the nearest rounding boundary, as a fraction of the quantum of its binade, with that binade's exponent (R337): num / den in [2^e, 2^(e+1)). -/
def boundaryDist (p mode num den : Nat) : Nat × Nat × Int :=
  let e := fracLog2 num den
  let u := scale2 num den (p - 1 - e)
  let k := u.1 / u.2
  let f := u.1 % u.2
  let d := 4 * u.2
  if mode ≤ 1 then
    let a := ((4 * f : Int) - 2 * u.2).natAbs
    (if k = 2 ^ (p - 1) then min a (4 * f + u.2) else a, d, e)
  else (min (4 * f) (4 * (u.2 - f)), d, e)

/-- Which phase decides a magnitude num / den × 2^x: none for between (R337). -/
def nearPhase (sp : FloatSpec) (mode num den : Nat) (x : Int) : Option Bool :=
  let r := boundaryDist sp.p mode num den
  let k := (sp.emin - (r.2.2 + x)).toNat
  -- |y − b| < 2^(E − p − 7) with quantum 2^(e − p + 1): the fraction is below 2^(E − e − 8)
  if r.1 * 2 ^ 8 < r.2.1 * 2 ^ min k 5000 then some true
  else if r.1 * 2 ^ 5 ≥ r.2.1 * 2 ^ min k 5000 then some false
  else none

/-- y lies on the grid of F with an unbounded exponent (R337). -/
def onGrid (p num den : Nat) : Bool :=
  let g := Nat.gcd num den
  let n := num / g
  let d := den / g
  d == 2 ^ d.log2 && n / 2 ^ trailZeros n.log2 n < 2 ^ p

/-- A lane of a correctly rounded instruction: its bits, its flags, and whether it takes the second phase. -/
structure LaneResult where
  val    : Nat
  flags  : Nat
  second : Bool
deriving DecidableEq, Repr

/-- A rational value delivered: exactly rounded, and classified unless it lies on the grid (R337). -/
def rationalLane (f : FloatFmt) (mode : Nat) (neg : Bool) (num den key fn : Nat) : LaneResult :=
  let sp := FloatFmt.spec f
  let r := roundTo sp mode (.fin neg num den) 0
  { val := r.1, flags := r.2,
    second := num ≠ 0 && !onGrid sp.p num den &&
      (nearPhase sp mode num den 0).getD (Config.phaseBetween fn f.code mode key) }

/-- A lane of major 0x30 (R334, R335, R337). -/
def Fn.lane (fn : Fn) (f : FloatFmt) (mode x : Nat) : LaneResult :=
  let sp := FloatFmt.spec f
  let key := x % 2 ^ sp.width
  let v := FloatFmt.value f x
  match fn.special v with
  | some (y, fl) =>
    let r := roundTo sp mode y 0
    { val := r.1, flags := fl ||| r.2, second := false }
  | none =>
    match v with
    | .fin neg num den =>
      match fn.rational neg num den with
      | some (.fin n a b) => rationalLane f mode n a b key fn.code
      | _ =>
        let r := fn.decide sp mode neg num den 6 160
        { val := r.1.1, flags := r.1.2,
          second := (nearPhase sp mode (r.2.lo + r.2.hi) 2 r.2.exp).getD (Config.phaseBetween fn.code f.code mode key) }
    | _ => { val := sp.nan, flags := 0, second := false }

/-- A lane of fdiv (R336). -/
def divLane (f : FloatFmt) (mode x y : Nat) : LaneResult :=
  let sp := FloatFmt.spec f
  let deliver : Exact → Nat → LaneResult := fun v fl =>
    { val := (roundTo sp mode v 0).1, flags := fl ||| (roundTo sp mode v 0).2, second := false }
  match FloatFmt.value f x, FloatFmt.value f y with
  | .nan a, .nan b => deliver (.nan false) (if a || b then flagIV else 0)
  | .nan a, _ => deliver (.nan false) (if a then flagIV else 0)
  | _, .nan b => deliver (.nan false) (if b then flagIV else 0)
  | .inf _, .inf _ => deliver (.nan false) flagIV
  | .inf n, .fin m _ _ => deliver (.inf (n != m)) 0
  | .fin n _ _, .inf m => deliver (.zero (n != m)) 0
  | .fin n a b, .fin m c d =>
    if c = 0 then (if a = 0 then deliver (.nan false) flagIV else deliver (.inf (n != m)) flagDZ)
    else if a = 0 then deliver (.zero (n != m)) 0
    else rationalLane f mode (n != m) (a * d) (b * c) (x % 2 ^ sp.width + y % 2 ^ sp.width * 2 ^ 32) 16

/-! ## The instructions (R332, R338, R339) -/

/-- The result of a function instruction staged: with lanes in the second phase it lands when the unit has served them (R338). -/
def putFunction (d : Dst) (f : FloatFmt) (func mode : Nat) (l : List LaneResult) : Act Unit := do
  let s ← get
  hold (s.core.fnQueue.length < 16)
  let tag := s.newTag
  let m := (l.filter LaneResult.second).length
  let p : Pending := { dest := .none, val := (ofLanes (FloatFmt.is32 f) (l.map LaneResult.val)).toNat, addr := 0, left := 12,
                       inter := 3, flags := raising (orFlags (l.map LaneResult.flags)), pc := s.bundle.pc, tag := tag, bno := s.accNo }
  match d with
  | .reg i => stage (.result { p with dest := .v i.val })
  | .push q => stage (.push q.val { p with dest := .ring q.val, addr := (s.ctx.ring q.val).pushAddr (s.bundle.pushes q.val) })
  stage (.fnEntry { slot := s.slot, tag := tag, wait := 12, work := 48 * m, second := m != 0, pc := s.bundle.pc,
                    info := func * 2 ^ 21 + f.code * 2 ^ 18 + mode * 2 ^ 15 + m,
                    val := maskOf (l.map LaneResult.second) })

/-- An instruction of major 0x30. -/
def function1 (fn : Fn) (t : FloatFmt) (rm : Rnd) (d : Dst) (a : Src) (s : State) : Host.Outcome State Fault Refusal :=
  runSlot (do
    let x ← readV a
    readyV d
    let s ← get
    putFunction d t fn.code (s.laneMode rm) ((lanesOf (FloatFmt.is32 t) x).map (fn.lane t (s.laneMode rm)))) s

/-- fexp (R334). -/
def execFexp (t : FloatFmt) (rm : Rnd) (d : Dst) (a : Src) (s : State) : Host.Outcome State Fault Refusal := function1 .exp t rm d a s
/-- fexp2 (R334). -/
def execFexp2 (t : FloatFmt) (rm : Rnd) (d : Dst) (a : Src) (s : State) : Host.Outcome State Fault Refusal := function1 .exp2 t rm d a s
/-- fexpm1 (R334). -/
def execFexpm1 (t : FloatFmt) (rm : Rnd) (d : Dst) (a : Src) (s : State) : Host.Outcome State Fault Refusal := function1 .expm1 t rm d a s
/-- flog (R334). -/
def execFlog (t : FloatFmt) (rm : Rnd) (d : Dst) (a : Src) (s : State) : Host.Outcome State Fault Refusal := function1 .log t rm d a s
/-- flog2 (R334). -/
def execFlog2 (t : FloatFmt) (rm : Rnd) (d : Dst) (a : Src) (s : State) : Host.Outcome State Fault Refusal := function1 .log2 t rm d a s
/-- flog1p (R334). -/
def execFlog1p (t : FloatFmt) (rm : Rnd) (d : Dst) (a : Src) (s : State) : Host.Outcome State Fault Refusal := function1 .log1p t rm d a s
/-- fsin (R334). -/
def execFsin (t : FloatFmt) (rm : Rnd) (d : Dst) (a : Src) (s : State) : Host.Outcome State Fault Refusal := function1 .sin t rm d a s
/-- fcos (R334). -/
def execFcos (t : FloatFmt) (rm : Rnd) (d : Dst) (a : Src) (s : State) : Host.Outcome State Fault Refusal := function1 .cos t rm d a s
/-- fsinpi (R334). -/
def execFsinpi (t : FloatFmt) (rm : Rnd) (d : Dst) (a : Src) (s : State) : Host.Outcome State Fault Refusal := function1 .sinpi t rm d a s
/-- fcospi (R334). -/
def execFcospi (t : FloatFmt) (rm : Rnd) (d : Dst) (a : Src) (s : State) : Host.Outcome State Fault Refusal := function1 .cospi t rm d a s
/-- ftanh (R334). -/
def execFtanh (t : FloatFmt) (rm : Rnd) (d : Dst) (a : Src) (s : State) : Host.Outcome State Fault Refusal := function1 .tanh t rm d a s
/-- flogi (R334). -/
def execFlogi (t : FloatFmt) (rm : Rnd) (d : Dst) (a : Src) (s : State) : Host.Outcome State Fault Refusal := function1 .logi t rm d a s
/-- ferf (R334). -/
def execFerf (t : FloatFmt) (rm : Rnd) (d : Dst) (a : Src) (s : State) : Host.Outcome State Fault Refusal := function1 .erf t rm d a s
/-- frsq (R334). -/
def execFrsq (t : FloatFmt) (rm : Rnd) (d : Dst) (a : Src) (s : State) : Host.Outcome State Fault Refusal := function1 .rsq t rm d a s
/-- fsqrt (R334). -/
def execFsqrt (t : FloatFmt) (rm : Rnd) (d : Dst) (a : Src) (s : State) : Host.Outcome State Fault Refusal := function1 .sqrt t rm d a s
/-- frcp (R334). -/
def execFrcp (t : FloatFmt) (rm : Rnd) (d : Dst) (a : Src) (s : State) : Host.Outcome State Fault Refusal := function1 .rcp t rm d a s

/-- fdiv (R336). -/
def execFdiv (t : FloatFmt) (rm : Rnd) (d : Dst) (a b : Src) (s : State) : Host.Outcome State Fault Refusal :=
  runSlot (do
    let x ← readV a
    let y ← readV b
    readyV d
    let s ← get
    putFunction d t 16 (s.laneMode rm)
      (List.zipWith (divLane t (s.laneMode rm)) (lanesOf (FloatFmt.is32 t) x) (lanesOf (FloatFmt.is32 t) y))) s

/-! ## The function queue (R338 to R342) -/

/-- One clk of the unit: the fast phases count down, and the first entry with lanes to serve is served once its own fast phase is over. -/
def serveQueue : List FnEntry → List FnEntry
  | [] => []
  | e :: t =>
    if e.work = 0 then { e with wait := e.wait - 1 } :: serveQueue t
    else { e with wait := e.wait - 1, work := if e.wait = 0 then e.work - 1 else e.work } :: t.map fun x => { x with wait := x.wait - 1 }

/-- The entries whose result lands. -/
def FnEntry.lands (e : FnEntry) : Bool := e.wait == 0 && e.work == 0

/-- A tagged result in its second phase: it stays pending and interlocks its readers; when it lands its clk has come (R339). -/
def Ctx.fnHold (c : Ctx) (tags : List Nat) : Ctx :=
  { c with pend := c.pend.map fun p => if p.inter ≥ 2 ∧ tags.contains p.tag ∧ p.left = 0 then { p with inter := 2, left := 1 } else p }

/-- One clk of the second-phase unit of the focused core, the PHASE2 records of the results that land (R342), and the hold on those that do not. -/
def State.fnClk (s : State) : State :=
  let q := serveQueue s.core.fnQueue
  let s := (q.filter fun e => e.lands && e.second).foldl (fun t e => t.record 3 (2 * t.coreNo + e.slot) e.pc e.info e.val) s
  let rest := q.filter fun e => !e.lands
  let s := s.onCore fun c => { c with fnQueue := rest }
  s.mapOwn2 fun slot c => c.fnHold ((rest.filter fun e => e.slot == slot).map FnEntry.tag)

/-- SECOND_PHASE (R338): the unit of core who runs until it has served the entry at its head. -/
def State.fnServe (s : State) : Nat → State
  | 0 => s
  | n + 1 => if s.core.fnQueue.any fun e => e.work != 0 then s.fnClk.fnServe n else s.fnClk

/-- A KILL discards the entries of a context (R341). -/
def State.fnKill (s : State) (slot : Nat) : State :=
  s.onCore fun c => { c with fnQueue := c.fnQueue.filter fun e => e.slot != slot }

/-! ## The X family (R344 to R347) -/

/-- Near30 of an enclosure at scale q, if it decides. -/
def near30? (q : Nat) (a : Iv) : Option Int :=
  let r := fun (x : Int) => (x + 2 ^ (q - 31)) / 2 ^ (q - 30)
  if r a.lo = r a.hi then some (r a.lo) else none

/-- Near30 by enclosures of growing precision. -/
def near30 (g : Nat → Iv) : Nat → Nat → Int
  | 0, q => let a := g q; ((a.lo + a.hi) / 2 + 2 ^ (q - 31)) / 2 ^ (q - 30)
  | fuel + 1, q => (near30? q (g q)).getD (near30 g fuel (2 * q))

/-- Q of R345: g takes a precision and the argument a = num / den; the result is an integer in units of 2^−30. -/
def xQ (g : Nat → Nat → Nat → Iv) (k : Nat) (num den : Nat) : Int :=
  let u := num * 2 ^ 24 / den
  let b := 24 - k
  let s := u / 2 ^ b
  let t : Int := (u % 2 ^ b : Nat)
  let at2 := fun (n : Nat) => near30 (fun q => g q n (2 ^ (k + 1))) 4 80
  let y0 := at2 (2 * s)
  let ym := at2 (2 * s + 1)
  let y1 := at2 (2 * s + 2)
  let c1 := 4 * ym - 3 * y0 - y1
  let c2 := 2 * y0 - 4 * ym + 2 * y1
  let w := c2 * t / 2 ^ b
  y0 + (c1 + w) * t / 2 ^ b

/-- sin w / w at scale q as a series in v = w². -/
def sincIv (q : Nat) (v : Iv) : Iv :=
  seriesFrom (fun k t => ((Iv.mul q t v).divN ((2 * k + 2) * (2 * k + 3))).neg) (q + 16) 0 ⟨2 ^ q, 2 ^ q⟩ ⟨0, 0⟩

/-- 2/√π at scale q. -/
def twoRsqrtPi (q : Nat) : Iv :=
  let p := piIv (2 * q)
  Iv.div q ⟨2 ^ (q + 1), 2 ^ (q + 1)⟩ ⟨isqrt p.lo.toNat, isqrt p.hi.toNat + 1⟩

/-- erf(√v)/√v at scale q: 2/√π Σ (−v)^n / (n! (2n + 1)). -/
def erfcIv (q : Nat) (v : Iv) : Iv :=
  let rec go : Nat → Nat → Iv → Iv → Iv
    | 0, _, _, acc => acc
    | fuel + 1, k, p, acc => if p.tiny then acc.widen 8 else go fuel (k + 1) ((Iv.mul q p v).divN (k + 1)).neg (acc.add (p.divN (2 * k + 1)))
  Iv.mul q (go (q + 16) 0 ⟨2 ^ q, 2 ^ q⟩ ⟨0, 0⟩) (twoRsqrtPi q)

/-- The functions g of Table 15.4 at num / den, at scale q. -/
def gExp2 (q n d : Nat) : Iv :=
  if n = d then ⟨2 ^ (q + 1), 2 ^ (q + 1)⟩ else if n = 0 then ⟨2 ^ q, 2 ^ q⟩
  else expIv q (Iv.mul q (Iv.ofFrac false n d q) (ln2Iv q))
/-- log2(1 + u). -/
def gLog2 (q n d : Nat) : Iv :=
  if n = 0 then ⟨0, 0⟩ else if n = d then ⟨2 ^ q, 2 ^ q⟩
  else let r := lnIv (d + n) d q; (Iv.div r.2 r.1 (ln2Iv r.2)).drop (r.2 - q)
/-- (1 + u)^−1/2. -/
def gRsq (q n d : Nat) : Iv := if n = 0 then ⟨2 ^ q, 2 ^ q⟩ else sqrtIv d (d + n) q
/-- (2 + 2u)^−1/2. -/
def gRsq2 (q n d : Nat) : Iv := if n = d then ⟨2 ^ (q - 1), 2 ^ (q - 1)⟩ else sqrtIv d (2 * (d + n)) q
/-- 1/(1 + u). -/
def gRcp (q n d : Nat) : Iv := Iv.ofFrac false d (d + n) q
/-- tanh(√v)/√v. -/
def gTanhc (q n d : Nat) : Iv :=
  let v := Iv.ofFrac false n d q
  if n = 0 then ⟨2 ^ q, 2 ^ q⟩ else Iv.div q (sinhcIv q v) (coshIv q v)
/-- tanh(1 + 8u). -/
def gTanh (q n d : Nat) : Iv := tanhFrac (d + 8 * n) d q
/-- sin(√v)/√v. -/
def gSinc (q n d : Nat) : Iv := if n = 0 then ⟨2 ^ q, 2 ^ q⟩ else sincIv q (Iv.ofFrac false n d q)
/-- sin(πu/2). -/
def gSin (q n d : Nat) : Iv :=
  if n = 0 then ⟨0, 0⟩ else if n = d then ⟨2 ^ q, 2 ^ q⟩ else trigPiFrac false n (2 * d) q false
/-- cos(πu/2). -/
def gCos (q n d : Nat) : Iv :=
  if n = 0 then ⟨2 ^ q, 2 ^ q⟩ else if n = d then ⟨0, 0⟩ else trigPiFrac false n (2 * d) q true
/-- erf(√v)/√v. -/
def gErfc (q n d : Nat) : Iv := if n = 0 then twoRsqrtPi q else erfcIv q (Iv.ofFrac false n d q)
/-- erf(1 + 4u). -/
def gErf (q n d : Nat) : Iv := erfFrac (d + 4 * n) d q

/-- A fixed-point result times 2^e with a sign. -/
def xVal (neg : Bool) (z : Int) (e : Int) : Exact := Exact.dyadic (neg != decide (z < 0)) z.natAbs (e - 30)

/-- x times a fixed-point result. -/
def xTimes (neg : Bool) (num den : Nat) (z : Int) : Exact := .fin (neg != decide (z < 0)) (num * z.natAbs) (den * 2 ^ 30)

/-- x² truncated to a multiple of 2^−24, as units of 2^−24. -/
def xSquare (num den : Nat) : Nat := num * num * 2 ^ 24 / (den * den)

/-- r of xtanh (Table 15.4). -/
def xTanh (neg : Bool) (num den : Nat) : Exact :=
  if num < den then xTimes neg num den (xQ gTanhc 10 (xSquare num den) (2 ^ 24))
  else if num < 9 * den then xVal neg (xQ gTanh 12 (num - den) (8 * den)) 0
  else .one neg

/-- The functions of major 0x32, with their counterpart in Table 15.3 (R344). -/
inductive XFn where
  | exp2 | log2 | rsq | rcp | tanh | logi | sin | erf
deriving DecidableEq, Repr

/-- The counterpart whose special operands apply (R344). -/
def XFn.counterpart : XFn → Fn
  | .exp2 => .exp2 | .log2 => .log2 | .rsq => .rsq | .rcp => .rcp | .tanh => .tanh | .logi => .logi | .sin => .sin | .erf => .erf

/-- 1/(2π) rounded to the nearest multiple of 2^−40, in units of 2^−40 (Table 15.4). -/
def xsinC : Nat := 174992710548

/-- (1 + t) / 2. -/
def halfOnePlus (t : Exact) : Exact :=
  match t with
  | .fin neg num den =>
    let n : Int := den + (if neg then -(num : Int) else num)
    .fin (n < 0) n.natAbs (2 * den)
  | x => x

/-- r of Table 15.4 for a finite nonzero operand. -/
def XFn.eval (fn : XFn) (neg : Bool) (num den : Nat) : Exact :=
  let e := fracLog2 num den
  let m := scale2 num den (-e)
  match fn with
  | .exp2 =>
    let x : Int := if neg then -(num : Int) else num
    let n : Int := x / den
    xVal false (xQ gExp2 10 (x - n * den).toNat den) (max (-4000) (min n 4000))
  | .log2 =>
    let z := e * 2 ^ 30 + xQ gLog2 10 (m.1 - m.2) m.2
    xVal false z 0
  | .rsq =>
    if e % 2 = 0 then xVal false (xQ gRsq 10 (m.1 - m.2) m.2) (-(e / 2))
    else xVal false (xQ gRsq2 10 (m.1 - m.2) m.2) (-(e / 2))
  | .rcp => xVal neg (xQ gRcp 10 (m.1 - m.2) m.2) (-e)
  | .tanh => xTanh neg num den
  | .logi => halfOnePlus (xTanh neg num (2 * den))
  | .sin =>
    if num < den then xTimes neg num den (xQ gSinc 10 (xSquare num den) (2 ^ 24))
    else
      let x : Int := if neg then -(num : Int) else num
      let d : Nat := den * 2 ^ 40
      let φ : Nat := (x * (xsinC : Int) % (d : Int)).toNat * 2 ^ 24 / d
      let j := 4 * φ / 2 ^ 24
      let u := 4 * φ % 2 ^ 24
      match j with
      | 0 => xVal false (xQ gSin 10 u (2 ^ 24)) 0
      | 1 => xVal false (xQ gCos 10 u (2 ^ 24)) 0
      | 2 => xVal true (xQ gSin 10 u (2 ^ 24)) 0
      | _ => xVal true (xQ gCos 10 u (2 ^ 24)) 0
  | .erf =>
    if num < den then xTimes neg num den (xQ gErfc 10 (xSquare num den) (2 ^ 24))
    else if num < 5 * den then xVal neg (xQ gErf 12 (num - den) (4 * den)) 0
    else .one neg

/-- A lane of the X family (R344). -/
def XFn.lane (fn : XFn) (f : FloatFmt) (x : Nat) : Nat × Nat :=
  let sp := FloatFmt.spec f
  let v := FloatFmt.value f x
  match fn.counterpart.special v with
  | some (y, fl) => let r := roundTo sp 0 y 0; (r.1, fl ||| r.2)
  | none =>
    match v with
    | .fin neg num den => roundTo sp 0 (fn.eval neg num den) 0
    | _ => (sp.nan, 0)

/-- An instruction of major 0x32: it lands 12 clk after issue and takes no entry of the queue (R344). -/
def functionX (fn : XFn) (t : FloatFmt) (d : Dst) (a : Src) (s : State) : Host.Outcome State Fault Refusal :=
  runSlot (do
    let x ← readV a
    readyV d
    let r := (lanesOf (FloatFmt.is32 t) x).map (fn.lane t)
    putV d 12 (ofLanes (FloatFmt.is32 t) (r.map Prod.fst)) (raising (orFlags (r.map Prod.snd)))) s
/-- xexp2 (R346). -/
def execXexp2 (t : FloatFmt) (d : Dst) (a : Src) (s : State) : Host.Outcome State Fault Refusal := functionX .exp2 t d a s
/-- xlog2 (R346). -/
def execXlog2 (t : FloatFmt) (d : Dst) (a : Src) (s : State) : Host.Outcome State Fault Refusal := functionX .log2 t d a s
/-- xrsq (R346). -/
def execXrsq (t : FloatFmt) (d : Dst) (a : Src) (s : State) : Host.Outcome State Fault Refusal := functionX .rsq t d a s
/-- xrcp (R346). -/
def execXrcp (t : FloatFmt) (d : Dst) (a : Src) (s : State) : Host.Outcome State Fault Refusal := functionX .rcp t d a s
/-- xtanh (R346). -/
def execXtanh (t : FloatFmt) (d : Dst) (a : Src) (s : State) : Host.Outcome State Fault Refusal := functionX .tanh t d a s
/-- xlogi (R346). -/
def execXlogi (t : FloatFmt) (d : Dst) (a : Src) (s : State) : Host.Outcome State Fault Refusal := functionX .logi t d a s
/-- xsin (R346). -/
def execXsin (t : FloatFmt) (d : Dst) (a : Src) (s : State) : Host.Outcome State Fault Refusal := functionX .sin t d a s
/-- xerf (R346). -/
def execXerf (t : FloatFmt) (d : Dst) (a : Src) (s : State) : Host.Outcome State Fault Refusal := functionX .erf t d a s

end Sys2Proof.Machine
end

