-- ==== Sys2Proof/Machine/Engine.lean ====
section
/-! DEFINITION. Engine.lean: the copy and transfer engines, the statistics ring's drain and the pool's limits (R225 to R235). -/

namespace Sys2Proof.Machine

/-! ## The order of a command (R231, R265) -/

/-- The space a result goes to as a push: that of its ring, or of the ring it had (R219). -/
def Ctx.pushSpace (c : Ctx) : Dest → Option Space
  | .ring q | .ringAt q _ => some (spaceOf (c.ring q).spaceNo)
  | .bits _ sp .. => some (spaceOf sp)
  | _ => none

/-- Every store, push and atomic of the focused context from bundles before access number bno has performed in a space (R231): 0 and 1 the typed spaces, 2 global memory. Pushes whose value is still to come count, of whatever ring, those in the late-write buffer among them (R106, R213). -/
def State.issuerDone (s : State) (bno space : Nat) : Bool :=
  let sp := spaceOf space
  (sp == .glob || s.core.locals.all fun x => x.slot != s.slot || x.space != sp || bno ≤ x.bno) &&
  (s.ctx.gq.all fun a => bno ≤ a.bno || ((sp != .glob || a.isLoad) && s.ctx.pushSpace a.dest != some sp)) &&
  ((s.ctx.pend ++ s.ctx.late).all fun p => bno ≤ p.bno || s.ctx.pushSpace p.dest != some sp) &&
  s.ctx.rings.all fun r => spaceOf r.spaceNo != sp || r.buf.all fun w => bno ≤ w.bno

/-- The acquire of a command and the wait of its ISSUER bit, judged at the focused context (R231, Table 12.2). -/
def State.mayStart (s : State) (c : Command) (space : Nat) : Bool :=
  (!ordAcquire c.order || s.readsDone c.older) && (!c.issuer || s.issuerDone (c.older / 8 * 8) space)

/-- A command of the focused core replaced, found by its context and number. -/
def Core.setCommand (k : Core) (c : Command) : Core :=
  { k with pool := { k.pool with cmds := k.pool.cmds.map fun x => if x.id == c.id && x.ctx == c.ctx then c else x } }

/-- A command of the focused core dropped: its entry is free again (R225). -/
def Core.dropCommand (k : Core) (c : Command) : Core :=
  { k with pool := { k.pool with cmds := k.pool.cmds.filter fun x => !(x.id == c.id && x.ctx == c.ctx) } }

/-- The commands of one queue that run. -/
def Core.running (k : Core) (q : Nat) : List Command := k.pool.cmds.filter fun c => c.queue == q && c.started

/-- The first command of a queue that has not started: commands start in queue order (R225). -/
def Core.nextOf (k : Core) (q : Nat) : Option Command := k.pool.cmds.find? fun c => c.queue == q && !c.started

/-! ## The elements of a copy (R229) -/

/-- The bank format of the address on a core (R229): the side it gives a copy. -/
def Core.bankSide (k : Core) (a : Nat) : Side :=
  let f := k.bankFmt a
  if bfmtTyped f then { code := bfmtFmt f, width := 0, sgn := bfmtSgn f, pol := bfmtPol f }
  else { code := 0x1F, width := bfmtEw f + 1, sgn := bfmtSgn f, pol := 0 }

/-- A side holds records. -/
def Side.mx (d : Side) : Bool := codeIsMx d.code
/-- A side holds floats. -/
def Side.float? (d : Side) : Option FloatFmt := FloatFmt.ofCode d.code
/-- A side's integers are signed. -/
def Side.signed (d : Side) : Bool := if d.code = 0x1F then d.sgn else (Fmt.ofCode d.code).any Fmt.signed
/-- The bits of one element that is no record. -/
def Side.bits (d : Side) : Nat := if d.code = 0x1F then d.width else ((Fmt.ofCode d.code).map Fmt.width).getD 1
/-- The exact value of an element that is no record. -/
def Side.value (d : Side) (x : Nat) : Exact :=
  match Side.float? d with
  | some f => FloatFmt.value f x
  | none => .ofInt (if Side.signed d then sext x (Side.bits d) else (x % 2 ^ Side.bits d : Nat))
/-- The integer range of a side. -/
def Side.range (d : Side) : Int × Int :=
  if Side.signed d then (-2 ^ (Side.bits d - 1), 2 ^ (Side.bits d - 1) - 1) else (0, 2 ^ Side.bits d - 1)

/-- One value converted to a side that holds no records: its bits and flags (R229). whole says that the source holds integers. -/
def Side.encode (d : Side) (whole : Bool) (mode : Nat) (v : Exact) (r : Nat) : Nat × Nat :=
  match Side.float? d with
  | some f => let y := roundTo (FloatFmt.spec f) mode v r; (y.1, y.2 ||| v.ivOf)
  | none =>
    match whole, v with
    | true, .fin neg n _ => (uns (if neg then -(n : Int) else n) (Side.bits d), 0)
    | _, _ => let y := toInteger mode v (Side.range d).1 (Side.range d).2 r; (uns y.1 (Side.bits d), y.2)

/-- The elements converted at once: 32 where a side holds records. -/
def Run.unit (r : Run) : Nat := if Side.mx r.src || Side.mx r.dst then 32 else 1

/-- The source bits one unit needs, as far as those read show it (R58). -/
def Run.need (r : Run) : Nat :=
  if r.src.code = 0x0D then (if r.inN < 42 then 42 else recordLen 0x0D r.inV)
  else if Side.mx r.src then recordBits r.src.code else Side.bits r.src * r.unit

/-- The values of the unit at the front of the bits read. -/
def Run.values (r : Run) : List Exact :=
  if Side.mx r.src then
    let rec0 := readRecord r.src.code r.inV
    (List.range 32).map fun i => rec0.value r.src.code r.src.pol i
  else (chunks (Side.bits r.src) r.unit r.inV).map fun x => Side.value r.src x

/-- One unit converted (R229): draws are those of the issuing context by element (R68). -/
def Run.convertUnit (r : Run) (mode : Nat) (seed sctr : Word) : Run :=
  let xs := r.values
  let n := r.need
  let r' := { r with inV := r.inV / 2 ^ n, inN := r.inN - n, idx := r.idx + r.unit }
  if Side.mx r.dst then
    let q := quantiseBlock r.dst.code mode r.dst.pol xs (fun i => srDraw seed sctr (r.idx + i))
    { r' with outV := r.outV + q.1.pack r.dst.code * 2 ^ r.outN, outN := r.outN + q.1.len r.dst.code, flags := r.flags ||| q.2 }
  else
    let whole := !Side.mx r.src && (Side.float? r.src).isNone
    let es := xs.mapIdx fun i v => Side.encode r.dst whole mode v (srDraw seed sctr (r.idx + i))
    { r' with
      outV := r.outV + unchunks (Side.bits r.dst) (es.map Prod.fst) * 2 ^ r.outN
      outN := r.outN + Side.bits r.dst * es.length
      flags := r.flags ||| orFlags (es.map Prod.snd) }

/-- Every whole unit read is converted. -/
def Run.convert (mode n : Nat) (seed sctr : Word) (r : Run) : Nat → Run
  | 0 => r
  | fuel + 1 =>
    if r.idx < n ∧ r.need ≤ r.inN ∧ (r.src.code != 0x0D || 42 ≤ r.inN) then
      Run.convert mode n seed sctr (r.convertUnit mode seed sctr) fuel
    else r

/-- The bits read of a copy, raw or converted. -/
def Command.digest (c : Command) : Command :=
  if ccCONV c.b then { c with run := c.run.convert c.frm (ccN c.b) c.seed c.sctr 513 }
  else
    let r := c.run
    { c with run := { r with outV := r.outV + r.inV * 2 ^ r.outN, outN := r.outN + r.inN, idx := r.idx + r.inN, inV := 0, inN := 0 } }

/-! ## One line of a copy (R230) -/

/-- The bits of a command's source in all, where its elements have one length. -/
def Command.span (c : Command) : Option Nat :=
  if ccCONV c.b then
    if c.run.src.code = 0x0D then none
    else some (if Side.mx c.run.src then recordBits c.run.src.code * (ccN c.b / 32) else Side.bits c.run.src * ccN c.b)
  else some (ccN c.b)

/-- Whether a range of cells of the focused core is free for an engine in this clk (R167): nothing of the clk uses its sub-banks, or the engine has waited 16 clk. -/
def Core.engineFree (k : Core) (sp : Space) (a w kept : Nat) : Bool := 16 ≤ kept || k.cellsFree sp a w

/-- An engine kept from its cells once more; after 16 clk it takes them in the next (R167). -/
def State.engineKept (s : State) (c : Command) (core : Nat) (sp : Space) (a w : Nat) : State :=
  let s := s.onCore fun k => k.setCommand { c with run := { c.run with kept := c.run.kept + 1 } }
  if c.run.kept + 1 = 16 then
    s.atCore core fun t => t.onCore fun k => { k with engCells := k.engCells ++ k.cells [(sp, a, w)] }
  else s

/-- The same for an access through a core window (R167). -/
def State.engineKeptAt (s : State) (c : Command) (p w : Nat) : State :=
  let o := p % 2 ^ 25
  s.engineKept c ((physLocal p - 0x48000000000) / 2 ^ 25) (if o < 0x1000000 then .act else .stg) (if o < 0x1000000 then o else o - 0x1000000) w

/-- The state a window read finds at a local address (R324): a sum file after its addends and window writes, of this clk or with n = 1 of the next. -/
def State.asRead (s : State) (l n : Nat) : State :=
  if regionOf s.dev.lpddr l = .window ∧ 0x1600000 ≤ l % 2 ^ 25 then s.atCore ((l - 0x48000000000) / 2 ^ 25) fun t => t.sumPreview n else s

/-- The bits, at most n, of the activation scratch an engine may read at once under FE: those up to the first granule that is not full (R230). Fuel counts the granules of a line. -/
def Core.fullRun (k : Core) (a n : Nat) : Nat → Nat
  | 0 => 0
  | fuel + 1 =>
    let m := min n (128 - a % 128)
    if n ≠ 0 ∧ k.allFull a 1 then m + k.fullRun (a + m) (n - m) fuel else 0

/-- A request of an engine command to another device (R373): it leaves on the outbox, and the command waits for its response. -/
def State.engineRemote (s : State) (c : Command) (write : Bool) (a w v : Nat) : State :=
  let s := s.onCore fun k => k.setCommand { c with since := s.dev.ref, run := { c.run with wait := true } }
  s.onDev fun d => d.send
    { who := 3, sub := s.coreNo, addr := a, val := v, len := w, data := [s.dev.portOf (physDev a), write.toNat, c.ctx, c.id] }

/-- A command of the focused core ends in error (R232, Table 2.2): no count, its barriers go to ERROR, and COPYEND carries the cause. -/
def State.copyFailed (s : State) (c : Command) (cause : Nat) : State :=
  let s := if cwBV c.e then s.atCore c.target fun t => t.barrierError (cwBAR c.e) cause else s
  let s := if cwSBV c.e then s.barrierError (cwSBAR c.e) cause else s
  (s.record 4 c.ctx c.pc (c.run.flags * 2 ^ 21 + cause * 2 ^ 13) c.run.wpos).onCore fun k => k.dropCommand c

/-- A command of the focused core completes (R232, R245): its counts are made, and COPYEND is appended where it raised flags. -/
def State.copyDone (s : State) (c : Command) : State :=
  let s := if cwBV c.e then s.atCore c.target fun t => t.arriveAt (cwBAR c.e) c.run.wpos else s
  let s := if cwSBV c.e then s.arriveAt (cwSBAR c.e) (c.run.rpos - c.run.inN) else s
  let s := if c.run.flags = 0 then s else s.record 4 c.ctx c.pc (c.run.flags * 2 ^ 21) c.run.wpos
  s.onCore fun k => k.dropCommand c

/-- w bits of the source arrive. -/
def State.copyArrived (s : State) (c : Command) (w v : Nat) : State :=
  let r := c.run
  s.onCore fun k => k.setCommand
    ({ c with run := { r with inV := r.inV + v % 2 ^ w * 2 ^ r.inN, inN := r.inN + w, rpos := r.rpos + w, kept := 0, wait := false } }).digest

/-- The next source line of a command (R230). -/
def State.copyRead (s : State) (c : Command) : State :=
  let r := c.run
  let a := c.a.toNat + r.rpos
  let room := match c.span with
    | some n => n - r.rpos
    | none => (if ccSSP c.b = 2 then hSize c.hsrc else (spaceOf (ccSSP c.b)).size) - a
  let w := min room (512 - a % 512)
  if w = 0 then s.copyFailed c (if ccSSP c.b = 2 then Cause.bounds.code else Cause.unmapped.code)
  else if ccSSP c.b = 2 then
    let p := hBase c.hsrc + a
    let w := min w (512 - p % 512)
    if physDev p ≠ s.dev.devId then s.engineRemote c false p w 0
    else match s.physCause .engine p w, s.poisoned (physLocal p) w with
      | some x, _ => s.copyFailed c x.code
      | none, some _ => s.copyFailed c Cause.poison.code
      | none, none =>
        if r.kept < 16 ∧ s.windowBusy (physLocal p) w then s.engineKeptAt c p w
        else (s.readsLines (physLocal p) w).copyArrived c w ((s.asRead (physLocal p) 0).physRead (physLocal p) w)
  else
    let sp := spaceOf (ccSSP c.b)
    let w := if ccFE c.b = 0 then w else s.core.fullRun a w 5
    if w = 0 then s
    else if !s.core.engineFree sp a w r.kept then s.engineKept c s.coreNo sp a w
    else if (s.core.poisoned sp a w).isSome then s.copyFailed c Cause.poison.code
    else
      let v := (s.core.mem sp).readBits a w
      let s := s.onCore fun k => k.useCells sp a w
      let s := if ccFE c.b = 2 then s.onCore fun k => k.drain a w else s
      s.copyArrived c w v

/-- w bits of the destination have been written. -/
def State.copyWritten (s : State) (c : Command) (w : Nat) : State :=
  let r := c.run
  s.onCore fun k => k.setCommand { c with run := { r with outV := r.outV / 2 ^ w, outN := r.outN - w, wpos := r.wpos + w, kept := 0, wait := false } }

/-- The next w bits of the destination written: a window or engine write sets full bits (R173). -/
def State.copyWrite (s : State) (c : Command) (w : Nat) : State :=
  let a := c.d.toNat + c.run.wpos
  let v := c.run.outV % 2 ^ w
  if ccDSP c.b = 2 then
    let p := hBase c.hdst + a
    if physDev p ≠ s.dev.devId then s.engineRemote c true p w v
    else match s.physCause .engine p w with
      | some x => s.copyFailed c x.code
      | none => if c.run.kept < 16 ∧ s.windowBusy (physLocal p) w then s.engineKeptAt c p w else (s.physWrite (physLocal p) w v).copyWritten c w
  else
    let sp := spaceOf (ccDSP c.b)
    if a + w > sp.size then s.copyFailed c Cause.unmapped.code
    else if !(s.focusCore c.target).core.engineFree sp a w c.run.kept then s.engineKept c c.target sp a w
    else
      (s.atCore c.target fun t => t.onCore fun k =>
        let k := (k.putAll sp [{ addr := a, width := w, val := v }]).useCells sp a w
        if sp = .act then k.fill a w else k).copyWritten c w

/-- One clk of a running copy or transfer (R230): a destination line that is whole is written, else the next source line is read; when every bit is written the command completes in the clk after. -/
def State.copyClk (s : State) (c : Command) : State :=
  let r := c.run
  if r.wait then s
  else if r.held then s.copyDone c
  else
    let a := (if ccDSP c.b = 2 then hBase c.hdst else 0) + c.d.toNat + r.wpos
    let left := 512 - a % 512
    if left ≤ r.outN then s.copyWrite c left
    else if r.idx < ccN c.b then s.copyRead c
    else if 0 < r.outN then s.copyWrite c r.outN
    else s.onCore fun k => k.setCommand { c with run := { r with held := true } }

/-- A copy or transfer starts (R229, R231): its acquire is performed, and the formats of its sides are those of this clk. -/
def State.copyBegin (s : State) (c : Command) : State :=
  let src := if ccSSP c.b = 0 then s.core.bankSide c.a.toNat else { code := ccSFMT c.b, width := 0, sgn := false, pol := ccPOL c.b }
  let dst := if ccDSP c.b = 0 then (s.focusCore c.target).core.bankSide c.d.toNat
    else { code := ccDFMT c.b, width := 0, sgn := false, pol := ccPOL c.b }
  s.onCore fun k => k.setCommand { c with started := true, run := { c.run with src := src, dst := dst } }

/-- A command with a handle that its context's restore has invalidated ends with INVHANDLE (R189). -/
def Command.handleLost (c : Command) : Bool := (ccDSP c.b == 2 && !hUsable c.hdst) || (ccSSP c.b == 2 && !hUsable c.hsrc)

/-- The next command of queue q starts when one of the engine's four places is free and its acquire and ISSUER wait are over (R225, R231). -/
def State.copyStart (s : State) (q : Nat) : State :=
  match s.core.nextOf q with
  | none => s
  | some c =>
    if 4 ≤ (s.core.running q).length ∨ !(s.focusSlot (c.ctx % 2)).mayStart c (ccSSP c.b) then s
    else if c.handleLost then s.copyFailed c Cause.invhandle.code
    else s.copyBegin c

/-- A running copy writes in this clk: a destination line is whole, or all that is left is converted. -/
def Command.writesNow (c : Command) : Bool :=
  let a := (if ccDSP c.b = 2 then hBase c.hdst else 0) + c.d.toNat + c.run.wpos
  !c.run.wait && (512 - a % 512 ≤ c.run.outN || (ccN c.b ≤ c.run.idx && 0 < c.run.outN))

/-- The copies and transfers of a core that run and do not complete in this clk, those that write or those that do not. -/
def Core.copiesThat (k : Core) (write : Bool) : List Command := (k.running 0 ++ k.running 1).filter fun c => !c.run.held && c.writesNow == write

/-- One clk of some copies and transfers of the focused core. -/
def State.copiesWork (s : State) (l : List Command) : State := l.foldl State.copyClk s

/-- The next copy and the next transfer of the focused core start. -/
def State.copiesStart (s : State) : State := [0, 1].foldl State.copyStart s

/-- The copies and transfers of the focused core that complete in this clk, after those that ended in error in it (R10, Table 11.3): done says which had moved their data before. -/
def State.copiesDone (s : State) (done : List Command) : State := (done.filter fun c => c.queue < 2).foldl State.copyClk s

/-- COPY_START (R231): queue sub of core who starts its next command. -/
def execCopyStart (s : State) : Host.Outcome State Fault Refusal :=
  if s.ev.who ≥ 256 then .fault (.noSuchAgent s.ev.who)
  else .next (s.atCore s.ev.who fun t => t.copyStart (s.ev.sub % 2))

/-- COPY_COMPLETION (R232): the oldest running command of queue sub of core who whose data has moved completes; with val not 0 the oldest running one ends in error with that cause. -/
def execCopyCompletion (s : State) : Host.Outcome State Fault Refusal :=
  if s.ev.who ≥ 256 then .fault (.noSuchAgent s.ev.who)
  else .next (s.atCore s.ev.who fun t =>
    let l := t.core.running (s.ev.sub % 2)
    if s.ev.val ≠ 0 then (match l with | c :: _ => t.copyFailed c (s.ev.val % 256) | [] => t)
    else match l.find? fun c => c.run.held || (ccN c.b ≤ c.run.idx && c.run.outN == 0 && !c.run.wait) with
      | some c => t.copyDone c
      | none => t)

/-! ## The statistics ring (R235) -/

/-- The oldest record of the focused core leaves its buffer: written to its region, or dropped when there is none. -/
def State.drainRecord (s : State) : State :=
  match s.core.stats.recs with
  | [] => s
  | r :: t =>
    let q := s.core.stats
    if q.len = 0 then
      s.onCore fun c => { c with stats := { q with recs := t, drop := (q.drop + 1) % 2 ^ 32, idle := 0 } }
    else
      (s.onDev fun d => d.put (physLocal (q.base * 2 ^ 9) + q.wr % q.len * 128) 128 r).onCore fun c =>
        { c with stats := { q with recs := t, wr := (q.wr + 1) % 2 ^ 32, idle := 0 } }

/-- One clk of the drain (R235): a record is written when no bundle of the clk uses the L instances, or when the records have waited 256 clk. -/
def State.statsClk (s : State) (lUsed : Bool) : State :=
  let s := s.onCore fun c => { c with stats := c.stats.settle }
  if s.core.stats.recs = [] then s
  else if !lUsed || 256 ≤ s.core.stats.idle then s.drainRecord
  else s.onCore fun c => { c with stats := { c.stats with idle := c.stats.idle + 1 } }

/-- STATISTICS_DRAIN (R235): core who writes its oldest record. -/
def execStatisticsDrain (s : State) : Host.Outcome State Fault Refusal :=
  if s.ev.who ≥ 256 then .fault (.noSuchAgent s.ev.who) else .next (s.atCore s.ev.who State.drainRecord)

/-! ## The limits of the pool (R226) -/

/-- A write of EQLIM k of a pool: CAP and MIN of Table 10.5, or EQERR. -/
def Pool.setLimit (p : Pool) (k cap min : Nat) : Pool :=
  let mins := p.mins.set k min
  if mins.sum > 512 ∨ min > cap ∨ cap > 512 then { p with err := true }
  else { p with caps := p.caps.set k cap, mins := mins }

/-- EQLIM_WRITE (R226): the value val written to EQLIM sub of core who. -/
def execEqlimWrite (s : State) : Host.Outcome State Fault Refusal :=
  if s.ev.who ≥ 256 then .fault (.noSuchAgent s.ev.who)
  else .next (s.atCore s.ev.who fun t => t.onCore fun c =>
    { c with pool := c.pool.setLimit (s.ev.sub % 4) (bits s.ev.val 16 10) (bits s.ev.val 0 10) })

end Sys2Proof.Machine
end

