-- ==== Sys2Proof/Machine/Reload.lean ====
section
/-! DEFINITION. Reload.lean: the reload engine, its instructions, spare swaps and the remap registers (R296 to R300, R306). -/

namespace Sys2Proof.Machine

/-! ## The control word (Table 13.10) -/

/-- SSP. -/
def rcSSP (w : Word) : Nat := bits w.toNat 62 2
/-- H. -/
def rcH (w : Word) : Nat := bits w.toNat 58 4
/-- SFMT. -/
def rcSFMT (w : Word) : Nat := bits w.toNat 53 5
/-- TFMT. -/
def rcTFMT (w : Word) : Nat := bits w.toNat 48 5
/-- POL. -/
def rcPOL (w : Word) : Nat := bits w.toNat 46 2
/-- CB. -/
def rcCB (w : Word) : Bool := bitAt w.toNat 45
/-- ISSUER. -/
def rcISSUER (w : Word) : Bool := bitAt w.toNat 44
/-- ORDER. -/
def rcORDER (w : Word) : Nat := bits w.toNat 40 4
/-- F. -/
def rcF (w : Word) : Nat := bits w.toNat 0 13

/-- The factor of a slot code over a source code (Table 13.11); none where the pair is not accepted. For MXF4 the slot code is twice the value, which mxInt gives in halves. -/
def reloadFactor (sfmt tfmt : Nat) : Option Int :=
  match sfmt, tfmt with
  | 0x08, 0x08 => some 1
  | 0x09, 0x09 => some 1 | 0x09, 0x08 => some 4
  | 0x0A, 0x0A => some 1 | 0x0A, 0x09 => some 4 | 0x0A, 0x08 => some 16
  | 0x0D, 0x0A => some 1 | 0x0D, 0x09 => some 4 | 0x0D, 0x08 => some 16
  | 0x0B, 0x0B => some 1
  | 0x0C, 0x0A => some 2 | 0x0C, 0x09 => some 8 | 0x0C, 0x08 => some 32
  | _, _ => none

/-- The first check of rld (Table 13.12). -/
def reloadFormatOk (w e : Word) : Bool :=
  bits w.toNat 13 27 == 0 && rcSSP w != 3 && (rcSSP w == 2 || rcH w == 0) && rcPOL w != 3 && cwReserved e &&
  (reloadFactor (rcSFMT w) (rcTFMT w)).isSome &&
  !(rcCB w && (rcSFMT w == 0x08 || rcSFMT w == 0x09 || rcSFMT w == 0x0B))

/-- The bits of the source span that rld checks (Table 13.12). -/
def reloadSpan (w : Word) : Nat :=
  if rcSFMT w = 0x0D then 336 * halfK (rcTFMT w) else 8 * halfK (rcTFMT w) * recordBits (rcSFMT w)

/-- rld (R296, R298). -/
def execRld (a b : Fin 32) (s : State) : Host.Outcome State Fault Refusal :=
  runSlot (do
    let w ← readReg a.val
    let src ← readReg (a.val + 1)
    let e ← readReg b.val
    let s ← get
    if rcSSP w = 2 then await (!s.ctx.busy (.h (rcH w)))
    check (reloadFormatOk w e) .format (if cwReserved e then w else e)
    check ((s.halfAt (rcF w)).st != 3) .illegalUse (word (rcF w))
    let h := if rcSSP w = 2 then s.ctx.regs.readH (rcH w) else 0
    check (rcSSP w != 2 || (hUsable h && hRd h)) .invhandle (word (rcH w))
    check (cwBarsOk e) .illegalUse e
    check (rcSSP w == 2 || src.toNat + reloadSpan w ≤ (spaceOf (rcSSP w)).size) .illegalUse src
    check (rcSSP w != 2 || src.toNat + reloadSpan w ≤ hSize h) .bounds src
    stageCommand 2
      { queue := 2, ctx := s.phys, lcore := s.ctx.lcore, tag := s.ctx.gen, op := 2, order := rcORDER w, issuer := rcISSUER w,
        a := w, b := 0, d := src, e := e, hsrc := h, hdst := 0, frm := 0, seed := 0, sctr := 0, pc := s.bundle.pc,
        older := s.accNo, id := s.newCommand, target := s.coreNo, started := false, left := 0, birth := s.ctx.birth }) s

/-- xpcfg (R300). -/
def execXpcfg (a b : Fin 32) (s : State) : Host.Outcome State Fault Refusal :=
  runSlot (do
    let x ← readReg a.val
    let y ← readReg b.val
    let s ← get
    stageCommand 2
      { queue := 2, ctx := s.phys, lcore := s.ctx.lcore, tag := s.ctx.gen, op := 3, order := 0, issuer := false,
        a := x, b := y, d := 0, e := 0, hsrc := 0, hdst := 0, frm := 0, seed := 0, sctr := 0, pc := s.bundle.pc,
        older := s.accNo, id := s.newCommand, target := s.coreNo, started := false, left := 0 }) s

/-! ## Spares (R299) -/

/-- A logical macro of a layer maps physical macro p; a register not yet written maps its live position (log 3). -/
def Device.mapped (d : Device) (tl p : Nat) : Bool :=
  (p < 32768 && (assoc? d.remap (tl * 32768 + p)).isNone) || d.remap.any fun r => r.1 / 32768 == tl && r.2 == p

/-- The physical halves of macro p of a layer. -/
def macroHalf (tl p h : Nat) : Nat := (tl * 65536 + p) * 2 + h

/-- The lowest-numbered unmapped spare of a layer with both halves EMPTY (R46, R299). -/
def Device.spare (d : Device) (tl : Nat) : Option Nat :=
  ((List.range 1024).map (32768 + ·)).find? fun p =>
    !d.mapped tl p && (d.half (macroHalf tl p 0)).st == 0 && (d.half (macroHalf tl p 1)).st == 0

/-- The spare swap of a quarantined target (R299 step 2; Table 13.3 row 5): the partner's contents move along, a partner in QUARANTINED arrives as EMPTY, both old halves are SPARED, and the target is RELOADING on the spare. None where it fails. -/
def State.spareSwap (s : State) (f : Nat) : Option State :=
  let d := s.dev
  let key := remapKey s.coreNo f
  let tl := key / 32768
  let p := d.remapped key
  let partner := d.half (macroHalf tl p (1 - f % 2))
  match (if partner.st = 2 ∨ partner.st = 3 ∨ partner.st = 5 then none else d.spare tl) with
  | none => none
  | some q =>
    let moved : Half := if partner.st = 4 then .empty else partner
    let d := (d.setHalf (macroHalf tl q (1 - f % 2)) moved).setHalf (macroHalf tl q (f % 2)) { Half.empty with st := 2 }
    let d := (d.setHalf (macroHalf tl p 0) { d.half (macroHalf tl p 0) with st := 5 }).setHalf (macroHalf tl p 1)
      { d.half (macroHalf tl p 1) with st := 5 }
    some { s with dev := { d with remap := assocSet d.remap key q } }

/-! ## The run of a reload (R299) -/

/-- A reload of the focused core ends in error: row 11 of Table 13.3 for a half it had taken, the barriers in ERROR, and RELOADEND. -/
def State.reloadFailed (s : State) (c : Command) (cause : Nat) (taken : Bool) : State :=
  let f := rcF c.a
  let s := if taken then s.setHalfAt f { s.halfAt f with st := c.run.prior, dotPend := false } else s
  let s := if cwBV c.e then s.barrierError (cwBAR c.e) cause else s
  let s := if cwSBV c.e then s.barrierError (cwSBAR c.e) cause else s
  (s.record 5 c.ctx c.pc (f + cause * 2 ^ 13 + c.run.swap.toNat * 2 ^ 21) c.run.rpos).onCore fun k => k.dropCommand c

/-- A reload starts (R299 steps 1 and 2): its acquire, the reload-start event, the codebook it keeps (R300), and for a quarantined target the 256 clk of the spare's copy. -/
def State.reloadBegin (s : State) (c : Command) : State :=
  let f := rcF c.a
  let h := s.halfAt f
  let c := { c with started := true, book := s.core.codebook, run := { c.run with prior := h.st } }
  if rcSSP c.a = 2 ∧ !hUsable c.hsrc then s.reloadFailed c Cause.invhandle.code false
  else if h.st < 2 then
    (s.halfEvent f .reloadStart c.ctx c.birth c.pc).onCore fun k => k.setCommand c
  else if h.st = 4 ∧ (s.spareSwap f).isSome then s.onCore fun k => k.setCommand { c with left := 256 }
  else s.reloadFailed c Cause.halfstate.code false

/-- The copy to the spare has taken its 256 clk (R299 step 2): the swap, its conditions tested once more, or row 6 of Table 13.3. DESIGN CHOICE (log 86). -/
def State.reloadSwap (s : State) (c : Command) : State :=
  match s.spareSwap (rcF c.a) with
  | some t => t.onCore fun k => k.setCommand { c with left := 0, run := { c.run with swap := true } }
  | none => s.reloadFailed c Cause.halfstate.code false

/-- The slot code of a source code (R297): through the codebook, or by the policy in force and the factor; none where a codebook entry does not fit. -/
def reloadCode (w : Word) (pol : Nat) (book : List Nat) (code : Nat) : Option Int :=
  if rcCB w then
    let x := sext (book.getD code 0) 8
    let m : Int := 2 ^ (halfSw (rcTFMT w) - 1)
    if -m ≤ x ∧ x < m then some x else none
  else some (mxInt (rcSFMT w) pol code * (reloadFactor (rcSFMT w) (rcTFMT w)).getD 1)

/-- The record at the front of the bits read, if they hold it whole. -/
def Command.nextRecord (c : Command) : Option (Record × Nat) :=
  let r := c.run
  let f := rcSFMT c.a
  let n := if f = 0x0D then (if r.inN < 42 then 43 else recordLen 0x0D r.inV) else recordBits f
  if n ≤ r.inN then some (readRecord f r.inV, n) else none

/-- The policy in force for the next record of a reload (R59): that of the bank format register of the record's first bit for a source in the activation scratch, else that of the control word. DEDUCED for a record across two banks (log 84). -/
def State.reloadPol (s : State) (c : Command) : Nat :=
  if rcSSP c.a = 0 then bfmtPol (s.core.bankFmt (c.d.toNat + (c.run.rpos - c.run.inN))) else rcPOL c.a

/-- Every whole record read becomes 32 slot codes of 8 bits and a scale of 10, kept in order (R297); a codebook entry that does not fit leaves the cause FORMAT. -/
def State.takeRecords (s : State) (c : Command) : Nat → Command
  | 0 => c
  | fuel + 1 =>
    if 8 * halfK (rcTFMT c.a) ≤ c.run.idx then c
    else match c.nextRecord with
      | none => c
      | some (rec0, n) =>
        let cs := rec0.codes.map fun x => reloadCode c.a (s.reloadPol c) c.book x
        let r := c.run
        let v := unchunks 8 (cs.map fun x => uns (x.getD 0) 8) + rec0.scale * 2 ^ 256
        s.takeRecords ({ c with run := { r with
            inV := r.inV / 2 ^ n, inN := r.inN - n, idx := r.idx + 1, outV := r.outV + v * 2 ^ r.outN, outN := r.outN + 266
            cause := if cs.contains none then Cause.format.code else r.cause } }) fuel

/-- Code i of record r among those taken. -/
def Run.slotCode (r : Run) (rec0 i : Nat) : Int := sext (bits r.outV (266 * rec0 + 8 * i) 8) 8
/-- The scale of record r among those taken. -/
def Run.slotScale (r : Run) (rec0 : Nat) : Nat := bits r.outV (266 * rec0 + 256) 10

/-- The bytes of a number from byte address k up, those that are not 0. -/
def bytesFrom (k n v : Nat) : Memory :=
  (List.range n).filterMap fun i => let b := v / 2 ^ (8 * i) % 256; if b = 0 then none else some (k + i, BitVec.ofNat 8 b)

/-- The contents a reload writes (R297, R299 step 4): rows with their check columns, and the scale file with entries o ≥ K zero. -/
def Run.rows (r : Run) (tfmt : Nat) : Memory :=
  let k := halfK tfmt
  let sw := halfSw tfmt
  let row := fun (j : Nat) =>
    let cs := (List.range k).map fun o => r.slotCode (8 * o + j / 32) (j % 32)
    unchunks sw (cs.map fun c => uns c sw) + uns cs.sum 16 * 2 ^ 384
  let scales := (List.range 768).map fun e => if e % 96 < k then r.slotScale (8 * (e % 96) + e / 96) else 0
  ((List.range 256).flatMap fun j => bytesFrom (64 * j) 50 (row j)) ++ bytesFrom (2 ^ 14) 960 (unchunks 10 scales)

/-- w bits of the source of a reload arrive; when the last record is whole the engine writes, which takes 256 clk. -/
def State.reloadArrived (s : State) (c : Command) (w v : Nat) : State :=
  let r := c.run
  let c := s.takeRecords { c with run := { r with inV := r.inV + v % 2 ^ w * 2 ^ r.inN, inN := r.inN + w, rpos := r.rpos + w, kept := 0, wait := false } } 64
  if c.run.cause ≠ 0 then (s.onCore fun k => k.setCommand c).reloadFailed c c.run.cause true
  else s.onCore fun k => k.setCommand { c with left := if 8 * halfK (rcTFMT c.a) ≤ c.run.idx then 256 else 0 }

/-- The next source line of a reload (R299 step 3). -/
def State.reloadRead (s : State) (c : Command) : State :=
  let sp := rcSSP c.a
  let a := c.d.toNat + c.run.rpos
  let stop := if rcSFMT c.a = 0x0D then (if sp = 2 then hSize c.hsrc else (spaceOf sp).size) else c.d.toNat + reloadSpan c.a
  let w := min (stop - a) (512 - a % 512)
  if w = 0 then s.reloadFailed c (if sp = 2 then Cause.bounds.code else Cause.unmapped.code) true
  else if sp = 2 then
    let p := hBase c.hsrc + a
    let w := min w (512 - p % 512)
    if physDev p ≠ s.dev.devId then s.engineRemote c false p w 0
    else match s.physCause .engine p w, s.poisoned (physLocal p) w with
      | some x, _ => s.reloadFailed c x.code true
      | none, some _ => s.reloadFailed c Cause.poison.code true
      | none, none =>
        if c.run.kept < 16 ∧ s.windowBusy (physLocal p) w then s.engineKeptAt c p w
        else (s.readsLines (physLocal p) w).reloadArrived c w ((s.asRead (physLocal p) 0).physRead (physLocal p) w)
  else if !s.core.engineFree (spaceOf sp) a w c.run.kept then s.engineKept c s.coreNo (spaceOf sp) a w
  else if (s.core.poisoned (spaceOf sp) a w).isSome then s.reloadFailed c Cause.poison.code true
  else (s.onCore fun k => k.useCells (spaceOf sp) a w).reloadArrived c w ((s.core.mem (spaceOf sp)).readBits a w)

/-- The rows are written and the half meets its completion event (R299 steps 4 and 5; Table 13.3 rows 9 and 10). -/
def State.reloadWritten (s : State) (c : Command) : State :=
  let f := rcF c.a
  let s := s.setHalfAt f { s.halfAt f with mem := c.run.rows (rcTFMT c.a), poison := [] }
  (s.halfEvent f (.reloadDone (rcTFMT c.a)) c.ctx c.birth c.pc).onCore fun k => k.setCommand { c with left := 0, run := { c.run with held := true } }

/-- The source bits a reload has read. -/
def Run.consumed (r : Run) : Nat := r.rpos - r.inN

/-- A reload completes (R299 step 5): its release, which waits for nothing more since its rows stand written, its counts, and RELOADEND where it swapped a spare. -/
def State.reloadDone (s : State) (c : Command) : State :=
  let s := if cwBV c.e then s.arriveAt (cwBAR c.e) 110080 else s
  let s := if cwSBV c.e then s.arriveAt (cwSBAR c.e) c.run.consumed else s
  let s := if c.run.swap then s.record 5 c.ctx c.pc (rcF c.a + 2 ^ 21) c.run.consumed else s
  s.onCore fun k => k.dropCommand c

/-- One clk of a running reload. -/
def State.reloadClk (s : State) (c : Command) : State :=
  if c.run.wait then s
  else if c.run.held then s.reloadDone c
  else if 8 * halfK (rcTFMT c.a) ≤ c.run.idx then
    if c.left ≤ 1 then s.reloadWritten c else s.onCore fun k => k.setCommand { c with left := c.left - 1 }
  else if c.run.prior = 4 ∧ !c.run.swap then
    if c.left ≤ 1 then s.reloadSwap c else s.onCore fun k => k.setCommand { c with left := c.left - 1 }
  else s.reloadRead c

/-- The codebook of an xpcfg (R300). -/
def codebookOf (a b : Word) : List Nat := chunks 8 8 a.toNat ++ chunks 8 8 b.toNat

/-- The next command of queue 2 starts: at most two reloads run, and one whose target a running reload names waits (R299); an xpcfg takes effect and completes at once (R300). -/
def State.reloadStart (s : State) : State :=
  match s.core.nextOf 2 with
  | none => s
  | some c =>
    if c.op = 3 then (s.onCore fun k => { k with codebook := codebookOf c.a c.b }).onCore fun k => k.dropCommand c
    else if 2 ≤ (s.core.running 2).length ∨ (s.core.running 2).any (fun x => rcF x.a == rcF c.a) ∨
        !(s.focusSlot (c.ctx % 2)).mayStart c (rcSSP c.a) then s
    else s.reloadBegin c

/-- One clk of the reload engine of the focused core, but for the reloads that complete in it. -/
def State.reloadsWork (s : State) : State := (((s.core.running 2).filter fun c => !c.run.held).foldl State.reloadClk s).reloadStart

/-- The reloads of the focused core that complete in this clk (R10, Table 11.3): done says which had written their rows before. -/
def State.reloadsDone (s : State) (done : List Command) : State := (done.filter fun c => c.queue = 2).foldl State.reloadClk s

/-- RELOAD_START (R299): core who starts its next reload or xpcfg. -/
def execReloadStart (s : State) : Host.Outcome State Fault Refusal :=
  if s.ev.who ≥ 256 then .fault (.noSuchAgent s.ev.who) else .next (s.atCore s.ev.who State.reloadStart)

/-- RELOAD_COMPLETION (R299): the oldest running reload of core who that has read its source is written and completes; with val not 0 the oldest running one ends in error with that cause. -/
def execReloadCompletion (s : State) : Host.Outcome State Fault Refusal :=
  if s.ev.who ≥ 256 then .fault (.noSuchAgent s.ev.who)
  else .next (s.atCore s.ev.who fun t =>
    let l := t.core.running 2
    if s.ev.val ≠ 0 then (match l with | c :: _ => t.reloadFailed c (s.ev.val % 256) true | [] => t)
    else match l.find? fun c => 8 * halfK (rcTFMT c.a) ≤ c.run.idx && !c.run.wait with
      | some c => if c.run.held then t.reloadDone c else (t.reloadWritten c).reloadDone { c with run := { c.run with held := true } }
      | none => t)

/-- REMAP_WRITE (R306): the value v written to remap register k; one that names the macro the register maps already changes nothing and is no error. DESIGN CHOICE (log 88). -/
def Device.writeRemap (d : Device) (k v : Nat) : Device :=
  let p := v % 2 ^ 16
  let tl := k / 32768
  let taken := d.mapped tl p && d.remapped k != p
  if d.everLoaded ∨ p ≥ 33792 ∨ taken ∨ (d.half (macroHalf tl p 0)).st = 5 ∨ (d.half (macroHalf tl p 1)).st = 5 then
    { d with rmErr := true }
  else { d with remap := assocSet d.remap k p }

/-- REMAP_WRITE (R306). -/
def execRemapWrite (s : State) : Host.Outcome State Fault Refusal :=
  if s.ev.addr ≥ 2 ^ 20 then .fault (.noSuchAgent s.ev.addr) else .next (s.onDev fun d => d.writeRemap s.ev.addr s.ev.val)

end Sys2Proof.Machine
end

