-- ==== Sys2Proof/Machine/Power.lean ====
section
/-! DEFINITION. Power.lean: the weights and grants, the caps, the ramp limiter, the clusters' clocks and the power instructions (R389 to R400). Weights stand in mW, in which every weight of R391 is whole. -/

namespace Sys2Proof.Machine

/-! ## Weights (R391, Table 18.3) -/

/-- (V / 0.80 V)^2 in 64ths. -/
def voltOf (ratio : Nat) : Nat := match ratio with | 0 => 64 | 1 => 49 | _ => 36

/-- The weight of level 1 on core n, in mW: 1.536 W × f/1.2 × (V/0.8)^2 (R391). -/
def Device.unitWeight (d : Device) (n : Nat) : Nat :=
  let c := d.clusterOf n
  clockOf c.ratio c.step * voltOf c.ratio

/-- The levels held on the cores: each core that is not as reset, with the levels its two contexts hold. -/
def State.heldLevels (s : State) : List (Nat × Nat) :=
  (s.coreNo, s.ctx.power.held + s.partner.power.held) :: s.others.map fun p => (p.1, p.2.ctx.power.held + p.2.partner.power.held)

/-- The levels that detached contexts hold on their cores. -/
def State.detachedLevels (s : State) : List (Nat × Nat) :=
  (s.dev.records.filter fun r => (s.focusCore r.2.core).core.detached.contains r.1).map fun r => (r.2.core, r.2.ctx.power.held)

/-- The ballast of a tower in mW (R399). -/
def Tower.held (t : Tower) : Nat := (t.ballast.map Prod.snd).sum

/-- The granted weight of tower t with its ballast, in mW (R394, R399). -/
def State.towerWeight (s : State) (t : Nat) : Nat :=
  (((s.heldLevels ++ s.detachedLevels).filter fun p => p.1 / 64 == t).map fun p => p.2 * s.dev.unitWeight p.1).sum +
    ((s.dev.power.towers.map Tower.held).getD t 0)

/-- GRANTED in mW (R394). -/
def State.granted (s : State) : Nat := ((List.range 4).map s.towerWeight).sum

/-- A tower's cap in mW, halved while it is hot (R395). -/
def Tower.limit (t : Tower) : Nat := if t.hot then t.tcap * 500 else t.tcap * 1000

/-- A list of weights by tower fits the device cap and the tower caps (R394). -/
def State.fits (s : State) (add : List Nat) : Bool :=
  s.dev.power.static * 1000 + s.granted + add.sum ≤ s.dev.power.cap * 1000 &&
  (List.range 4).all fun t => s.towerWeight t + add.getD t 0 ≤ ((s.dev.power.towers.map Tower.limit).getD t 0)

/-- A weight on one tower. -/
def onTower (t w : Nat) : List Nat := (List.replicate 4 0).set t w

/-- The power unit with a change. -/
def State.onPower (s : State) (f : PowerUnit → PowerUnit) : State := s.onDev fun d => { d with power := f d.power }

/-- A tower with a change. -/
def PowerUnit.onTower (p : PowerUnit) (t : Nat) (f : Tower → Tower) : PowerUnit :=
  { p with towers := p.towers.mapIdx fun i x => if i = t then f x else x }

/-- Weight returned on core n becomes ballast of its tower (R399). -/
def State.returnWeight (s : State) (n levels : Nat) : State :=
  s.onPower fun p => p.onTower (n / 64) fun t =>
    { t with ballast := assocSet t.ballast n ((assoc? t.ballast n).getD 0 + levels * s.dev.unitWeight n) }

/-- The focused context's held weight lowered to that of level k, the rest returned (R397, R398). -/
def State.lowerHeld (s : State) (k : Nat) : State :=
  if k < s.ctx.power.held then
    (s.returnWeight s.coreNo (s.ctx.power.held - k)).onCtx fun c => { c with power := { c.power with held := k } }
  else s

/-- The focused context's request for weight withdrawn. -/
def State.dropRequest (s : State) : State := s.onPower fun p => { p with requests := p.requests.filter fun r => r.1 != s.phys }

/-! ## Duty and breach (R395) -/

/-- Tower t is hot. -/
def State.hotTower (s : State) (t : Nat) : Bool := (s.dev.power.towers.map Tower.hot).getD t false

/-- The draw of tower t at duty D, a hot one's at D/32, in units of 1/32 mW. -/
def State.dutyDraw (s : State) (d t : Nat) : Nat := s.towerWeight t * (if s.hotTower t then d else 2 * d)

/-- The limits that the draw at duty D exceeds: a tower its cap, the device, 4, its own (R395). DEDUCED (log 110): the duty also holds the tower caps, which R395 has the part comply with. -/
def State.dutyOver (s : State) (d : Nat) : List Nat :=
  ((List.range 4).filter fun t => ((s.dev.power.towers.map Tower.limit).getD t 0) * 32 < s.dutyDraw d t) ++
  (if s.dev.power.cap * 32000 < s.dev.power.static * 32000 + ((List.range 4).map (s.dutyDraw d)).sum then [4] else [])

/-- The limits that are exceeded with no duty to help: a tower its cap, halved while it is hot, and the device its own. -/
def State.lockOver (s : State) : List Nat :=
  ((List.range 4).filter fun t => ((s.dev.power.towers.map Tower.limit).getD t 0) < s.towerWeight t) ++ (s.dutyOver 16).filter (· == 4)

/-- The largest duty up to n that fits; none when not even 1 does. -/
def State.bestDuty (s : State) : Nat → Option Nat
  | 0 => none
  | n + 1 => if (s.dutyOver (n + 1)).isEmpty then some (n + 1) else s.bestDuty n

/-- A breach is set and entered in the error log (R395): tower t, or 4 for the device. -/
def State.breach (s : State) (t : Nat) : State :=
  (s.onPower fun p => { p with breach := true }).onDev fun d =>
    d.logError 0x09 0 t 0 (d.power.cap + (s.granted + 999) / 1000 * 2 ^ 32)

/-- The limits l cannot be held: each that could be when they were last judged is a breach. -/
def State.breaches (s : State) (l : List Nat) : State :=
  ((l.filter fun t => !s.dev.power.short.contains t).foldl State.breach s).onPower fun p => { p with short := l, breach := p.breach || !l.isEmpty }

/-- POWER-LIMIT reaches one context of a running kernel (R107, R395). -/
def State.limitCtx (s : State) : State :=
  let running := match s.ctx.kernel with
    | some k => (match assoc? s.dev.kernels k with | some x => x.st == .running | none => false)
    | none => false
  match running, s.ctx.st with
  | true, .ready | true, .running | true, .waiting | true, .trapped | true, .parked =>
    s.dropRequest.stopFault .powerLimit 0 s.ctx.pc.toNat 0 false
  | _, _ => s

/-- A breach of locked mode (R395). -/
def State.limitAll (s : State) : State :=
  (s.coreList.flatMap fun n => [2 * n, 2 * n + 1]).foldl (fun s c => s.atCtx c State.limitCtx) s

/-- The grant unit judges the caps (R395): the duty outside locked mode, with a breach when 1 is not enough; a breach of every running kernel in locked mode. -/
def State.judgeCap (s : State) : State :=
  if s.dev.lockedMode then
    let l := s.lockOver
    if l.isEmpty then (s.breaches []).onPower fun p => { p with duty := 16 } else (s.breaches l).limitAll
  else
    let d := (s.bestDuty 16).getD 0
    let s := s.breaches (if d = 0 then s.dutyOver 1 else [])
    s.onPower fun p => { p with duty := max d 1 }

/-- The core issues in this clk: the duty of throttling leaves it the clk, D of 16, and D of 32 in a hot tower (R395). -/
def State.dutyAllows (s : State) : Bool :=
  (if s.hotTower (s.coreNo / 64) ∧ !s.dev.lockedMode then s.core.clk % 32 else s.core.clk % 16) < s.dev.power.duty

/-! ## Grants (R394, R396) -/

/-- A request placed in the order of service: priority, then age (R394). -/
def requestInsert (prio : Nat → Nat) (r : Nat × Nat) : List (Nat × Nat) → List (Nat × Nat)
  | [] => [r]
  | x :: t => if prio x.1 < prio r.1 then r :: x :: t else x :: requestInsert prio r t

/-- The weight a request asks for, in mW. -/
def State.requestWeight (s : State) (r : Nat × Nat) : Nat := (r.2 - (s.ctxAt r.1).power.held) * s.dev.unitWeight (r.1 / 2)

/-- What GRANTED has risen by in the µs that ends now, in mW (R394). -/
def Device.recentRise (d : Device) : Nat := ((d.power.risen.filter fun x => d.ref < x.1 + 1200).map Prod.snd).sum

/-- The ramp allows a rise of w mW now (R394). DEDUCED (log 111): a rise that is more than PRAMP.UP by itself, as the level-1 weights of a kernel can be, comes in a µs of its own. -/
def Device.rampAllows (d : Device) (w : Nat) : Bool := d.recentRise + w ≤ d.power.up * 1000 || d.recentRise == 0 && d.power.up * 1000 < w

/-- GRANTED rises by w mW (R394). -/
def State.rises (s : State) (w : Nat) : State :=
  if w = 0 then s else s.onPower fun p => { p with risen := (s.dev.ref, w) :: p.risen.filter fun x => s.dev.ref < x.1 + 1200 }

/-- A request is granted now: caps and ramp allow (R394). -/
def State.mayGrant (s : State) (r : Nat × Nat) : Bool :=
  let w := s.requestWeight r
  s.fits (onTower (r.1 / 128) w) && s.dev.rampAllows w

/-- A request granted: its context holds the weight, and one that waits for it becomes READY. -/
def State.makeGrant (s : State) (r : Nat × Nat) : State :=
  let w := s.requestWeight r
  let s := (s.rises w).onPower fun p => { p with requests := p.requests.filter fun x => x != r }
  s.atCtx r.1 fun t => t.onCtx fun c =>
    { c with power := { c.power with held := max c.power.held r.2 }
             st := if c.st = .waiting ∧ c.wait = .grant then .ready else c.st
             wait := if c.st = .waiting ∧ c.wait = .grant then .nothing else c.wait }

/-- The limit that holds a request back: its tower's cap, or what the device has, 4. -/
def State.grantLimit (s : State) (r : Nat × Nat) : Nat :=
  if ((s.dev.power.towers.map Tower.limit).getD (r.1 / 128) 0) < s.towerWeight (r.1 / 128) + s.requestWeight r then r.1 / 128 else 4

/-- The requests served in order until one does not fit, which holds back the rest (R394); in locked mode that is a breach (R395). -/
def State.serveGrants (s : State) : List (Nat × Nat) → State
  | [] => s
  | r :: t => if s.mayGrant r then (s.makeGrant r).serveGrants t else if s.dev.lockedMode then (s.breach (s.grantLimit r)).limitAll else s

/-- The grant unit at work. -/
def State.grantClk (s : State) : State :=
  s.serveGrants (s.dev.power.requests.foldl (fun l r => requestInsert (fun c => (s.ctxAt c).prio) r l) [])

/-- A request of the focused context for level k enters, once (R396, R398). -/
def State.request (s : State) (k : Nat) : State :=
  if s.dev.power.requests.any (fun r => r.1 == s.phys) ∨ k ≤ s.ctx.power.held then s
  else s.onPower fun p => { p with requests := p.requests ++ [(s.phys, k)] }

/-- GRANT (R394): the grant unit serves its requests and judges the cap. -/
def execGrant (s : State) : Host.Outcome State Fault Refusal := .next (s.grantClk.judgeCap)

/-- pwracq (R396): a higher level waits for its weight. -/
def execPwracq (k : Fin 16) (s : State) : Host.Outcome State Fault Refusal :=
  runSlot (do
    let s ← get
    modify fun s => s.onBundle fun b => { b with waitVal := word k.val }
    holdWaiting (k.val ≤ s.ctx.power.level || k.val ≤ s.ctx.power.held) .grant
    stage (.power k.val)) s

/-- pwrrel (R397). -/
def execPwrrel (s : State) : Host.Outcome State Fault Refusal := runSlot (stage (.power 1)) s

/-- pwracq and pwrrel commit: the level changes, the excess weight returns, and the window restarts (R396, R397). -/
def State.commitPower (s : State) (k : Nat) : State :=
  (s.lowerHeld k).onCtx fun c => { c with power := { c.power with level := k, charges := [] } }

/-- A bundle's charge exceeds what the window leaves (R393). -/
def Ctx.overdrawn (c : Ctx) (charge : Nat) : Bool := (c.power.charges.take 63).sum + charge > c.power.level * 8192

/-- A committed bundle's charge enters the window (R393). -/
def Ctx.chargeBundle (c : Ctx) (charge : Nat) : Ctx := { c with power := { c.power with charges := (charge :: c.power.charges).take 63 } }

/-- Estimator units of core n counted (EEST, Table 18.2). -/
def State.countUnits (s : State) (n units : Nat) : State :=
  if units = 0 then s
  else s.onPower fun p => { p with eest := assocSet p.eest n (((assoc? p.eest n).getD 0 + units) % 2 ^ 64) }

/-! ## The ramp limiter (R399) -/

/-- Shares of ballast less a number of mW, the first first. -/
def dropShares : List (Nat × Nat) → Nat → List (Nat × Nat)
  | [], _ => []
  | x :: l, k => if x.2 ≤ k then dropShares l (k - x.2) else (x.1, x.2 - k) :: l

/-- The ballast of the towers after one µs of decay: at most `left` mW fall in all, from tower 0 up (log 26). -/
def decayBallast : List Tower → Nat → List Tower
  | [], _ => []
  | t :: l, left => { t with ballast := dropShares t.ballast left } :: decayBallast l (left - t.held)

/-- The halves of the focused core in DOT with CHK = 0. -/
def State.dotHalves (s : State) : Nat := s.glazeHalves 8192

/-- The halves that hold so much ballast, at 0.165 W for each two (R399). -/
def glazeNeed (mw : Nat) : Nat := 2 * ((mw + 164) / 165)

/-- Each share is placed on halves of its own core first; the rest of the need. -/
def State.glazeOwn (s : State) (need : Nat) : List (Nat × Nat) → State × Nat
  | [] => (s, need)
  | (n, w) :: l =>
    let k := min (min need (glazeNeed w)) (s.focusCore n).dotHalves
    (s.atCore n fun t => t.onCore fun c => { c with glaze := k }).glazeOwn (need - k) l

/-- What is left is placed on the tower's other halves, its cores in ascending order (log 26). -/
def State.glazeRest (s : State) (need : Nat) : List Nat → State × Nat
  | [] => (s, need)
  | n :: l =>
    let t := s.focusCore n
    let k := min need (t.dotHalves - t.core.glaze)
    (s.atCore n fun t => t.onCore fun c => { c with glaze := c.glaze + k }).glazeRest (need - k) l

/-- One tower's ballast placed on halves, first of the cores that returned it, then of the tower; what finds none is lost, with RAMPSHORT (R399). -/
def State.placeBallast (s : State) (t : Nat) : State :=
  let cores := s.coreList.filter fun n => n / 64 == t
  let s := cores.foldl (fun s n => s.atCore n fun u => u.onCore fun c => { c with glaze := 0 }) s
  match s.dev.power.towers[t]? with
  | none => s
  | some x =>
    let need := glazeNeed x.held
    let own := s.glazeOwn need x.ballast
    let rest := own.1.glazeRest own.2 cores
    if rest.2 = 0 then rest.1
    else rest.1.onPower fun p =>
      { (p.onTower t fun x => { x with ballast := dropShares x.ballast (x.held - (need - rest.2) * 165 / 2) }) with rampShort := true }

/-- One µs of the ramp limiter: ballast decays by at most DOWN, and what stays is placed (R399). -/
def State.rampStep (s : State) : State :=
  let s := s.onPower fun p => { p with towers := decayBallast p.towers (p.down * 1000) }
  (List.range 4).foldl State.placeBallast s

/-- The step of the ramp limiter that is due: REF has come to a µs in which it has made none. -/
def State.rampClk (s : State) : State :=
  if s.dev.ref % 1200 = 0 ∧ s.dev.power.ramped ≠ s.dev.ref / 1200 + 1 then s.rampStep.onPower fun p => { p with ramped := s.dev.ref / 1200 + 1 } else s

/-- RAMP_LIMITER (R399). -/
def execRampLimiter (s : State) : Host.Outcome State Fault Refusal := .next s.rampClk

/-- The glaze beats of one clk in which the focused core issues no M slot (R399). -/
def State.glazeClk (s : State) (mUsed : Bool) : State := if mUsed then s else s.countUnits s.coreNo (14 * s.core.glaze)

/-! ## The power registers (R389, R390, R395, R400) -/

/-- A write of PCAP: above 4,800 it sets 4,800; during retention entry it applies at exit (R404). -/
def State.writeCap (s : State) (v : Nat) : State :=
  if s.dev.power.st = .retain then s.onPower fun p => { p with capHeld := some (min v 4800) }
  else (s.onPower fun p => { p with cap := min v 4800 }).judgeCap

/-- PCAP_WRITE (R395). -/
def execPcapWrite (s : State) : Host.Outcome State Fault Refusal := .next (s.writeCap (s.ev.val % 2 ^ 32))

/-- TEMP_LIMIT (R395): tower who reports val °C; at TLIM its cap is halved, for as long as it is at TLIM − 5 or above. -/
def execTempLimit (s : State) : Host.Outcome State Fault Refusal :=
  if s.ev.who ≥ 4 then .fault (.noSuchAgent s.ev.who)
  else .next ((s.onPower fun p => p.onTower s.ev.who fun t =>
    { t with temp := s.ev.val % 2 ^ 16, hot := t.tlim ≤ s.ev.val % 2 ^ 16 || t.hot && t.tlim ≤ s.ev.val % 2 ^ 16 + 5 }).judgeCap)

/-- TOWER_COOLED (R395): tower who reports val °C; below TLIM − 5 the halving ends. -/
def execTowerCooled (s : State) : Host.Outcome State Fault Refusal :=
  if s.ev.who ≥ 4 then .fault (.noSuchAgent s.ev.who)
  else .next ((s.onPower fun p => p.onTower s.ev.who fun t =>
    { t with temp := s.ev.val % 2 ^ 16, hot := t.hot && t.tlim ≤ s.ev.val % 2 ^ 16 + 5 }).grantClk.judgeCap)

/-- A context of cluster c is not FREE. -/
def State.clusterBusy (s : State) (c : Nat) : Bool :=
  (s.coreList.filter fun n => n / 8 == c).any fun n => let t := s.focusCore n; t.ctx.st != .free || t.partner.st != .free

/-- A write of PCLUS c (R389): refused with PCLERR for RATIO 3, and in locked mode for a cluster with a context; a change stops the cluster's clock, and what GRANTED rises by counts for the ramp (R394). -/
def State.writeClus (s : State) (c v : Nat) : State :=
  let ratio := v % 4
  let step := bits v 2 2
  if ratio = 3 ∨ (s.dev.lockedMode ∧ s.clusterBusy c) then s.onPower fun p => { p with pclErr := true }
  else
    let t := s.onPower fun p => { p with clusters := p.clusters.mapIdx fun i x =>
      if i = c then { ratio := ratio, step := step, stop := max x.stop (if x.ratio ≠ ratio then 24000 else if x.step ≠ step then 2400 else 0) } else x }
    t.rises (t.granted - s.granted)

/-- PCLUS_WRITE (R389): val written for cluster who. -/
def execPclusWrite (s : State) : Host.Outcome State Fault Refusal :=
  if s.ev.who ≥ 32 then .fault (.noSuchAgent s.ev.who) else .next (s.writeClus s.ev.who s.ev.val)

/-- CLUSTER_CLOCK_RESTART (R389): the clock of cluster who, which has stood still for all but the last reference period of its stop, runs again. -/
def execClusterClockRestart (s : State) : Host.Outcome State Fault Refusal :=
  if s.ev.who ≥ 32 then .fault (.noSuchAgent s.ev.who)
  else .next (s.onPower fun p => { p with clusters := p.clusters.mapIdx fun i x => if i = s.ev.who ∧ x.stop ≤ 1 then { x with stop := 0 } else x })

/-- The stopped clocks come one reference period nearer to their restart (R389). -/
def State.clustersClk (s : State) : State :=
  s.onPower fun p => { p with clusters := p.clusters.map fun x => { x with stop := x.stop - 1 } }

/-- PLOCK_WRITE (R400): a write of 1 is ignored while TSTAT.LOCKED is 0. -/
def execPlockWrite (s : State) : Host.Outcome State Fault Refusal :=
  .next ((s.onPower fun p => { p with plock := if s.ev.val % 2 = 1 then p.plock || s.dev.locked else false }).judgeCap)

/-- LOCK_LOSS (R400): TSTAT.LOCKED falls, PSTAT.LOCK with it, and throttling returns; PLOCK.EN stays as it was written. -/
def execLockLoss (s : State) : Host.Outcome State Fault Refusal :=
  .next ((s.onDev fun d => { d with locked := false }).judgeCap)

/-- An energy counter by its offset (Table 18.2): ETOT, ETWR, EEST. -/
def PowerUnit.counter (p : PowerUnit) (o : Nat) : Option Nat :=
  if o = 0xB00 then some p.etot
  else if 0xB40 ≤ o ∧ o < 0xC40 ∧ o % 64 = 0 then some (p.etwr.getD ((o - 0xB40) / 64) 0)
  else if 0x1000 ≤ o ∧ o < 0x5000 ∧ o % 64 = 0 then some ((assoc? p.eest ((o - 0x1000) / 64)).getD 0)
  else none

/-- A read of w bits of an energy counter by firmware core f (R390): 32 bits at the offset latch the high half, which the next read of offset + 32 returns. -/
def State.readCounter (s : State) (f o w : Nat) : Nat × State :=
  match s.dev.power.counter o with
  | some v => if w = 64 then (v, s) else (v % 2 ^ 32, s.onPower fun p => { p with latch := p.latch.set f (v / 2 ^ 32) })
  | none => (s.dev.power.latch.getD f 0, s)

/-- ENERGY_COUNTER_READ (R390): firmware core who reads len bits at offset addr into its register sub. -/
def execEnergyCounterRead (s : State) : Host.Outcome State Fault Refusal :=
  if s.ev.who ≥ 4 then .fault (.noSuchAgent s.ev.who)
  else
    let r := s.readCounter s.ev.who s.ev.addr s.ev.len
    .next { r.2 with fw := r.2.fw.mapIdx fun i f =>
      if i = s.ev.who ∧ s.ev.sub % 32 ≠ 0 then { f with x := f.x.set (s.ev.sub % 32) (word r.1) } else f }

/-- One µs of the energy meters: what they measure is not given (log 5). -/
def State.meterStep (s : State) : State :=
  let r := s.freshBits 64
  let q := (List.range 4).foldl (fun (p : List Nat × State) _ => let x := p.2.freshBits 64; (p.1 ++ [x.1], x.2)) ([], r.2)
  q.2.onPower fun p => { p with etot := (p.etot + r.1) % 2 ^ 64, etwr := p.etwr.mapIdx fun i e => (e + q.1.getD i 0) % 2 ^ 64 }

end Sys2Proof.Machine
end

