-- ==== Sys2Proof/Machine/Land.lean ====
section
/-! DEFINITION. Land.lean: where and when accesses perform and results land (R39 to R43, R84, R106, R168 to R171, R192, R211 to R215, R244, R245, R259 to R265, R374). -/

namespace Sys2Proof.Machine

/-! ## Results (R84, R86, R106, R213) -/

/-- An entry of the store queue that waits for every older access: a release, or one behind a mark (R265, R268). -/
def Ctx.waitsOlder (c : Ctx) (e : GlobAcc) : Bool := !e.isLoad && !e.sent && ((e.isAtomic && ordRelease e.order) || c.marked e.bno)

/-- An access enters the global queues of a context by itself, from a ring (R213, R215): behind those of its queue, but before a younger one that waits for it (R265, R268). DEDUCED (log 100). -/
def Ctx.enterGlobal (c : Ctx) (kind : GlobKind) (a w : Nat) (writes : List BitWrite) (bno pc : Nat) : Ctx :=
  let x : GlobAcc := { id := c.nextId, kind := kind, addr := a, width := w, got := 0, gotBits := 0, writes := writes, dest := .none,
                       order := 0, bno := bno, pc := pc, slots := 0, left := 3, sent := false }
  let goes := fun (e : GlobAcc) => !(bno < e.bno && c.waitsOlder e)
  { c with nextId := c.nextId + 1, gq := c.gq.takeWhile goes ++ x :: c.gq.dropWhile goes }

/-- A push enters its ring (R213): a local one waits for its bank, a clk longer where it merges (R40); a global one enters the store queue, and the sampler counts it (R198). -/
def State.enterRing (s : State) (q : Nat) (p : Pending) : State :=
  let r := s.ctx.ring q
  if r.spaceNo = 2 then
    (s.onCtx fun c => c.enterGlobal (.ringPush q) (hBase r.copy + p.addr) r.size
      (splitLines [{ addr := hBase r.copy + p.addr, width := r.size, val := p.val % 2 ^ r.size }]) p.bno p.pc).sample (hLeaf r.copy) true
  else
    let slow := partialWords [r.written s.core p.addr p.val]
    s.onCtx fun c => { c with
      nextId := c.nextId + 1
      rings := c.rings.set q { r with alloc := r.alloc - 1, buf := r.buf ++
        [{ addr := p.addr, val := p.val, left := if slow then 2 else 1, seq := c.nextId, bno := p.bno, slow := slow }] } }

/-- A push whose ring has been bound anew, as it performs (R219): 64 lanes of 16 bits are narrowed where a WRITE ring's bank says so now, or where the binding moved 512 bits (R209). -/
def Core.loosePush (k : Core) (q sp w a : Nat) (full vec : Bool) (slot seq : Nat) (p : Pending) : LocalAcc :=
  let x : BitWrite :=
    if vec && sp == 0 && k.widening a != 0 || w == 512 then { addr := a, width := 512, val := narrowLanes p.val }
    else { addr := a, width := w, val := p.val % 2 ^ w }
  let slow := partialWords [x]
  { slot := slot, left := if slow then 2 else 1, slow := slow, space := spaceOf sp, writes := [x], setFull := full,
    atomic := none, dest := .none, order := 0, bno := p.bno, pc := p.pc, push := some (q, seq) }

/-- A revocation names the page of a handle (R188): by its frame, or by its address space and page. -/
def Revocation.names (r : Revocation) (h : HandleBits) : Bool :=
  match r.frame with
  | some f => hBase h == f
  | none => hAsid h == r.asid && (if bitAt h.toNat 253 then hVpn h / 512 == r.vpn / 512 else hVpn h == r.vpn)

/-- A revocation of the page of a handle is in effect (R188): a migration of its frame is in REVOKE, or XCINV is busy with its page. -/
def Device.revoked (d : Device) (h : HandleBits) : Bool :=
  (d.migs.any fun m => m.phase == 2 && hBase h == m.old) ||
  (d.mig.busy && Revocation.names { seq := 0, frame := none, asid := d.mig.xasid, vpn := d.mig.xvpn } h)

/-- A handle as it lands in its register (Table 9.5 row 1). -/
def Device.landHandle (d : Device) (h : HandleBits) : HandleBits := if hState h = 1 ∧ d.revoked h then hSetState h 2 else h

/-- A result of the focused context lands: its register, its ring, and its flags. -/
def State.landResult (s : State) (p : Pending) : State :=
  let s := if p.flags = 0 then s else s.onCtx fun c => c.landFlags p.flags p.pc
  match p.dest with
  | .ring q => s.enterRing q p
  | .bits q sp w a leaf full vec =>
    if sp = 2 then
      (s.onCtx fun c => c.enterGlobal (.oldPush q) a w (splitLines [{ addr := a, width := w, val := p.val % 2 ^ w }]) p.bno p.pc).sample leaf true
    else
      let n := s.ctx.nextId
      (s.onCtx fun c => { c with nextId := n + 1 }).onCore fun c => { c with locals := c.locals ++ [c.loosePush q sp w a full vec s.slot n p] }
  | .h i => s.onCtx fun c => { c with regs := c.regs.land (.h i) (s.dev.landHandle (BitVec.ofNat 256 p.val)).toNat }
  | d => s.onCtx fun c => { c with regs := c.regs.land d p.val }

/-- A result in its place by age. -/
def ageInsert (x : Pending) : List Pending → List Pending
  | [] => [x]
  | y :: t => if x.bno ≤ y.bno then x :: y :: t else y :: ageInsert x t

/-- The results of the focused context whose clk has come land, the oldest first: of two that land in one clk on one register, that of the younger bundle stays, or of the higher slot of one bundle (R86). DESIGN CHOICE (log 79): pushes of different bundles that land in one clk enter their rings in the same order. -/
def State.landDue (s : State) : State :=
  let due := (s.ctx.pend.filter fun p => p.left == 0).foldr ageInsert []
  due.foldl State.landResult (s.onCtx fun c => { c with pend := c.pend.filter fun p => p.left != 0 })

/-- RESULT_LAND (R84): the results of context who that are due land. -/
def execResultLand (s : State) : Host.Outcome State Fault Refusal :=
  if s.ev.who ≥ 512 then .fault (.noSuchAgent s.ev.who) else .next (s.atCtx s.ev.who State.landDue)

/-- An entry of the late-write buffer may land: in the handler, only a result of the handler's own bundles (R105; log 17). -/
def Ctx.mayReplay (c : Ctx) (p : Pending) : Bool := p.inh || !c.inh

/-- The late-write buffer goes back to the pipeline at the first issue after a return (R106): each entry lands at the clks it had left, counted from that issue. -/
def Ctx.replayLate (c : Ctx) : Ctx :=
  if c.replay then
    { c with pend := c.late.filter c.mayReplay ++ c.pend, late := c.late.filter fun p => !c.mayReplay p, replay := false }
  else c

/-- LATE_WRITE_LAND (R106): the entries of the late-write buffer of context who land that are due; they count from the issue of the bundle at the resume PC, which sends them back to the pipeline, and until then stay in the buffer. -/
def execLateWriteLand (s : State) : Host.Outcome State Fault Refusal :=
  if s.ev.who ≥ 512 then .fault (.noSuchAgent s.ev.who) else .next (s.atCtx s.ev.who State.landDue)

/-! ## Typed spaces (R39, R40, R168, R169, R173, R213, R214) -/

/-- An atomic performs on its word as one step (R42, R179), wherever the turn of its bank has put its cells (R172): the new word, and the old value. -/
def Core.atomicAt (c : Core) (x : LocalAcc) (w : BitWrite) (op a n : Nat) : Core × Nat :=
  let l := c.placed x.turns w
  let old := (c.mem x.space).gather l
  match atomNew op w.width old a n with
  | some v => (c.putAll x.space (scatter v l), old)
  | none => (c, old)

/-- A local store, merge or atomic performs at its bank, on the cells its addresses named when it issued (R171, R172): the mask's bits, the full bits, and for an atomic the old value on its way back. DEDUCED (log 80): an atomic reads and writes in one step in the clk of its write, so that nothing comes between (R42). DESIGN CHOICE (log 81): one that meets a poisoned word writes its new value and stops its context with POISON. -/
def State.performLocal (s : State) (x : LocalAcc) : State :=
  match x.atomic, x.writes with
  | some (op, a, n), w :: _ =>
    let bad := (s.core.placed x.turns w).findSome? fun p => s.core.poisoned x.space p.addr p.width
    let r := s.core.atomicAt x w op a n
    ({ s with core := r.1 }).atCtx (2 * s.coreNo + x.slot) fun t => t.onCtx fun (c : Ctx) =>
      let c : Ctx := { c with awaits := c.awaits.erase x.dest }
      match bad with
      | some p => c.lateFault .poison p x.pc (2 ^ (x.bno % 8))
      | none =>
        let p : Pending := { dest := x.dest, val := r.2, addr := 0, left := 1, inter := 1, flags := 0, pc := x.pc, bno := x.bno }
        { c with pend := c.pend ++ [p] }
  | _, _ => s.onCore fun (c : Core) =>
    let c := c.putAll x.space (x.writes.flatMap (c.placed x.turns))
    if x.setFull ∧ x.space = .act then x.writes.foldl (fun c w => c.fill w.addr w.width) c else c

/-- A local atomic with a release waits until every older access of its context has performed (R180, R265). -/
def State.releaseWaits (s : State) (x : LocalAcc) : Bool :=
  x.atomic.isSome && ordRelease x.order && !(s.focusSlot x.slot).olderDone x.bno (max 2 (ordScope x.order))

/-- Some due accesses of one slot perform in their order; behind one that waits for its release the rest wait too (R261). -/
def State.localsIn (s : State) : List LocalAcc → State
  | [] => s
  | x :: t =>
    if s.releaseWaits x then s
    else ((s.onCore fun c => { c with locals := c.locals.erase x }).performLocal x).localsIn t

/-- The local accesses of one slot that are due perform, in the order of their bundles and slots. -/
def State.localsOf (s : State) (slot : Nat) : State :=
  s.localsIn (s.core.locals.filter fun x => x.left == 0 && x.slot == slot && x.push.isNone)

/-- An entered push of ring q of the focused context writes its element (R213, R214): narrowed where its format says so (R209), setting full bits with FE = 1, and counted in a FIFO. -/
def State.performPush (s : State) (q : Nat) (w : RingWrite) : State :=
  let r := s.ctx.ring q
  let x := r.written s.core w.addr w.val
  let s := s.onCore fun c =>
    let c := c.putAll (spaceOf r.spaceNo) [x]
    if r.fe = 1 ∧ r.spaceNo = 0 then c.fill x.addr x.width else c
  s.onCtx fun c =>
    let r := c.ring q
    { c with rings := c.rings.set q { r with
        buf := r.buf.filter fun x => x.seq != w.seq
        count := if r.mode = 1 then r.count + 1 else r.count } }

/-- A push that is due: of a ring, or of one that has since been bound anew; and its place in the order of entry. -/
structure DuePush where
  seq  : Nat
  what : (Nat × RingWrite) ⊕ LocalAcc
deriving DecidableEq, Repr

/-- A push in its place in the order of entry (R169). -/
def pushInsert (x : DuePush) : List DuePush → List DuePush
  | [] => [x]
  | y :: t => if x.seq < y.seq then x :: y :: t else y :: pushInsert x t

/-- The pushes of the focused context that are due, in the order they entered their rings. -/
def State.duePushes (s : State) : List DuePush :=
  let rings : List DuePush := (List.range 16).flatMap fun (q : Nat) =>
    ((s.ctx.ring q).buf.filter fun (w : RingWrite) => w.left == 0).map fun w => { seq := w.seq, what := .inl (q, w) }
  let loose : List DuePush := s.core.locals.filterMap fun (x : LocalAcc) =>
    if x.left = 0 ∧ x.slot = s.slot then x.push.map fun n => { seq := n.2, what := .inr x } else none
  (rings ++ loose).foldr pushInsert []

/-- A due push of the focused context performs. -/
def State.pushPerforms (s : State) (x : DuePush) : State :=
  match x.what with
  | .inl (q, w) => s.performPush q w
  | .inr a => (s.onCore fun c => { c with locals := c.locals.erase a }).performLocal a

/-- The pushes of one slot that are due perform. -/
def State.pushesOf (s : State) (slot : Nat) : State :=
  s.atCtx (2 * s.coreNo + slot) fun t => t.duePushes.foldl State.pushPerforms t

/-- The slots in the order in which their due accesses perform (R169): the primary of this clk first, in which what is written whole has issued, or where only merges are due the one whose bundle went first in their clk. -/
def Core.bankOrder (k : Core) : List Nat :=
  let due := k.locals.filter fun x => x.left == 0 && x.push.isNone
  let p := if due.all LocalAcc.slow then (match due.head? with | some x => x.slot | none => k.primary) else k.primary
  [p, 1 - p]

/-- What the focused core's two contexts have due at their banks performs, the primary's first (R169). -/
def State.banksClk (s : State) : State :=
  s.core.bankOrder.foldl (fun s k => (s.localsOf k).pushesOf k) s

/-- An uncorrectable error found in the word at an offset of the focused core's window leaves it poisoned (R43). -/
def State.poisonLocal (s : State) (o : Nat) : State :=
  if s.core.poison.contains (windowKey o) then s
  else
    (s.onCore fun c => { c with poison := setAdd c.poison (windowKey o) }).onDev fun d =>
      d.logError 0x02 0 0 (d.devId * 2 ^ 47 + 0x48000000000 + s.coreNo * 2 ^ 25 + o / 64 * 64) 0

/-- A correctable ECC error that a merge or a read corrects changes no bit; it is entered in the device error log with the unit and the word, or the row of a half (R43, Table 18.11). Its syndrome is free (log 5). -/
def State.eccFixed (s : State) (source a : Nat) : State :=
  let r := s.freshBits 64
  r.2.onDev fun d => d.logError 0x01 0 source (d.devId * 2 ^ 47 + a) r.1

/-- The ECC error that a bank of the focused core finds in the word at an offset of its window (R43): none with val 0, an uncorrectable one with val 1, a corrected one else. -/
def State.eccLocal (s : State) (val o : Nat) : State :=
  match val with
  | 0 => s
  | 1 => s.poisonLocal o
  | _ => s.eccFixed 0 (0x48000000000 + s.coreNo * 2 ^ 25 + o / 64 * 64)

/-- Where a typed space begins in a core window, and its size (Table 2.4): the scratch, weight staging, instruction memory, the values of the sum file, its flags. -/
def windowPart : Nat → Nat × Nat
  | 0 => (0, 2 ^ 24) | 1 => (0x1000000, 2 ^ 22) | 2 => (0x1400000, 2 ^ 21) | 3 => (0x1600000, 2 ^ 20) | _ => (0x1700000, 2 ^ 15)

/-- LOCAL_ACCESS_PERFORM (R168): the local accesses of core who that are due perform; with val 1 a merge finds an uncorrectable ECC error, and with val 2 a merge or a read corrects one, in the word at addr of space sub: the scratch, weight staging, instruction memory, the values of the sum file, its flags. -/
def execLocalAccessPerform (s : State) : Host.Outcome State Fault Refusal :=
  if s.ev.who ≥ 256 then .fault (.noSuchAgent s.ev.who)
  else .next (s.atCore s.ev.who fun t =>
    let t := t.core.bankOrder.foldl State.localsOf t
    let p := windowPart s.ev.sub
    if s.ev.addr < p.2 then t.eccLocal s.ev.val (p.1 + s.ev.addr) else t)

/-- PUSH_PERFORM (R213): the pushes of core who that are due perform. -/
def execPushPerform (s : State) : Host.Outcome State Fault Refusal :=
  if s.ev.who ≥ 256 then .fault (.noSuchAgent s.ev.who)
  else .next (s.atCore s.ev.who fun t => [t.core.primary, 1 - t.core.primary].foldl State.pushesOf t)

/-! ## Global memory (R41 to R43, R176, R259 to R265) -/

/-- Two ranges share a bit. -/
def sharesBit (a w b v : Nat) : Bool := w != 0 && v != 0 && a < b + v && b < a + w

/-- Two ranges share a line. -/
def sharesLine (a w b v : Nat) : Bool := w != 0 && v != 0 && a / 512 ≤ (b + v - 1) / 512 && b / 512 ≤ (a + w - 1) / 512

/-- Two lists of writes share a bit. -/
def sharesBits (l k : List BitWrite) : Bool := l.any fun x => k.any fun y => sharesBit x.addr x.width y.addr y.width

/-- A local store or atomic of an older bundle has not performed (R261). -/
def State.olderLocal (s : State) (bno : Nat) : Bool := s.core.locals.any fun x => x.slot == s.slot && x.push.isNone && x.bno / 8 < bno / 8

/-- An entry of the global queues may perform, given those before it (R261, R262): the marks, its queue's order on its device, an older atomic whose bits a load reads, an older load of a line a store writes, and what a release waits for (R265). A request follows an older one of its stream once a port has taken that one, for a stream's requests perform in order (R373, R413). A load of another device's memory waits for an older store of its bits that has left and not been answered, and a store whose bits such a load forwards waits for its answer, so that what is forwarded has not performed (R260). -/
def State.mayPerform (s : State) (before : List GlobAcc) (a : GlobAcc) : Bool :=
  a.left == 0 && !a.sent && !s.ctx.marked a.bno && !s.olderLocal a.bno &&
  (before.all fun e => e.isLoad != a.isLoad || physDev e.addr != physDev a.addr || (e.acc && physDev a.addr != s.dev.devId)) &&
  (if a.isLoad then before.all fun e => !(e.isAtomic && sharesBit e.addr e.width a.addr a.width) &&
      !(e.isWrite && e.sent && e.writes.any fun w => sharesBit w.addr w.width a.addr a.width)
   else (before.all fun e => !(e.isLoad && a.writes.any fun w => sharesLine e.addr e.width w.addr w.width)) &&
      s.ctx.gq.all fun e => !(e.sent && sharesBits e.fwd a.writes)) &&
  (!(a.isAtomic && ordRelease a.order) || s.olderDone a.bno (max 2 (ordScope a.order)))

/-- The bits of [a, a + w) that some writes carry: their value in v and the mask of them. -/
def overlay (a w : Nat) (l : List BitWrite) (v m : Nat) : Nat × Nat :=
  l.foldl (fun (r : Nat × Nat) x =>
    let lo := max x.addr a
    let hi := min (x.addr + x.width) (a + w)
    if lo < hi then (setBits r.1 (lo - a) (hi - lo) (x.val / 2 ^ (lo - x.addr)), setBits r.2 (lo - a) (hi - lo) (2 ^ (hi - lo) - 1)) else r) (v, m)

/-- The writes of the context's older stores and pushes that have not performed, which a load forwards (R260). -/
def forwards (before : List GlobAcc) : List BitWrite :=
  before.flatMap fun e => match e.kind with | .store | .ringPush _ | .oldPush _ => e.writes | _ => []

/-- An entry leaves the global queues. -/
def Ctx.leave (c : Ctx) (id : Nat) : Ctx := { c with gq := c.gq.filter fun e => e.id != id }

/-- A result comes back to the focused context from global memory: interlocked, in the next clk (R84). -/
def Ctx.comesBack (c : Ctx) (a : GlobAcc) (d : Dest) (addr v : Nat) : Ctx :=
  { c with pend := c.pend ++ [{ dest := d, val := v, addr := addr, left := 1, inter := 1, flags := 0, pc := a.pc, bno := a.bno }] }

/-- An element reaches the window of its READ ring, with the cause its read met (R215). -/
def Ctx.windowGets (c : Ctx) (q off v : Nat) (cause : Option Cause) : Ctx :=
  let r := c.ring q
  { c with rings := c.rings.set q { r with window := r.window ++ [{ val := v, addr := off, cause := cause }] } }

/-- A load or atomic of the focused context has its bits: it leaves its queue and its value comes back. -/
def State.globDone (s : State) (a : GlobAcc) (v : Nat) : State :=
  s.onCtx fun c =>
    let c := c.leave a.id
    match a.kind, a.dest with
    | .ringRead q off, _ => c.windowGets q off v none
    | _, .ringAt q addr => c.comesBack a (.ring q) addr v
    | .load signed, d => c.comesBack a d 0 (if signed then uns (sext v a.gotBits) 64 else v)
    | _, d => c.comesBack a d 0 v

/-- A load or atomic of the focused context is refused where it performs (R176, R215); one of a context that has left the slot stops none. -/
def State.globRefused (s : State) (a : GlobAcc) (cause : Cause) (val : Nat) : State :=
  s.onCtx fun c =>
    let c := c.leave a.id
    if a.orphan then c
    else match a.kind with
    | .ringRead q off => c.windowGets q off 0 (some cause)
    | _ => c.lateFault cause val a.pc a.slots

/-- A write of the focused context has performed in full; a push leaves its ring's buffer (R213). -/
def State.globWritten (s : State) (a : GlobAcc) : State :=
  s.onCtx fun c =>
    let c := c.leave a.id
    match a.kind with
    | .ringPush q => { c with rings := c.rings.set q { c.ring q with alloc := (c.ring q).alloc - 1 } }
    | _ => c

/-- The poisoned word that a load would read at the slice, its forwarded bits apart (R43, R260): its physical address. -/
def State.poisonMet (s : State) (a w mask : Nat) : Option Nat :=
  (s.dev.poison.find? fun k =>
    let lo := max (64 * k) (physLocal a)
    let hi := min (64 * k + 64) (physLocal a + w)
    lo < hi && bits mask (lo - physLocal a) (hi - lo) != 2 ^ (hi - lo) - 1).map fun k => a - physLocal a + 64 * k

/-- The next line of a load reads at its home slice (R33, R203, R259, R260). -/
def State.globRead (s : State) (before : List GlobAcc) (a : GlobAcc) : State :=
  let w := min a.width (512 - a.addr % 512)
  match s.ctxCause a.addr w with
  | some c => s.globRefused a c a.addr
  | none =>
    let r := overlay a.addr w (forwards before) (s.physRead (physLocal a.addr) w) 0
    match s.poisonMet a.addr w r.2 with
    | some p => s.globRefused a .poison p
    | none =>
      let a' := { a with addr := a.addr + w, width := a.width - w, got := a.got + r.1 * 2 ^ a.gotBits, gotBits := a.gotBits + w }
      let s := s.onDev fun d => d.useLine (physLocal a.addr / 512)
      if a'.width = 0 then s.globDone a' a'.got
      else s.onCtx fun c => { c with gq := c.gq.map fun e => if e.id = a.id then a' else e }

/-- The next line of a store merges at its home slice, under the line's lock (R41). -/
def State.globWrite (s : State) (a : GlobAcc) : State :=
  match a.writes with
  | [] => s.globWritten a
  | x :: _ =>
    let now := a.writes.filter fun y => y.addr / 512 == x.addr / 512
    let rest := a.writes.filter fun y => y.addr / 512 != x.addr / 512
    let s := s.onDev fun d => d.putMasked now
    if rest = [] then s.globWritten a
    else s.onCtx fun c => { c with gq := c.gq.map fun e => if e.id = a.id then { e with writes := rest } else e }

/-- An atomic performs at its home slice as one step (R42, R179). -/
def State.globAtomic (s : State) (a : GlobAcc) (op x n : Nat) : State :=
  let l := physLocal a.addr
  match s.poisoned l a.width with
  | some p => s.globRefused a .poison (a.addr - l + p)
  | none =>
    let old := s.physRead l a.width
    let s := match atomNew op a.width old x n with
      | some v => s.onDev fun d => d.put l a.width v
      | none => s
    s.globDone a old

/-- A port of the fabric has taken the requests of contexts among some that leave (R263). -/
def State.accepted (s : State) (l : List Event) : State :=
  l.foldl (fun (s : State) e =>
    if e.who = 2 ∧ e.data.headD 8 < 8 then
      s.atCtx e.sub fun t => t.onCtx fun c => { c with gq := c.gq.map fun a => if a.sent ∧ some a.id = e.data[2]? then { a with acc := true, since := if a.acc then a.since else s.dev.ref } else a }
    else s) s

/-- A request leaves for another device; a port takes it at once but in locked mode, where it waits for its slot (R263, R376). -/
def State.sendOut (s : State) (e : Event) : State :=
  let t := s.onDev fun d => d.send e
  if s.dev.lockedMode then t else t.accepted [e]

/-- A request of the focused context to another device leaves on its stream's port (R372, R373): its kind (0 read, 1 write, 2 atomic), its number, and its writes or its operands; a load keeps the bits it forwards from older stores, whose mask goes with it, for it does not read them there (R260). -/
def State.globSend (s : State) (before : List GlobAcc) (a : GlobAcc) : State :=
  let f := if a.isLoad then (forwards before).filter fun w => sharesBit w.addr w.width a.addr a.width else []
  let d : List Nat := match a.kind with
    | .atomic op x n => [2, a.id, op, x, n, a.order]
    | .store | .ringPush _ | .oldPush _ => [1, a.id] ++ a.writes.flatMap fun w => [w.addr, w.width, w.val]
    | _ => [0, a.id, (overlay a.addr a.width f 0 0).2]
  let s := s.onCtx fun c => { c with gq := c.gq.map fun e => if e.id = a.id then { e with sent := true, since := s.dev.ref, fwd := f } else e }
  s.sendOut { who := 2, sub := s.phys, addr := a.addr, val := 0, len := a.width, data := s.dev.portOf (physDev a.addr) :: d }

/-- An entry of the focused context performs one part; a load of another device's memory whose bits are all forwarded asks it for none (R260). -/
def State.globPerform (s : State) (before : List GlobAcc) (a : GlobAcc) : State :=
  match a.kind with
  | .maintain evict => (if physDev a.addr = s.dev.devId then s.onDev fun d => d.maintain evict (physLocal a.addr) a.width else s).globWritten a
  | k =>
    if physDev a.addr ≠ s.dev.devId then
      let r := overlay a.addr a.width (forwards before) 0 0
      if a.isLoad ∧ r.2 = 2 ^ a.width - 1 then s.globDone { a with gotBits := a.width } r.1 else s.globSend before a
    else match k with
      | .atomic op x n => s.globAtomic a op x n
      | .store | .ringPush _ | .oldPush _ => s.globWrite a
      | _ => s.globRead before a

/-- The entries of the focused context that may perform now, each judged after those before it have performed. -/
def State.globEach (s : State) (sel : GlobAcc → Bool) : Nat → List Nat → State
  | 0, _ => s
  | fuel + 1, done =>
    match s.ctx.gq.find? fun e => !done.contains e.id with
    | none => s
    | some a =>
      let before := s.ctx.gq.takeWhile fun e => e.id != a.id
      (if sel a && s.mayPerform before a then s.globPerform before a else s).globEach sel fuel (a.id :: done)

/-- The global accesses of the focused context that satisfy sel perform as far as they may. -/
def State.globSome (s : State) (sel : GlobAcc → Bool) : State := s.globEach sel s.ctx.gq.length []

/-- An uncorrectable error found in a word of local memory leaves it poisoned, entered in the log once (R43). -/
def Device.poisonWord (d : Device) (l : Nat) : Device :=
  if d.poison.contains (l / 64) then d
  else ({ d with poison := setAdd d.poison (l / 64) }).logError 0x02 0 1 (d.devId * 2 ^ 47 + l / 64 * 64) 0

/-- An uncorrectable error found in a row, or a word of the scale file, of the half in the storage view that holds a local address leaves it poisoned (R43, R44). -/
def State.poisonRow (s : State) (l : Nat) : State :=
  match s.viewed l with
  | none => s
  | some (k, o) =>
    match rowsOf o 1 with
    | j :: _ =>
      let h := s.dev.half k
      if h.poison.contains j then s
      else s.onDev fun d => (d.setHalf k { h with poison := setAdd h.poison j }).logError 0x02 0 2
        (d.devId * 2 ^ 47 + (if j < 256 then l / 512 * 512 else l / 64 * 64)) 0
    | [] => s

/-- The ECC error that a store-cache slice, or a half in the storage view, finds in the word or row at a local address (R43, R44): none with val 0, an uncorrectable one with val 1, a corrected one else. -/
def State.eccGlobal (s : State) (val l : Nat) : State :=
  match val with
  | 0 => s
  | 1 => if s.isDram l then s.onDev fun d => d.poisonWord l else s.poisonRow l
  | _ => if s.isDram l then s.eccFixed 1 (l / 64 * 64)
    else match s.viewed l with
      | some (_, o) => (match rowsOf o 1 with | j :: _ => s.eccFixed 2 (if j < 256 then l / 512 * 512 else l / 64 * 64) | [] => s)
      | none => s

/-- GLOBAL_WRITE_MERGE (R41): the stores, pushes and atomics of context who that may perform do so; with val 1 the merge finds an uncorrectable ECC error, and with val 2 it corrects one, in the word, or in the row of a half, at local address addr. -/
def execGlobalWriteMerge (s : State) : Host.Outcome State Fault Refusal :=
  if s.ev.who ≥ 512 then .fault (.noSuchAgent s.ev.who)
  else .next (s.atCtx s.ev.who fun t =>
    (t.globSome fun a => !a.isLoad).eccGlobal s.ev.val s.ev.addr)

/-- GLOBAL_LOAD_PERFORM (R259): the loads of context who that may perform read their next line; with val 2 the read corrects an ECC error at local address addr (R43). -/
def execGlobalLoadPerform (s : State) : Host.Outcome State Fault Refusal :=
  if s.ev.who ≥ 512 then .fault (.noSuchAgent s.ev.who)
  else .next (s.atCtx s.ev.who fun t => (t.globSome GlobAcc.isLoad).eccGlobal (if s.ev.val = 2 then 2 else 0) s.ev.addr)

/-! ## Responses of other devices (R372, R374) -/

/-- The cause of a code (Table 5.6) that a refusal may carry. -/
def refusalOf (code : Nat) : Cause :=
  if code = Cause.halfstate.code then .halfstate else if code = Cause.poison.code then .poison else .unmapped

/-- The response to entry id of the focused context: its value, or the cause of its refusal. A refused store or atomic names no slot and the next bundle (R374). -/
def State.globResponse (s : State) (id code v : Nat) : State :=
  match s.ctx.gq.find? fun e => e.id == id && e.sent with
  | none => s
  | some a =>
    if code ≠ 0 then
      if a.isLoad then s.globRefused a (refusalOf code) a.addr
      else (s.globWritten a).onCtx fun c => { c with gfault := if a.orphan then c.gfault else c.gfault.or (some (refusalOf code, word a.addr, 2 ^ 21, 0)) }
    else match a.kind with
      | .store | .ringPush _ | .oldPush _ | .maintain _ => s.globWritten a
      | _ => s.globDone { a with gotBits := a.width } (overlay a.addr a.width a.fwd (v % 2 ^ a.width) 0).1

/-- The response to a line of command id of context x on the focused core. -/
def State.engineResponse (s : State) (x id code w v : Nat) : State :=
  match s.core.pool.cmds.find? fun c => c.ctx == x && c.id == id && c.run.wait with
  | none => s
  | some c =>
    if c.queue = 2 then (if code ≠ 0 then s.reloadFailed c (refusalOf code).code true else s.reloadArrived c w v)
    else if code ≠ 0 then s.copyFailed c (refusalOf code).code
    else
      let a := (if ccDSP c.b = 2 then hBase c.hdst else 0) + c.d.toNat + c.run.wpos
      if 512 - a % 512 ≤ c.run.outN ∨ ccN c.b ≤ c.run.idx then s.copyWritten c w else s.copyArrived c w v

/-- FABRIC_RESPONSE (R374): the answer to entry sub of context who, or, where data names a context and a command, to the command's line of len bits on core who; len of a context's answer is the cause code, 0 for none, and val the value. -/
def execFabricResponse (s : State) : Host.Outcome State Fault Refusal :=
  match s.ev.data with
  | x :: id :: _ =>
    if s.ev.who ≥ 256 then .fault (.noSuchAgent s.ev.who)
    else .next (s.atCore s.ev.who fun t => t.engineResponse x id s.ev.sub s.ev.len s.ev.val)
  | _ =>
    if s.ev.who ≥ 512 then .fault (.noSuchAgent s.ev.who)
    else .next (s.atCtx s.ev.who fun t => t.globResponse s.ev.sub s.ev.len s.ev.val)

/-- REMOTE_REQUEST_TIMEOUT (R374): no acknowledgement came within FTMO: the request ends refused with UNMAPPED; its operands are those of FABRIC_RESPONSE. -/
def execRemoteRequestTimeout (s : State) : Host.Outcome State Fault Refusal :=
  match s.ev.data with
  | x :: id :: _ =>
    if s.ev.who ≥ 256 then .fault (.noSuchAgent s.ev.who)
    else .next (s.atCore s.ev.who fun t => t.engineResponse x id Cause.unmapped.code s.ev.len 0)
  | _ =>
    if s.ev.who ≥ 512 then .fault (.noSuchAgent s.ev.who)
    else .next (s.atCtx s.ev.who fun t => t.globResponse s.ev.sub Cause.unmapped.code 0)

/-! ## Reading ahead (R211, R212, R215) -/

/-- The ring reads of ring q on their way. -/
def Ctx.readsOf (c : Ctx) (q : Nat) : Nat := (c.gq.filter fun a => match a.kind with | .ringRead k _ => k == q | _ => false).length

/-- A READ ring of the focused context reads its next element, when its window has room and its granules allow it. -/
def State.readAhead (s : State) (q : Nat) : State :=
  let r := s.ctx.ring q
  let k := r.window.length + s.ctx.readsOf q
  if r.mode ≠ 2 ∨ r.depth ≤ k then s
  else
    let a := r.addrAt k
    if (r.addrCause q a).isSome then s
    else if r.spaceNo = 2 then
      (s.onCtx fun c => c.enterGlobal (.ringRead q a.toNat) (hBase r.copy + a.toNat) r.size [] (8 * c.commits) c.pc.toNat).sample (hLeaf r.copy) false
    else if r.fe ≠ 0 ∧ !s.core.allFull a.toNat r.size then s
    else
      let sp := spaceOf r.spaceNo
      let bad := (s.core.poisoned sp a.toNat r.size).map fun _ => Cause.poison
      let v := (s.core.mem sp).readBits a.toNat r.size
      let s := if r.fe = 2 then s.onCore fun c => c.drain a.toNat r.size else s
      s.onCtx fun c => c.windowGets q a.toNat v bad

/-- A context reads ahead while it is neither stopped nor away (R211, R212). -/
def Ctx.readsAhead (c : Ctx) : Bool := match c.st with | .ready | .running | .waiting | .trapped => true | _ => false

/-- Ring q reads its next element in a clk in which no bundle and no engine needs its cells (R167). -/
def State.readFree (s : State) (q : Nat) : State :=
  let r := s.ctx.ring q
  if r.mode ≠ 2 ∨ r.spaceNo = 2 then s.readAhead q
  else
    let a := (r.addrAt (r.window.length + s.ctx.readsOf q)).toNat
    if !s.core.cellsFree (spaceOf r.spaceNo) a r.size then s
    else
      let n := s.ctx.ring q
      let t := s.readAhead q
      if (t.ctx.ring q).window.length = n.window.length then t else t.onCore fun k => k.useCells (spaceOf r.spaceNo) a r.size

/-- One clk of the READ rings of the focused context: an element each. -/
def State.readAheadAll (s : State) : State :=
  if s.ctx.readsAhead then (List.range 16).foldl State.readFree s else s

/-- RING_READ_AHEAD (R211): ring sub of context who reads its next element. -/
def execRingReadAhead (s : State) : Host.Outcome State Fault Refusal :=
  if s.ev.who ≥ 512 then .fault (.noSuchAgent s.ev.who)
  else .next (s.atCtx s.ev.who fun t => t.readAhead (s.ev.sub % 16))

/-! ## Barriers (R244, R245, R249) -/

/-- An operation on a barrier is due and may perform: those of its context on its barrier before it have, and what its release waits for has (R245, R265). -/
def State.barMay (s : State) (before : List BarOp) (o : BarOp) : Bool :=
  o.left == 0 && (before.all fun e => e.ctx != o.ctx || e.bar != o.bar) &&
  (!ordRelease o.order || (s.focus o.ctx).olderDone o.bno (max 2 (ordScope o.order)))

/-- An operation performs at its barrier. -/
def State.barPerform (s : State) (o : BarOp) : State :=
  if o.init then s.setBarrier o.bar ((s.barrier o.bar).arm o.n) else s.arriveAt o.bar o.n

/-- The barrier operations of the focused core that satisfy sel and may perform do so, in the order of their commits. -/
def State.barEach (s : State) (sel : BarOp → Bool) : List BarOp → List BarOp → State
  | kept, [] => s.onCore fun c => { c with barOps := kept }
  | kept, o :: t => if sel o && s.barMay kept o then (s.barPerform o).barEach sel kept t else s.barEach sel (kept ++ [o]) t

/-- BINIT_PERFORM (R249): the binits of core who that are due reach their barriers. -/
def execBinitPerform (s : State) : Host.Outcome State Fault Refusal :=
  if s.ev.who ≥ 256 then .fault (.noSuchAgent s.ev.who)
  else .next (s.atCore s.ev.who fun t => t.barEach BarOp.init [] t.core.barOps)

/-- BARRIER_ARRIVAL (R244): the arrivals of core who that are due reach their barriers. -/
def execBarrierArrival (s : State) : Host.Outcome State Fault Refusal :=
  if s.ev.who ≥ 256 then .fault (.noSuchAgent s.ev.who)
  else .next (s.atCore s.ev.who fun t => t.barEach (fun o => !o.init) [] t.core.barOps)

/-! ## Background walks (R192, R198) -/

/-- A background walk ends: it heats a valid leaf and fills the cache unless the page moves. -/
def State.walkEnds (s : State) (w : Walk) : State :=
  let s := s.walkUses w.root w.va.toNat
  match s.walk w.root w.va.toNat with
  | .leaf e a big =>
    let s := s.heatLeaf a false
    if pteMig e < 2 then
      s.onCore fun c => { c with tcache := tcFill c.tcache { asid := w.asid, vpn := vpnOf w.va.toNat big, leaf := word e, addr := a, big := big } }
    else s
  | _ => s

/-- The walks of the focused core that are due end. -/
def State.walksClk (s : State) : State :=
  let due := s.core.walks.filter fun w => w.left == 0
  due.foldl State.walkEnds (s.onCore fun c => { c with walks := c.walks.filter fun w => w.left != 0 })

/-- BACKGROUND_WALK (R192): the walks of core who end. -/
def execBackgroundWalk (s : State) : Host.Outcome State Fault Refusal :=
  if s.ev.who ≥ 256 then .fault (.noSuchAgent s.ev.who)
  else .next (s.atCore s.ev.who fun t => (t.onCore fun c => { c with walks := c.walks.map fun w => { w with left := 0 } }).walksClk)

/-! ## SECOND_PHASE (R338) -/

/-- SECOND_PHASE (R338): the unit of core who serves its queue to the end, 48 clk a lane, and the results that are due land. -/
def execSecondPhase (s : State) : Host.Outcome State Fault Refusal :=
  if s.ev.who ≥ 256 then .fault (.noSuchAgent s.ev.who)
  else .next (s.atCore s.ev.who fun t =>
    let work := ((t.core.fnQueue.map fun e => e.wait + e.work).sum)
    let t := t.fnServe (work + 1)
    [0, 1].foldl (fun t k => t.atCtx (2 * t.coreNo + k) State.landDue) t)

end Sys2Proof.Machine
end

