-- ==== Sys2Proof/Machine/Context.lean ====
section
/-! DEFINITION. Context.lean: safe points, parks, the saved record, restore, the time slice and the firmware commands of a context that concern it alone (R101, R102, R112 to R122, R145, R188, R189, R217, R398). -/

namespace Sys2Proof.Machine

/-! ## Handles (Table 9.5) -/

/-- A result that is a handle, with f applied. -/
def Pending.mapHandle (p : Pending) (f : HandleBits → HandleBits) : Pending :=
  match p.dest with
  | .h _ => { p with val := (f (BitVec.ofNat 256 p.val)).toNat }
  | _ => p

/-- Every handle of a context, those of its registers, of its rings and of its late-write buffer, with f applied. DEDUCED (log 112): a handle result held in the buffer is a handle of the context. -/
def Ctx.mapHandles (c : Ctx) (f : HandleBits → HandleBits) : Ctx :=
  { c with
    regs := { c.regs with h := c.regs.h.map f }
    rings := c.rings.map fun r => { r with copy := f r.copy }
    late := c.late.map fun p => p.mapHandle f }

/-- A DOOMED handle becomes INVALID (row 4). -/
def hUndoom (h : HandleBits) : HandleBits := if hState h = 2 then hSetState h 0 else h

/-- A usable handle becomes INVALID (row 3). -/
def hDrop (h : HandleBits) : HandleBits := if hUsable h then hSetState h 0 else h

/-- A revocation reaches a context (rows 5 and 6). -/
def Ctx.revoke (c : Ctx) (r : Revocation) : Ctx :=
  let f := fun (n : Nat) (h : HandleBits) => if hState h = 1 ∧ r.names h then hSetState h n else h
  match c.st with
  | .ready | .running | .waiting | .trapped => c.mapHandles (f 2)
  | .parked | .faulted => c.mapHandles (f 0)
  | _ => c

/-- A handle that a revocation entered after number n names, or any once the list has wrapped past n, is INVALID (R189). -/
def Device.stale (d : Device) (n : Nat) (h : HandleBits) : HandleBits :=
  if 4096 < (d.revSeq + 2 ^ 32 - n) % 2 ^ 32 ∨ (d.revs.any fun r => r.seq != n && (r.seq + 2 ^ 32 - n) % 2 ^ 32 < 2 ^ 31 && r.names h) then hDrop h else h

/-- RESTORE and RESTART on the handles of the focused context, those in its late-write buffer among them, and of its withdrawn commands (R188, R189). DEDUCED (log 113): what was revoked by the time the save took RSEQ is not matched again. -/
def State.refreshHandles (s : State) : State :=
  let f := fun h => s.dev.stale s.ctx.rseq h
  s.onCtx fun c =>
    let c := c.mapHandles fun h => hUndoom (f h)
    { c with withdrawn := c.withdrawn.map fun w => { w with hsrc := f w.hsrc, hdst := f w.hdst } }

/-! ## Parks (R113 to R115, R217) -/

/-- The windows of every READ ring of the focused context are discarded (R217). -/
def State.discardAll (s : State) : State := (List.range 16).foldl (fun t q => if (t.ctx.ring q).mode = 2 then t.discard q else t) s

/-- A context stops waiting: it is no registered waiter of a barrier, ring, timer or grant. -/
def Ctx.clearWait (c : Ctx) : Ctx :=
  { c with wait := .nothing, barWait := [], ringWait := none, released := [], waitVal := 0, order := { c.order with scDrain := none, scPassed := false } }

/-- The focused context parks (R114, R115): its waits end, the weight above level 1 returns (R398), its windows are discarded, and a forced park captures what is in flight, but for a context that awaits its group (R362). -/
def State.park (s : State) (forced : Bool) : State :=
  let gw := s.ctx.st = .waiting ∧ s.ctx.wait = .group
  let from' := s.ctx.st.code
  let s := (s.dropRequest.lowerHeld 1).discardAll
  s.onCtx fun c =>
    let c := if forced ∧ ¬gw then c.capture else c
    { c.clearWait with
      st := .parked
      forced := forced
      gwait := gw
      fromSt := from'
      saveLeft := none
      force := false
      stopped := none
      safeHold := false
      served := 0
      probes := []
      starve := 0
      first := false
      blk := { c.blk with preq := false } }

/-- The focused context can be stopped at once: no trap entry and no safe point is under way. -/
def Ctx.atBoundary (c : Ctx) : Bool := c.entry.isNone && !c.safeHold

/-- A forced park of the focused context (R105, R115, R341): it waits until every interlocked result has landed, and then captures what is still exposed. -/
def State.stopPark (s : State) : State :=
  if s.ctx.interPending then s.onCtx fun c => { c.stopWaits with force := true } else s.park true

/-- FORCE on the focused context (R115; Table 5.5 row 5); one in a trap entry or at a safe point parks when that ends. -/
def State.forcePark (s : State) : State := if s.ctx.atBoundary then s.stopPark else s.onCtx fun c => { c with force := true }

/-- A park request is set (R101, R102); a WAITING context parks on its waiting bundle (row 7). -/
def State.requestPark (s : State) : State :=
  let s := s.onCtx fun c => { c with blk := { c.blk with preq := true } }
  if s.ctx.st = .waiting then s.stopPark else s

/-- A safe point is reached (R113, R188 row 4): the next bundle waits until every result has landed. -/
def Ctx.safePoint (c : Ctx) : Ctx := { c.mapHandles hUndoom with safeHold := true }

/-- Every result has landed at a safe point: the context goes on, or parks when it is asked to (R114). -/
def State.safeOver (s : State) : State :=
  if s.ctx.force then s.stopPark
  else if s.ctx.blk.preq ∧ ¬s.ctx.inh then s.park false
  else s.onCtx fun c => { c with safeHold := false }

/-! ## The saved record (R118, Tables 5.8, 5.9, 10.2 and 13.5) -/

/-- Whether the focused context owns the dot set of its core (R281). -/
def State.ownsDot (s : State) : Bool := s.core.dot.owner == some s.slot

/-- The bits of a record (R118, R119): what the context uses. -/
def recordBitsOf (late cmds : Nat) (dot inh : Bool) : Nat :=
  53760 + 1536 * late + 256 * cmds + (if dot then 8192 + 983040 else 0) + (if inh then 3072 else 0)

/-- The clks of a save or a restore of so many bits (R119). -/
def saveClks (n : Nat) : Nat := 256 + cdiv n 1024

/-- The bits of the record of the focused context. -/
def State.saveBits (s : State) : Nat := recordBitsOf s.ctx.late.length s.ctx.withdrawn.length s.ownsDot s.ctx.inh

/-- A loop level in its 512 bits, given its strides. -/
def Level.pack (l : Level) (strides : List Int) : Nat :=
  l.start % 2 ^ 22 + l.stop % 2 ^ 22 * 2 ^ 22 + l.count % 2 ^ 32 * 2 ^ 44 + l.index % 2 ^ 32 * 2 ^ 76 + l.safe.toNat * 2 ^ 108 +
  unchunks 24 (strides.map fun x => uns x 24) * 2 ^ 128

/-- A loop stack: six levels, those above the depth zero. -/
def LoopStack.pack (l : LoopStack) : Nat := unchunks 512 (l.levels.mapIdx fun k x => x.pack ((l.strides.drop (16 * k)).take 16))

/-- A ring binding (Table 10.2), with its pushes in the late-write buffer. -/
def Ring.pack (r : Ring) (pend : Nat) : Nat :=
  r.cfg.toNat + r.cur.toNat * 2 ^ 64 + r.head % 2 ^ 24 * 2 ^ 128 + r.count % 2 ^ 24 * 2 ^ 152 + pend % 2 ^ 8 * 2 ^ 176 + r.copy.toNat * 2 ^ 256

/-- An entry of the dot-set descriptor (Table 13.5). -/
def DotEntry.pack (e : DotEntry) : Nat := 2 ^ 63 + e.shaft % 8 * 2 ^ 60 + e.f % 2 ^ 13 * 2 ^ 47 + e.base % 2 ^ 12 * 2 ^ 35

/-- The header (Table 5.9). -/
def State.header (s : State) : Nat :=
  let c := s.ctx
  c.fromSt % 16 + c.gwait.toNat * 2 ^ 4 + c.inh.toNat * 2 ^ 5 + c.compat.toNat * 2 ^ 6 + c.forced.toNat * 2 ^ 7 + c.pc.toNat % 2 ^ 21 * 2 ^ 8 +
  c.loops.levels.length % 8 * 2 ^ 29 + c.gen % 2 ^ 16 * 2 ^ 32 + c.late.length % 2 ^ 7 * 2 ^ 48 + c.withdrawn.length % 2 ^ 9 * 2 ^ 55 +
  s.ownsDot.toNat * 2 ^ 64 + c.sliceUp.toNat * 2 ^ 65 + s.coreNo % 2 ^ 8 * 2 ^ 66 + s.dev.revSeq % 2 ^ 32 * 2 ^ 74 +
  (if c.inh then c.held.levels.length % 8 else 0) * 2 ^ 106

/-- The m, b, p and e registers in their 1,024 bits, one after the other (Table 5.8). -/
def Regs.packSmall (r : Regs) : Nat :=
  unchunks 64 (r.m.map BitVec.toNat) + unchunks 64 (r.b.map BitVec.toNat) * 2 ^ 512 + r.preds * 2 ^ 768 + unchunks 12 r.e * 2 ^ 784

/-- The pushes of ring q in the late-write buffer. -/
def Ctx.latePushes (c : Ctx) (q : Nat) : Nat := (c.late.filter fun p => p.dest == .ring q).length

/-- The descriptor of a dot set: 128 entries, those that name no half zero (Table 13.5). -/
def DotSet.pack (d : DotSet) : Nat :=
  unchunks 64 ((List.range 128).map fun i => ((d.entries.find? fun e => e.index == i).map DotEntry.pack).getD 0)

/-- The parts of the record whose layout the manual gives, by their offsets. -/
def State.recordParts (s : State) : List BitWrite :=
  let c := s.ctx
  [⟨0, 512, s.header⟩, ⟨0x200, 3072, c.loops.pack⟩, ⟨0xE00, 2048, unchunks 64 (c.regs.s.map BitVec.toNat)⟩, ⟨0x1600, 1024, c.regs.packSmall⟩,
   ⟨0x1A00, 4096, unchunks 256 (c.regs.h.map BitVec.toNat)⟩,
   ⟨0x3200, 8192, unchunks 512 (c.rings.mapIdx fun q r => r.pack (c.latePushes q))⟩,
   ⟨0x5200, 32768, unchunks 1024 (c.regs.v.map BitVec.toNat)⟩] ++
  (if s.ownsDot then [⟨0x35200, 8192, s.core.dot.pack⟩] else []) ++
  (if c.inh then [⟨0x127200, 3072, c.held.pack⟩] else [])

/-- The physical address of the save area (Table 5.7). -/
def CtxBlock.area (b : CtxBlock) : Nat := b.save * 2 ^ 21

/-! ### The regions without a given layout (log 8) -/

/-- A field of w bits at offset o as the record holds it where the manual gives no layout; the same again reads it back. -/
def veil (o w v : Nat) : Nat := v % 2 ^ w ^^^ Config.recordMask o % 2 ^ w

/-- Fields of some widths one above the other, the first lowest. -/
def packFields : List (Nat × Nat) → Nat
  | [] => 0
  | x :: t => x.2 % 2 ^ x.1 + packFields t * 2 ^ x.1

/-- The fields of some widths read back. -/
def unpackFields : List Nat → Nat → List Nat
  | [], _ => []
  | w :: t, v => v % 2 ^ w :: unpackFields t (v / 2 ^ w)

/-- The control registers of a context that its record keeps. -/
def Ctx.controls (c : Ctx) : List Nat :=
  [c.fp.fflags.toNat, c.fp.fmask.toNat, c.fp.frm.toNat, c.fp.seed.toNat, c.fp.sctr.toNat, c.tr.tvec.toNat, c.tr.tcause.toNat, c.tr.tepc.toNat,
   c.tr.tval.toNat, c.tr.tslot.toNat, c.tr.tscr.toNat, c.tr.tena.toNat, c.tr.tpend.toNat, c.tr.fpeVal.toNat, c.tr.chkVal.toNat, c.tr.nanVal.toNat,
   c.power.level]

/-- The control registers read back. -/
def Ctx.withControls (c : Ctx) (w : Nat → Word) : Ctx :=
  { c with
    fp := { fflags := (w 0).setWidth 5, fmask := (w 1).setWidth 5, frm := (w 2).setWidth 3, seed := w 3, sctr := w 4 }
    tr := { tvec := w 5, tcause := w 6, tepc := w 7, tval := w 8, tslot := w 9, tscr := w 10, tena := w 11, tpend := w 12, fpeVal := w 13, chkVal := w 14,
            nanVal := w 15 }
    power := { c.power with level := (w 16).toNat % 16 } }

/-- The fields of a destination: its kind and what it names. -/
def Dest.fields : Dest → List Nat
  | .none => [0, 0, 0, 0, 0, 0, 0, 0, 0]
  | .s i => [1, i, 0, 0, 0, 0, 0, 0, 0]
  | .v i => [2, i, 0, 0, 0, 0, 0, 0, 0]
  | .pair k => [3, k, 0, 0, 0, 0, 0, 0, 0]
  | .preds => [4, 0, 0, 0, 0, 0, 0, 0, 0]
  | .b i p => [5, i, p.toNat, 0, 0, 0, 0, 0, 0]
  | .m i => [6, i, 0, 0, 0, 0, 0, 0, 0]
  | .e i => [7, i, 0, 0, 0, 0, 0, 0, 0]
  | .h i => [8, i, 0, 0, 0, 0, 0, 0, 0]
  | .ring q => [9, q, 0, 0, 0, 0, 0, 0, 0]
  | .ringAt q a => [10, q, 0, 0, 0, a, 0, 0, 0]
  | .bits q sp w a leaf full vec => [11, q, 0, sp, w, a, leaf, full.toNat, vec.toNat]

/-- A destination read back from its fields. -/
def Dest.ofFields (l : List Nat) : Dest :=
  let n := fun k => l.getD k 0
  match n 0 with
  | 1 => .s (n 1) | 2 => .v (n 1) | 3 => .pair (n 1) | 4 => .preds | 5 => .b (n 1) (n 2 == 1) | 6 => .m (n 1) | 7 => .e (n 1)
  | 8 => .h (n 1) | 9 => .ring (n 1) | 10 => .ringAt (n 1) (n 5)
  | 11 => .bits (n 1) (n 3) (n 4) (n 5) (n 6) (n 7 == 1) (n 8 == 1)
  | _ => .none

/-- The widths of the fields of a late-write entry: value, destination, address, clks left, kind, flags, bundle, tag, number, handler. -/
def lateWidths : List Nat := [1024, 4, 8, 1, 2, 12, 64, 60, 1, 1, 64, 16, 2, 6, 21, 64, 64, 1]

/-- A late-write entry as its fields (R105). -/
def Pending.pack (p : Pending) : Nat :=
  packFields (lateWidths.zip ([p.val] ++ p.dest.fields ++ [p.addr, p.left, p.inter, p.flags, p.pc, p.tag, p.bno, p.inh.toNat]))

/-- A late-write entry read back. -/
def Pending.unpack (v : Nat) : Pending :=
  let l := unpackFields lateWidths v
  let n := fun k => l.getD k 0
  { dest := .ofFields (l.drop 1), val := n 0, addr := n 10, left := n 11, inter := n 12, flags := n 13, pc := n 14, tag := n 15, bno := n 16, inh := n 17 == 1 }

/-- The operands of a withdrawn command in their 256 bits. -/
def Command.operands (c : Command) : Nat := unchunks 64 [c.a.toNat, c.b.toNat, c.d.toNat, c.e.toNat]

/-- The periphery value of output o of an entry in its 80 bits: its value, its anchor and its flags (R290). -/
def DotEntry.output (e : DotEntry) (o : Nat) : Nat :=
  packFields [(64, uns (e.vals.getD o 0) 64), (14, uns (e.anc.getD o 0) 14), (1, (e.nanF.getD o false).toNat), (1, (e.spanF.getD o false).toNat)]

/-- The parts of the record without a given layout: the control registers, the late-write entries, the operands of the withdrawn commands, and the periphery values (R118, R281). -/
def State.veiledParts (s : State) : List BitWrite :=
  let c := s.ctx
  let part := fun (o w v : Nat) => (⟨o, w, veil o w v⟩ : BitWrite)
  ((List.range 32).map fun k => part (0x2A00 + 64 * k) 64 (c.controls.getD k 0)) ++
  c.late.mapIdx (fun i p => part (0xD200 + 1536 * i) 1536 p.pack) ++
  c.withdrawn.mapIdx (fun i w => part (0x25200 + 256 * i) 256 w.operands) ++
  if s.ownsDot then s.core.dot.entries.flatMap fun e => (List.range e.vals.length).map fun o =>
    part (0x37200 + 80 * (96 * e.index + o)) 80 (e.output o) else []

/-- Bits of a record written through the store cache, their lines pinned there (R118, R203). -/
def Device.writePinned (d : Device) (a : Nat) (x : BitWrite) : Device :=
  (linesOf (a + x.addr) x.width).foldl (Device.cacheLine · true) (d.put (a + x.addr) x.width x.val)

/-- The record is written to the save area (R118). DESIGN CHOICE (log 89): with a CXSAVE of 0 the area is that at address 0. -/
def State.writeRecord (s : State) : State :=
  s.onDev fun d => (s.recordParts ++ s.veiledParts).foldl (fun d x => d.writePinned (physLocal s.ctx.blk.area) x) d

/-! ## Save (R117, R119) -/

/-- Every access of the committed bundles of the focused context has performed at system scope, and every result that lands has landed (R117, R362). -/
def State.accessesDone (s : State) : Bool :=
  s.olderDone s.bundleNo 4 && s.ctx.gq.isEmpty && s.ctx.awaits.isEmpty && s.ctx.pend.isEmpty && s.core.barOps.all fun o => o.ctx != s.phys

/-- The unstarted commands of the focused context's generation are withdrawn (R117). -/
def State.withdrawAll (s : State) : State :=
  let w := s.core.unstarted s.phys
  ({ s with core := s.core.withdraw s.phys }).onCtx fun c => { c with withdrawn := c.withdrawn ++ w, rseq := s.dev.revSeq }

/-- The save completes (Table 5.5 row 15): the record stands at its area, and the slot keeps what it has no room for (log 8). -/
def State.saved (s : State) : State := s.writeRecord.onCtx fun c => { c with st := .saved, saveLeft := none, rseq := s.dev.revSeq }

/-- A fault that waits for the focused context is taken (R176, R374): a refused store or atomic names the next bundle. -/
def State.takeLate (s : State) (f : Cause × Word × Nat × Nat) : State :=
  (s.dropRequest.onCtx fun c => { c with gfault := none }).stopFault f.1 f.2.1 (if f.2.2.1 = 2 ^ 21 then s.ctx.pc.toNat else f.2.2.1) f.2.2.2 false

/-- One clk of a parked context (R117): the engines pass its generation, its commands are withdrawn, its accesses perform, and the record is written. -/
def State.saveClk (s : State) : State :=
  match s.ctx.gfault, s.ctx.saveLeft with
  | some f, none => s.takeLate f
  | _, some n => if n ≤ 1 then s.saved else s.onCtx fun c => { c with saveLeft := some (n - 1) }
  | none, none =>
    if (s.core.commandsOf s.phys).any fun c => c.tag != s.ctx.gen then s
    else
      let s := s.withdrawAll
      if (s.core.commandsOf s.phys).isEmpty ∧ s.accessesDone then
        s.onCtx fun c => { c with saveLeft := some (saveClks s.saveBits) }
      else s

/-- SAVE_COMPLETE (R117): the save of context who, its conditions met, completes. -/
def execSaveComplete (s : State) : Host.Outcome State Fault Refusal :=
  if s.ev.who ≥ 512 then .fault (.noSuchAgent s.ev.who)
  else .next (s.atCtx s.ev.who fun t =>
    if t.ctx.st ≠ .parked then t
    else
      let u := t.saveClk
      if u.ctx.saveLeft.isSome then u.saved else u)

/-! ## Reinstating a loop stack (R142, R145) -/

/-- The bundles of a body, framed from instruction memory: the address of each and its words; none when one is malformed. -/
def frameCopies (m : Memory) (code : Nat × Nat) (stop : Nat) : Nat → Nat → Option (List (Nat × List Nat))
  | 0, _ => none
  | fuel + 1, pc =>
    if stop ≤ pc then some []
    else match frameLen m code pc 8 0 with
      | none => none
      | some k =>
        (frameCopies m code stop fuel (pc + 32 * k)).map fun l => (pc, (List.range k).map fun j => m.readBits (code.1 + pc + 32 * j) 32) :: l

/-- The focused context resumes at pc with a reinstated loop stack (R145): TakeBranch, the copies of the outermost body in the loop buffer again (R75), and one clk for each of its bundles; BUNDLE when the framing fails. -/
def State.reinstate (s : State) (pc : Nat) : State :=
  let s := s.onCtx fun c => { c with pc := word pc, loops := c.loops.branchTo pc, loopBuf := [] }
  match s.ctx.loops.levels.head? with
  | none => s
  | some l =>
    match frameCopies s.core.imem s.ctx.code l.stop 128 l.start with
    | some b => s.onCtx fun c => { c with bubble := c.bubble + b.length, loopBuf := b }
    | none => s.dropRequest.takeFault .bundle 0 pc 0 false

/-! ## RESTORE, RESTART, DETACH and ATTACH (R119, R121) -/

/-- A firmware command that matches no row (R101). -/
def State.ignored (s : State) : State := s.onCtx fun c => { c with blk := { c.blk with ign := true } }

/-- A loop level and its strides in 512 bits read back. -/
def Level.unpack (v : Nat) : Level :=
  { start := bits v 0 22, stop := bits v 22 22, count := bits v 44 32, index := bits v 76 32, safe := bitAt v 108 }

/-- A loop stack of depth n read back (R118). -/
def LoopStack.unpack (n v : Nat) : LoopStack :=
  { levels := (List.range n).map fun k => Level.unpack (bits v (512 * k) 512)
    strides := (List.range 96).map fun j => if j < 16 * n then sext (bits v (512 * (j / 16) + 128 + 24 * (j % 16)) 24) 24 else 0 }

/-- A binding read back (Table 10.2): its window is empty, and PEND keeps the slots of the pushes in the late-write buffer. -/
def Ring.unpack (r : Ring) (v : Nat) : Ring :=
  { r with cfg := word v, cur := word (bits v 64 64), head := bits v 128 24, count := bits v 152 24, alloc := bits v 176 8
           copy := BitVec.ofNat 256 (bits v 256 256), window := [], buf := [] }

/-- The general registers read back (Table 5.8), given each part. -/
def Regs.unpack (r : Regs) (sv small hv vv : Nat) : Regs :=
  { r with
    s := (chunks 64 32 sv).map word
    m := (chunks 64 8 small).map word
    b := (chunks 64 4 (small / 2 ^ 512)).map word
    p := (List.range 16).map fun k => bitAt small (768 + k)
    e := chunks 12 8 (small / 2 ^ 784)
    h := (chunks 256 16 hv).map (BitVec.ofNat 256)
    v := (chunks 1024 32 vv).map (BitVec.ofNat 1024) }

/-- The bits of the record that lies at local address a. -/
def Device.part (d : Device) (a o w : Nat) : Nat := d.mem.readBits (a + o) w

/-- A field of w bits at offset o, in a region without a given layout, of the record that lies at local address a (log 8). -/
def Device.veiled (d : Device) (a o w : Nat) : Nat := veil o w (d.part a o w)

/-- The late-write buffer of n entries as the record holds it. -/
def Device.recordLate (d : Device) (a n : Nat) : List Pending := (List.range (min n 64)).map fun i => .unpack (d.veiled a (0xD200 + 1536 * i) 1536)

/-- A withdrawn command with its operands as entry i of the record holds them; the rest of it stays in the slot (log 8). -/
def Device.recordCommand (d : Device) (a i : Nat) (c : Command) : Command :=
  let v := d.veiled a (0x25200 + 256 * i) 256
  { c with a := word (bits v 0 64), b := word (bits v 64 64), d := word (bits v 128 64), e := word (bits v 192 64) }

/-- Entry i of the descriptor v of the record: that of the dot set with the fields read, or a new one. -/
def State.readEntry (s : State) (v i : Nat) : Option DotEntry :=
  let w := bits v (64 * i) 64
  if bitAt w 63 then
    some { (s.core.dot.entries.find? fun e => e.index == i).getD (s.newEntry i w) with shaft := descShaft w, f := descF w, base := descBase w }
  else none

/-- An entry with its periphery values as the record holds them (R281). -/
def Device.recordOutputs (d : Device) (a : Nat) (e : DotEntry) : DotEntry :=
  let l := (List.range e.vals.length).map fun o => unpackFields [64, 14, 1, 1] (d.veiled a (0x37200 + 80 * (96 * e.index + o)) 80)
  { e with vals := l.map fun x => sext (x.getD 0 0) 64, anc := l.map fun x => sext (x.getD 1 0) 14
           nanF := l.map fun x => x.getD 2 0 == 1, spanF := l.map fun x => x.getD 3 0 == 1 }

/-- The descriptor and the periphery values written back from the record (R281). -/
def State.readDot (s : State) (a : Nat) : State :=
  let es := ((List.range 128).filterMap (s.readEntry (s.dev.part a 0x35200 8192))).map (s.dev.recordOutputs a)
  s.onCore fun c => { c with dot := { c.dot with entries := es } }

/-- The header fields of a record (Table 5.9): CORE, FROM and the counts by which the record is read. -/
def hdrCore (h : Nat) : Nat := bits h 66 8
/-- FROM. -/
def hdrFrom (h : Nat) : Nat := bits h 0 4
/-- LWBN. -/
def hdrLate (h : Nat) : Nat := bits h 48 7
/-- CMDN. -/
def hdrCmds (h : Nat) : Nat := bits h 55 9
/-- INH. -/
def hdrInh (h : Nat) : Bool := bitAt h 5
/-- DOTOWN. -/
def hdrDot (h : Nat) : Bool := bitAt h 64

/-- The record at the save area read back into the focused context (R118, R119, R217, R281). -/
def State.readRecord (s : State) : State :=
  let a := physLocal s.ctx.blk.area
  let d := s.dev
  let h := d.part a 0 512
  let s := if hdrDot h && s.ownsDot then s.readDot a else s
  s.onCtx fun c =>
    { c.withControls (fun k => word (d.veiled a (0x2A00 + 64 * k) 64)) with
      late := d.recordLate a (hdrLate h)
      withdrawn := (c.withdrawn.take (hdrCmds h)).mapIdx (d.recordCommand a)
      gwait := bitAt h 4
      inh := hdrInh h
      compat := bitAt h 6
      forced := bitAt h 7
      pc := word (bits h 8 21)
      gen := bits h 32 16
      sliceUp := bitAt h 65
      rseq := bits h 74 32
      loops := .unpack (bits h 29 3) (d.part a 0x200 3072)
      held := if hdrInh h then .unpack (bits h 106 3) (d.part a 0x127200 3072) else c.held
      regs := c.regs.unpack (d.part a 0xE00 2048) (d.part a 0x1600 1024) (d.part a 0x1A00 4096) (d.part a 0x5200 32768)
      rings := c.rings.mapIdx fun q r => r.unpack (d.part a (0x3200 + 512 * q) 512) }

/-- The part of a record of the focused context that holds a poisoned word, and that a RESTORE reads (R43). -/
def State.poisonedRecord (s : State) : Option Nat :=
  let a := physLocal s.ctx.blk.area
  let h := s.dev.part a 0 512
  let dot := hdrDot h && s.ownsDot
  ([(0, 53760), (0xD200, 1536 * hdrLate h), (0x25200, 256 * hdrCmds h)] ++ (if dot then [(0x35200, 991232)] else []) ++
    (if hdrInh h then [(0x127200, 3072)] else [])).findSome? fun (p : Nat × Nat) => s.poisoned (a + p.1) p.2

/-- A slice below its floor is raised to it, which CSTAT.SLICEUP shows (R120). -/
def CtxBlock.raised (b : CtxBlock) : Bool := b.slice != 0 && b.slice < 7168

/-- The focused context resumes from its record in the slot it holds (row 18, R115, R119). One that awaits its group goes on waiting, also in its handler. A record with a poisoned word leaves it FAULTED with POISON. DEDUCED (log 8). -/
def State.resume (s : State) : State :=
  let poison := s.poisonedRecord
  let area := physLocal s.ctx.blk.area
  let s := (s.readRecord.onDev fun d => d.unpin area (2 ^ 21)).refreshHandles
  let n := saveClks s.saveBits
  let s := s.onCtx fun c =>
    { c with
      st := if c.gwait then .waiting else if c.inh then .trapped else .ready
      wait := if c.gwait then .group else .nothing
      replay := c.late.any c.mayReplay
      sliceUp := c.sliceUp || c.blk.raised
      blk := { c.blk with preq := false }
      bubble := n
      power := { c.power with charges := [] } }
  match poison with
  | some x => s.takeFault .poison (word x) s.ctx.pc.toNat 0 false
  | none => s.reinstate s.ctx.pc.toNat

/-- RESTORE on the focused context (R102, R119). -/
def State.restoreCmd (s : State) : State :=
  if s.ctx.st = .saved ∧ s.ctx.blk.save ≠ 0 then s.resume else s.ignored

/-- RESTART on the focused context (row 21). -/
def State.restartCmd (s : State) : State :=
  if s.ctx.st = .faulted ∧ s.ctx.blk.fcause = Cause.pagefault.code then
    let s := s.refreshHandles.onCtx fun c => { c with st := .ready }
    s.reinstate s.ctx.pc.toNat
  else s.ignored

/-- The owner of the dot set of a core, renamed (R281). -/
def DotSet.reown (d : DotSet) (a b : Nat) : DotSet := if d.owner = some a then { d with owner := some b } else d

/-- DETACH on the focused context (row 24, R121): the slot is FREE and the context lives on as a detached record. DESIGN CHOICE (log 90): CXROOT of the slot reads 0, and the rest of its block stays. -/
def State.detachCmd (s : State) : State :=
  let a := s.ctx.blk.area
  if s.ctx.st = .saved ∧ s.core.detached.length < 8 then
    let c := s.ctx
    let s := s.onCore fun k => { k with detached := k.detached ++ [a], dot := k.dot.reown s.slot (2 + a) }
    let s := s.onDev fun d => { d with records := assocSet d.records a { core := s.coreNo, rseq := c.rseq, ctx := c } }
    s.onCtx fun _ => { Ctx.reset with blk := { c.blk with save := 0, preq := false, asid := 0, root := 0 } }
  else s.ignored

/-- ATTACH on the focused slot (row 25, R121): CORE and FROM are read from the header in memory; where a word of it is poisoned they cannot be (R43, Table 2.2), and the command is ignored. -/
def State.attachCmd (s : State) : State :=
  let a := s.ctx.blk.area
  let h := s.dev.part (physLocal a) 0 512
  match s.ctx.st, assoc? s.dev.records a with
  | .free, some r =>
    if (s.poisoned (physLocal a) 512).isNone ∧ hdrCore h = s.coreNo ∧ s.core.detached.contains a ∧ 2 ≤ hdrFrom h ∧ hdrFrom h ≤ 5 then
      let b := s.ctx.blk
      let s := s.onCore fun k => { k with detached := k.detached.filter fun x => x != a, dot := k.dot.reown (2 + a) s.slot }
      let s := s.onCtx fun _ => { r.ctx with st := .saved, blk := { b with asid := r.ctx.blk.asid, root := r.ctx.blk.root } }
      s.onDev fun d => { d with
        records := assocDel d.records a
        kernels := match s.ctx.kernel with
          | some k => d.kernels.map fun (x : Nat × Kernel) => if x.1 = k then (x.1, { x.2 with place := x.2.place.set s.ctx.lcore s.phys }) else x
          | none => d.kernels }
    else s.ignored
  | _, _ => s.ignored

/-- A withdrawn command of the focused context goes back to its queue, the oldest first, while the pool has room (R112, R119). -/
def State.reissue (s : State) : Nat → State
  | 0 => s
  | n + 1 =>
    match s.ctx.withdrawn with
    | [] => s
    | c :: t =>
      if s.core.pool.room c.queue s.phys then
        ((s.onCore fun k => { k with pool := { k.pool with cmds := k.pool.cmds ++ [{ c with ctx := s.phys, started := false }] } }).onCtx fun x =>
          { x with withdrawn := t }).reissue n
      else s

/-! ## RETIRED (R101, R281, R391, Table 9.5 row 3) -/

/-- The focused context reaches RETIRED: its weight returns, its handles and the dot set are given up, its claims end. -/
def State.retireCtx (s : State) : State :=
  let s := s.dropRequest.lowerHeld 0
  let s := if s.ownsDot then s.releaseDot else s
  let s := if s.ctx.st = .saved ∨ s.ctx.st = .retained then s.onDev fun d => d.unpin (physLocal s.ctx.blk.area) (2 ^ 21) else s
  s.onCtx fun c =>
    { (c.mapHandles hDrop).clearWait with
      st := .retired
      claims := .none
      withdrawn := []
      late := []
      replay := false
      entry := none
      gfault := none
      safeHold := false
      force := false
      stopped := none
      saveLeft := none
      bubble := 0
      gwait := false
      blk := { c.blk with preq := false } }

/-- KILL on the focused context (row 1): its unstarted commands and its function results are discarded (R341); nothing is saved. -/
def State.killCtx (s : State) : State :=
  match s.ctx.st with
  | .free | .retired => s.ignored
  | _ =>
    let s := ({ s with core := s.core.withdraw s.phys }).fnKill s.slot
    (s.onCtx fun c => { c with pend := c.pend.filter fun p => p.inter < 2 }).retireCtx

/-- FREE on the focused context (row 23). -/
def State.freeCmd (s : State) : State :=
  if s.ctx.st = .retired then s.onCtx fun c => { c with st := .free, kernel := none } else s.ignored

/-! ## The commands of CXCTL that concern one context -/

/-- A command of firmware to context who. -/
def State.onCommand (s : State) (f : State → State) : Host.Outcome State Fault Refusal :=
  if s.ev.who ≥ 512 then .fault (.noSuchAgent s.ev.who) else .next (s.atCtx s.ev.who f)

/-- PARK (R102). -/
def State.parkCmd (s : State) : State :=
  match s.ctx.st with
  | .ready | .running | .waiting | .trapped => s.requestPark
  | _ => s.ignored

/-- FORCE (row 5). -/
def State.forceCmd (s : State) : State :=
  match s.ctx.st with
  | .ready | .running | .waiting | .trapped => s.forcePark
  | _ => s.ignored

/-- PARK (R102): the park request of context who. -/
def execPark (s : State) : Host.Outcome State Fault Refusal := s.onCommand State.parkCmd
/-- FORCE (R115): context who parks at its next bundle boundary. -/
def execForce (s : State) : Host.Outcome State Fault Refusal := s.onCommand State.forceCmd
/-- RESTORE (R119). -/
def execRestore (s : State) : Host.Outcome State Fault Refusal := s.onCommand State.restoreCmd
/-- RESTART (R101). -/
def execRestart (s : State) : Host.Outcome State Fault Refusal := s.onCommand State.restartCmd
/-- FREE (R101). -/
def execFree (s : State) : Host.Outcome State Fault Refusal := s.onCommand State.freeCmd
/-- DETACH (R121). -/
def execDetach (s : State) : Host.Outcome State Fault Refusal := s.onCommand State.detachCmd
/-- ATTACH (R121). -/
def execAttach (s : State) : Host.Outcome State Fault Refusal := s.onCommand State.attachCmd

/-! ## The time slice (R120) -/

/-- The slice in force: one below 7,168 clk is raised to it. -/
def CtxBlock.effective (b : CtxBlock) : Nat := max b.slice 7168

/-- The states in which the time slice counts. -/
def Ctx.slicing (c : Ctx) : Bool := c.blk.slice != 0 && (c.st == .ready || c.st == .running || c.st == .trapped)

/-- The slice ends with the next clk: the count reaches SLICE. -/
def Ctx.sliceDue (c : Ctx) : Bool := c.slicing && c.blk.effective ≤ c.blk.sliced + 1

/-- The slice ends: the park request is set and the count restarts. -/
def Ctx.sliceEnds (c : Ctx) : Ctx := { c with blk := { c.blk with preq := true, sliced := 0 }, sliceUp := c.sliceUp || c.blk.slice < 7168 }

/-- One clk of the time slice. -/
def Ctx.sliceClk (c : Ctx) : Ctx :=
  if c.sliceDue then c.sliceEnds
  else if c.slicing then { c with blk := { c.blk with sliced := c.blk.sliced + 1 } }
  else c

/-- SLICE_EXPIRY (R120): the slice of context who ends, where its count reaches SLICE. -/
def execSliceExpiry (s : State) : Host.Outcome State Fault Refusal :=
  s.onCommand fun t => t.onCtx fun c => if c.sliceDue then c.sliceEnds else c

/-! ## BFMT values take effect (R171) -/

/-- Some values take effect in turn, those of slot p first, so that the other slot's remain (R171). -/
def Core.putFmts (k : Core) (p : Nat) (l : List FmtPend) : Core :=
  ((l.filter fun x => x.slot == p) ++ l.filter fun x => x.slot != p).foldl (fun k x => k.setBfmt x.bank x.val) k

/-- The values that satisfy sel take effect, the primary's first. -/
def Core.applyFmt (k : Core) (sel : FmtPend → Bool) : Core :=
  let due := k.fmtPend.filter sel
  if due.isEmpty then k else ({ k with fmtPend := k.fmtPend.filter fun x => !sel x } : Core).putFmts k.primary due

/-- The focused context stops issuing: its values take effect (R171). -/
def State.fmtStops (s : State) : State := s.onCore fun k => k.applyFmt fun x => x.slot == s.slot

/-! ## Deferred traps at a boundary (R107, R108, R110, R111) -/

/-- The deferred cause the focused context would take at its next boundary (row 8). -/
def Ctx.dueCause (c : Ctx) : Option Cause :=
  match c.st with
  | .ready | .running => if c.entry.isSome then none else c.tr.lowest
  | _ => none

/-- A deferred cause is taken: handler entry with DEFER, or escalation with ESC (R111). -/
def State.takeDeferred (s : State) (cause : Cause) : State :=
  let v := s.ctx.tr.deferVal cause
  if s.ctx.tr.enabled then
    s.onCtx fun c => c.takeTrap { cause := cause, val := v, epc := c.pc.toNat, slots := 0, defer := true }
  else
    (s.onCtx fun c => { c with tr := { c.tr with tpend := c.tr.tpend - word (2 ^ cause.code) } }).stopFault cause v s.ctx.pc.toNat 0 true

/-- DEFERRED_TRAP_ENTRY (R107): context who takes its lowest pending deferred cause. -/
def execDeferredTrapEntry (s : State) : Host.Outcome State Fault Refusal :=
  s.onCommand fun t => match t.ctx.dueCause with | some c => (t.takeDeferred c).fmtStops | none => t

end Sys2Proof.Machine
end

