-- ==== Sys2Proof/Machine/Migrate.lean ====
section
/-! DEFINITION. Migrate.lean: the samplers, the eraser, the migration engine, invalidation, and the hatch tree (R183 to R185, R188 to R191, R198 to R205). -/

namespace Sys2Proof.Machine

/-! ## Leaves of a table (R182, R184, R198) -/

/-- The numbers of the words of a table of n words that are not 0. -/
def Memory.wordsIn (m : Memory) (a n : Nat) : List Nat :=
  ((m.filter fun c => a / 8 ≤ c.1 && c.1 < a / 8 + 8 * n).map fun c => (c.1 - a / 8) / 8).dedup

/-- A leaf found by a sweep: its address, the address of its page, whether it is big, and its word. -/
structure Leaf where
  addr : Nat
  va   : Nat
  big  : Bool
  word : Nat
deriving DecidableEq, Repr

/-- The entries of a table of one level. -/
def tableWords : Nat → Nat
  | 1 => 8192 | 2 => 65536 | _ => 512

/-- The lowest bit an index of one level selects (Table 9.1). -/
def levelShift : Nat → Nat
  | 1 => 44 | 2 => 28 | _ => 19

/-- A virtual address in canonical form (R24). -/
def canonVa (va : Nat) : Nat := if bitAt va 56 then va % 2 ^ 57 + 127 * 2 ^ 57 else va % 2 ^ 57

/-- The valid leaves below a table, `left` levels above the last, in ascending order of their addresses (R184). -/
def State.leavesFrom (s : State) (va table : Nat) : Nat → List Leaf
  | 0 => []
  | left + 1 =>
    let level := 3 - left
    if !s.isDram (physLocal table) || physDev table != s.dev.devId || table % tableSize level ≠ 0 then []
    else (s.dev.mem.wordsIn (physLocal table) (tableWords level)).flatMap fun i =>
      let a := table + 64 * i
      let e := s.dev.mem.readBits (physLocal a) 64
      let v := va + i * 2 ^ levelShift level
      if !pteV e || bits e 45 7 ≠ 0 || (s.poisoned (physLocal a) 64).isSome then []
      else if pteLeaf e then
        if level = 1 ∨ pteAddr e % (if level = 2 then 2 ^ 28 else 2 ^ 19) ≠ 0 ∨ (physDev (pteAddr e) = s.dev.devId ∧ !s.isDram (physLocal (pteAddr e))) then []
        else [{ addr := a, va := canonVa v, big := level == 2, word := e }]
      else if level = 3 then []
      else s.leavesFrom v (pteAddr e) left

/-- The valid leaves of an address space. -/
def State.leaves (s : State) (root : Nat) : List Leaf := s.leavesFrom 0 (root * 2 ^ 19) 3

/-- The address spaces of the loaded contexts: number and root. -/
def State.spaces (s : State) : List (Nat × Nat) :=
  (s.coreList.flatMap fun n =>
    let t := s.focusCore n
    [t.ctx, t.partner].filterMap fun c => if c.st = .free then none else some (c.blk.asid, c.blk.root)).dedup

/-! ## The samplers and the eraser (R198, R199) -/

/-- SAMPLER (R198): an access of core who through the leaf at addr is sampled; val 1 says that it writes. -/
def execSampler (s : State) : Host.Outcome State Fault Refusal :=
  if s.ev.who ≥ 256 then .fault (.noSuchAgent s.ev.who) else .next (s.atCore s.ev.who fun t => t.heatLeaf s.ev.addr (s.ev.val == 1))

/-- A leaf cooled: 1 less in each heat field that is not 0. -/
def cool (e : Nat) : Nat := e - (if pteRh e = 0 then 0 else 2 ^ 54) - (if pteWh e = 0 then 0 else 2 ^ 52)

/-- A leaf is offered for migration, and which way: some true to HBM4 (R199). -/
def State.offers (s : State) (l : Leaf) : Option Bool :=
  let g := s.dev.mig
  if !g.en || ptePin l.word || pteMig l.word ≠ 0 || physDev (pteAddr l.word) ≠ s.dev.devId || (l.big && !g.big) then none
  else match regionOf s.dev.lpddr (physLocal (pteAddr l.word)) with
    | .lpddr => if g.promo ≤ pteRh l.word + pteWh l.word then some true else none
    | .hbm => if pteRh l.word + pteWh l.word = 0 then some false else none
    | _ => none

/-- A sweep on one leaf: it is offered as it stands, then cooled. -/
def State.sweepLeaf (s : State) (asid : Nat) (l : Leaf) : State :=
  let r : MigRequest := { leaf := l.addr, asid := asid, vpn := bits l.va 19 38, big := l.big }
  let s := match s.offers l with
    | some true => s.onDev fun d => if d.promos.contains r then d else { d with promos := d.promos ++ [r] }
    | some false => s.onDev fun d => if d.demos.contains r then d else { d with demos := d.demos ++ [r] }
    | none => s
  s.stepLeaf l.addr heatFields cool

/-- The leaves a sweep visits, each once. -/
def sweepList (l : List (Nat × Leaf)) : List (Nat × Leaf) :=
  l.foldl (fun (acc : List (Nat × Leaf)) x => if acc.any fun y => y.2.addr == x.2.addr then acc else acc ++ [x]) []

/-- A sweep of the eraser (R198, R199). -/
def State.sweep (s : State) : State :=
  (sweepList (s.spaces.flatMap fun (p : Nat × Nat) => (s.leaves p.2).map fun l => (p.1, l))).foldl
    (fun (t : State) (x : Nat × Leaf) => t.sweepLeaf x.1 x.2) s

/-- A sweep is due (R198): REF has come to a multiple of INT µs, and the sweep of that time has not been made. -/
def State.sweepDue (s : State) : Bool :=
  s.dev.mig.int ≠ 0 && s.dev.ref % 1200 = 0 && s.dev.ref / 1200 % s.dev.mig.int = 0 && s.dev.mig.swept ≠ s.dev.ref / 1200 + 1

/-- The sweep that is due. -/
def State.sweepClk (s : State) : State :=
  if s.sweepDue then s.sweep.onDev fun d => { d with mig := { d.mig with swept := d.ref / 1200 + 1 } } else s

/-- ERASER_SWEEP (R198). -/
def execEraserSweep (s : State) : Host.Outcome State Fault Refusal := .next s.sweepClk

/-! ## Revocation (R188 to R191) -/

/-- The entries a test names dropped from every translation cache of the device. -/
def State.dropEntries (s : State) (f : TcEntry → Bool) : State :=
  let g := fun (c : Core) => { c with tcache := c.tcache.filter fun y => !f y }
  { s with core := g s.core, others := s.others.map fun p => (p.1, { p.2 with core := g p.2.core }) }

/-- A page dropped from every translation cache of the device (R191): that of a revocation, named by its frame in whatever address space (R188), or by its address space and number. -/
def State.dropPage (s : State) (frame : Option Nat) (asid vpn : Nat) : State :=
  s.dropEntries fun y => match frame with
    | some f => pteAddr y.leaf.toNat == f
    | none => y.asid == asid && (if y.big then y.vpn / 512 == vpn / 512 else y.vpn == vpn)

/-- A revocation entered in the list of 4,096 and posted to every context. -/
def State.post (s : State) (frame : Option Nat) (asid vpn : Nat) : State :=
  let n := (s.dev.revSeq + 1) % 2 ^ 32
  let r : Revocation := { seq := n, frame := frame, asid := asid, vpn := vpn }
  (s.onDev fun d => { d with revSeq := n, revs := (r :: d.revs).take 4096 }).mapCtx fun c => c.revoke r

/-- A result that is a handle for which f holds. -/
def Pending.isHandle (p : Pending) (f : HandleBits → Bool) : Bool :=
  match p.dest with
  | .h _ => f (BitVec.ofNat 256 p.val)
  | _ => false

/-- The handles that hold pages: those of contexts that are neither away nor gone, the results that have yet to land among them, and the copies of engine commands (R186, R189, R190). -/
def CorePair.holds (p : CorePair) (f : HandleBits → Bool) : Bool :=
  let g := fun (h : HandleBits) => hUsable h && f h
  ([p.ctx, p.partner].any fun c => (match c.st with | .free | .saved | .retained | .retired => false | _ => true) &&
    (c.regs.h.any g || (c.rings.any fun r => g r.copy) || (c.pend ++ c.late).any fun x => x.isHandle g)) ||
  p.core.pool.cmds.any fun c => g c.hsrc || g c.hdst

/-- Some handle of the device holds a page. -/
def State.held (s : State) (f : HandleBits → Bool) : Bool := s.pair.holds f || s.others.any fun p => p.2.holds f

/-! ## The migration engine (R199 to R201) -/

/-- The bits of a page. -/
def Migration.bits (m : Migration) : Nat := if m.big then 2 ^ 28 else 2 ^ 19

/-- The migration engine may use w bits at a physical address: local, and no rule refuses them (R29, R371, Table 2.2). -/
def State.migMay (s : State) (a w : Nat) : Bool := physDev a == s.dev.devId && (s.physCause .unit a w).isNone

/-- A frame popped from a free stack: the frame, if the stack has one. DESIGN CHOICE (log 106): where the entry is refused or poisoned (R29, R43) the request ends there, and the count stays. -/
def State.popFrame (s : State) (hbm : Bool) : Option (Nat × State) :=
  let g := s.dev.mig
  let n := if hbm then g.hcount else g.lcount
  let b := if hbm then g.hbase else g.lbase
  if n = 0 then none
  else
    let e := b * 2 ^ 20 + 64 * (n - 1)
    if !s.migMay e 64 || (s.poisoned (physLocal e) 64).isSome then none
    else
      let s := s.readsLines (physLocal e) 64
      some (s.physRead (physLocal e) 64 % 2 ^ 45 * 2 ^ 15, s.onDev fun d => { d with mig := if hbm then { d.mig with hcount := n - 1 } else { d.mig with lcount := n - 1 } })

/-- A frame pushed onto the free stack of HBM4 or of LPDDR-6. DESIGN CHOICE (log 106): where the entry is refused it is not written, and the count stays. -/
def State.pushFrame (s : State) (hbm : Bool) (f : Nat) : State :=
  let g := s.dev.mig
  let e := if hbm then g.hbase * 2 ^ 20 + 64 * g.hcount else g.lbase * 2 ^ 20 + 64 * g.lcount
  if !s.migMay e 64 then s
  else (s.physWrite (physLocal e) 64 (f / 2 ^ 15)).onDev fun d =>
    { d with mig := if hbm then { d.mig with hcount := (d.mig.hcount + 1) % 2 ^ 24 } else { d.mig with lcount := (d.mig.lcount + 1) % 2 ^ 24 } }

/-- The tier of a frame is HBM4 (R200). -/
def State.inHbm (s : State) (f : Nat) : Bool := regionOf s.dev.lpddr (physLocal f) == .hbm

/-- n bytes copied from byte address a to b. -/
def Memory.copyBytes (m : Memory) (a b n : Nat) : Memory :=
  let src := (m.filter fun c => a ≤ c.1 && c.1 < a + n).map fun c => (c.1 - a + b, c.2)
  src.foldl (fun m c => m.writeByte c.1 c.2) (m.filter fun c => !(b ≤ c.1 && c.1 < b + n))

/-- Bits copied by a migration through the store cache (R41, R200, R203): lines read are used, lines written are taken back from the host and held; no written mark is set (R204). -/
def Device.migrateBits (d : Device) (a b n : Nat) : Device :=
  let d := (linesOf (physLocal a) n).foldl Device.useLine d
  let dst := linesOf (physLocal b) n
  let d := dst.foldl (Device.cacheLine · false) (dst.foldl Device.backInvalidate d)
  { d with mem := d.mem.copyBytes (physLocal a / 8) (physLocal b / 8) (n / 8)
           poison := clearPoison d.poison { addr := physLocal b, width := n, val := 0 }
           reserves := d.reserves.filter fun r => r.2.1 + r.2.2 ≤ physLocal b || physLocal b + n ≤ r.2.1
           migs := dst.foldl (fun ms l => ms.map fun m => m.wrote l) d.migs }

/-- The leaf's indivisible step: MIG and, at the switch, FRAME. -/
def State.setMig (s : State) (leaf n : Nat) : State := s.stepLeaf leaf [(56, 2)] fun e => setBits e 56 2 n

/-- The demotion next in service (R199). -/
def Device.nextDemo (d : Device) : Option (MigRequest × Bool × Device) :=
  match d.demos with
  | r :: t => if d.mig.hcount < 64 * d.mig.lowat ∧ 0 < d.mig.lcount then some (r, false, { d with demos := t }) else none
  | [] => none

/-- The next request in the order of service, with its way (R199): with no HBM4 frame free, no probe or promotion can be served, and demotions go on. -/
def Device.nextMove (d : Device) : Option (MigRequest × Bool × Device) :=
  if !d.mig.en || 8 ≤ d.migs.length then none
  else if d.mig.hcount = 0 then d.nextDemo
  else match d.probes, d.promos with
    | r :: t, _ => some (r, true, { d with probes := t })
    | [], r :: t => some (r, true, { d with promos := t })
    | [], [] => d.nextDemo

/-- The page of a leaf may move: V is 1, PIN is 0, and its frame is local, for a leaf of another device counts as pinned (R185, R200). -/
def State.movable (s : State) (leaf : Nat) : Bool :=
  let e := s.dev.mem.readBits (physLocal leaf) 64
  pteV e && !ptePin e && physDev (pteAddr e) == s.dev.devId && (s.poisoned (physLocal leaf) 64).isNone

/-- A request is claimed and its page copied (R200 phases 1 and 2); a claim that fails its check leaves no trace, nor does one of a 32 MiB page with BIG = 0 (Table 9.3), and a page with a poisoned word, or a new frame that is refused, ends the migration (Table 2.2), which counts as abandoned (log 106). In retention entry none is claimed (R202). -/
def State.claim (s : State) : State :=
  match (if s.dev.power.retStep = 0 then s.dev.nextMove else none) with
  | none => s
  | some (r, up, d) =>
    let s := { s with dev := d }
    match s.popFrame up with
    | none => s
    | some (f, t) =>
      let e := s.dev.mem.readBits (physLocal r.leaf) 64
      if !s.movable r.leaf || pteMig e ≠ 0 || (r.big && !s.dev.mig.big) then s
      else
        let m : Migration := { leaf := r.leaf, asid := r.asid, vpn := r.vpn, old := pteAddr e, new := f, big := r.big, toHbm := up, phase := 1, since := 0, dirty := [] }
        if (t.poisoned (physLocal m.old) m.bits).isSome || !t.migMay f m.bits then
          (t.pushFrame up f).onDev fun d => { d with mig := { d.mig with aband := (d.mig.aband + 1) % 2 ^ 32 } }
        else (t.setMig r.leaf 1).onDev fun d => { (d.migrateBits m.old f m.bits) with migs := d.migs ++ [m] }

/-- MIGRATION_CLAIM (R200). -/
def execMigrationClaim (s : State) : Host.Outcome State Fault Refusal := .next s.claim

/-- A migration of the device replaced, found by its leaf. -/
def Device.setMigration (d : Device) (m : Migration) : Device := { d with migs := d.migs.map fun x => if x.leaf = m.leaf then m else x }

/-- A migration of the device ended. -/
def Device.endMigration (d : Device) (m : Migration) : Device := { d with migs := d.migs.filter fun x => x.leaf != m.leaf }

/-- REVOKE (R200 phase 3). -/
def State.revokeMove (s : State) (m : Migration) : State :=
  let s := s.setMig m.leaf 2
  let s := s.onDev fun d => match d.migs.find? fun x => x.leaf == m.leaf with
    | some x => d.setMigration { x with phase := 2, since := d.ref }
    | none => d
  (s.dropPage (some m.old) m.asid m.vpn).post (some m.old) m.asid m.vpn

/-- MIGRATION_REVOKE (R200): the migration numbered who, in COPY, begins its revocation. -/
def execMigrationRevoke (s : State) : Host.Outcome State Fault Refusal :=
  match s.dev.migs[s.ev.who]? with
  | some m => .next (if m.phase = 1 then s.revokeMove m else s)
  | none => .next s

/-- A DOOMED handle of an abandoned migration is VALID again (Table 9.5 row 7), unless another revocation of its page is in effect (R188). -/
def Device.hRevive (d : Device) (f : Nat) (h : HandleBits) : HandleBits :=
  if hState h = 2 ∧ hBase h = f ∧ !d.revoked h then hSetState h 1 else h

/-- A migration is abandoned (R201). -/
def State.abandon (s : State) (m : Migration) : State :=
  let s := (s.setMig m.leaf 0).onDev fun d => d.endMigration m
  let s := (s.pushFrame m.toHbm m.new).onDev fun d => { d with mig := { d.mig with aband := (d.mig.aband + 1) % 2 ^ 32 } }
  s.mapCtx fun c => c.mapHandles (s.dev.hRevive m.old)

/-- A migration passes its switch check (R200), and no dirty line it has to copy is poisoned (R43, Table 2.2). -/
def State.switchOk (s : State) (m : Migration) : Bool :=
  s.movable m.leaf && m.dirty.all fun l => (s.poisoned (512 * l) 512).isNone

/-- A migration has been in REVOKE for LIMIT µs (R201). -/
def State.overLimit (s : State) (m : Migration) : Bool := m.phase == 2 && m.since + s.dev.mig.limit * 1200 ≤ s.dev.ref

/-- The written marks of a page that moved (R200 phase 4). -/
def moveMarks (l : List Nat) (old new n : Nat) : List Nat :=
  (List.range n).foldl (fun l k => if l.contains (old + k) then setAdd (setDel l (old + k)) (new + k) else setDel l (new + k)) l

/-- The switch (R200 phase 4): the dirty lines are copied, FRAME and MIG change in one step, the old frame is free. A failed check abandons it. -/
def State.switch (s : State) (m : Migration) : State :=
  if !s.switchOk m then s.abandon m
  else
    let s := s.onDev fun d => m.dirty.foldl (fun d l => d.migrateBits (512 * l) (m.new + 512 * l - physLocal m.old) 512) d
    let s := s.stepLeaf m.leaf [(0, 45), (56, 2)] fun e => setBits (setBits e 56 2 0) 0 45 (m.new / 2 ^ 15)
    let s := s.onDev fun d =>
      let d := d.endMigration m
      { d with marks := moveMarks d.marks (physLocal m.old / 2 ^ 19) (physLocal m.new / 2 ^ 19) (m.bits / 2 ^ 19)
               mig := { d.mig with done := (d.mig.done + 1) % 2 ^ 32 } }
    s.pushFrame (s.inHbm m.old) m.old

/-- A push that has not landed goes to bits of memory between a and b: through a ring of its context, whatever has become of the copy, or one bound anew since (R219). -/
def Ctx.pushReaches (c : Ctx) (a b : Nat) (addr : Nat) : Dest → Bool
  | .ring q => (c.ring q).spaceNo == 2 && hBase (c.ring q).copy + addr < b && a < hBase (c.ring q).copy + addr + (c.ring q).size
  | .ringAt q x => (c.ring q).spaceNo == 2 && hBase (c.ring q).copy + x < b && a < hBase (c.ring q).copy + x + (c.ring q).size
  | .bits _ sp w x _ _ _ => sp == 2 && x < b && a < x + w
  | _ => false

/-- An access of one of a core's contexts to w bits at physical address a is in its queues, or comes into them as a push lands; what a context has taken with it in a save performs where its restore says. -/
def CorePair.reaches (p : CorePair) (a w : Nat) : Bool :=
  [p.ctx, p.partner].any fun c =>
    c.gq.any (fun x => (x.addr < a + w && a < x.addr + x.width) || c.pushReaches a (a + w) 0 x.dest) ||
    (!(c.st == .saved || c.st == .retained) && (c.pend ++ c.late).any fun x => c.pushReaches a (a + w) x.addr x.dest)

/-- A migration in REVOKE may switch: no handle and no engine copy holds its old frame, and no access made through one is still to perform there. -/
def State.maySwitch (s : State) (m : Migration) : Bool :=
  m.phase == 2 && (!s.held fun h => hBase h == m.old) &&
  !(s.pair.reaches m.old m.bits || s.others.any fun p => p.2.reaches m.old m.bits)

/-- MIGRATION_ABANDON (R201): the migration numbered who, in REVOKE, is abandoned, its limit over or the check of the switch it may make failed. -/
def execMigrationAbandon (s : State) : Host.Outcome State Fault Refusal :=
  match s.dev.migs[s.ev.who]? with
  | some m => .next (if m.phase = 2 ∧ (s.overLimit m ∨ (s.maySwitch m ∧ !s.switchOk m)) then s.abandon m else s)
  | none => .next s

/-- MIGRATION_SWITCH (R200): the migration numbered who switches when it may. -/
def execMigrationSwitch (s : State) : Host.Outcome State Fault Refusal :=
  match s.dev.migs[s.ev.who]? with
  | some m => .next (if s.maySwitch m then s.switch m else s)
  | none => .next s

/-- One µs of one migration. -/
def State.moveStep (s : State) (m : Migration) : State :=
  if m.phase = 1 then s.revokeMove m
  else if s.maySwitch m then s.switch m
  else if s.overLimit m then s.abandon m
  else s

/-- One µs of the migration engine and the eraser. In retention entry it starts nothing new (R202). -/
def State.migrateStep (s : State) : State :=
  let s := s.dev.migs.foldl State.moveStep s
  if s.dev.power.retStep ≠ 0 then s
  else
    let s := s.sweepClk
    s.claim

/-! ## XCINV (R202) -/

/-- A write of XCINV posts the revocation of a page; one while BUSY is ignored. -/
def State.writeXcinv (s : State) (v : Nat) : State :=
  if s.dev.mig.busy then s
  else
    let a := bits v 52 12
    let p := bits v 0 38
    let s := s.onDev fun d => { d with mig := { d.mig with xasid := a, xvpn := p, busy := true } }
    (s.dropPage none a p).post none a p

/-- XCINV (R202): val written. -/
def execXcinv (s : State) : Host.Outcome State Fault Refusal := .next (s.writeXcinv s.ev.val)

/-- BUSY clears once no handle holds the page. -/
def State.xcinvClk (s : State) : State :=
  if s.dev.mig.busy ∧ !s.held (fun h => Revocation.names { seq := 0, frame := none, asid := s.dev.mig.xasid, vpn := s.dev.mig.xvpn } h) then
    s.onDev fun d => { d with mig := { d.mig with busy := false } }
  else s

/-- XCINV_DONE (R202). -/
def execXcinvDone (s : State) : Host.Outcome State Fault Refusal := .next s.xcinvClk

/-- A write of CXROOT: the context's address space and root, and the entries of that space leave every translation cache (R191). -/
def State.writeRoot (s : State) (v : Nat) : State :=
  let a := bits v 52 12
  (s.onCtx fun c => { c with blk := { c.blk with asid := a, root := bits v 0 41 } }).dropEntries fun y => y.asid == a

/-! ## SHA-512 (R205); PRESUMED: FIPS 180-4 (log 9) -/

/-- The first eighty primes. -/
def primes80 : List Nat :=
  [2, 3, 5, 7, 11, 13, 17, 19, 23, 29, 31, 37, 41, 43, 47, 53, 59, 61, 67, 71] ++
  [73, 79, 83, 89, 97, 101, 103, 107, 109, 113, 127, 131, 137, 139, 149, 151, 157, 163, 167, 173] ++
  [179, 181, 191, 193, 197, 199, 211, 223, 227, 229, 233, 239, 241, 251, 257, 263, 269, 271, 277, 281] ++
  [283, 293, 307, 311, 313, 317, 331, 337, 347, 349, 353, 359, 367, 373, 379, 383, 389, 397, 401, 409]

/-- The largest x below 2^n with x^k ≤ m. -/
def rootOf (k m : Nat) : Nat → Nat → Nat
  | 0, x => x
  | n + 1, x => rootOf k m n (if (x + 2 ^ n) ^ k ≤ m then x + 2 ^ n else x)

/-- The round constants: the first 64 fraction bits of the cube roots of the primes. -/
def shaK : List Nat := primes80.map fun p => rootOf 3 (p * 2 ^ 192) 68 0 % 2 ^ 64

/-- The initial hash: the first 64 fraction bits of the square roots of the first eight primes. -/
def shaIv : List Nat := (primes80.take 8).map fun p => rootOf 2 (p * 2 ^ 128) 68 0 % 2 ^ 64

/-- Rotation right in 64 bits. -/
def rotr (x n : Nat) : Nat := x / 2 ^ n + x % 2 ^ n * 2 ^ (64 - n)

/-- The message schedule, the newest word first. -/
def shaSchedule : Nat → List Nat → List Nat
  | 0, w => w
  | n + 1, w =>
    let a := w.getD 1 0
    let b := w.getD 14 0
    let s1 := rotr a 19 ^^^ rotr a 61 ^^^ a / 2 ^ 6
    let s0 := rotr b 1 ^^^ rotr b 8 ^^^ b / 2 ^ 7
    shaSchedule n ((w.getD 15 0 + s0 + w.getD 6 0 + s1) % 2 ^ 64 :: w)

/-- One round on the eight working words. -/
def shaRound (v : List Nat) (kw : Nat) : List Nat :=
  let g := fun (i : Nat) => v.getD i 0
  let e := g 4
  let t1 := g 7 + (rotr e 14 ^^^ rotr e 18 ^^^ rotr e 41) + ((e &&& g 5) ^^^ ((2 ^ 64 - 1 - e) &&& g 6)) + kw
  let a := g 0
  let t2 := (rotr a 28 ^^^ rotr a 34 ^^^ rotr a 39) + ((a &&& g 1) ^^^ (a &&& g 2) ^^^ (g 1 &&& g 2))
  [(t1 + t2) % 2 ^ 64, a, g 1, g 2, (g 3 + t1) % 2 ^ 64, e, g 5, g 6]

/-- One block of 128 bytes. -/
def shaBlock (h : List Nat) (b : List Nat) : List Nat :=
  let w := (shaSchedule 64 ((List.range 16).map fun i => ((b.drop (8 * i)).take 8).foldl (fun x y => 256 * x + y) 0).reverse).reverse
  let v := (List.zipWith (fun k x => k + x) shaK w).foldl shaRound h
  List.zipWith (fun x y => (x + y) % 2 ^ 64) h v

/-- The blocks of a padded message. -/
def shaBlocks : Nat → List Nat → List Nat → List Nat
  | 0, h, _ => h
  | n + 1, h, b => shaBlocks n (shaBlock h (b.take 128)) (b.drop 128)

/-- SHA-512 of a list of bytes: 64 bytes. -/
def sha512 (m : List Nat) : List Nat :=
  let n := m.length
  let zeros := (128 - (n + 17) % 128) % 128
  let len := (List.range 16).map fun i => 8 * n / 256 ^ (15 - i) % 256
  let b := m ++ 128 :: (List.replicate zeros 0 ++ len)
  (shaBlocks (b.length / 128) shaIv b).flatMap fun x => (List.range 8).map fun i => x / 256 ^ (7 - i) % 256

/-! ## The hatch tree (R204, R205) -/

/-- The bytes of a number, the lowest first. -/
def bytesOf (n x : Nat) : List Nat := chunks 8 n x

/-- The written 64 KiB blocks of an address space in ascending order: the address of each and its frame. -/
def State.writtenBlocks (s : State) (root : Nat) : List (Nat × Nat) :=
  (s.leaves root).flatMap fun l =>
    ((List.range (if l.big then 512 else 1)).map fun k => (l.va + k * 2 ^ 19, pteAddr l.word + k * 2 ^ 19)).filter fun (p : Nat × Nat) =>
      physDev p.2 == s.dev.devId && s.dev.marks.contains (physLocal p.2 / 2 ^ 19)

/-- One level of the tree over another: pairs hashed in order, an odd last node passing up. -/
def hatchPairs : List (List Nat) → List (List Nat)
  | a :: b :: t => sha512 (a ++ b) :: hatchPairs t
  | l => l

/-- Every level of the tree from the leaves up; the levels above are at most fuel. DESIGN CHOICE (log 107): a node that passes up unchanged stands in the list of each level it is a node of. -/
def hatchLevels : Nat → List (List Nat) → List (List (List Nat))
  | 0, l => [l]
  | n + 1, l => if l.length ≤ 1 then [l] else l :: hatchLevels n (hatchPairs l)

/-- The hash of one leaf. -/
def State.hatchLeaf (s : State) (asid va frame : Nat) : List Nat :=
  sha512 (bytesOf 2 asid ++ bytesOf 8 va ++ (List.range 65536).map fun k => (s.dev.mem.readByte (physLocal frame / 8 + k)).toNat)

/-- The hatch engine writes w bits at physical address a (R205). DESIGN CHOICE (log 91): what is refused there, or lies on another device, is not written. -/
def State.hatchPut (s : State) (a w v : Nat) : State :=
  if physDev a ≠ s.dev.devId ∨ (s.physCause .unit a w).isSome then s else s.physWrite (physLocal a) w v

/-- A marked block that cannot be hashed, for a word of it is poisoned (R43). -/
def State.hatchStops (s : State) (blocks : List (Nat × Nat)) : Bool := blocks.any fun p => (s.poisoned (physLocal p.2) (2 ^ 19)).isSome

/-- The interval of an address space is hashed and closed (R205). DESIGN CHOICE (log 107): at a poisoned word the engine ends there as a command of Table 2.2 would, with nothing written and the marks as they are; the interval counts. The first interval is 0. -/
def State.hatchClose (s : State) (root : Nat) : State :=
  let h := s.dev.hatch
  let blocks := s.writtenBlocks root
  if s.hatchStops blocks then s.onDev fun d => { d with hatch := { d.hatch with interval := d.hatch.interval + 1 } }
  else
  let s := blocks.foldl (fun (t : State) p => t.readsLines (physLocal p.2) (2 ^ 19)) s
  let levels := hatchLevels 64 (blocks.map fun (p : Nat × Nat) => s.hatchLeaf h.asid p.1 p.2)
  let top := ((levels.getLastD []).head?).getD (sha512 [])
  let nodes := (levels.flatMap fun l => l).map fun b => unchunks 8 b
  let total := 1024 + 64 * blocks.length + 512 * nodes.length
  let fits := total ≤ h.len * 512
  let head := h.interval % 2 ^ 64 + blocks.length % 2 ^ 64 * 2 ^ 64 + unchunks 8 top * 2 ^ 128 + (if fits then 0 else 2 ^ 640)
  let a := h.buf * 2 ^ 9
  let s := s.hatchPut a 1024 head
  let s := if fits then
      (s.hatchPut (a + 1024) (64 * blocks.length) (unchunks 64 (blocks.map Prod.fst))).hatchPut (a + 1024 + 64 * blocks.length)
        (512 * nodes.length) (unchunks 512 nodes)
    else s
  s.onDev fun d => { d with marks := [], hatch := { d.hatch with interval := d.hatch.interval + 1 } }

/-- The interval that is due is hashed and closed (R205). -/
def State.hatchClk (s : State) : State :=
  match s.dev.hatch.due with
  | some root => (s.hatchClose root).onDev fun d => { d with hatch := { d.hatch with due := none } }
  | none => s

/-- A kernel of an address space retires (R205): with every N-th retirement since HATCHCTL was written the interval is due, one that was due before being closed first. -/
def State.hatchRetire (s : State) (asid root : Nat) : State :=
  let h := s.dev.hatch
  if h.n = 0 ∨ h.asid ≠ asid then s
  else if (h.count + 1) % h.n = 0 then s.hatchClk.onDev fun d => { d with hatch := { d.hatch with count := h.count + 1, due := some root } }
  else s.onDev fun d => { d with hatch := { d.hatch with count := h.count + 1 } }

/-- HATCH_INTERVAL (R205): the interval that is due is closed. -/
def execHatchInterval (s : State) : Host.Outcome State Fault Refusal := .next s.hatchClk

end Sys2Proof.Machine
end

