-- ==== Sys2Proof/Machine/Kernel.lean ====
section
/-! DEFINITION. Kernel.lean: kernels and their groups, the group instructions, retirement and abort, and the commands KILL and RETIRE (R356 to R364). -/

namespace Sys2Proof.Machine

/-! ## Kernels -/

/-- A kernel by its number. -/
def State.kernel? (s : State) (k : Nat) : Option Kernel := assoc? s.dev.kernels k

/-- A kernel replaced. -/
def State.setKernel (s : State) (k : Nat) (x : Kernel) : State := s.onDev fun d => { d with kernels := assocSet d.kernels k x }

/-- The kernel of the focused context. -/
def State.myKernel (s : State) : Option (Nat × Kernel) :=
  match s.ctx.kernel with
  | some k => (s.kernel? k).map fun x => (k, x)
  | none => none

/-- G: the walker's groups (R352). -/
def Kernel.total (k : Kernel) : Nat := k.trip.foldl (· * ·) 1

/-- The next group the walker deals to logical core l (R359); none when its slices are used up. -/
def Kernel.walkerNext (k : Kernel) (l : Nat) : Option Nat :=
  let j := k.dealt.getD l 0
  let g := j / k.chunk * (k.p * k.chunk) + l * k.chunk + j % k.chunk
  if g < k.total then some g else none

/-- The trip count of the dimension at nest position j. -/
def Kernel.tripAt (k : Kernel) (j : Nat) : Nat := k.trip.getD (k.perm.getD j 0) 1

/-- The coordinates of group g by dimension (R359). -/
def Kernel.coords (k : Kernel) (g : Nat) : List Nat :=
  (List.range k.trip.length).foldl (fun (c : List Nat) j =>
    let inner := ((List.range k.trip.length).filter (j < ·)).foldl (fun a i => a * k.tripAt i) 1
    c.set (k.perm.getD j 0) (g / inner % k.tripAt j)) (List.replicate k.trip.length 0)

/-- A spawned group of logical core l may be dispatched: what it depends on has retired (R361, R364). -/
def Spawn.ready (x : Spawn) (oldest : Nat) : Bool := match x.dep with | some g => g < oldest | none => true

/-- The next group of logical core l (R360, R361): the lowest that may be dispatched, with its payload when it was spawned. -/
def Kernel.nextGroup (k : Kernel) (l : Nat) : Option (Nat × Option Word) :=
  let w := (k.walkerNext l).toList.map fun g => (g, (none : Option Word))
  let t := (k.table.filter fun x => x.lcore == l && x.ready k.oldest).map fun x => (x.index, some x.payload)
  let ok := (w ++ t).filter fun (x : Nat × Option Word) => x.1 < k.oldest + 256
  ok.foldl (fun (b : Option (Nat × Option Word)) x => match b with | some y => if x.1 < y.1 then some x else b | none => some x) none

/-- A further group of logical core l remains (R362). -/
def Kernel.remains (k : Kernel) (l : Nat) : Bool := (k.walkerNext l).isSome || k.table.any fun x => x.lcore == l

/-- A further group of the focused context's logical core remains; a context of no kernel has none. -/
def State.groupRemains (s : State) : Bool := match s.myKernel with | some x => x.2.remains s.ctx.lcore | none => false

/-- Group g has completed, and every group that can retires in index order (R360). -/
def Kernel.retireUpTo (k : Kernel) : Nat → Kernel
  | 0 => k
  | n + 1 => if k.done.contains k.oldest then { k with oldest := k.oldest + 1, done := setDel k.done k.oldest }.retireUpTo n else k

/-- A group completes. -/
def Kernel.complete (k : Kernel) (g : Nat) : Kernel :=
  let k := { k with done := setAdd k.done g }
  k.retireUpTo k.done.length

/-! ## Retirement and abort (R357, R358) -/

/-- A launch queue of the device with a change. -/
def Device.onQueue (d : Device) (q : Nat) (f : LaunchQueue → LaunchQueue) : Device :=
  { d with queues := d.queues.mapIdx fun i x => if i = q then f x else x }

/-- The packet of a kernel has completed: it leaves its queue. -/
def LaunchQueue.finish (q : LaunchQueue) (k : Nat) : LaunchQueue := { q with pkts := q.pkts.filter fun p => p.kernel != some k }

/-- An entry QSTOP for queue q (R239, Table 18.11). -/
def Device.logStop (d : Device) (q index cause : Nat) : Device :=
  d.logError 0x07 cause q index ((d.queues.map LaunchQueue.stat).getD q 0)

/-- A queue stops on the packet of an index (R239). -/
def Device.stopQueue (d : Device) (q index cause : Nat) : Device :=
  (d.onQueue q fun x => { x with err := true, en := false }).logStop q index cause

/-- The signal word of packet index of queue q written with release by the part at a physical address (R238): the cause that refuses it, if any, a poisoned word among them (R239). Another device gets it as a posted write, whose answer comes later, and which is refused where none comes in FTMO.US µs (R374). DESIGN CHOICE (log 108): the units have no access to core windows (R165). -/
def State.writeWord (s : State) (q index a v : Nat) : Option Cause × State :=
  if a < 2 ^ 60 ∧ physDev a ≠ s.dev.devId then
    (none, s.onDev fun d => d.ask 0 q index { who := 1, sub := 0, addr := a, val := v, len := 64, data := [] })
  else match s.physCause .unit a 64, s.poisoned (physLocal a) 64 with
    | some c, _ => (some c, s)
    | none, some _ => (some .poison, s)
    | none, none => (none, s.physWrite (physLocal a) 64 v)

/-- The physical context that holds logical core l of kernel k, when it holds its slot. -/
def State.ctxOf (s : State) (k : Nat) (x : Kernel) (l : Nat) : Option Nat :=
  match x.place[l]? with
  | some c => let t := s.ctxAt c; if t.kernel = some k ∧ t.lcore = l ∧ t.st ≠ .free then some c else none
  | none => none

/-- The physical contexts of a kernel. -/
def State.ctxsOf (s : State) (k : Nat) (x : Kernel) : List Nat := (List.range x.p).filterMap fun l => s.ctxOf k x l

/-- The detached records of a kernel: their areas. -/
def State.detachedOf (s : State) (k : Nat) : List (Nat × SavedRecord) :=
  s.dev.records.filter fun r => r.2.ctx.kernel == some k && (s.focusCore r.2.core).core.detached.contains r.1

/-- Every context of a kernel is RETIRED. -/
def State.allRetired (s : State) (k : Nat) (x : Kernel) : Bool :=
  (s.detachedOf k).isEmpty && (s.ctxsOf k x).all fun c => (s.ctxAt c).st == .retired

/-- FREE to every context of a kernel. -/
def State.freeAll (s : State) (k : Nat) (x : Kernel) : State := (s.ctxsOf k x).foldl (fun s c => s.atCtx c State.freeCmd) s

/-- The end of a kernel whose last group has retired (row 5): release, signal, FREE; it counts for the hatch tree. -/
def State.kernelRetires (s : State) (k : Nat) (x : Kernel) : State :=
  let w := if x.sig = 0 then (none, s) else s.writeWord x.queue x.index x.sig x.sigVal
  let s := match w.1 with
    | some c => w.2.onDev fun d => d.stopQueue x.queue x.index c.code
    | none => w.2
  let s := (s.onDev fun d => d.onQueue x.queue fun q => q.finish k).setKernel k { x with st := .retired }
  (s.freeAll k x).hatchRetire (bits x.root 52 12) (bits x.root 0 41)

/-- The end of an aborted kernel (row 6): no signal, LQSTAT := ABORTED, FREE. -/
def State.abortEnds (s : State) (k : Nat) (x : Kernel) : State :=
  let s := (s.onDev fun d => d.onQueue x.queue fun q => { (q.finish k) with stat := 7 }).setKernel k { x with st := .retired }
  s.freeAll k x

/-- A kernel goes on to RETIRED when it can (rows 5 and 6). -/
def State.kernelClk (s : State) (k : Nat) : State :=
  match s.kernel? k with
  | none => s
  | some x =>
    if !s.allRetired k x then s
    else match x.st with
      | .running => if x.oldest = x.total + x.spawns then s.kernelRetires k x else s
      | .aborting => s.abortEnds k x
      | _ => s

/-- A detached context of an aborted kernel counts as RETIRED (R122): its record, its entry in the list and its claims are gone, its weight and the dot set returned. -/
def State.dropDetached (s : State) (r : Nat × SavedRecord) : State :=
  let s := s.returnWeight r.2.core r.2.ctx.power.held
  (s.atCore r.2.core fun t => t.onCore fun c =>
    { c with detached := c.detached.filter fun a => a != r.1, dot := if c.dot.owner = some (2 + r.1) then .none else c.dot }).onDev fun d =>
      { (d.unpin (physLocal r.1) (2 ^ 21)) with records := assocDel d.records r.1 }

/-- KILL to a context that is neither RETIRED nor FREE. -/
def State.killIf (s : State) (c : Nat) : State :=
  s.atCtx c fun t => match t.ctx.st with | .free | .retired => t | _ => t.killCtx

/-- A kernel aborts (row 1, R358): no further group, KILL to its contexts, an ABORT record. -/
def State.abort (s : State) (k ctx cause : Nat) : State :=
  match s.kernel? k with
  | none => s
  | some x =>
    match x.st with
    | .loading | .loaded | .running =>
      let s := s.setKernel k { x with st := .aborting, why := (ctx, cause) }
      let s := (s.ctxsOf k x).foldl State.killIf s
      let s := (s.detachedOf k).foldl State.dropDetached s
      (s.onDev fun d => d.logError 0x06 cause x.queue ctx x.tag).kernelClk k
    | _ => s

/-- The kernel of the focused context aborts when it has been killed or retired. -/
def State.abortMine (s : State) (cause : Nat) : State :=
  match s.ctx.kernel with
  | some k => s.abort k s.phys cause
  | none => s

/-- KILL (R101 row 1): context who is retired, and its kernel aborts. -/
def execKill (s : State) : Host.Outcome State Fault Refusal :=
  s.onCommand fun t =>
    match t.ctx.st with
    | .free | .retired => t.ignored
    | _ => t.killCtx.abortMine 0

/-- RETIRE (R101 row 22): a faulted context is retired, its record discarded, and its kernel aborts. -/
def execRetire (s : State) : Host.Outcome State Fault Refusal :=
  s.onCommand fun t =>
    if t.ctx.st = .faulted then (t.retireCtx).abortMine t.ctx.blk.fcause else t.ignored

/-! ## The common release (R356) -/

/-- The first heartbeat tick at least 64 reference periods later. -/
def releaseTick (ref : Nat) : Nat := (ref + 64 + 1023) / 1024 * 1024

/-- Every context of kernel k goes from LOADED to READY, and issues after this reference period (R356; row 19; Table 16.6 row 4); an interval of the hatch tree that is due is closed before (R205). -/
def State.release (s : State) (k : Nat) (x : Kernel) : State :=
  let s := s.hatchClk
  let s := (s.ctxsOf k x).foldl (fun s c => s.atCtx c fun t => t.onCtx fun y => if y.st = .loaded then { y with st := .ready, notBefore := t.dev.ref + 1 } else y) s
  s.setKernel k { x with st := .running }

/-- KERNEL_RELEASE (R356): the kernel numbered who, LOADED, is released where REF has come to its tick, but not in retention entry (R401). -/
def execKernelRelease (s : State) : Host.Outcome State Fault Refusal :=
  match s.kernel? s.ev.who with
  | some x => .next (if x.st = .loaded ∧ s.dev.power.retStep = 0 ∧ x.tick.any (· ≤ s.dev.ref) then s.release s.ev.who x else s)
  | none => .next s

/-- The kernels whose tick has come are released; none in retention entry (R401). -/
def State.releasesClk (s : State) : State :=
  if s.dev.power.retStep ≠ 0 then s
  else s.dev.kernels.foldl (fun (s : State) (x : Nat × Kernel) =>
    if x.2.st = .loaded ∧ x.2.tick.any (· ≤ s.dev.ref) then s.release x.1 x.2 else s) s

/-! ## Groups (R360 to R362) -/

/-- The presets of a dispatch (R361). -/
def Ctx.dispatch (c : Ctx) (g : Nat) (coords : List Nat) (arg : Nat) (payload : Word) (spawned : Bool) : Ctx :=
  { c with
    pc := word c.claims.entry
    regs := { c.regs with s := ((c.regs.s.set 1 (word g)).set 2 (word arg)).set 3 payload }
    group := { active := true, index := g, coords := coords, spawned := spawned, exited := false }
    gwait := false }

/-- The next group of the focused context's logical core is dispatched to it, when it waits for one and the group may go (R361). -/
def State.dispatchGroup (s : State) : State :=
  match s.myKernel with
  | none => s
  | some (k, x) =>
    if s.ctx.st ≠ .waiting ∨ s.ctx.wait ≠ .group ∨ s.ctx.group.active ∨ x.st ≠ .running then s
    else match x.nextGroup s.ctx.lcore with
      | none => s
      | some (g, none) =>
        (s.setKernel k { x with dealt := x.dealt.set s.ctx.lcore (x.dealt.getD s.ctx.lcore 0 + 1) }).onCtx fun c =>
          { (c.clearWait.dispatch g (x.coords g) x.arg 0 false) with st := .ready }
      | some (g, some v) =>
        (s.setKernel k { x with table := x.table.filter fun y => y.index != g }).onCtx fun c =>
          { (c.clearWait.dispatch g [] x.arg v true) with st := .ready }

/-- GROUP_DISPATCH (R361): context who gets its next group. -/
def execGroupDispatch (s : State) : Host.Outcome State Fault Refusal := s.onCommand State.dispatchGroup

/-- The group that the focused context has exited is complete (R362): its accesses have performed at .dev, which for one of another device is its acceptance by a port (Table 12.1), its commands have completed, its function results have landed. -/
def State.groupOver (s : State) : Bool :=
  s.ctx.group.active && s.ctx.group.exited && s.olderDone s.bundleNo 2 && (s.core.commandsOf s.phys).isEmpty &&
  s.ctx.withdrawn.isEmpty && (s.core.fnQueue.all fun e => e.slot != s.slot) && s.ctx.pend.all fun p => p.inter < 2 || p.tag == 0

/-- The group of the focused context completes, as a release at .dev. -/
def State.completeGroup (s : State) : State :=
  let g := s.ctx.group.index
  let s := match s.myKernel with | some (k, x) => s.setKernel k (x.complete g) | none => s
  s.onCtx fun c => { c with group := { c.group with active := false, exited := false } }

/-- A context in WAITING whose group is complete and that gets no further one is RETIRED (row 11). -/
def State.retireIfDone (s : State) : State :=
  if s.ctx.st = .waiting ∧ s.ctx.wait = .group ∧ !s.ctx.group.active ∧ !s.groupRemains then
    let k := s.ctx.kernel
    let s := s.retireCtx
    match k with | some n => s.kernelClk n | none => s
  else s

/-- One clk of the group of the focused context: completion, retirement, the next dispatch. -/
def State.groupClk (s : State) : State :=
  let s := if s.groupOver then s.completeGroup else s
  (s.retireIfDone).dispatchGroup

/-- GROUP_COMPLETION (R362): the group that context who has exited completes when its conditions hold. -/
def execGroupCompletion (s : State) : Host.Outcome State Fault Refusal :=
  s.onCommand fun t => (if t.groupOver then t.completeGroup else t).retireIfDone

/-! ## The group instructions (R362 to R364) -/

/-- exit (R362): in a handler it is refused while a further group remains. -/
def execExit (s : State) : Host.Outcome State Fault Refusal :=
  runSlot (do
    let s ← get
    check (!(s.ctx.inh && s.groupRemains)) .illegalUse 1
    stage .exit) s

/-- exit commits (R143, R362, R397): the loop stack empties, the context waits for its group, and one whose last group ends performs a pwrrel. -/
def State.commitExit (s : State) : State :=
  let s := if s.groupRemains then s else s.commitPower 1
  s.onCtx fun c => { c with
    st := .waiting, wait := .group, loops := { c.loops with levels := [] }, loopBuf := [], safeHold := false
    group := { c.group with active := true, exited := true } }

/-- gidx (R363). -/
def execGidx (d : Dst) (dim : Fin 8) (s : State) : Host.Outcome State Fault Refusal :=
  runSlot (do
    readyS d
    let s ← get
    putS d 1 (word (s.ctx.group.coords.getD dim.val 0))) s

/-- The first number a spawned group of the focused context's kernel would get. -/
def State.spawnIndex (s : State) : Nat := match s.myKernel with | some x => x.2.total + x.2.spawns | none => 0

/-- gspawn (R364). -/
def execGspawn (a : Fin 32) (s : State) : Host.Outcome State Fault Refusal :=
  runSlot (do
    let w ← readReg a.val
    let x ← readReg (a.val + 1)
    let s ← get
    check (bits w.toNat 41 23 == 0) .illegalUse w
    check (bitAt w.toNat 40 || bits w.toNat 0 40 ≤ s.ctx.group.index) .illegalUse w
    check (s.spawnIndex < 2 ^ 40 - 1) .illegalUse (word s.spawnIndex)
    hold (match s.myKernel with | some y => y.2.table.length < 4096 | none => true)
    stage (.spawn w x)) s

/-- gspawn commits: the group enters the kernel's table. -/
def State.commitSpawn (s : State) (w x : Word) : State :=
  match s.myKernel with
  | none => s
  | some (k, y) =>
    s.setKernel k { y with
      spawns := y.spawns + 1
      table := y.table ++ [{ index := y.total + y.spawns, lcore := s.ctx.lcore, payload := x,
                             dep := if bitAt w.toNat 40 then none else some (bits w.toNat 0 40) }] }

end Sys2Proof.Machine
end

