-- ==== Sys2Proof/Machine/Gnoco.lean ====
section
/-! DEFINITION. Gnoco.lean: the rewriter that makes a Q3 image fit the latencies of Q4, by hoisting local loads and stretching with NOP bundles (R84, R87 to R90, Table 4.8). -/

namespace Sys2Proof.Machine

/-! ## What a slot reads and writes -/

/-- The key of a six-bit operand field that names an s register: 0 to 31 the registers, 64 to 79 the rings. -/
def keyS (x : Nat) : Nat := if x < 32 then x else 64 + x % 16

/-- The key of a six-bit operand field that names a v register. -/
def keyV (x : Nat) : Nat := if x < 32 then 32 + x else 64 + x % 16

/-- The key of a mask register. -/
def keyM (m : Nat) : Nat := 96 + m

/-- The key of a predicate. -/
def keyP (p : Nat) : Nat := 128 + p

/-- The key of a handle register. -/
def keyH (h : Nat) : Nat := 160 + h

/-- What a slot reads, what it writes, and the exposed latencies of its results in Q3 and Q4; 0 where the result is interlocked. -/
structure SlotUse where
  reads  : List Nat
  writes : List Nat
  q3     : Nat
  q4     : Nat
deriving DecidableEq, Repr

/-- A use of equal latency in both profiles. -/
def use (l : Nat) (r w : List Nat) : SlotUse := { reads := r, writes := w, q3 := l, q4 := l }

/-- The uses of the scalar and control majors (Table 4.4). -/
def scalarUse (w : Nat) : SlotUse :=
  let d := keyS (fld w 12 6)
  let a := keyS (fld w 6 6)
  let b := keyS (fld w 0 6)
  let mi := fld w 18 7
  match fld w 25 6 with
  | 0x00 => if mi == 4 then use 0 [] [d] else if mi == 5 then use 0 [d] [] else if mi == 8 then use 1 [] [d] else if mi == 10 then use 0 [fld w 6 5, fld w 6 5 + 1] [] else use 0 [] []
  | 0x01 | 0x02 | 0x03 => use 0 [keyP (fld w 0 4)] []
  | 0x05 => if bit w 23 then use 0 [] [] else use 0 [b] []
  | 0x08 =>
    if mi < 0x10 then use 1 [a, b] [d] else if mi < 0x20 then use 1 [a] [d]
    else if mi == 0x24 then use 1 [keyM (fld w 6 3)] [d] else if mi == 0x25 then use 1 [a] [keyM (fld w 12 3)]
    else if mi == 0x22 then use 1 ((List.range 16).map keyP) [d] else if mi == 0x23 then use 1 [a, b] ((List.range 16).map keyP)
    else if mi % 2 == 1 then use 1 [a] [] else use 1 [] [d]
  | 0x09 => use (if mi < 3 then 3 else 0) [a, b] [d]
  | 0x0A => use 1 [keyS (fld w 10 6)] [keyS (fld w 16 6)]
  | 0x0B => use 1 (if fld w 22 3 == 0 then [] else [keyS (fld w 16 6)]) [keyS (fld w 16 6)]
  | 0x0C => use 1 [keyS (fld w 12 6)] [keyS (fld w 18 6)]
  | 0x0D => use 1 [keyS (fld w 12 6), keyS (fld w 18 6)] [keyS (fld w 18 6)]
  | 0x0E => use 1 [] [keyS (fld w 18 6)]
  | 0x0F => use 1 [d, a] [keyP (2 * fld w 18 3), keyP (2 * fld w 18 3 + 1)]
  | 0x10 => use 1 [d] [keyP (2 * fld w 18 3), keyP (2 * fld w 18 3 + 1)]
  | 0x11 => use 1 [keyP (fld w 15 4), keyP (fld w 11 4)] [keyP (2 * fld w 19 3), keyP (2 * fld w 19 3 + 1)]
  | 0x12 => use 1 [keyS (fld w 10 6), keyS (fld w 4 6), keyP (fld w 0 4)] [keyS (fld w 16 6)]
  | 0x13 | 0x14 => use 1 [a, b] [d]
  | 0x15 => if fld w 23 2 == 0 then use 1 [a] [d] else use 1 [a, b] [d]
  | _ => use 0 [] []

/-- The uses of the memory majors (Table 4.5). -/
def memoryUse (w : Nat) : SlotUse :=
  let d := fld w 12 6
  let a := keyS (fld w 6 6)
  let b := keyS (fld w 0 6)
  let g := keyP (fld w 0 4)
  match fld w 25 6 with
  | 0x18 =>
    if bit w 24 then use 0 [keyS (fld w 10 6), keyS (fld w 4 6), g] []
    else { reads := [keyS (fld w 4 6)], writes := [keyS (fld w 10 6)], q3 := 4, q4 := 6 }
  | 0x19 =>
    if bit w 24 then use 0 [fld w 13 5, fld w 4 5, keyH (fld w 9 4), g] [] else use 0 [fld w 2 5, keyH (fld w 7 4)] [keyS (fld w 11 6)]
  | 0x1A =>
    let k := fld w 22 3
    if k == 4 then use 0 [keyH (fld w 6 4), b] [keyV d]
    else { reads := if k == 1 then [a, b] else [a], writes := [keyV d], q3 := 4, q4 := 6 }
  | 0x1B =>
    let k := fld w 19 3
    use 0 ([keyM (fld w 22 3), 32 + fld w 14 5, g] ++ (if k == 4 then [keyH (fld w 9 4)] else [fld w 9 5]) ++
      (if k == 1 || k == 4 || k == 6 then [fld w 4 5] else [])) []
  | 0x1C => use 0 ([fld w 9 5, fld w 4 5, g] ++ (if fld w 22 3 == 7 then [fld w 9 5 + 1] else [])) [fld w 9 5]
  | 0x1D => use 0 ([fld w 5 5, fld w 5 5 + 1, keyH (fld w 10 4), g] ++ (if fld w 22 3 == 7 then [fld w 5 5 + 2] else [])) [fld w 5 5]
  | 0x1E =>
    match fld w 18 7 with
    | 3 => use 0 [a] []
    | 4 | 5 => use 0 [keyH (d % 16), a, b] []
    | 6 => use 16 [a] [keyH (d % 16), keyP (2 * fld w 0 3), keyP (2 * fld w 0 3 + 1)]
    | 7 => use 0 [a, b] []
    | 8 => use 0 [keyH (d % 16)] []
    | 9 => use 0 [keyH (fld w 6 4)] [keyS d]
    | 10 => use 1 [keyH (fld w 6 4)] [keyH (d % 16)]
    | _ => use 0 [] []
  | 0x1F => if fld w 18 7 == 3 then use 1 [a] [keyP (2 * fld w 12 3), keyP (2 * fld w 12 3 + 1)] else use 0 [a, b] []
  | _ => use 0 [] []

/-- The uses of the vector majors (Table 4.7). -/
def vectorUse (w : Nat) : SlotUse :=
  let d := fld w 12 6
  let va := keyV (fld w 6 6)
  let vb := keyV (fld w 0 6)
  let fp := fun (l : Nat) =>
    let o := fld w 21 4
    use l ((if o == 8 || o == 9 then [va] else [va, vb]) ++ (if 3 ≤ o && o ≤ 5 then [keyV d] else [])) [if 10 ≤ o then keyM (d % 8) else keyV d]
  match fld w 25 6 with
  | 0x22 => fp 5
  | 0x20 | 0x21 | 0x23 | 0x24 => fp 4
  | 0x25 => use 2 (if fld w 18 6 == 17 then [va] else [va, vb]) [if 18 ≤ fld w 18 6 then keyM (d % 8) else keyV d]
  | 0x26 | 0x27 => use 3 [vb] [va]
  | 0x28 => use 2 [keyM (fld w 22 3), va, vb] [keyV d]
  | 0x29 =>
    match fld w 23 2 with
    | 0 => use 3 [va, vb] [keyV d]
    | 1 => use 3 [keyS (fld w 6 6)] [keyV d]
    | 2 => use 3 [keyS (fld w 6 6), keyS (fld w 0 6), keyV d] [keyV d]
    | _ => use 3 [va, keyS (fld w 0 6)] [keyS d]
  | 0x2A =>
    if fld w 18 7 == 5 then use 1 [keyM (fld w 6 3)] [keyS d] else use 1 [keyM (fld w 6 3), keyM (fld w 0 3)] [keyM (d % 8)]
  | 0x2B =>
    match fld w 22 3 with
    | 0 => use 0 [vb] []
    | 1 => use 0 [fld w 6 5, vb] []
    | 2 => use 8 [] [va]
    | 3 => use 0 [keyM (fld w 0 3)] []
    | 4 => use 0 [fld w 0 5] []
    | _ => use 8 [] [keyS (fld w 6 6)]
  | 0x30 | 0x32 => use 12 [vb] [va]
  | 0x31 => use 12 [va, vb] [keyV d]
  | _ => use 0 [] []

/-- The uses of the matrix and engine majors (Table 4.7). -/
def engineUse (w : Nat) : SlotUse :=
  let d := fld w 12 5
  let a := fld w 6 5
  let b := fld w 0 5
  match fld w 25 6 with
  | 0x34 =>
    if fld w 22 3 != 0 then use 0 [] []
    else use 0 ((if fld w 6 6 < 31 then [keyV (fld w 6 6 + 1)] else []) ++ [keyV (fld w 6 6), keyV (fld w 0 6)]) []
  | 0x35 => if fld w 18 7 == 4 then use 0 [a] [d] else use 0 [a, b] []
  | 0x36 => use 0 (if fld w 18 7 == 0 then [a, a + 1, b] else [a, b]) []
  | 0x38 => if 5 ≤ fld w 18 7 then use 0 [] [d] else use 0 [a, b] []
  | 0x39 | 0x3A => use 0 [d, a, b, b + 1] []
  | _ => use 0 [] []

/-- What a slot reads and writes; s0 is neither. -/
def slotUse (w : Nat) : SlotUse :=
  let m := fld w 25 6
  let u := if m < 0x18 then scalarUse w else if m < 0x20 then memoryUse w else if m < 0x34 then vectorUse w else engineUse w
  { u with reads := u.reads.filter (· ≠ 0), writes := u.writes.filter (· ≠ 0) }

/-- A local load: the operations whose latency the profiles differ in (Table 4.8). -/
def isLocalLoad (w : Nat) : Bool := (fld w 25 6 == 0x18 && !bit w 24) || (fld w 25 6 == 0x1A && fld w 22 3 < 4)

/-- The typed space of a local load or store: 0 the activation scratch, 1 weight staging. -/
def loadSpace (w : Nat) : Nat := if fld w 25 6 == 0x18 then fld w 22 1 else if fld w 22 3 == 3 then 1 else 0

/-- A slot that a load of a typed space may not be hoisted over (R89 step 2): a store to the space, an atomic, a fence, a mark or an engine command. -/
def blocksHoist (sp w : Nat) : Bool :=
  match fld w 25 6 with
  | 0x18 => bit w 24 && fld w 22 1 == sp
  | 0x1B => fld w 19 3 != 4 && (if fld w 19 3 == 3 then 1 else 0) == sp
  | 0x1C | 0x1D | 0x36 | 0x39 | 0x3A => true
  | 0x1E => fld w 18 7 < 3
  | _ => false

/-- A slot that takes an L instance (Table 4.1). -/
def usesL (w : Nat) : Bool := 0x18 ≤ fld w 25 6 && fld w 25 6 < 0x20

/-! ## The program as Gnoco holds it -/

/-- A slot: its word without the stop bit, and the bundle of the image that it stood in. -/
structure GSlot where
  word : Nat
  home : Nat
deriving DecidableEq, Repr

/-- A bundle: its number in the image, none for an inserted one, and its slots. -/
structure GBundle where
  orig  : Option Nat
  slots : List GSlot
deriving DecidableEq, Repr

/-- The bundles of a section, none where its words are no whole bundles of 4 to 8 slots (R72). -/
def gParse : List Nat → List Nat → List (List Nat) → Option (List (List Nat))
  | [], [], acc => some acc.reverse
  | [], _ :: _, _ => none
  | w :: ws, cur, acc =>
    let cur := cur ++ [w % 2 ^ 31]
    if w / 2 ^ 31 = 1 then (if 4 ≤ cur.length ∧ cur.length ≤ 8 then gParse ws [] (cur :: acc) else none) else gParse ws cur acc

/-- The first slot of each bundle. -/
def gStarts (l : List (List Nat)) : List Nat := (l.foldl (fun (r : List Nat × Nat) b => (r.1 ++ [r.2], r.2 + b.length)) ([], 0)).1

/-- A signed 18-bit displacement. -/
def sext18 (x : Nat) : Int := if x < 2 ^ 17 then x else (x : Int) - 2 ^ 18

/-- The displacement a slot holds, if it holds one: those of br, call and pbr. -/
def slotDisp (w : Nat) : Option Int :=
  match fld w 25 6 with
  | 0x01 | 0x02 => some (sext18 (fld w 4 18))
  | 0x04 => some (sext18 (fld w 0 18))
  | _ => none

/-- The section's marks: for each bundle of the image, the bundle its branch targets or the last bundle of the loop it enters. -/
def gMarks (l : List (List Nat)) : Option (List (Option Nat)) :=
  let starts := gStarts l
  l.zipIdx.mapM fun (r : List Nat × Nat) =>
    match r.1.find? fun w => (slotDisp w).isSome || fld w 25 6 == 5 with
    | none => some none
    | some w =>
      if fld w 25 6 = 5 then (if r.2 + fld w 17 6 + 1 < l.length then some (some (r.2 + fld w 17 6 + 1)) else none)
      else match slotDisp w with
        | some x =>
          let t := (starts.getD r.2 0 : Int) + x
          if t < 0 then none else (starts.findIdx? fun y => y == t.toNat).map some
        | none => none

/-- The position of a bundle of the image. -/
def gPos (p : List GBundle) (o : Nat) : Nat := p.findIdx fun b => b.orig == some o

/-- The position a branch to a bundle of the image goes to: that of the NOP bundles inserted before it. -/
def gLand (p : List GBundle) (o : Nat) : Nat :=
  let i := gPos p o
  i - ((p.take i).reverse.takeWhile fun b => b.orig.isNone).length

/-- The control slot of a bundle, 0 for none. -/
def gControl (b : GBundle) : Nat := ((b.slots.map GSlot.word).find? fun w => w != 0 && fld w 25 6 < 6).getD 0

/-- The loops of the program: the positions of the LOOP and of its last bundle. -/
def gLoops (p : List GBundle) (marks : List (Option Nat)) : List (Nat × Nat) :=
  p.zipIdx.filterMap fun (r : GBundle × Nat) =>
    if fld (gControl r.1) 25 6 = 5 then (match r.1.orig.bind fun o => marks.getD o none with | some e => some (r.2, gPos p e) | none => none) else none

/-- The positions that a static path may take after a position. -/
def gNext (p : List GBundle) (marks : List (Option Nat)) (i : Nat) : List Nat :=
  match p[i]? with
  | none => []
  | some b =>
    let w := gControl b
    let loops := gLoops p marks
    let target := match b.orig.bind fun o => marks.getD o none with | some o => [gLand p o] | none => []
    let fall := [i + 1]
    let guarded := if fld w 0 4 == 0 then [] else fall
    let calls := p.zipIdx.filterMap fun (r : GBundle × Nat) => if fld (gControl r.1) 25 6 == 2 then some (r.2 + 1) else none
    let breg := if fld w 22 3 == 0 then fld w 10 2 else 3
    let pbrs := p.filterMap fun c => if fld (gControl c) 25 6 == 4 && fld (gControl c) 20 2 == breg then
      (c.orig.bind fun o => marks.getD o none).map (gLand p) else none
    let ends := loops.flatMap fun (l : Nat × Nat) => (l.2 + 1) :: (loops.filter fun (m : Nat × Nat) => m.2 == l.2).map fun m => m.1 + 1
    let out := match fld w 25 6 with
      | 0 => if fld w 18 7 == 2 || fld w 18 7 == 7 then [] else if fld w 18 7 == 9 then ends else fall
      | 1 | 2 => target ++ guarded
      | 3 => pbrs ++ (if breg == 3 then calls else []) ++ guarded
      | 5 => if bit w 23 && fld w 0 17 != 0 then fall else fall ++ (loops.filter fun l => l.1 == i).map fun l => l.2 + 1
      | _ => fall
    (out ++ (loops.filter fun l => l.2 == i).map fun l => l.1 + 1).dedup

/-- The paths out of a position, one list of ends per length from 1 up: each end with the number of the image's bundles on the way. -/
def gLevels (p : List GBundle) (marks : List (Option Nat)) : Nat → List (Nat × Nat) → List (List (Nat × Nat))
  | 0, _ => []
  | n + 1, l =>
    let m := (l.flatMap fun (x : Nat × Nat) => (gNext p marks x.1).filterMap fun j =>
      match p[j]? with | some b => some (j, x.2 + if b.orig.isSome then 1 else 0) | none => none).dedup
    m :: gLevels p marks n m

/-- The reads of the results of a slot at position c: the distance in the image, the distance now and the reader's position. -/
def gReads (p : List GBundle) (marks : List (Option Nat)) (c : Nat) (x : GSlot) (depth : Nat) : List (Nat × Nat × Nat) :=
  let w := (slotUse x.word).writes
  if w.isEmpty then [] else
  let h := gPos p x.home
  (gLevels p marks depth [(h, 0)]).zipIdx.flatMap fun (lv : List (Nat × Nat) × Nat) =>
    lv.1.flatMap fun (e : Nat × Nat) =>
      p.zipIdx.flatMap fun (b : GBundle × Nat) =>
        b.1.slots.filterMap fun y =>
          if gPos p y.home == e.1 && (p[e.1]?.bind GBundle.orig).isSome && (slotUse y.word).reads.any (w.contains ·) then
            some (e.2, lv.2 + 1 + (h - c) - (e.1 - b.2), b.2) else none

/-- No shadow read of the image has left its shadow (R90). -/
def gShadowsHold (p : List GBundle) (marks : List (Option Nat)) : Bool :=
  p.zipIdx.all fun (b : GBundle × Nat) => b.1.slots.all fun x =>
    let u := slotUse x.word
    u.q3 ≤ 1 || ((gReads p marks b.2 x 20).all fun r => u.q3 ≤ r.1 || r.2.1 < u.q4)

/-! ## The rewrite (R89) -/

/-- The starts of the regions: the first bundle, the bundle after a branch, a branch's target, the first bundle of a loop body and the bundle after its end. -/
def gRegionStarts (p : List GBundle) (marks : List (Option Nat)) : List Nat :=
  0 :: ((gLoops p marks).flatMap fun (l : Nat × Nat) => [l.1 + 1, l.2 + 1]) ++
  p.zipIdx.flatMap fun (b : GBundle × Nat) =>
    let w := gControl b.1
    let t := if fld w 25 6 == 5 then [] else match b.1.orig.bind fun o => marks.getD o none with | some o => [gLand p o] | none => []
    t ++ (if 1 ≤ fld w 25 6 && fld w 25 6 ≤ 3 then [b.2 + 1] else [])

/-- The slot positions that the LTAG of a bundle gates. -/
def gGated (b : GBundle) (k : Nat) : Bool := b.slots.any fun x => fld x.word 25 6 == 6 && (bit x.word k || bit x.word (8 + k))

/-- The place a load takes in a bundle: its first ungated NOP, or a new slot. -/
def gPlace (b : GBundle) : Option Nat :=
  match (List.range b.slots.length).find? fun k => (b.slots.getD k { word := 1, home := 0 }).word == 0 && !gGated b k with
  | some k => some k
  | none => if b.slots.length < 8 then some b.slots.length else none

/-- A position e that the load at (c, k) may be hoisted to (R89 step 2). -/
def gMayHoist (p : List GBundle) (marks : List (Option Nat)) (c : Nat) (x : GSlot) (e : Nat) : Bool :=
  let u := slotUse x.word
  let span := (p.drop e).take (c - e)
  let b := p.getD e { orig := none, slots := [] }
  let slots := span.flatMap fun b => b.slots.map GSlot.word
  (b.slots.filter fun y => usesL y.word).length < 2 && (gPlace b).isSome &&
  ((p.take e).zipIdx.all fun (q : GBundle × Nat) => q.1.slots.all fun y =>
    let v := slotUse y.word
    !(v.writes.any (u.reads.contains ·)) || q.2 + v.q4 ≤ e) &&
  ((gLoops p marks).all fun (l : Nat × Nat) => !(l.1 < e && c ≤ l.2) || (p.zipIdx.all fun (q : GBundle × Nat) =>
    !(c ≤ q.2 && q.2 ≤ l.2) || q.1.slots.all fun y =>
      let v := slotUse y.word
      !(v.writes.any (u.reads.contains ·)) || q.2 + v.q4 ≤ l.2 + 1 + (e - (l.1 + 1)))) &&
  (slots.all fun y =>
    let v := slotUse y
    !(v.writes.any fun r => u.reads.contains r || u.writes.contains r) && !(v.reads.any (u.writes.contains ·)) && !(blocksHoist (loadSpace x.word) y))

/-- A NOP bundle of four slots. -/
def gNop : GBundle := { orig := none, slots := List.replicate 4 { word := 0, home := 0 } }

/-- The load at (c, k) moved to position e. -/
def gHoist (p : List GBundle) (c k : Nat) (x : GSlot) (e : Nat) : List GBundle :=
  p.mapIdx fun i b =>
    if i = c then { b with slots := b.slots.set k { word := 0, home := 0 } }
    else if i = e then (match gPlace b with
      | some j => if j < b.slots.length then { b with slots := b.slots.set j x } else { b with slots := b.slots ++ [x] }
      | none => b)
    else b

/-- The step for one load with shortfall: hoist, then stretch (R89 steps 2 and 3). -/
def gAct (p : List GBundle) (marks : List (Option Nat)) (c k : Nat) (x : GSlot) (d : Nat × Nat) : List GBundle :=
  let short := 6 - d.1
  let lo := Nat.max (((gRegionStarts p marks).filter (· ≤ c)).foldl Nat.max 0) (c - short)
  let gated := gGated (p.getD c gNop) k
  let e := if gated then none else (List.range (c - lo)).find? fun j => gMayHoist p marks c x (lo + j)
  let p' := match e with | some j => gHoist p c k x (lo + j) | none => p
  let rest := short - (match e with | some j => c - (lo + j) | none => 0)
  p'.take d.2 ++ List.replicate rest gNop ++ p'.drop d.2

/-- The nearest reader of a load that is no shadow read in Q3: its distance and position, where the load falls short. -/
def gShort (p : List GBundle) (marks : List (Option Nat)) (c : Nat) (x : GSlot) : Option (Nat × Nat) :=
  ((gReads p marks c x 8).filter fun r => 4 ≤ r.1 && r.2.1 < 6).foldl (fun (m : Option (Nat × Nat)) r =>
    match m with | some y => if y.1 ≤ r.2.1 then m else some r.2 | none => some r.2) none

/-- The first load with shortfall: position, slot and nearest reader. -/
def gFirst (p : List GBundle) (marks : List (Option Nat)) : Option (Nat × Nat × GSlot × Nat × Nat) :=
  (p.zipIdx.flatMap fun (b : GBundle × Nat) => b.1.slots.zipIdx.filterMap fun (x : GSlot × Nat) =>
    if isLocalLoad x.1.word then (gShort p marks b.2 x.1).map fun d => (b.2, x.2, x.1, d) else none).head?

/-- The rewrite, at most n steps of it. -/
def gRewrite (marks : List (Option Nat)) : Nat → List GBundle → Option (List GBundle)
  | 0, _ => none
  | n + 1, p =>
    match gFirst p marks with
    | none => some p
    | some (c, k, x, d) => gRewrite marks n (gAct p marks c k x d)

/-! ## The rewritten image -/

/-- The first slot of each bundle of the rewritten program. -/
def gOffsets (p : List GBundle) : List Nat := gStarts (p.map fun b => b.slots.map GSlot.word)

/-- A slot with its displacement or body length fixed up; none where it would leave its field (R90). -/
def gFix (p : List GBundle) (marks : List (Option Nat)) (offs : List Nat) (i : Nat) (o : Nat) (w : Nat) : Option Nat :=
  match marks.getD o none with
  | none => some w
  | some t =>
    if fld w 25 6 = 5 then
      let len := gPos p t - i
      if len ≤ 64 then some (w - fld w 17 6 * 2 ^ 17 + (len - 1) * 2 ^ 17) else none
    else match slotDisp w with
      | none => some w
      | some _ =>
        let d := (offs.getD (gLand p t) 0 : Int) - offs.getD i 0
        let lo := if fld w 25 6 = 4 then 0 else 4
        if -131072 ≤ d ∧ d < 131072 then some (w - fld w lo 18 * 2 ^ lo + (d % 262144).toNat * 2 ^ lo) else none

/-- The words of the rewritten program. -/
def gEmit (p : List GBundle) (marks : List (Option Nat)) : Option (List Nat) :=
  let offs := gOffsets p
  (p.zipIdx.mapM fun (b : GBundle × Nat) =>
    (b.1.slots.zipIdx.mapM fun (x : GSlot × Nat) =>
      ((match b.1.orig with | some o => gFix p marks offs b.2 o x.1.word | none => some x.1.word)).map fun w =>
        if x.2 + 1 = b.1.slots.length then w + 2 ^ 31 else w)).map List.flatten

/-- A bri names a b register that a wrb of the section writes (R90). -/
def gWrbTarget (l : List (List Nat)) : Bool :=
  let ws := l.flatten
  ws.any fun w => fld w 25 6 == 3 && fld w 22 3 == 0 && ws.any fun v => fld v 25 6 == 8 && fld v 18 7 == 0x21 && fld v 12 2 == fld w 10 2

/-- A section that Gnoco has rewritten: its words, and in slots its entry and the bundles its safe table names. -/
structure Rewritten where
  words : List Nat
  entry : Nat
  safe  : List Nat
deriving DecidableEq, Repr

/-- Gnoco on the words of a section with its entry and its safe-point entries in slots, which are fixed up; none where it fails (R89, R90). -/
def gnoco (words : List Nat) (entry : Nat) (safe : List Nat) : Option Rewritten := do
  let l ← gParse words [] []
  if gWrbTarget l then none
  let marks ← gMarks l
  let en ← (gStarts l).findIdx? fun y => y == entry
  let p : List GBundle := l.mapIdx fun i b => { orig := some i, slots := b.map fun w => { word := w, home := i } }
  let q ← gRewrite marks (4 * words.length + 4) p
  if !gShadowsHold q marks then none
  let out ← gEmit q marks
  let offs := gOffsets q
  let fixed := safe.map fun x => match (gStarts l).findIdx? fun y => y == x with | some i => offs.getD (gPos q i) 0 | none => x
  some { words := out, entry := offs.getD (gLand q en) 0, safe := fixed }

end Sys2Proof.Machine
end

