-- ==== Sys2Proof/Machine/Launch.lean ====
section
/-! DEFINITION. Launch.lean: the launch queues and their packets, the loader's checks, placement and the front end's load, and the launch arbiter (R87, R237 to R239, R348 to R356, R365). -/

namespace Sys2Proof.Machine

/-! ## The image (R348, R349) -/

/-- A header of an image as the loader reads it (Table 16.1). -/
structure ImageHead where
  magic   : Nat
  version : Nat
  profile : Nat
  shadow  : Bool
  p       : Nat
  x       : Nat
  y       : Nat
  z       : Nat
  nsect   : Nat
  act     : Nat
  stg     : Nat
  bar     : Nat
  dot     : Bool
  lb      : Nat
  imem    : Nat
  win     : Nat
  clean   : Bool
deriving DecidableEq, Repr

/-- A section descriptor (Table 16.2). -/
structure Section where
  first   : Nat
  last    : Nat
  entry   : Nat
  codeOff : Nat
  codeLen : Nat
  ringOff : Nat
  safeOff : Nat
  dataOff : Nat
  ndata   : Nat
  nsafe   : Nat
  clean   : Bool
deriving DecidableEq, Repr

/-- A data entry (R349): its address, its space, its length and the offset of its data. -/
structure DataEntry where
  addr  : Nat
  space : Nat
  len   : Nat
  off   : Nat
deriving DecidableEq, Repr

/-- w bits of an image, at a bit offset from its base. -/
def State.imageBits (s : State) (base off w : Nat) : Nat := s.dev.mem.readBits (physLocal base + off) w

/-- Bits of an image may be read: they lie in local memory (R348, R371) and no word of them is poisoned. -/
def State.imageOk (s : State) (base off w : Nat) : Bool :=
  w == 0 || (s.physCause .unit (base + off) w == none && physDev (base + off) == s.dev.devId && s.isDram (physLocal base + off) && s.isDram (physLocal base + off + w - 1) &&
    (s.poisoned (physLocal base + off) w).isNone)

/-- The header of an image. -/
def State.imageHead (s : State) (base : Nat) : ImageHead :=
  let w := fun k => s.imageBits base (64 * k) 64
  { magic := bits (w 0) 32 32, version := bits (w 0) 24 8, profile := bits (w 0) 16 8, shadow := bitAt (w 0) 15, p := bits (w 0) 0 8 + 1,
    x := bits (w 1) 53 3 + 1, y := bits (w 1) 50 3 + 1, z := bits (w 1) 48 2 + 1, nsect := bits (w 1) 39 9,
    act := bits (w 2) 48 16, stg := bits (w 2) 46 2, bar := bits (w 2) 42 4, dot := bitAt (w 2) 41, lb := bits (w 2) 34 7, imem := bits (w 2) 28 6,
    win := w 3,
    clean := bits (w 0) 8 7 == 0 && bits (w 1) 56 8 == 0 && bits (w 1) 0 39 == 0 && bits (w 2) 0 28 == 0 &&
      (List.range 12).all fun k => w (4 + k) == 0 }

/-- The k-th section of an image. -/
def State.imageSection (s : State) (base k : Nat) : Section :=
  let w := fun j => s.imageBits base (1024 + 256 * k + 64 * j) 64
  { first := bits (w 0) 56 8, last := bits (w 0) 48 8, entry := bits (w 0) 27 21, codeOff := bits (w 1) 32 32, codeLen := bits (w 1) 11 21,
    ringOff := bits (w 2) 32 32, safeOff := bits (w 2) 0 32, dataOff := bits (w 3) 32 32, ndata := bits (w 3) 16 16, nsafe := bits (w 3) 0 16,
    clean := bits (w 0) 0 27 == 0 && bits (w 1) 0 11 == 0 }

/-- The sections of an image. -/
def State.imageSections (s : State) (base : Nat) (h : ImageHead) : List Section := (List.range h.nsect).map (s.imageSection base)

/-- The data entries of a section, from an offset on. -/
def State.dataFrom (s : State) (base : Nat) : Nat → Nat → List DataEntry
  | 0, _ => []
  | n + 1, off =>
    let w := s.imageBits base (off + 64) 64
    { addr := s.imageBits base off 64, space := bits w 62 2, len := bits w 0 62, off := off + 128 } ::
      s.dataFrom base n (off + 128 + cdiv (bits w 0 62) 64 * 64)

/-- The data entries of a section. -/
def State.dataOf (s : State) (base : Nat) (x : Section) : List DataEntry := s.dataFrom base x.ndata x.dataOff

/-- A data entry lies in its typed space. -/
def DataEntry.fits (d : DataEntry) : Bool :=
  d.space == 2 || (d.space < 2 && d.addr + d.len ≤ (spaceOf d.space).size)

/-- The blocks of a section that the loader reads are readable. -/
def State.sectionReadable (s : State) (base : Nat) (x : Section) : Bool :=
  s.imageOk base x.codeOff x.codeLen && (x.ringOff == 0 || s.imageOk base x.ringOff 2048) && s.imageOk base x.safeOff (32 * x.nsafe) &&
  (s.dataOf base x).all fun d => s.imageOk base (d.off - 128) 128 && s.imageOk base d.off d.len

/-- The loader's first check (Table 16.4, IMAGE). -/
def State.imageGood (s : State) (base : Nat) : Bool :=
  let h := s.imageHead base
  base % 512 == 0 && s.imageOk base 0 1024 && h.magic == 0x5051344B && h.version == 1 && h.clean &&
  1 ≤ h.nsect && h.nsect ≤ h.p && s.imageOk base 1024 (256 * h.nsect) &&
  (let l := s.imageSections base h
   (List.range h.p).all (fun c => (l.filter fun x => x.first ≤ c && c ≤ x.last).length == 1) &&
   h.lb ≤ 64 && h.imem != 0 && h.p ≤ h.x * h.y * h.z && h.x * h.y * (h.z - 1) < h.p &&
   l.all fun x => x.clean && x.codeLen != 0 && x.codeLen ≤ h.imem * 2 ^ 16 && x.entry < x.codeLen &&
     s.sectionReadable base x && (s.dataOf base x).all DataEntry.fits)

/-- The words of a section's code, the last in part where its length is no multiple of 32. -/
def State.sectionWords (s : State) (image : Nat) (x : Section) : List Nat :=
  (List.range (cdiv x.codeLen 32)).map fun i => s.imageBits image (x.codeOff + 32 * i) (min 32 (x.codeLen - 32 * i))

/-- The bundles that a section's safe table names, in slots (R349). -/
def State.safeTable (s : State) (image : Nat) (x : Section) : List Nat :=
  (List.range x.nsafe).map fun i => s.imageBits image (x.safeOff + 32 * i) 32 / 32

/-- Gnoco on a section (R89). It fails also where the rewritten code would not fit the claim of m units. DESIGN CHOICE (log 93). -/
def State.gnocoSection (s : State) (image m : Nat) (x : Section) : Option Rewritten :=
  if x.entry % 32 = 0 ∧ x.codeLen % 32 = 0 then
    (gnoco (s.sectionWords image x) (x.entry / 32) (s.safeTable image x)).filter fun r => 32 * r.words.length ≤ m * 2 ^ 16
  else none

/-- Gnoco on an image: each section rewritten; none where one of them fails, for then the image stays unchanged (R87, R90). -/
def State.gnocoImage (s : State) (image : Nat) : Option (List Rewritten) :=
  let h := s.imageHead image
  (s.imageSections image h).mapM (s.gnocoSection image h.imem)

/-- The largest body of a LOOP among some slot words (R139). -/
def largestLoop (ws : List Nat) : Nat := ws.foldl (fun m w => if fld w 25 6 = 5 then max m (fld w 17 6 + 1) else m) 0

/-- The header by which an image is placed: where Gnoco rewrites it, its loop-buffer claim grows to its largest rewritten body (R89, R139). -/
def State.placedHead (s : State) (image : Nat) : ImageHead :=
  let h := s.imageHead image
  if h.profile = 4 then h
  else match s.gnocoImage image with
    | some l => { h with lb := l.foldl (fun m x => max m (largestLoop x.words)) h.lb }
    | none => h

/-! ## The dispatch descriptor (R352) -/

/-- A dispatch descriptor (Table 16.3): the order of the dimensions, the trip counts and C. -/
structure Descriptor where
  perm  : List Nat
  trip  : List Nat
  chunk : Nat
deriving DecidableEq, Repr

/-- The physical address of a virtual one and the word of its leaf, when it translates (R182). -/
def State.translate (s : State) (root va : Nat) : Option (Nat × Nat) :=
  match s.walk root va with
  | .leaf e _ big => some (pteAddr e + va % (if big then 2 ^ 28 else 2 ^ 19), e)
  | _ => none

/-- The descriptor in a block of 512 bits, when it passes R352 for P cores. -/
def descriptorOf (v p : Nat) : Option Descriptor :=
  let w := fun k => bits v (64 * k) 64
  let depth := bits (w 0) 61 3
  let perm := (List.range 6).map fun k => bits (w 0) (58 - 3 * k) 3
  let trips := (List.range 6).map fun d => bits (w (d + 1)) 0 32
  let c := bits (w 0) 35 8 + 1
  let g := (trips.take depth).foldl (· * ·) 1
  if 1 ≤ depth ∧ depth ≤ 6 ∧ (perm.take depth).all (· < depth) ∧ (perm.take depth).Nodup ∧ (perm.drop depth).all (· == 0) ∧
     (trips.take depth).all (· != 0) ∧ (trips.drop depth).all (· == 0) ∧ g ≤ 2 ^ 40 - 1 ∧ p * c ≤ 256 ∧ (p - 1) * c + 1 ≤ g ∧
     bits (w 0) 0 35 = 0 ∧ (List.range 6).all (fun d => bits (w (d + 1)) 32 32 == 0) ∧ w 7 = 0 then
    some { perm := perm.take depth, trip := trips.take depth, chunk := c }
  else none

/-- The pieces of a virtual range by 64 KiB page: the virtual address and length of each. -/
def pagePieces : Nat → Nat → Nat → List (Nat × Nat)
  | 0, _, _ => []
  | n + 1, va, len =>
    if len = 0 then []
    else
      let k := min len (2 ^ 19 - va % 2 ^ 19)
      (va, k) :: pagePieces n (va + k) (len - k)

/-- Where the descriptor of an argument block lies, page by page: physical addresses and lengths; none where a page does not translate (R352). -/
def State.argPieces (s : State) (root arg : Nat) : Option (List (Nat × Nat)) :=
  (pagePieces 3 arg 512).mapM fun (p : Nat × Nat) => (s.translate root p.1).map fun (x : Nat × Nat) => (x.1, p.2)

/-- Some part of an argument block lies on another device (R184). -/
def State.argRemote (s : State) (root arg : Nat) : Bool :=
  (s.argPieces root arg).any fun l => l.any fun (p : Nat × Nat) => physDev p.1 != s.dev.devId

/-- The descriptor's 512 bits (R352): read from local memory, or as the reads of another device brought them; none where they do not translate or are refused or poisoned. -/
def State.argBits (s : State) (root arg : Nat) (came : Option Nat) : Option Nat :=
  match s.argPieces root arg with
  | none => none
  | some l =>
    if s.argRemote root arg then came
    else if l.all fun (p : Nat × Nat) => s.isDram (physLocal p.1) && (s.poisoned (physLocal p.1) p.2).isNone then
      some (l.foldr (fun (p : Nat × Nat) acc => s.dev.mem.readBits (physLocal p.1) p.2 + acc * 2 ^ p.2) 0)
    else none

/-! ## Rings and data of an image (R218, R349, Table 16.4) -/

/-- A ring entry of an image as the load would bind it; none when qbind would refuse it (R208, R214, R215), judged with every BFMT 0. -/
def State.imageRing (s : State) (root asid : Nat) (w a : Nat) : Option Ring :=
  let cfg := word w
  let r : Ring := { Ring.unbound with cfg := cfg, cur := word a }
  if w = 0 then some .unbound
  else if !ringCfgOk cfg 0 then none
  else if r.mode = 1 then (if a + r.capacity * r.size ≤ (spaceOf r.spaceNo).size then some r else none)
  else if r.spaceNo ≠ 2 then some r
  else match s.walk root a with
    | .leaf e la big =>
      let h : HandleBits := BitVec.ofNat 256 (handleOf s.dev.devId { asid := asid, vpn := vpnOf a big, leaf := word e, addr := la, big := big } a)
      if if r.mode = 2 then hRd h else hWr h then some { r with copy := h, cur := word (a % (if big then 2 ^ 28 else 2 ^ 19)) } else none
    | _ => none

/-- The sixteen bindings of a section; none when one is refused. -/
def State.sectionRings (s : State) (base root asid : Nat) (x : Section) : Option (List Ring) :=
  if x.ringOff = 0 then some (List.replicate 16 .unbound)
  else (List.range 16).mapM fun q =>
    s.imageRing root asid (s.imageBits base (x.ringOff + 128 * q) 64) (s.imageBits base (x.ringOff + 128 * q + 64) 64)

/-- The pieces of a glob data entry. -/
def DataEntry.pieces (d : DataEntry) : List (Nat × Nat) := pagePieces (d.len / 2 ^ 19 + 2) d.addr d.len

/-- A glob data entry translates with WR (Table 16.4, XLATE). -/
def State.globOk (s : State) (root : Nat) (d : DataEntry) : Bool :=
  d.pieces.all fun (p : Nat × Nat) => match s.translate root p.1 with | some (_, e) => bitAt e 60 | none => false

/-! ## Placement (R350, R351, R354) -/

/-- The claims of an image. -/
def ImageHead.claims (h : ImageHead) : Claims :=
  { ibase := 0, imem := h.imem, loopBuf := h.lb, act := h.act, stg := h.stg, bar := h.bar, win := h.win, dot := h.dot, entry := 0 }

/-- Two claims are disjoint (R350). -/
def Claims.apart (a b : Claims) : Bool :=
  a.act &&& b.act == 0 && a.stg &&& b.stg == 0 && a.bar &&& b.bar == 0 && a.win &&& b.win == 0 && !(a.dot && b.dot)

/-- The claims reserved on a core (R122). -/
def State.claimsOn (s : State) (n : Nat) : List Claims :=
  let t := s.focusCore n
  ([t.ctx, t.partner].filterMap fun c => if c.st = .free ∨ c.st = .retired then none else some c.claims) ++
  t.core.detached.filterMap fun a => (assoc? s.dev.records a).map fun r => r.ctx.claims

/-- New claims are compatible with those reserved on a core (R350). -/
def claimsFit (c : Claims) (l : List Claims) : Bool :=
  l.all c.apart && (l.map Claims.loopBuf).sum + c.loopBuf ≤ 64 && (l.map Claims.imem).sum + c.imem ≤ 32

/-- The lowest free code region of a core (R351). -/
def codeRegion (imem : Nat) (l : List Claims) : Option Nat :=
  ((List.range (33 - imem)).find? fun u => l.all fun c => c.ibase / 2 ^ 16 + c.imem ≤ u || u + imem ≤ c.ibase / 2 ^ 16).map (· * 2 ^ 16)

/-- A slot of a core that is FREE, the lower first. -/
def State.freeSlot (s : State) (n : Nat) : Option Nat :=
  let t := s.focusCore n
  [0, 1].find? fun k => (t.focusSlot k).ctx.st == .free

/-- The ordered choices of n distinct towers, in ascending order. -/
def towerChoices : Nat → List (List Nat)
  | 0 => [[]]
  | n + 1 => (towerChoices n).flatMap fun l => ([0, 1, 2, 3].filter fun t => !l.contains t).map fun t => l ++ [t]

/-- A symmetry applied to a place in the shape (Table 16.5). -/
def symmetry (g x y w h : Nat) : Nat × Nat :=
  match g with
  | 0 => (x, y)
  | 1 => (h - 1 - y, x)
  | 2 => (w - 1 - x, h - 1 - y)
  | 3 => (y, w - 1 - x)
  | 4 => (w - 1 - x, y)
  | 5 => (x, h - 1 - y)
  | 6 => (y, x)
  | _ => (h - 1 - y, w - 1 - x)

/-- The width and height of the shape under a symmetry. -/
def symSize (g w h : Nat) : Nat × Nat := if g = 1 ∨ g = 3 ∨ g = 6 ∨ g = 7 then (h, w) else (w, h)

/-- The physical cores of p logical cores, w wide and h high on each tower, under a symmetry and a translation, by logical core. -/
def coresAt (p w h : Nat) (towers : List Nat) (g tx ty : Nat) : List Nat :=
  (List.range p).map fun l =>
    let c := symmetry g (l % w) (l / w % h) w h
    64 * towers.getD (l / (w * h)) 0 + 8 * (c.2 + ty) + (c.1 + tx)

/-- The physical cores of a candidate, by logical core. -/
def candidate (h : ImageHead) (towers : List Nat) (g tx ty : Nat) : List Nat := coresAt h.p h.x h.y towers g tx ty

/-- The candidates in the loader's order (R354). -/
def candidates (h : ImageHead) : List (List Nat) :=
  (towerChoices h.z).flatMap fun t => (List.range 8).flatMap fun g =>
    let sz := symSize g h.x h.y
    (List.range (9 - sz.2)).flatMap fun ty => (List.range (9 - sz.1)).map fun tx => candidate h t g tx ty

/-- The weight a candidate charges, by tower, in mW (R391). -/
def State.charge (s : State) (l : List Nat) : List Nat :=
  (List.range 4).map fun t => ((l.filter fun n => n / 64 == t).map s.dev.unitWeight).sum

/-- A candidate fits now: its cores, its claims, the caps and the ramp (R354, R394). -/
def State.candFits (s : State) (h : ImageHead) (l : List Nat) : Bool :=
  (l.all fun n =>
    let c := s.claimsOn n
    !s.dev.harvest.contains n && (s.freeSlot n).isSome && claimsFit h.claims c && (codeRegion h.imem c).isSome) &&
  s.fits (s.charge l) && s.dev.rampAllows (s.charge l).sum

/-- A candidate would fit with every slot FREE, power apart. -/
def State.candCould (s : State) (h : ImageHead) (l : List Nat) : Bool := (l.all fun n => !s.dev.harvest.contains n) && claimsFit h.claims []

/-- The placement the loader takes now. -/
def State.placement (s : State) (h : ImageHead) : Option (List Nat) := (candidates h).find? (s.candFits h)

/-! ## The loader's checks (R353) -/

/-- The load status of a LAUNCH with its image, argument block and CXROOT; 0 when it passes (Table 16.4). came is what an argument block of another device was read as. -/
def State.loadStatus (s : State) (image arg root : Nat) (came : Option Nat) : Nat :=
  let h := s.imageHead image
  let l := s.imageSections image h
  let asid := bits root 52 12
  let r := bits root 0 41
  if !s.imageGood image then 0x01
  else if h.profile ≠ 4 ∧ (h.profile ≠ 3 ∨ (h.shadow ∧ (s.gnocoImage image).isNone)) then 0x02
  else if ((s.argBits r arg came).bind fun v => descriptorOf v h.p).isNone then 0x03
  else if l.any fun x => (s.sectionRings image r asid x).isNone then 0x04
  else if l.any fun x => (s.dataOf image x).any fun d => d.space == 2 && !s.globOk r d then 0x05
  else if (candidates h).all fun c => !s.candCould h c then 0x06
  else 0

/-! ## The front end (R355) -/

/-- The words of a window of the sum file, its values and its flags, are written whole: their poison is gone (R43, Table 2.4). -/
def clearWindow (l : List Nat) (i : Nat) : List Nat :=
  l.filter fun k => !((windowKey (0x1600000 + 2 ^ 14 * i) ≤ k && k < windowKey (0x1600000 + 2 ^ 14 * i) + 256) ||
    (windowKey (0x1700000 + 512 * i) ≤ k && k < windowKey (0x1700000 + 512 * i) + 8))

/-- Claimed resources of the focused core initialised (R355 step 3). -/
def Core.initClaims (c : Core) (k : Claims) : Core :=
  let c := (List.range 16).foldl (fun (c : Core) b => if bitAt k.act b then c.setBfmt b 0 else c) c
  { c with
    full := c.full.filter fun g => !bitAt k.act (g / 8192)
    bars := c.bars.filter fun b => !bitAt k.bar (b.1 / 64)
    lanes := c.lanes.filter fun l => !bitAt k.win (l.1 / 64)
    anchors := c.anchors.mapIdx fun i a => if bitAt k.win i then 0 else a
    poison := (List.range 64).foldl (fun (l : List Nat) i => if bitAt k.win i then clearWindow l i else l) c.poison }

/-- The code of a section as it is loaded. -/
structure LoadedCode where
  words  : List Nat
  width  : Nat
  entry  : Nat
  compat : Bool
deriving DecidableEq, Repr

/-- The code of a section as it is loaded (Table 4.9): an image of another profile is rewritten by Gnoco, or stays unchanged as a whole and runs in interlocked compatibility mode. -/
def State.sectionCode (s : State) (image : Nat) (h : ImageHead) (x : Section) : LoadedCode :=
  let raw : LoadedCode := { words := s.sectionWords image x, width := x.codeLen, entry := x.entry, compat := false }
  if h.profile = 4 then raw
  else match (s.gnocoImage image).bind fun _ => s.gnocoSection image h.imem x with
    | some r => { words := r.words, width := 32 * r.words.length, entry := 32 * r.entry, compat := false }
    | none => { raw with compat := true }

/-- A glob write of a data entry of kernel k leaves for another device, and the kernel's load awaits its answer (R355). -/
def State.postData (s : State) (k a w v : Nat) : State :=
  let s := match s.kernel? k with
    | some x => s.setKernel k { x with posts := x.posts + 1 }
    | none => s
  s.onDev fun d => d.ask 1 k s.phys { who := 1, sub := 0, addr := a, val := v, len := w, data := [k] }

/-- A data entry of kernel k written by the front end for the focused core: the cause with which a glob write is refused, if one is; from another device that comes later (log 99). DESIGN CHOICE (log 109): a page that translated at the checks of R353 and no longer does refuses with PAGEFAULT, one that has lost WR with INVHANDLE. -/
def State.writeData (s : State) (k image root : Nat) (d : DataEntry) : Option Cause × State :=
  if d.space = 2 then
    d.pieces.foldl (fun (r : Option Cause × State) (p : Nat × Nat) =>
      match r.1, r.2.translate root p.1 with
      | none, none => (some .pagefault, r.2)
      | none, some (a, e) =>
        let v := r.2.imageBits image (d.off + (p.1 - d.addr)) p.2
        if !bitAt e 60 then (some .invhandle, r.2)
        else if physDev a ≠ r.2.dev.devId then
          (none, r.2.postData k a p.2 v)
        else (match r.2.physCause .unit a p.2 with
          | some c => (some c, r.2)
          | none => (none, r.2.physWrite (physLocal a) p.2 v))
      | some _, _ => r) (none, s)
  else
    let v := s.imageBits image d.off d.len
    (none, s.onCore fun c =>
      let c := c.putAll (spaceOf d.space) [{ addr := d.addr, width := d.len, val := v }]
      if d.space = 0 then c.fill d.addr d.len else c)

/-- What a context that leaves its slot leaves behind (R274): the writes of its committed bundles, its pushes among them, still perform; its loads have no destination left. -/
def State.leftBehind (s : State) : State :=
  let s := (List.range 16).foldl State.detachPushes s
  s.onCtx fun c => { c with
    gq := (c.gq.filter fun a => !a.isLoad || (match a.dest with | .bits .. => true | _ => false)).map fun a =>
      { a with dest := (match a.dest with | .bits q sp w x l f v => .bits q sp w x l f v | _ => .none), order := 0, bno := 0, orphan := true }
    pend := (c.pend.filter fun p => match p.dest with | .bits .. => true | _ => false).map fun p => { p with bno := 0 } }

/-- The focused slot loaded for logical core l of a kernel (R355), in the order of its steps; the cause of a refused glob write, if any. -/
def State.loadCtx (s : State) (k : Nat) (x : Kernel) (h : ImageHead) (sec : Section) (l : Nat) (prio : Nat) : Option Cause × State :=
  let root := bits x.root 0 41
  let asid := bits x.root 52 12
  let code := s.sectionCode x.image h sec
  let base := (codeRegion h.imem (s.claimsOn s.coreNo)).getD 0
  let claims := { h.claims with ibase := base, entry := code.entry }
  let birth := s.dev.births + 1
  let b := s.ctx.blk
  let s := s.leftBehind
  let s := s.onCtx fun c => { Ctx.reset with
    st := .loaded
    lcore := l
    kernel := some k
    kcores := x.p
    birth := birth
    claims := claims
    gq := c.gq
    pend := c.pend
    nextId := c.nextId
    sliceUp := b.slice != 0 && b.slice < 7168
    power := { level := 1, held := 1, charges := [] }
    blk := { b with sliced := 0, preq := false } }
  let s := (s.onDev fun d => { d with births := birth }).rises (s.dev.unitWeight s.coreNo)
  let s := s.onCore fun c => (c.putAll .imem [{ addr := base, width := code.width, val := unchunks 32 code.words }]).initClaims claims
  let r := (s.dataOf x.image sec).foldl (fun (r : Option Cause × State) d => match r.1 with | none => r.2.writeData k x.image root d | some _ => r) (none, s)
  match r.1 with
  | some c => (some c, r.2)
  | none =>
    let s := r.2
    let rings := (s.sectionRings x.image root asid sec).getD (List.replicate 16 .unbound)
    let s := (s.onCtx fun c => { c with rings := rings, prio := prio, compat := code.compat }).writeRoot x.root
    let g := l * x.chunk
    (none, s.onCtx fun c => c.dispatch g (x.coords g) x.arg 0 false)

/-- The contexts of a kernel loaded on the cores of a placement, the lowest logical core first; with the physical context and cause of the first refused glob write. -/
def State.loadAll (s : State) (k : Nat) (h : ImageHead) (prio : Nat) : List Nat → Nat → State × Option (Nat × Nat)
  | [], _ => (s, none)
  | n :: t, l =>
    match s.kernel? k with
    | none => (s, none)
    | some x =>
      let slot := (s.freeSlot n).getD 0
      let c := 2 * n + slot
      let x := { x with place := x.place ++ [c], dealt := x.dealt ++ [1] }
      let s := s.setKernel k x
      let sec := ((s.imageSections x.image h).find? fun y => y.first ≤ l && l ≤ y.last)
      match sec with
      | none => s.loadAll k h prio t (l + 1)
      | some sec =>
        let home := s.phys
        let r := (s.focus c).loadCtx k x h sec l prio
        let s := r.2.focus home
        match r.1 with
        | some e => (s, some (c, e.code))
        | none => s.loadAll k h prio t (l + 1)

/-- The load of kernel k ends once no write of its data is unanswered: it is LOADED, and the release tick is chosen (row 3 of Table 16.6, R356). -/
def State.loadEnds (s : State) (k : Nat) : State :=
  match s.kernel? k with
  | none => s
  | some x => if x.posts = 0 then s.setKernel k { x with st := .loaded, tick := some (releaseTick s.dev.ref) } else s

/-- n writes of the data of kernel k, which is LOADING, have been answered: with cause 0 they have performed, else the kernel aborts, its context c the one being loaded (R355). -/
def State.answered (s : State) (k : Nat) (x : Kernel) (n c cause : Nat) : State :=
  if cause ≠ 0 then (s.onDev fun d => d.askEnds (fun y => y.kind == 1 && y.n == k) d.links.asks.length).abort k c cause
  else ((s.onDev fun d => d.askEnds (fun y => y.kind == 1 && y.n == k) n).setKernel k { x with posts := x.posts - n }).loadEnds k

/-- A kernel placed and loaded (rows 2 and 3 of Table 16.6), or aborted. -/
def State.loadKernel (s : State) (k : Nat) (l : List Nat) (prio : Nat) : State :=
  match s.kernel? k with
  | none => s
  | some x =>
    let h := s.placedHead x.image
    let s := s.setKernel k { x with st := .loading, towers := (l.map (· / 64)).dedup }
    let r := (s.onDev fun d => { d with everLoaded := true, loaded := true }).loadAll k h prio l 0
    match r.2 with
    | some (c, e) => r.1.abort k c e
    | none => r.1.loadEnds k

/-- Launches may start: the device is ACTIVE, holds no IDLE and has not begun retention entry (R388, R401). -/
def Device.launching (d : Device) : Bool := d.power.st == .active && !d.power.heldIdle && d.power.retStep == 0

/-! ## Packets (R238, R239) -/

/-- A queue of the device. -/
def Device.queue (d : Device) (q : Nat) : LaunchQueue := d.queues.getD q .reset

/-- The packets written and not read. -/
def LaunchQueue.waiting (q : LaunchQueue) : Nat := (q.wr + 2 ^ 32 - q.rd) % 2 ^ 32

/-- The words of the packet at the head of queue q. -/
def State.packet (s : State) (q : Nat) : List Nat :=
  let x := s.dev.queue q
  chunks 64 8 (s.dev.mem.readBits (physLocal (x.base * 2 ^ 9) + x.rd % 2 ^ x.log2n * 512) 512)

/-- TYPE of a packet. -/
def packetType (w : List Nat) : Nat := bits (w.getD 0 0) 56 8
/-- BAR. -/
def packetBar (w : List Nat) : Bool := bitAt (w.getD 0 0) 55

/-- The words of a packet that must be zero are, and its signal address is aligned; queues from 64 on take SEND and no LAUNCH (R383). -/
def packetOk (q : Nat) (w : List Nat) : Bool :=
  let z := fun (l : List Nat) => l.all fun k => w.getD k 0 == 0
  bits (w.getD 0 0) 32 23 == 0 &&
  match packetType w with
  | 0 => z [1, 2, 3, 4, 5, 6, 7]
  | 1 => q < 64 && z [6, 7] && w.getD 4 0 % 64 == 0 && bits (w.getD 3 0) 41 11 == 0
  | 2 => z [3, 4, 5, 6, 7] && w.getD 1 0 % 64 == 0
  | 3 => z [3, 4, 5, 6, 7] && w.getD 1 0 % 64 == 0
  | 0x10 => 64 ≤ q && z [7] && w.getD 1 0 % 8 == 0 && w.getD 2 0 % 8 == 0 && w.getD 2 0 ≤ 2 ^ 35 && bits (w.getD 3 0) 48 16 == 0 && w.getD 5 0 % 64 == 0
  | _ => false

/-- A WAIT or a PENDING launch holds the later packets of its queue. -/
def State.queueHeld (s : State) (x : LaunchQueue) : Bool :=
  x.pkts.any fun p => packetType p.words == 3 ||
    (match p.kernel with | some k => (match s.kernel? k with | some y => y.st == .pending | none => false) | none => false)

/-- The packet at the head of queue q may be accepted (R238, R239). -/
def State.headReady (s : State) (q : Nat) : Bool :=
  let x := s.dev.queue q
  x.en && x.waiting != 0 && !s.queueHeld x && !(packetBar (s.packet q) && !x.pkts.isEmpty)

/-- The packet at the head of queue q is accepted: LQRD goes past it. -/
def Device.accept (d : Device) (q : Nat) (p : Option Packet) : Device :=
  d.onQueue q fun x => { x with rd := (x.rd + 1) % 2 ^ 32, pkts := x.pkts ++ p.toList }

/-- A packet of queue q with its words. -/
def State.newPacket (s : State) (q : Nat) (k : Option Nat) : Packet :=
  { index := (s.dev.queue q).rd, words := s.packet q, kernel := k, since := s.dev.ref }

/-- A range of bytes lies in HBM4 or LPDDR-6 of this device. -/
def State.inDram (s : State) (a n : Nat) : Bool :=
  a < 2 ^ 60 && physDev a == s.dev.devId && (s.physCause .unit a n).isNone && s.isDram (physLocal a) && s.isDram (physLocal (a + n - 1))

/-- The read of the packet at the head of queue q is refused: it lies outside local HBM4 and LPDDR-6 (R237), or holds a poisoned word (R43). -/
def State.packetRefused (s : State) (q : Nat) : Bool :=
  let x := s.dev.queue q
  let a := x.base * 2 ^ 9 + x.rd % 2 ^ x.log2n * 512
  !s.inDram a 512 || (s.poisoned (physLocal a) 512).isSome

/-- A bad packet stops the queue with LQRD left at it (R239, CAUSE 0 by Table 18.11). DESIGN CHOICE (log 92): one whose read is refused does so too. -/
def State.badPacket (s : State) (q : Nat) : State := s.onDev fun d => d.stopQueue q (d.queue q).rd 0

/-- The head of queue q is good: its type is known, its reserved bits 0, its queue not overrun, its read not refused. -/
def State.headGood (s : State) (q : Nat) : Bool :=
  !s.packetRefused q && packetOk q (s.packet q) && (s.dev.queue q).waiting ≤ 2 ^ (s.dev.queue q).log2n && (s.dev.queue q).log2n ≤ 20

/-- What the argument block of the head of queue q, on another device, was read as; none while its reads are on their way, or where they were refused. -/
def State.argCame (s : State) (q : Nat) : Option Nat :=
  match (s.dev.queue q).args with
  | some (i, v) => if i = (s.dev.queue q).rd then v else none
  | none => none

/-- The load status of the LAUNCH at the head of queue q. -/
def State.headStatus (s : State) (q : Nat) : Nat :=
  let w := s.packet q
  s.loadStatus (w.getD 1 0) (w.getD 2 0) (w.getD 3 0) (s.argCame q)

/-- The head of queue q waits for the reads of its argument block from another device: they have not been answered (log 94). -/
def State.argWaits (s : State) (q : Nat) : Bool :=
  let w := s.packet q
  s.argRemote (bits (w.getD 3 0) 0 41) (w.getD 2 0) &&
    match (s.dev.queue q).args with | some (i, v) => i != (s.dev.queue q).rd || v.isNone | none => true

/-- The reads of the argument block of the head of queue q leave for the other device, once. -/
def State.askArgs (s : State) (q : Nat) : State :=
  let w := s.packet q
  let x := s.dev.queue q
  if !s.argWaits q ∨ (x.args.any fun y => y.1 == x.rd) then s
  else
    let l := (s.argPieces (bits (w.getD 3 0) 0 41) (w.getD 2 0)).getD []
    l.foldl (fun (s : State) (p : Nat × Nat) => s.onDev fun d => d.ask 2 q 0 { who := 18, sub := q, addr := p.1, val := 0, len := p.2, data := [] })
      (s.onDev fun d => d.onQueue q fun y => { y with args := some (y.rd, none) })

/-- The argument block of the head of queue q has come: its words, or none where a read was refused, which no descriptor passes. -/
def State.argsCome (s : State) (q : Nat) (l : List Nat) (refused : Bool) : State :=
  s.onDev fun d => (d.askEnds (fun x => x.kind == 2 && x.n == q) d.links.asks.length).onQueue q fun x => { x with args := some (x.rd, some (if refused then 0 else unchunks 64 (l.take 8))) }

/-- A LAUNCH at the head of queue q is checked and accepted, and waits as PENDING until the arbiter starts it (R353, R354, R365). -/
def State.launch (s : State) (q : Nat) : State :=
  let w := s.packet q
  let st := s.headStatus q
  if st ≠ 0 then (s.onDev fun d => d.onQueue q fun x => { x with stat := st }).badPacket q
  else
    let h := s.imageHead (w.getD 1 0)
    let d := ((s.argBits (bits (w.getD 3 0) 0 41) (w.getD 2 0) (s.argCame q)).bind fun v => descriptorOf v h.p).getD { perm := [0], trip := [1], chunk := 1 }
    let k := s.dev.nextKernel
    let x : Kernel :=
      { queue := q, index := (s.dev.queue q).rd, tag := bits (w.getD 0 0) 0 32, st := .pending, image := w.getD 1 0, arg := w.getD 2 0,
        root := w.getD 3 0, sig := w.getD 4 0, sigVal := w.getD 5 0, p := h.p, shape := [h.x, h.y, h.z], chunk := d.chunk, perm := d.perm,
        trip := d.trip, towers := [], place := [], tick := none, oldest := 0, done := [], dealt := [], spawns := 0, table := [], why := (0, 0) }
    let p := s.newPacket q (some k)
    (s.onDev fun d => { (d.accept q (some p)) with nextKernel := k + 1 }).setKernel k x

/-- The head of queue q, of a type given, is processed when it may be. -/
def State.takeHead (s : State) (q type : Nat) (f : State → State) : State :=
  if !s.headReady q then s
  else if !s.headGood q then s.badPacket q
  else if packetType (s.packet q) = type then f s else s

/-- An event of queue who, of the launch queues or of all. -/
def State.onLaunchQueue (s : State) (n : Nat) (f : State → State) : Host.Outcome State Fault Refusal :=
  if s.ev.who ≥ n then .fault (.noSuchAgent s.ev.who) else .next (f s)

/-- NOP_PACKET (R238): a NOP at the head of queue who completes at once. -/
def execNopPacket (s : State) : Host.Outcome State Fault Refusal :=
  s.onLaunchQueue 70 fun s => s.takeHead s.ev.who 0 fun t => t.onDev fun d => d.accept s.ev.who none

/-- SIGNAL_PACKET (R238): a SIGNAL at the head of queue who is accepted. -/
def execSignalPacket (s : State) : Host.Outcome State Fault Refusal :=
  s.onLaunchQueue 70 fun s => s.takeHead s.ev.who 2 fun t => t.onDev fun d => d.accept s.ev.who (some (t.newPacket s.ev.who none))

/-- WAIT_PACKET (R238): a WAIT at the head of queue who is accepted and holds the later packets. -/
def execWaitPacket (s : State) : Host.Outcome State Fault Refusal :=
  s.onLaunchQueue 70 fun s => s.takeHead s.ev.who 3 fun t => t.onDev fun d => d.accept s.ev.who (some (t.newPacket s.ev.who none))

/-- The oldest packet of queue q leaves it. -/
def Device.popPacket (d : Device) (q : Nat) : Device := d.onQueue q fun x => { x with pkts := x.pkts.tail }

/-- A SIGNAL with nothing before it writes its word and completes; a refused write stops the queue (R238, R239). -/
def State.signalDue (s : State) (q : Nat) : State :=
  match (s.dev.queue q).pkts with
  | p :: _ =>
    if packetType p.words ≠ 2 then s
    else
      let r := s.writeWord q p.index (p.words.getD 1 0) (p.words.getD 2 0)
      let s := r.2.onDev fun d => d.popPacket q
      match r.1 with
      | some c => s.onDev fun d => d.stopQueue q p.index c.code
      | none => s
  | [] => s

/-- The answer to the signal word of packet index of queue q, which went to another device: with a cause other than 0 it was refused there, and the queue stops (R239). -/
def State.signalAnswered (s : State) (q index cause : Nat) : State :=
  let s := s.onDev fun d => d.askEnds (fun x => x.kind == 0 && x.n == q && x.k == index) 1
  if cause = 0 then s else s.onDev fun d => d.stopQueue q index cause

/-- SIGNAL_WRITE (R238, R239): the SIGNAL of queue who writes its word; with sub 1 the word of packet addr, which went to another device, is answered, with val the cause that refused it there or 0. -/
def execSignalWrite (s : State) : Host.Outcome State Fault Refusal :=
  s.onLaunchQueue 70 fun s => if s.ev.sub = 1 then s.signalAnswered s.ev.who s.ev.addr (s.ev.val % 256) else s.signalDue s.ev.who

/-- The word a WAIT watches: its value, or the cause that refuses the read. DESIGN CHOICE (log 108): a word in a core window is refused, for the units have no access there (R165). -/
def State.watchWord (s : State) (a : Nat) : Except Cause Nat :=
  match s.physCause .unit a 64, s.poisoned (physLocal a) 64 with
  | some c, _ => .error c
  | none, some _ => .error .poison
  | none, none => .ok (s.physRead (physLocal a) 64)

/-- A packet dropped from its queue. -/
def Device.dropPacket (d : Device) (q index : Nat) : Device := d.onQueue q fun x => { x with pkts := x.pkts.filter fun p => p.index != index }

/-- A packet reads its word of another device anew from now on. -/
def Device.asksAnew (d : Device) (q index : Nat) : Device :=
  d.onQueue q fun x => { x with pkts := x.pkts.map fun p => if p.index = index then { p with since := d.ref } else p }

/-- What the clock brings to the WAIT of queue q: a read of another device that has had no answer for FTMO.US µs is refused (R374). -/
def State.waitLate (s : State) (q : Nat) : Option (Except Cause Nat) :=
  if (s.dev.queue q).pkts.any fun p => packetType p.words == 3 && s.dev.expired p.since then some (.error .unmapped) else none

/-- The WAIT that holds queue q is tested: its word has reached the value, or its read is refused. A word of another device is read by its response (log 10), which brings its value or the cause of a refusal. -/
def State.waitDue (s : State) (q : Nat) (remote : Option (Except Cause Nat)) : State :=
  match (s.dev.queue q).pkts.find? fun p => packetType p.words == 3 with
  | none => s
  | some p =>
    let a := p.words.getD 1 0
    match (if a < 2 ^ 60 ∧ physDev a ≠ s.dev.devId then remote else some (s.watchWord a)) with
    | none => s
    | some (.ok v) => if p.words.getD 2 0 ≤ v then s.onDev fun d => d.dropPacket q p.index else s.onDev fun d => d.asksAnew q p.index
    | some (.error c) => s.onDev fun d => (d.dropPacket q p.index).stopQueue q p.index c.code

/-- WAIT_PACKET_RELEASE (R238, R239): the WAIT of queue who is tested; a word on another device has the value val, or its read was refused with the cause sub. -/
def execWaitPacketRelease (s : State) : Host.Outcome State Fault Refusal :=
  s.onLaunchQueue 70 fun s => s.waitDue s.ev.who (some (if s.ev.sub = 0 then .ok s.ev.val else .error (refusalOf s.ev.sub)))

/-! ## The arbiter (R365) -/

/-- A LAUNCH starts no earlier than 64 reference periods after the last (R365). -/
def Device.mayLaunch (d : Device) : Bool := match d.arbiter.last with | some n => n + 64 ≤ d.ref | none => true

/-- The kernel of queue q that is PENDING, if it has one: its LAUNCH holds the later packets. -/
def State.pendingOf (s : State) (q : Nat) : Option Nat :=
  (s.dev.queue q).pkts.findSome? fun p => match p.kernel with
    | some k => (match s.kernel? k with | some y => if y.st = .pending then some k else none | none => none)
    | none => none

/-- The LAUNCH of queue q, PENDING or at its head, can start now: its placement fits (R365). -/
def State.startable (s : State) (q : Nat) : Bool :=
  match s.pendingOf q with
  | some k => (match s.kernel? k with | some x => (s.placement (s.placedHead x.image)).isSome | none => false)
  | none =>
    s.headReady q && s.headGood q && packetType (s.packet q) == 1 && !s.argWaits q &&
    (let w := s.packet q
     s.headStatus q == 0 && (s.placement (s.placedHead (w.getD 1 0))).isSome)

/-- The startable queues of a level. -/
def State.startableAt (s : State) (level : Nat) : List Nat :=
  (List.range 64).filter fun q => (s.dev.queue q).prio == level && s.startable q

/-- The queue served next among some, round robin after the one last served. -/
def roundRobin (last : Nat) (l : List Nat) : Option Nat := (l.find? (last < ·)).or l.head?

/-- The level that is served (R365): one that higher levels have passed by 15 times, else the highest with a startable head. -/
def Arbiter.pick (a : Arbiter) (has : Nat → Bool) : Option Nat :=
  ([2, 1, 0].find? fun k => has k && 15 ≤ a.passed.getD k 0).or ([3, 2, 1, 0].find? has)

/-- The counts after a start at a level: the lower levels with a startable head have been passed by once more. -/
def Arbiter.served' (a : Arbiter) (ref level q : Nat) (has : Nat → Bool) : Arbiter :=
  { last := some ref
    served := a.served.set level q
    passed := a.passed.mapIdx fun k n => if k < level ∧ has k then n + 1 else 0 }

/-- The arbiter counts a start of the head of queue q, at the queue's level. -/
def State.countStart (s : State) (q : Nat) : State :=
  s.onDev fun d => { d with arbiter := d.arbiter.served' d.ref (d.queue q).prio q fun k => !(s.startableAt k).isEmpty }

/-- A PENDING kernel is placed when a candidate fits (row 2). -/
def State.placeKernel (s : State) (k : Nat) : State :=
  match s.kernel? k with
  | none => s
  | some x =>
    if x.st ≠ .pending then s
    else match s.placement (s.placedHead x.image) with
      | some l => s.loadKernel k l ((s.dev.queues.map LaunchQueue.prio).getD x.queue 0)
      | none => s

/-- The queue that the arbiter serves now (R365): the choice is made at most once in 64 reference periods, and while launches may start. -/
def State.choice (s : State) : Option Nat :=
  if !s.dev.launching || !s.dev.mayLaunch then none
  else
    let lists := [0, 1, 2, 3].map s.startableAt
    match s.dev.arbiter.pick fun k => !(lists.getD k []).isEmpty with
    | none => none
    | some level => roundRobin (s.dev.arbiter.served.getD level 0) (lists.getD level [])

/-- The LAUNCH of queue q starts: accepted, unless it is PENDING, and placed. -/
def State.startQueue (s : State) (q : Nat) : State :=
  let s := if (s.pendingOf q).isSome then s else s.launch q
  match s.pendingOf q with
  | some k => s.placeKernel k
  | none => s

/-- One choice of the arbiter. -/
def State.arbitrate (s : State) : State :=
  match s.choice with
  | some q => (s.countStart q).startQueue q
  | none => s

/-- PENDING_PLACEMENT (R354): the PENDING kernel numbered who is placed where the arbiter serves its queue (R365). One that is LOADING has len writes of its data answered by other devices, with the cause val or 0; sub is the physical context they are for. -/
def execPendingPlacement (s : State) : Host.Outcome State Fault Refusal :=
  match s.kernel? s.ev.who with
  | some x =>
    .next (if x.st = .loading then s.answered s.ev.who x s.ev.len s.ev.sub (s.ev.val % 256)
      else if x.st = .pending ∧ s.choice = some x.queue then s.arbitrate else s)
  | none => .next s

/-- The LAUNCH at the head of queue q, whose argument block is there, is refused, or waits as PENDING where its placement does not fit; neither is a start (R239, R354). -/
def State.admitHead (s : State) (q : Nat) : State :=
  if s.dev.launching ∧ (s.headStatus q ≠ 0 ∨ s.startable q = false) then s.launch q else s

/-- That LAUNCH is refused, waits as PENDING, or is started where the arbiter serves its queue (R365). -/
def State.startHead (s : State) (q : Nat) : State := if s.choice = some q then s.arbitrate else s.admitHead q

/-- LAUNCH_PACKET (R352): a LAUNCH at the head of queue who is checked, and started where the arbiter serves the queue (R365). data holds the eight words of a descriptor on another device, or val a cause with which its read was refused; one that has still to come is asked for. -/
def execLaunchPacket (s : State) : Host.Outcome State Fault Refusal :=
  s.onLaunchQueue 64 fun s => s.takeHead s.ev.who 1 fun t =>
    let t := if t.argWaits s.ev.who ∧ (s.ev.val ≠ 0 ∨ s.ev.data ≠ []) then t.argsCome s.ev.who s.ev.data (s.ev.val != 0) else t
    if t.argWaits s.ev.who then t.askArgs s.ev.who else t.startHead s.ev.who

/-- The heads of a queue but SEND and a LAUNCH that the arbiter starts are processed, the packets accepted go on. -/
def State.queueClk (s : State) (q : Nat) : State :=
  if !(s.dev.queue q).en && (s.dev.queue q).pkts.isEmpty then s
  else
    let s := s.signalDue q
    let s := s.waitDue q (s.waitLate q)
    if !s.headReady q then s
    else if !s.headGood q then s.badPacket q
    else match packetType (s.packet q) with
      | 0 => s.onDev fun d => d.accept q none
      | 1 => if s.argWaits q then s.askArgs q else s.admitHead q
      | 2 | 3 => s.onDev fun d => d.accept q (some (s.newPacket q none))
      | _ => s

/-- One reference period of the launch queues and the arbiter; no launch starts outside ACTIVE, while an IDLE is held, or in retention entry (R388, R401). -/
def State.queuesClk (s : State) : State := ((List.range 70).foldl State.queueClk s).arbitrate

end Sys2Proof.Machine
end

