-- ==== Sys2Proof/Machine/Links.lean ====
section
/-! DEFINITION. Links.lean: the fabric ports, the streams over them, the slots of locked mode, the time limit of remote requests, and the messages of IEEE 1588 and of the management bus (R368, R371 to R376, R384, R407, R409). -/

namespace Sys2Proof.Machine

/-! ## Streams (R373) -/

/-- The port a request was sent on: contexts' and engines' requests name it, a collective message too; those of firmware, the front end and barriers travel on their destination's. -/
def Device.portFor (d : Device) (e : Event) : Nat :=
  match e.who with
  | 2 | 3 | 4 => e.data.headD 8
  | _ => d.portOf (physDev e.addr)

/-- A request of a context or an engine command has no acknowledgement yet; a message of a collective has none until the exchange is made. -/
def State.unacknowledged (s : State) (e : Event) : Bool :=
  if e.who = 2 then (s.ctxAt e.sub).gq.any fun a => a.sent && some a.id == e.data[2]?
  else if e.who = 3 then
    (s.focusCore e.sub).core.pool.cmds.any fun c => c.run.wait && some c.ctx == e.data[2]? && some c.id == e.data[3]?
  else if e.who = 4 then
    s.coreList.any fun n => (s.focusCore n).core.pool.cmds.any fun c => c.queue == 3 && bits c.b.toNat 58 6 == e.sub && c.seq == e.len && c.run.idx == 0
  else false

/-- Two entries of the outbox are one request, sent twice. -/
def sameRequest (a b : Event) : Bool := a.who == b.who && a.sub == b.sub && a.addr == b.addr && a.data.tail == b.data.tail

/-- The requests whose last sending was on port k, in their order. -/
def lastOn (k : Nat) : List Event → List Event
  | [] => []
  | e :: t => if 2 ≤ e.who ∧ e.who ≤ 4 ∧ e.data.headD 8 = k ∧ !t.any (sameRequest e) then e :: lastOn k t else lastOn k t

/-- The device a request goes to. -/
def Event.goesTo (e : Event) : Nat := if e.who = 4 then e.data.getD 1 0 else physDev e.addr

/-- A request on the port its destination has now. -/
def Device.reroute (d : Device) (e : Event) : Event := { e with data := d.portOf e.goesTo :: e.data.tail }

/-- Every unacknowledged request of port k is sent again, in order, on the port its stream has now, before what waits for a slot (R373, R376). -/
def State.resend (s : State) (k : Nat) : State :=
  let l := ((lastOn k s.dev.outbox).filter s.unacknowledged).map s.dev.reroute
  let move := fun (e : Event) => if 2 ≤ e.who ∧ e.who ≤ 4 ∧ e.data.headD 8 = k then s.dev.reroute e else e
  let s := s.onDev fun d => { d with links := { d.links with held := d.links.held.map move } }
  if s.dev.lockedMode then s.onDev fun d => { d with links := { d.links with held := l ++ d.links.held } }
  else (s.onDev fun d => { d with outbox := d.outbox ++ l }).accepted l

/-! ## Port states (R375, Table 17.3) -/

/-- A port carries traffic: UP or DEGRADED. -/
def Port.usable (p : Port) : Bool := p.st == 2 || p.st == 3

/-- Port k of the device. -/
def Device.port (d : Device) (k : Nat) : Port := d.links.ports.getD k { st := 0, lanes := 0, retry := 0, en := false, cls := 0, lat := 0 }

/-- Port k of the device with a change. -/
def Device.onPort (d : Device) (k : Nat) (f : Port → Port) : Device :=
  { d with links := { d.links with ports := d.links.ports.mapIdx fun i p => if i = k then f p else p } }

/-- A port changed; when it stops or begins to carry traffic, its streams, or those that had no port, move (R373). -/
def State.movePort (s : State) (k : Nat) (f : Port → Port) : State :=
  let was := (s.dev.port k).usable
  let s := s.onDev fun d => d.onPort k f
  let is := (s.dev.port k).usable
  if was && !is then s.resend k else if !was && is then s.resend 8 else s

/-- A write of FPCTL.EN of port k (rows 1 and 6). -/
def State.portEnable (s : State) (k : Nat) (en : Bool) : State :=
  s.movePort k fun p =>
    if en then { p with en := true, st := if p.st = 0 then 1 else p.st }
    else { p with en := false, st := 0, lanes := 0 }

/-- A write of 1 to FPCTL.TRAIN of port k (row 7). -/
def State.portTrain (s : State) (k : Nat) : State := s.movePort k fun p => if p.st = 4 ∧ p.en then { p with st := 1, lanes := 0 } else p

/-- Training of port k ends with some good lanes and a measured latency (rows 3 to 5). -/
def State.portTrained (s : State) (k good lat : Nat) : State :=
  if (s.dev.port k).st ≠ 1 then s
  else if 8 ≤ good then s.movePort k fun p => { p with st := 2, lanes := 8, lat := lat % 2 ^ 8 }
  else if 4 ≤ good then s.movePort k fun p => { p with st := 3, lanes := 4, lat := lat % 2 ^ 8 }
  else (s.movePort k fun p => { p with st := 4, lanes := 0 }).onDev fun d => d.logError 0x08 0 k 0 good

/-- Port k goes OFF: BOOT and RETAIN entry (row 1). -/
def State.portOff (s : State) (k : Nat) : State := s.movePort k fun p => { p with st := 0, lanes := 0 }

/-- An event of port who. -/
def State.onPortEvent (s : State) (f : State → State) : Host.Outcome State Fault Refusal :=
  if s.ev.who ≥ 8 then .fault (.noSuchAgent s.ev.who) else .next (f s)

/-- FPCTL_EN (R375): val bit 0 written to FPCTL.EN of port who. -/
def execFpctlEn (s : State) : Host.Outcome State Fault Refusal := s.onPortEvent fun s => s.portEnable s.ev.who (bitAt s.ev.val 0)

/-- FPCTL_TRAIN (R375): a write of 1 to FPCTL.TRAIN of port who. -/
def execFpctlTrain (s : State) : Host.Outcome State Fault Refusal := s.onPortEvent fun s => s.portTrain s.ev.who

/-- The CXL link trains (R368) at a rate in GT/s and on some lanes: with 256-byte flits it carries CXL down to 32 GT/s and four lanes; one that trains only without them comes up with CXL.io alone. -/
def State.hostTrained (s : State) (flit : Bool) (rate lanes : Nat) : State :=
  if s.dev.power.st = .off ∨ (s.dev.power.st = .retain ∧ s.dev.away) then s
  else s.onDev fun d => { d with links := { d.links with cxl :=
    if rate < 32 ∨ lanes < 4 then { st := 0, rate := 0, lanes := 0 } else { st := if flit then 2 else 1, rate := min rate 64, lanes := min lanes 8 } } }

/-- TRAINING_END (R368, R375): training of port who ends with val good lanes and a scheduled latency of len slots; who 8 is the CXL link, len its rate and sub 1 that it trains with 256-byte flits. -/
def execTrainingEnd (s : State) : Host.Outcome State Fault Refusal :=
  if s.ev.who = 8 then .next (s.hostTrained (s.ev.sub == 1) s.ev.len s.ev.val)
  else s.onPortEvent fun s => s.portTrained s.ev.who s.ev.val s.ev.len

/-- PORT_FAULT (R375 row 2, R386): port who has replayed val flits and goes back to TRAINING; with sub 1 the flits passed on a replay, and the port stays as it is. -/
def execPortFault (s : State) : Host.Outcome State Fault Refusal :=
  s.onPortEvent fun s => s.movePort s.ev.who fun p =>
    if p.usable then { p with st := if s.ev.sub = 1 then p.st else 1, lanes := if s.ev.sub = 1 then p.lanes else 0, retry := (p.retry + s.ev.val) % 2 ^ 16 } else p

/-! ## Slots of locked mode (R376) -/

/-- The class of a request: 1 of contexts, 2 of collectives, 0 of engines, firmware and barriers. -/
def Event.slotClass (e : Event) : Nat := match e.who with | 2 => 1 | 4 => 2 | _ => 0

/-- The class of slot j of a port. -/
def Port.slotClass (p : Port) (j : Nat) : Nat := bits p.cls (2 * (j % 16)) 2

/-- The first n waiting requests that satisfy sel leave, in order; the rest stay. -/
def takeSome (sel : Event → Bool) : Nat → List Event → List Event × List Event
  | _, [] => ([], [])
  | 0, l => ([], l)
  | n + 1, e :: t =>
    if sel e then let r := takeSome sel n t; (e :: r.1, r.2)
    else let r := takeSome sel (n + 1) t; (r.1, e :: r.2)

/-- Slot j of port k begins and carries up to n waiting requests of its class; class 3 carries none. -/
def State.carry (s : State) (k j n : Nat) : State :=
  let d := s.dev
  let r := takeSome (fun e => d.portFor e == k && e.slotClass == (d.port k).slotClass j) n d.links.held
  (s.onDev fun d => { d with outbox := d.outbox ++ r.1, links := { d.links with held := r.2 } }).accepted r.1

/-- A slot of port k begins in this reference period and has not carried its requests yet: it does, at most 32 of a class-1 slot, of the other classes n (R376, R414; log 53). -/
def State.slotBegins (s : State) (k n : Nat) : State :=
  let j := s.dev.ref / 64
  let p := s.dev.port k
  if s.dev.ref % 64 ≠ 0 ∨ p.slot = j + 1 then s
  else (s.onDev fun d => d.onPort k fun p => { p with slot := j + 1 }).carry k j (if p.slotClass j = 1 then 32 else n)

/-- LOCKED_SLOT (R376): the slot sub of port who begins, when REF has come to it; len says how many of the waiting requests fit in it, 0 that all do. -/
def execLockedSlot (s : State) : Host.Outcome State Fault Refusal :=
  s.onPortEvent fun s =>
    if s.dev.lockedMode ∧ s.dev.ref / 64 % 16 = s.ev.sub % 16 then s.slotBegins s.ev.who (if s.ev.len = 0 then s.dev.links.held.length else s.ev.len) else s

/-- The slots that begin in this reference period; outside locked mode nothing waits for one. -/
def State.slotsClk (s : State) : State :=
  if !s.dev.lockedMode then
    if s.dev.links.held.isEmpty then s
    else (s.onDev fun d => { d with outbox := d.outbox ++ d.links.held, links := { d.links with held := [] } }).accepted s.dev.links.held
  else (List.range 8).foldl (fun (s : State) k => s.slotBegins k s.dev.links.held.length) s

/-! ## The time limit of remote requests (R374) -/

/-- A request to an address has waited too long: since it was first sent, or, while no port has taken it, with no port for it. -/
def Device.timedOut (d : Device) (taken : Bool) (a since : Nat) : Bool := d.expired since && (taken || d.portOf (physDev a) == 8)

/-- A context's request has waited too long. -/
def Device.lateAccess (d : Device) (a : GlobAcc) : Bool := a.sent && d.timedOut a.acc a.addr a.since

/-- A command of the focused core has waited too long for its line of another device. -/
def State.lateCommand (s : State) (c : Command) : Bool :=
  c.run.wait && s.dev.expired c.since &&
    !s.dev.links.held.any fun e => e.who == 3 && e.sub == s.coreNo && e.data[2]? == some c.ctx && e.data[3]? == some c.id && s.dev.portFor e < 8

/-- The requests of the focused context to other devices that have waited too long end refused. -/
def State.expireCtx (s : State) : State :=
  (s.ctx.gq.filter s.dev.lateAccess).foldl (fun (s : State) a => s.globResponse a.id Cause.unmapped.code 0) s

/-- The lines of engine commands of the focused core that have waited too long end refused. -/
def State.expireCommands (s : State) : State :=
  (s.core.pool.cmds.filter s.lateCommand).foldl
    (fun (s : State) c => s.engineResponse c.ctx c.id Cause.unmapped.code 0 0) s

/-- The remote requests of the focused core that have waited too long. -/
def State.expireCore (s : State) : State :=
  let late := fun (c : Ctx) => c.gq.any s.dev.lateAccess
  let s := if late s.ctx || late s.partner then
      [0, 1].foldl (fun (s : State) k => s.atCtx (2 * s.coreNo + k) State.expireCtx) s else s
  if s.core.pool.cmds.any s.lateCommand then s.expireCommands else s

/-- Firmware core k with a change. -/
def State.onFw (s : State) (k : Nat) (f : FwCore → FwCore) : State :=
  { s with fw := s.fw.mapIdx fun i c => if i = k then f c else c }

/-- An exception or interrupt of a firmware core: mcause and mtval, mepc the instruction, MIE into MPIE and off, and on to the base of mtvec. -/
def FwCore.trapAt (c : FwCore) (cause val : Nat) : FwCore :=
  { c with mcause := word cause, mepc := c.pc, mtval := word val, pie := c.ie, ie := false, pc := c.mtvec &&& ~~~3 }

/-- An exception that gives no value. -/
def FwCore.trap (c : FwCore) (cause : Nat) : FwCore := c.trapAt cause 0

/-- A bus error of firmware core k (R29): the cause stands in its fault code; exception m. -/
def State.busError (s : State) (k : Nat) (c : Cause) (m : Nat) : State := s.onFw k fun x => { x.trap m with fault := c.code }

/-- The read that firmware core k has asked another device for is answered: a value, and a cause code or 0. -/
def State.fwAnswered (s : State) (k v cause : Nat) : State :=
  (s.onDev fun d => d.askEnds (fun x => x.kind == 3 && x.n == k) 1).onFw k fun c => { c with asked := c.asked.map fun _ => some (v, cause) }

/-- The oldest store of firmware core k to another device is answered: with a cause other than 0 the core takes the bus error. -/
def State.fwStored (s : State) (k cause : Nat) : State :=
  let s := s.onDev fun d => d.askEnds (fun x => x.kind == 4 && x.n == k) 1
  if cause = 0 then s else s.busError k (refusalOf cause) 7

/-- A unit's request has waited too long. -/
def Device.lateAsk (d : Device) (x : Ask) : Bool := d.expired x.since && !(d.links.held.contains x.req && d.portFor x.req < 8)

/-- A unit's request ends refused, with UNMAPPED: its queue stops, its kernel aborts, its LAUNCH is refused, its firmware core takes the bus error (Table 2.2). -/
def State.expireAsk (s : State) (x : Ask) : State :=
  match x.kind with
  | 0 => s.signalAnswered x.n x.k Cause.unmapped.code
  | 1 => (match s.kernel? x.n with
    | some y => s.answered x.n y 0 x.k Cause.unmapped.code
    | none => s.onDev fun d => d.askEnds (· == x) 1)
  | 2 => s.argsCome x.n [] true
  | 3 => s.fwAnswered x.n 0 Cause.unmapped.code
  | _ => s.fwStored x.n Cause.unmapped.code

/-- The units' requests that have waited too long. -/
def State.expireAsks (s : State) : State := (s.dev.links.asks.filter s.dev.lateAsk).foldl (fun (s : State) x => if s.dev.links.asks.contains x then s.expireAsk x else s) s

/-- The remote requests of the device that have waited too long. -/
def State.expireClk (s : State) : State := (s.coreList.foldl (fun (s : State) n => s.atCore n State.expireCore) s).expireAsks

/-! ## IDE, quotes and the boot status word (R368, R407, R409) -/

/-- IDE_KM (R368): the key data, named by its stream and slot val, is set over an SPDM session; the flows it protects are CXL.io and CXL.cachemem. -/
def execIdeKm (s : State) : Host.Outcome State Fault Refusal :=
  .next (s.onDev fun d => { d with links := { d.links with ide := setAdd d.links.ide s.ev.val } })

/-- The boot status word (Table 18.12). -/
def Boot.word (b : Boot) : Nat :=
  b.warm.toNat + b.romver % 2 ^ 8 * 2 ^ 16 + b.fwver % 2 ^ 16 * 2 ^ 24 + b.cause % 2 ^ 8 * 2 ^ 40 + b.stage % 2 ^ 8 * 2 ^ 48

/-- An answer of the part on the management bus: 10 a quote, 11 the boot status word. -/
def Device.answer (d : Device) (kind : Nat) (val : Nat) (data : List Nat) : Device :=
  { d with outbox := d.outbox ++ [{ who := kind, sub := 0, addr := 0, val := val, len := 0, data := data }] }

/-- What a quote signs (R407): the nonce val of 256 bits, the ROM version, the SHA-512 of the firmware image and that of the configuration record, and the firmware version. -/
def State.quoted (s : State) : List Nat :=
  [s.ev.val % 2 ^ 256, s.dev.boot.romver, s.dev.boot.image.sha, s.dev.boot.configSha, s.dev.boot.fwver]

/-- The SHA-512 of a quote's values, one after the other in 32, 1, 64, 64 and 2 bytes (R407; log 9). -/
def quoteDigest (l : List Nat) : Nat := unchunks 8 (sha512 ((List.zipWith bytesOf [32, 1, 64, 64, 2] l).flatten))

/-- QUOTE (R407): the nonce val is answered over SPDM: the quoted values, and the signature made with the attestation key, which the part alone holds. While the rails are off no firmware runs that would answer. -/
def execQuote (s : State) : Host.Outcome State Fault Refusal :=
  if s.dev.away then .next s
  else
    let r := s.freshBits 512
    .next (r.2.onDev fun d => d.answer 10 (Config.signature (Config.attestationKey Config.identitySeed) (quoteDigest s.quoted) r.1) s.quoted)

/-- BOOTST_REQUEST (R409): the mask ROM answers with the boot status word, in every state but OFF. -/
def execBootstRequest (s : State) : Host.Outcome State Fault Refusal :=
  .next (if s.dev.power.st = .off then s else s.onDev fun d => d.answer 11 d.boot.word [])

end Sys2Proof.Machine
end

