-- ==== Sys2Proof/Machine/Collect.lean ====
section
/-! DEFINITION. Collect.lean: the collective groups, coll, and what the collective engines do (R377 to R382). -/

namespace Sys2Proof.Machine

/-! ## Groups (R377) -/

/-- Group g of the device. -/
def Device.group (d : Device) (g : Nat) : CollGroup := d.links.groups.getD g { n := 0, base := 0, digest := 0 }

/-- M of a group. -/
def CollGroup.members (x : CollGroup) : Nat := x.n + 1

/-- The entries of a group's member list, in rank order. -/
def Device.memberList (d : Device) (x : CollGroup) : List Nat := chunks 32 x.members (d.mem.readBits (physLocal (x.base * 2 ^ 9)) (32 * x.members))

/-- The entry that names physical context c of the device. -/
def Device.memberEntry (d : Device) (c : Nat) : Nat := d.devId * 2 ^ 19 + c / 2 * 2 ^ 11 + c % 2 * 2 ^ 10

/-- The physical context of this device that an entry names. -/
def Device.localMember (d : Device) (e : Nat) : Option Nat :=
  if bits e 19 13 = d.devId ∧ bits e 0 10 = 0 then some (2 * bits e 11 8 + bits e 10 1) else none

/-- A region of bits from a physical address lies in local HBM4 (R371). -/
def Device.inHbm (d : Device) (a w : Nat) : Bool := a < 2 ^ 60 && physDev a == d.devId && physLocal a + w ≤ 0x30000000000

/-- GRP of a control word (Table 17.4). -/
def kwGRP (w : Word) : Nat := bits w.toNat 58 6
/-- ROOT. -/
def kwROOT (w : Word) : Nat := bits w.toNat 45 13
/-- FMT. -/
def kwFMT (w : Word) : Nat := bits w.toNat 40 5
/-- ANC. -/
def kwANC (w : Word) : Int := sext (bits w.toNat 28 12) 12
/-- N. -/
def kwN (w : Word) : Nat := bits w.toNat 0 25

/-- A collective of group g is in flight on the device. -/
def State.collInFlight (s : State) (g : Nat) : Bool :=
  s.coreList.any fun n => (s.focusCore n).core.pool.cmds.any fun c => c.queue == 3 && kwGRP c.b == g

/-- A write of CGRP g (R377): ignored while a collective of g is in flight, or when the list would leave local HBM4 (R371); the digest is that of the list as it stands. -/
def State.writeGroup (s : State) (g v : Nat) : State :=
  let x : CollGroup := { n := bits v 51 13, base := bits v 0 51, digest := 0 }
  if s.collInFlight g ∨ (x.base ≠ 0 ∧ !s.dev.inHbm (x.base * 2 ^ 9) (32 * x.members)) then s
  else
    let bytes := (s.dev.memberList x).flatMap fun e => chunks 8 4 e
    let x := if x.base = 0 then x else { x with digest := unchunks 8 ((sha512 bytes).take 8) }
    s.onDev fun d => { d with links := { d.links with groups := d.links.groups.set g x } }

/-- CGRP_WRITE (R377): val written to CGRP who. -/
def execCgrpWrite (s : State) : Host.Outcome State Fault Refusal :=
  if s.ev.who ≥ 64 then .fault (.noSuchAgent s.ev.who) else .next (s.writeGroup s.ev.who s.ev.val)

/-! ## coll (R378, R379) -/

/-- The element width of a collective (Table 17.4). -/
def kwWidth (w : Word) : Nat := ((Fmt.ofCode (kwFMT w)).map Fmt.width).getD 1

/-- A format the collectives take. -/
def collFormat (n : Nat) : Bool := n ≤ 0x04 || (0x10 ≤ n && n ≤ 0x17)

/-- An all-reduce or a reduce-scatter. -/
def collSums (op : Nat) : Bool := op == 0 || op == 3

/-- The first check of Table 17.5. -/
def collOk (op : Nat) (w e : Word) (x : CollGroup) : Bool :=
  bits w.toNat 25 3 == 0 && cwReserved e &&
  (if collSums op then collFormat (kwFMT w) && kwN w ≤ 4096 else kwFMT w == 0 && kwANC w == 0) &&
  kwN w != 0 && x.base != 0 && (op != 3 || kwN w % x.members == 0) && (op != 1 || kwROOT w < x.members)

/-- The bits a member reads. -/
def collSpan (op : Nat) (w : Word) : Nat := if collSums op then kwN w * kwWidth w else kwN w

/-- The lanes a member writes. -/
def collLanes (op : Nat) (w : Word) (m : Nat) : Nat := if op = 3 then kwN w / m else kwN w

/-- The first address or lane a collective's spans offend with (Table 17.5, R31). -/
def collOffence (op : Nat) (w : Word) (m src dst : Nat) : Option Nat :=
  if src + collSpan op w > 2 ^ 24 then some src
  else if collSums op then (if dst + collLanes op w m > 4096 then some dst else none)
  else if dst + (if op = 2 then m * kwN w else kwN w) > 2 ^ 24 then some dst
  else none

/-- The windows of the destination lanes hold the anchor of the control word. -/
def Core.anchorsAre (c : Core) (l n : Nat) (a : Int) : Bool :=
  (List.range ((l + n - 1) / 64 + 1 - l / 64)).all fun k => c.anchorOf (l + 64 * k) == a

/-- coll of one operation: the checks of Table 17.5 in order, its member list read under R43 (DEDUCED, log 102), then an entry of queue 3 (R225, R378, R379). -/
def collCommand (op : Nat) (iss : Bool) (ord : Fin 16) (d a b : Fin 32) (s : State) : Host.Outcome State Fault Refusal :=
  runSlot (do
    let w ← readReg d.val
    let src ← readReg a.val
    let dst ← readReg b.val
    let e ← readReg (b.val + 1)
    let s ← get
    let x := s.dev.group (kwGRP w)
    check (collOk op w e x) .format w
    match s.poisoned (physLocal (x.base * 2 ^ 9)) (32 * x.members) with
    | some p => raise .poison (word (s.dev.devId * 2 ^ 47 + p))
    | none => pure ()
    check ((s.dev.memberList x).contains (s.dev.memberEntry s.phys)) .illegalUse w
    check (cwBarsOk e) .illegalUse e
    match collOffence op w x.members src.toNat dst.toNat with
    | some n => raise .illegalUse (word n)
    | none =>
      check (!collSums op || s.core.anchorsAre dst.toNat (collLanes op w x.members) (kwANC w)) .illegalUse w
      stageCommand 3
        { queue := 3, ctx := s.phys, lcore := s.ctx.lcore, tag := s.ctx.gen, op := op, order := ord.val, issuer := iss,
          a := src, b := w, d := dst, e := e, hsrc := 0, hdst := 0, frm := 0, seed := 0, sctr := 0, pc := s.bundle.pc,
          older := s.accNo, id := s.newCommand, target := s.coreNo, started := false, left := 0 }) s

/-- coll.allr (R378). -/
def execCollAllr (iss : Bool) (ord : Fin 16) (d a b : Fin 32) (s : State) : Host.Outcome State Fault Refusal := collCommand 0 iss ord d a b s
/-- coll.bcast (R378). -/
def execCollBcast (iss : Bool) (ord : Fin 16) (d a b : Fin 32) (s : State) : Host.Outcome State Fault Refusal := collCommand 1 iss ord d a b s
/-- coll.allg (R378). -/
def execCollAllg (iss : Bool) (ord : Fin 16) (d a b : Fin 32) (s : State) : Host.Outcome State Fault Refusal := collCommand 2 iss ord d a b s
/-- coll.rsc (R378). -/
def execCollRsc (iss : Bool) (ord : Fin 16) (d a b : Fin 32) (s : State) : Host.Outcome State Fault Refusal := collCommand 3 iss ord d a b s

/-- A command commits and enters its queue (R225); a collective gets its count on its group (R377). -/
def State.commitCommand (s : State) (c : Command) : State :=
  if c.queue ≠ 3 then s.onCore fun k => { k with pool := { k.pool with cmds := k.pool.cmds ++ [c] } }
  else
    let key := 64 * c.ctx + kwGRP c.b
    let n := (assoc? s.dev.links.counts key).getD 0
    (s.onCore fun k => { k with pool := { k.pool with cmds := k.pool.cmds ++ [{ c with seq := n, since := s.dev.ref }] } }).onDev fun d =>
      { d with links := { d.links with counts := assocSet d.links.counts key (n + 1) } }

/-! ## The exchange (R380, R381) -/

/-- What a member brings to a collective: its rank, operation, control word, digest, and the bits it read. -/
structure Contribution where
  rank   : Nat
  op     : Nat
  cw     : Nat
  digest : Nat
  data   : Nat
deriving DecidableEq, Repr

/-- The contributions of members of other devices, five numbers each. -/
def contributions : List Nat → List Contribution
  | r :: o :: w :: d :: v :: t => { rank := r, op := o, cw := w, digest := d, data := v } :: contributions t
  | _ => []

/-- The collective numbered n on group g that physical context c has issued. -/
def State.collOf (s : State) (g n c : Nat) : Option Command :=
  (s.focusCore (c / 2)).core.pool.cmds.find? fun x => x.queue == 3 && x.ctx == c && kwGRP x.b == g && x.seq == n

/-- The members of group g that have issued its collective numbered n on this device: rank and command. -/
def State.collIssued (s : State) (g n : Nat) : List (Nat × Command) :=
  (s.dev.memberList (s.dev.group g)).zipIdx.filterMap fun (p : Nat × Nat) =>
    match s.dev.localMember p.1 with
    | some c => (s.collOf g n c).map fun x => (p.2, x)
    | none => none

/-- A member's collective may start: it is at the head of its queue, but for others of the same collective, and its acquire and ISSUER wait are over (R225, R231). -/
def State.collStarts (s : State) (g n : Nat) (c : Command) : Bool :=
  let t := s.focus c.ctx
  ((t.core.pool.cmds.filter fun x => x.queue == 3 && !x.started).takeWhile fun x => !(x.ctx == c.ctx && x.id == c.id)).all
    (fun x => kwGRP x.b == g && x.seq == n) && t.mayStart c 0

/-- The bits member c of a collective reads (R380): of a broadcast only the root reads. -/
def State.collNeeds (s : State) (c : Command) : Nat :=
  let x := s.dev.group (kwGRP c.b)
  if c.op = 1 then (if (s.dev.memberList x)[kwROOT c.b]? == some (s.dev.memberEntry c.ctx) then kwN c.b else 0) else collSpan c.op c.b

/-- What a member brings, once it has read its source. -/
def State.collBrings (s : State) (g : Nat) (r : Nat × Command) : Contribution :=
  { rank := r.1, op := r.2.op, cw := r.2.b.toNat, digest := (s.dev.group g).digest, data := r.2.run.inV }

/-- A member has read its source and waits for the exchange. -/
def State.collHasRead (s : State) (c : Command) : Bool := c.started && c.run.idx == 0 && s.collNeeds c ≤ c.run.rpos

/-- A member on the focused core reads the next line of its source (R167, R259): a poisoned word ends its reading with that cause. -/
def State.collRead (s : State) (c : Command) : State :=
  let r := c.run
  let a := c.a.toNat + r.rpos
  let n := s.collNeeds c
  let w := min (n - r.rpos) (512 - a % 512)
  if w = 0 then s
  else if !s.core.engineFree .act a w r.kept then s.engineKept c s.coreNo .act a w
  else if (s.core.poisoned .act a w).isSome then s.onCore fun k => k.setCommand { c with run := { r with rpos := n, cause := Cause.poison.code } }
  else s.onCore fun k => (k.useCells .act a w).setCommand
    { c with run := { r with inV := r.inV + k.act.readBits a w * 2 ^ r.inN, inN := r.inN + w, rpos := r.rpos + w, kept := 0 } }

/-- The contribution of every rank below m, in order; none while one is missing. -/
def allRanks (l : List Contribution) : Nat → Option (List Contribution)
  | 0 => some []
  | m + 1 => match allRanks l m, l.find? fun x => x.rank == m with
    | some t, some x => some (t ++ [x])
    | _, _ => none

/-- The members agree in operation, control word and digest (R381). -/
def agree (l : List Contribution) : Bool :=
  match l with
  | [] => true
  | x :: t => t.all fun y => y.op == x.op && y.cw == x.cw && y.digest == x.digest

/-- The collective of a member on the focused core ends in error (R381): its barriers go to ERROR, and COLLEND is appended. -/
def State.collFailed (s : State) (c : Command) (cause : Nat) : State :=
  let s := if cwBV c.e then s.barrierError (cwBAR c.e) cause else s
  let s := if cwSBV c.e then s.barrierError (cwSBAR c.e) cause else s
  (s.record 6 c.ctx c.pc (cause * 2 ^ 13 + kwGRP c.b * 2 ^ 7) c.seq).onCore fun k => k.dropCommand c

/-- Some members' collectives end in error. -/
def State.collAllFail (s : State) (l : List (Nat × Command)) (cause : Nat) : State :=
  l.foldl (fun (s : State) (r : Nat × Command) => s.atCore (r.2.ctx / 2) fun t => t.collFailed r.2 cause) s

/-- Element i of a contribution as a lane of its own: k modulo 2^256 and the flags that AddToLane derives at the anchor (R64, R380). -/
def Contribution.grid (x : Contribution) (i : Nat) : Lane :=
  let w := word x.cw
  match Fmt.ofCode (kwFMT w) with
  | some t => ({ v := 0, flags := 0 } : Lane).add (Fmt.value t (bits x.data (i * Fmt.width t) (Fmt.width t))) (kwANC w)
  | none => { v := 0, flags := 0 }

/-- Lane i of a sum over every member: the k added modulo 2^256, the flags joined. -/
def gridSum (l : List Contribution) (i : Nat) : Lane :=
  l.foldl (fun (a : Lane) x => let g := x.grid i; { v := a.v + g.v, flags := a.flags ||| g.flags }) { v := 0, flags := 0 }

/-- The data of a collective at the member of rank r on the focused core (R380), which its engine then adds to the sum file 64 lanes a clk, or writes to the scratch line by line (R259): a lane as 261 bits, its value and its flags. -/
def State.collApply (s : State) (r : Nat) (c : Command) (l : List Contribution) : State :=
  let n := kwN c.b
  let q := collLanes c.op c.b l.length
  let out :=
    if collSums c.op then
      let first := if c.op = 3 then r * q else 0
      (261 * q, unchunks 261 ((List.range q).map fun i => let x := gridSum l (first + i); x.v.toNat + x.flags.toNat * 2 ^ 256))
    else if c.op = 1 then (n, ((l[kwROOT c.b]?).map Contribution.data).getD 0)
    else (l.length * n, unchunks n (l.map Contribution.data))
  s.onCore fun k => k.setCommand { c with run := { c.run with outN := out.1, outV := out.2, wpos := 0, kept := 0, idx := 1 } }

/-- The next 64 lanes of a sum at a member on the focused core. -/
def State.collAdd (s : State) (c : Command) : State :=
  let r := c.run
  let n := min 64 (r.outN / 261)
  let xs := chunks 261 n r.outV
  s.onCore fun k =>
    (k.laneOp (.grid (c.d.toNat + r.wpos) (xs.map fun x => x % 2 ^ 256) (xs.map fun x => x / 2 ^ 256))).1.setCommand
      { c with run := { r with outV := r.outV / 2 ^ (261 * n), outN := r.outN - 261 * n, wpos := r.wpos + n } }

/-- The collectives that run on the device, by group and number. -/
def State.collRunning (s : State) : List (Nat × Nat) :=
  (s.coreList.flatMap fun n => ((s.focusCore n).core.running 3).map fun c => (kwGRP c.b, c.seq)).dedup

/-- A member's contribution leaves for the members on other devices (R377). -/
def State.collSend (s : State) (g n : Nat) (x : Contribution) : State :=
  ((s.dev.memberList (s.dev.group g)).map (fun e => bits e 19 13)).dedup.foldl (fun (s : State) dev =>
    if dev = s.dev.devId then s
    else s.onDev fun d => d.send { who := 4, sub := g, addr := x.rank, val := x.data, len := n, data := [d.portOf dev, dev, x.op, x.cw, x.digest] }) s

/-- Every rank below m has issued, on this device or, by what they bring, on others. -/
def ranksIssued (mine : List (Nat × Command)) (remote : List Contribution) (m : Nat) : Bool :=
  (List.range m).all fun r => mine.any (fun x => x.1 == r) || remote.any fun x => x.rank == r

/-- A collective of group g of a lower number is still under way on the device: those of one group perform in count order (R377). -/
def State.collEarlier (s : State) (g n : Nat) : Bool :=
  s.coreList.any fun c => (s.focusCore c).core.pool.cmds.any fun x => x.queue == 3 && kwGRP x.b == g && x.seq < n

/-- The collective numbered n of group g starts once every member has issued it (R380): its members on this device read their sources. -/
def State.collBegin (s : State) (g n : Nat) (remote : List Contribution) : State :=
  let mine := s.collIssued g n
  if mine = [] ∨ (mine.any fun r => r.2.started) ∨ !(mine.all fun r => s.collStarts g n r.2) ∨ 16 ≤ s.collRunning.length ∨ s.collEarlier g n ∨
      !ranksIssued mine remote (s.dev.group g).members then s
  else mine.foldl (fun (s : State) (r : Nat × Command) => s.atCore (r.2.ctx / 2) fun t => t.onCore fun k => k.setCommand { r.2 with started := true }) s

/-- The members on this device have read their sources, and what they bring leaves for the others, once. -/
def State.collOut (s : State) (g n : Nat) : State :=
  (s.collIssued g n).foldl (fun (s : State) (r : Nat × Command) =>
    if s.collHasRead r.2 ∧ !r.2.run.swap then
      (s.collSend g n (s.collBrings g r)).atCore (r.2.ctx / 2) fun t => t.onCore fun k => k.setCommand { r.2 with run := { r.2.run with swap := true } }
    else s) s

/-- The collective numbered n of group g is performed once its members have read their sources (R380), with what the members of other devices bring; members that disagree, and a poisoned source, end it in error (R381). -/
def State.collExchange (s : State) (g n : Nat) (remote : List Contribution) : State :=
  let mine := s.collIssued g n
  if mine = [] ∨ !(mine.all fun r => s.collHasRead r.2) then s
  else match allRanks (mine.map (s.collBrings g) ++ remote) (s.dev.group g).members with
    | none => s
    | some l =>
      if !agree l then s.collAllFail mine Cause.format.code
      else if mine.any fun r => r.2.run.cause != 0 then s.collAllFail mine Cause.poison.code
      else mine.foldl (fun (s : State) (r : Nat × Command) => s.atCore (r.2.ctx / 2) fun t => t.collApply r.1 r.2 l) s

/-- What the members of other devices bring to the collective numbered n of group g has come: it is performed, or, while its members here still have to start or to read, waits for them as the event e. -/
def State.collMeets (s : State) (g n : Nat) (remote : List Contribution) (e : Event) : State :=
  let s := (s.collBegin g n remote).collOut g n
  let mine := s.collIssued g n
  if mine = [] ∨ (mine.any fun r => r.2.run.idx != 0) then s
  else if mine.all fun r => s.collHasRead r.2 then s.collExchange g n remote
  else s.postpone 1 .collectiveExchange e

/-- COLLECTIVE_EXCHANGE (R380): every member of group sub has issued its collective numbered val; data holds what the members of other devices bring. -/
def execCollectiveExchange (s : State) : Host.Outcome State Fault Refusal :=
  if s.ev.sub ≥ 64 then .fault (.noSuchAgent s.ev.sub) else .next (s.collMeets s.ev.sub s.ev.val (contributions s.ev.data) s.ev)

/-- The collective numbered n of group g, which some member has not issued, ends with UNMAPPED at every member that issued it (R381). -/
def State.collTimeout (s : State) (g n : Nat) : State :=
  let mine := s.collIssued g n
  if (mine.any fun r => r.2.started) ∨ ranksIssued mine [] (s.dev.group g).members then s else s.collAllFail mine Cause.unmapped.code

/-- COLLECTIVE_TIMEOUT (R381): some member has not issued the collective numbered val of group sub within CTMO of the first issue observed. -/
def execCollectiveTimeout (s : State) : Host.Outcome State Fault Refusal :=
  if s.ev.sub ≥ 64 then .fault (.noSuchAgent s.ev.sub) else .next (s.collTimeout s.ev.sub s.ev.val)

/-! ## The clk of the engine -/

/-- A collective of the focused core completes (R380): its counts into BAR and SBAR. -/
def State.collDone (s : State) (c : Command) : State :=
  let x := s.dev.group (kwGRP c.b)
  let n := kwN c.b
  let wrote := match c.op with
    | 0 => n * 256
    | 1 => n
    | 2 => x.members * n
    | _ => n / x.members * 256
  let read := s.collNeeds c
  let s := if cwBV c.e then s.arriveAt (cwBAR c.e) wrote else s
  let s := if cwSBV c.e then s.arriveAt (cwSBAR c.e) read else s
  s.onCore fun k => k.dropCommand c

/-- The next line of a broadcast or an all-gather written at a member, with its full bits (R173, R259). -/
def State.collWrite (s : State) (c : Command) : State :=
  let r := c.run
  let a := c.d.toNat + r.wpos
  let w := min r.outN (512 - a % 512)
  if !s.core.engineFree .act a w r.kept then s.engineKept c s.coreNo .act a w
  else s.onCore fun k =>
    (((k.putAll .act [{ addr := a, width := w, val := r.outV % 2 ^ w }]).useCells .act a w).fill a w).setCommand
      { c with run := { r with outV := r.outV / 2 ^ w, outN := r.outN - w, wpos := r.wpos + w, kept := 0 } }

/-- A collective at a member has made its last write: it completes in its next clk. -/
def Command.collReady (c : Command) : Bool := c.run.idx == 1 && c.run.outN == 0

/-- One clk of the collectives that run on the focused core, but for those that complete in it. -/
def State.collsWork (s : State) : State :=
  ((s.core.running 3).filter fun c => !c.collReady).foldl (fun (s : State) c =>
    if c.run.idx = 0 then s.collRead c else if collSums c.op then s.collAdd c else s.collWrite c) s

/-- The commands of a core that complete in this clk: their last write is behind them (R232, R245). -/
def Core.finishing (k : Core) : List Command :=
  k.pool.cmds.filter fun c => c.started && (if c.queue = 3 then c.collReady else c.run.held)

/-- The commands of the focused core that complete in this clk make their counts (R245), after those that ended in error in it (Table 11.3). -/
def State.enginesDone (s : State) (done : List Command) : State :=
  (done.filter fun c => c.queue = 3).foldl State.collDone ((s.copiesDone done).reloadsDone done)

/-- The collectives of the device that wait, by group and number, with REF of the first issue of each. -/
def State.collWaiting (s : State) : List (Nat × Nat × Nat) :=
  (s.coreList.flatMap fun n => (s.focusCore n).core.pool.cmds.filter fun c => c.queue == 3 && !c.started).foldl
    (fun (l : List (Nat × Nat × Nat)) c =>
      if l.any fun x => x.1 == kwGRP c.b && x.2.1 == c.seq then
        l.map fun x => if x.1 = kwGRP c.b ∧ x.2.1 = c.seq then (x.1, x.2.1, min x.2.2 c.since) else x
      else l ++ [(kwGRP c.b, c.seq, c.since)]) []

/-- One reference period of the collectives: those whose members are all on this device and have issued start, and are performed when their sources have been read; those of which a member has not issued within CTMO.US µs end (R380, R381). -/
def State.collectivesClk (s : State) : State :=
  let s := s.collWaiting.foldl (fun (s : State) x =>
    let t := s.collBegin x.1 x.2.1 []
    if x.2.2 + t.dev.links.ctmo * 1200 ≤ t.dev.ref then t.collTimeout x.1 x.2.1 else t) s
  s.collRunning.foldl (fun (s : State) x => (s.collOut x.1 x.2).collExchange x.1 x.2 []) s

end Sys2Proof.Machine
end

