-- ==== Sys2Proof/Machine/Tick.lean ====
section
/-! DEFINITION. Tick.lean: what one clk of a core and one reference period of the device bring of themselves: latencies that run, results that land, accesses that perform, engines, waits that end (R8, R84, R101, R168, R246, R253, R270; log 1). -/

namespace Sys2Proof.Machine

/-! ## One clk nearer -/

/-- The results of a context one clk nearer to landing, and the pushes and accesses on their way. -/
def Ctx.advance (c : Ctx) : Ctx :=
  { c with
    pend := c.pend.map fun p => { p with left := p.left - 1 }
    gq := c.gq.map fun a => { a with left := a.left - 1 }
    rings := c.rings.map fun r => { r with buf := r.buf.map fun w => { w with left := w.left - 1 } }
    regs := { c.regs with bAge := c.regs.bAge.map (· + 1) }
    stopped := c.stopped.map (· + 1) }

/-- What is on the way in a core one clk nearer; the claims of engines on cells end. -/
def Core.advance (k : Core) : Core :=
  { k with
    clk := k.clk + 1
    locals := k.locals.map fun x => { x with left := x.left - 1 }
    barOps := k.barOps.map fun x => { x with left := x.left - 1 }
    laneActs := k.laneActs.map fun x => { x with left := x.left - 1 }
    drains := k.drains.map fun x => { x with left := x.left - 1 }
    walks := k.walks.map fun x => { x with left := x.left - 1 }
    fmtPend := k.fmtPend.map fun x => { x with left := x.left - 1 }
    busLeft := k.busLeft - 1
    engCells := [] }

/-- f applied with each slot of the focused core at work, slot 0 first. -/
def State.eachSlot (s : State) (f : State → State) : State := [0, 1].foldl (fun s k => s.atCtx (2 * s.coreNo + k) f) s

/-- The BFMT values whose 64 clk are over take effect, slot 0's first, and are kept for the clk whose primary may order them otherwise (R171). -/
def Core.fmtClk (k : Core) : Core :=
  let due := k.fmtPend.filter fun x => x.left == 0
  let k := { k with fmtTie := due }
  if due.isEmpty then k else ({ k with fmtPend := k.fmtPend.filter fun x => x.left != 0 } : Core).putFmts 0 due

/-- The focused core and its contexts one clk nearer. -/
def State.nearer (s : State) : State :=
  ({ s with core := s.core.advance, ctx := s.ctx.advance, partner := s.partner.advance }).onCore Core.fmtClk

/-- The context of a slot that has stopped issuing, in WAITING, by a park or a fault: its values take effect (R171). -/
def State.stopFmt (s : State) : State :=
  match s.ctx.st with
  | .ready | .running | .trapped => s
  | _ => s.fmtStops

/-! ## Waits (R101 rows 7 and 12, R222, R248, R253) -/

/-- The condition a WAITING context waits for holds. -/
def State.waitOver (s : State) : Bool :=
  match s.ctx.wait with
  | .barrier => s.ctx.barWait.all fun w => s.ctx.released.contains w.2
  | .ring => (match s.ctx.ringWait with | some (q, n) => s.qwaitOver q n.toNat | none => true)
  | .tick => s.ctx.waitVal.toNat ≤ s.dev.beat
  | .time => s.ctx.waitVal.toNat ≤ s.dev.tnow
  | .nothing => true
  | .grant | .group => false

/-- A tick or a deadline gives the waiting bundle precedence (R253). -/
def WaitOn.timed : WaitOn → Bool
  | .tick | .time => true
  | _ => false

/-- The focused context becomes READY; what released its bwait stays until its bundle commits. One that a tick or a deadline of the reference period ref releases issues after that period (R253), one that a barrier releases in clk t in clk t + 1 (R251). -/
def Ctx.wake (c : Ctx) (ref : Nat) : Ctx :=
  { c with st := .ready, first := c.wait.timed, wait := .nothing, ringWait := none
           notBefore := if c.wait.timed then ref + 1 else c.notBefore
           bubble := if c.wait = .barrier then c.bubble + 1 else c.bubble }

/-- A WAITING context looked at: a fault, a park, the end of its wait. One that a RESTORE has put back to await its group first takes the clks of the restore and re-issues its withdrawn commands (R119). -/
def State.waitClk (s : State) : State :=
  if s.ctx.st ≠ .waiting then s
  else if s.ctx.wait = .group ∧ s.ctx.bubble ≠ 0 then s.onCtx fun c => { c with bubble := c.bubble - 1 }
  else match s.ctx.gfault with
    | some f => s.takeLate f
    | none =>
      if s.ctx.blk.preq ∨ s.ctx.force then s.stopPark
      else if s.ctx.withdrawn ≠ [] then s.reissue 256
      else if s.waitOver then s.onCtx fun c => c.wake s.dev.ref else s

/-! ## Fences (R269, R270) -/

/-- The release fences whose older accesses have all performed, and the marks whose older global accesses have, hold nothing back any more. -/
def State.fencesClk (s : State) : State :=
  if s.ctx.order.rel.isEmpty && s.ctx.order.marks.isEmpty then s
  else s.onCtx fun c => { c with order := { c.order with
    rel := c.order.rel.filter fun f => !s.olderDone f.1 f.2
    marks := c.order.marks.filter fun m => !c.globalsDone m } }

/-- A fence.sc at issue whose drain is complete counts the clks since. -/
def State.scClk (s : State) : State :=
  match s.ctx.order.scDrain with
  | none => s
  | some n =>
    if s.scDrained then s.onCtx fun c => { c with order := { c.order with scDrain := some (n + 1) } }
    else s.onCtx fun c => { c with order := { c.order with scDrain := none, scPassed := false } }

/-! ## The clk of a context and of a core -/

/-- One clk of the focused context: its global accesses, its READ rings, its landings, its slice, its waits, its save, its group. -/
def State.ctxClk (s : State) : State :=
  if s.ctx.st = .free ∧ s.ctx.pend.isEmpty ∧ s.ctx.gq.isEmpty then s
  else
    let s := ((s.globSome fun _ => true).readAheadAll).landDue
    let s := (s.fencesClk.scClk).onCtx Ctx.sliceClk
    let s := s.waitClk
    let s := if s.ctx.st = .parked then s.saveClk else s
    (s.groupClk).stopFmt

/-- The barrier operations of the focused core, those of the primary's bundles first (R246); a release counts in the clk after that in which its older accesses perform (R245). -/
def State.barsClk (s : State) : State :=
  let s := s.barEach (fun o => o.ctx % 2 == s.core.primary) [] s.core.barOps
  s.barEach (fun _ => true) [] s.core.barOps

/-- The rest of a clk of the focused core, once the engines and the firmware have made their accesses: its barriers, its banks, its sum file, its function unit, its contexts. lUsed and mUsed say that a bundle of the clk took an L or an M port. -/
def State.coreTick (s : State) (lUsed mUsed : Bool) : State :=
  let s := s.barsClk.banksClk
  let s := (s.sumReads).fnClk
  let s := s.eachSlot State.ctxClk
  let s := s.walksClk
  (s.statsClk lUsed).glazeClk mUsed

/-! ## The clock of a cluster (R389) -/

/-- REF runs (R256): it stops in OFF, and from the last step of retention entry on (R401). -/
def Device.refRuns (d : Device) : Bool :=
  match d.power.st with
  | .off => false
  | .retain => d.power.retStep != 5
  | _ => true

/-- The device is up: its clusters and its engines run. -/
def Device.enginesRun (d : Device) : Bool := d.power.st == .active || d.power.retStep == 1 || d.power.retStep == 2

/-- The clock of the focused core's cluster has a clk in this reference period: F of the 24 parts of a reference clock that the ratio and step give, spread evenly. -/
def State.coreRuns (s : State) : Bool :=
  let x := s.dev.clusterOf s.coreNo
  let f := clockOf x.ratio x.step
  x.stop == 0 && (s.dev.ref * f / 24 != (s.dev.ref + 1) * f / 24) && s.dev.enginesRun

/-- What the issue of a core leaves for the rest of the clk: whether its cluster's clock had a clk, whether a bundle took an L or an M port, and the commands of its engines that complete. -/
structure Turn where
  core  : Nat
  ran   : Bool
  lUsed : Bool
  mUsed : Bool
  done  : List Command
deriving DecidableEq, Repr

/-- f applied to the cores of some turns in order. -/
def State.eachTurn (s : State) (l : List Turn) (f : Turn → State → State) : State := l.foldl (fun s t => s.atCore t.core (f t)) s

/-- What a clk brings before its accesses, once the bundles of every core have issued: the addends at the sum files (R324), the check passes and then the reloads of every core, so that an access meets a half as the clk's transitions leave it (R10, R278, R280), and the collectives and remote requests that start or end in error, which reach a barrier before its arrivals (Table 11.3). The engines have a clk in each reference period (R389; DESIGN CHOICE, log 85). -/
def State.beforeAccesses (s : State) (l : List Turn) : State :=
  let s := if s.dev.enginesRun then s.eachTurn l fun _ s => s.collsWork else s
  let s := s.eachTurn l fun t s => if t.ran then s.sumAdds 0 else s
  let s := s.eachTurn l fun t s => if t.ran then s.passesClk else s
  let s := if s.dev.enginesRun then s.eachTurn l fun _ s => s.reloadsWork else s
  if s.dev.refRuns then s.collectivesClk.expireClk else s

/-- The engines of every core make their accesses, the writes first (R324), and count the commands that complete (R10, R246). -/
def State.engineAccesses (s : State) (l : List Turn) : State :=
  if !s.dev.enginesRun then s
  else
    let readers := l.map fun t => (t.core, (s.focusCore t.core).core.copiesThat false)
    let s := s.eachTurn l fun _ s => s.copiesWork (s.core.copiesThat true)
    let s := readers.foldl (fun (s : State) r => s.atCore r.1 fun t => (t.copiesWork r.2).copiesStart) s
    s.eachTurn l fun t s => s.enginesDone t.done

/-- Each core's own accesses end the clk (R169, R246, R324). -/
def State.afterAccesses (s : State) (l : List Turn) : State := s.eachTurn l fun t s => if t.ran then s.coreTick t.lUsed t.mUsed else s

/-! ## One reference period of the device -/

/-- The contexts whose tick or deadline has come become READY in this period, whatever their cluster's clock (R253). -/
def State.timedClk (s : State) : State :=
  if s.ctx.wait.timed then s.waitClk else s

/-- A heartbeat tick of the reference period ref reaches a context: a fence.sc whose drain was complete 128 clk ago may commit after that period (R270). -/
def Ctx.ticked (ref : Nat) (c : Ctx) : Ctx :=
  match c.order.scDrain with
  | some n => if 128 ≤ n ∧ !c.order.scPassed then { c with order := { c.order with scPassed := true }, notBefore := ref + 1 } else c
  | none => c

/-- REF has come to n (R254, R255): the ticks and deadlines it passes reach every context, and the kernels whose tick it is are released (R356). -/
def State.refTo (s : State) (n : Nat) : State :=
  let tick := s.dev.ref / 1024 < n / 1024
  let s := (s.onDev fun d => { d with ref := max d.ref n }).scrubClk
  let s := (if tick then s.mapCtx (Ctx.ticked s.dev.ref) else s).releasesClk
  s.coreList.foldl (fun (s : State) n => s.atCore n fun t => t.eachSlot State.timedClk) s

/-- One reference period passes (R254): REF advances, with the releases; the launch queues, XCINV, the clusters, and every 1,200 periods, one µs, the ramp, the meters, the migrations and the caps. -/
def State.devTick (s : State) : State :=
  if !s.dev.refRuns then s else
  let s := s.hatchClk.refTo (s.dev.ref + 1)
  let s := s.slotsClk
  let s := s.queuesClk.xcinvClk
  let s := if s.dev.power.requests.isEmpty then s else s.grantClk
  let s := s.clustersClk
  if s.dev.ref % 1200 = 0 then ((s.rampClk.meterStep).migrateStep).judgeCap else s

end Sys2Proof.Machine
end

