-- ==== Sys2Proof/Machine/Time.lean ====
section
/-! DEFINITION. Time.lean: the heartbeat, deadlines, the timer's registers and the discipline of REF (R253 to R257, R384). -/

namespace Sys2Proof.Machine

/-- HEARTBEAT_TICK (R254): REF reaches its next multiple of 1,024, BEAT advances, and the waits whose tick has come are over. -/
def execHeartbeatTick (s : State) : Host.Outcome State Fault Refusal :=
  .next (if s.dev.refRuns then s.refTo ((s.dev.ref / 1024 + 1) * 1024) else s)

/-- The least REF at which TNOW is at least t (R254). -/
def refAt (t : Nat) : Nat := (6 * t + 4) / 5

/-- WAITT_DEADLINE (R253): TNOW reaches the deadline that context who waits for. -/
def execWaittDeadline (s : State) : Host.Outcome State Fault Refusal :=
  if s.ev.who ≥ 512 then .fault (.noSuchAgent s.ev.who)
  else
    let c := s.ctxAt s.ev.who
    .next (if s.dev.refRuns ∧ c.st = .waiting ∧ c.wait = .time then s.refTo (refAt c.waitVal.toNat) else s)

/-- A write of TSET (R255): REF moves forward, and every wait it passes completes; a value behind REF sets SETERR. -/
def State.writeTset (s : State) (v : Nat) : State :=
  if s.dev.ref ≤ v then (s.onDev fun d => { d with refSet := true }).refTo v else s.onDev fun d => { d with setErr := true }

/-- TSET (R255): val written. -/
def execTset (s : State) : Host.Outcome State Fault Refusal := .next (s.writeTset (s.ev.val % 2 ^ 64))

/-- PTP_MESSAGE (R257, R384): a message on Ethernet port who measures the offset val in ns, 32-bit two's complement; SYNC says whether it lies within ±40 ns. With sub 1 the servo holds the reference clock ratio-locked to PTP time, which is addr ns: TSTAT.LOCKED is 1 and REF its 6/5, never moved backwards. A message on another port than PTPCTL.PORT, or while PTP does not run, is none of the servo's. -/
def execPtpMessage (s : State) : Host.Outcome State Fault Refusal :=
  let l := s.dev.links
  if !l.ptpEn ∨ l.ptpPort ≠ s.ev.who then .next s
  else
    let off := s.ev.val % 2 ^ 32
    let near := (sext off 32).natAbs ≤ 40
    let s := s.onDev fun d => { d with links := { d.links with ptpOffset := off, ptpSync := near } }
    .next (if s.ev.sub = 1 ∧ s.dev.refRuns then (s.onDev fun d => { d with locked := true, refSet := true }).refTo (s.ev.addr * 6 / 5) else s)

end Sys2Proof.Machine
end

