-- ==== Sys2Proof/Machine/Registers.lean ====
section
/-! DEFINITION. Registers.lean: the unit registers: what each reads as and what a write of it does, and which agents reach it (R9, R28, R102, R170, R202, R204, R226, R235, R237, R241, R255, R307, R386, R390, R408). -/

namespace Sys2Proof.Machine

/-- A write of a 64-bit register: its value with the halves not written as they read, the written halves alone, and which were written. -/
structure RegWrite where
  val : Nat
  raw : Nat
  lo  : Bool
  hi  : Bool
deriving DecidableEq, Repr

/-- A write of w bits, 32 or 64, of v at offset o within a register that reads as old. -/
def regWrite (old o w v : Nat) : RegWrite :=
  if w = 64 then { val := v % 2 ^ 64, raw := v % 2 ^ 64, lo := true, hi := true }
  else if o % 64 = 0 then { val := setBits old 0 32 v, raw := v % 2 ^ 32, lo := true, hi := false }
  else { val := setBits old 32 32 v, raw := v % 2 ^ 32 * 2 ^ 32, lo := false, hi := true }

/-! ## 0x701: the context blocks (Tables 5.7 and 9.3) -/

/-- The registers of the focused context's block. -/
def State.ctxReg (s : State) (o : Nat) : Option Nat :=
  let b := s.ctx.blk
  match o with
  | 0x000 => some (s.ctx.st.code + b.preq.toNat * 2 ^ 7 + b.ign.toNat * 2 ^ 8)
  | 0x040 => some 0
  | 0x080 => some b.slice
  | 0x0C0 => some (b.save * 2 ^ 21)
  | 0x100 => some (b.fcause % 2 ^ 8 + b.fslots % 2 ^ 8 * 2 ^ 16 + b.fpc % 2 ^ 21 * 2 ^ 24)
  | 0x140 => some (b.root + b.asid * 2 ^ 52)
  | _ => none

/-- The context goes KILLED, and its kernel aborts (row 1). -/
def State.killCmd (s : State) : State :=
  match s.ctx.st with
  | .free | .retired => s.ignored
  | _ => s.killCtx.abortMine 0

/-- RETIRE on the focused context (row 22). -/
def State.retireCmd (s : State) : State :=
  if s.ctx.st = .faulted then (s.retireCtx).abortMine s.ctx.blk.fcause else s.ignored

/-- A command written to CXCTL (Table 5.7). -/
def State.command (s : State) (n : Nat) : State :=
  match n with
  | 1 => s.parkCmd
  | 2 => s.forceCmd
  | 3 => s.killCmd
  | 4 => s.restoreCmd
  | 5 => s.restartCmd
  | 6 => s.retireCmd
  | 7 => s.freeCmd
  | 8 => s.detachCmd
  | 9 => s.attachCmd
  | _ => s.ignored

/-- The bits of the largest save area (Table 5.8). -/
def saveAreaBits : Nat := 2 ^ 21

/-- A write of CXSAVE (R102, R371): an area outside local HBM4 leaves it unchanged and sets IGN; 0 names no area. -/
def State.writeSave (s : State) (v : Nat) : State :=
  let base := bits v 21 39
  if base = 0 ∨ s.dev.inHbm (base * 2 ^ 21) saveAreaBits then s.onCtx fun c => { c with blk := { c.blk with save := base } }
  else s.ignored

/-- A write of CXSLICE (R120): CSTAT.SLICEUP, and its copy in the header of a saved context, say whether the slice is raised to its floor. DESIGN CHOICE (log 96): a new value restarts the count, and the same value written again does not. -/
def State.writeSlice (s : State) (n : Nat) : State :=
  let s := s.onCtx fun c =>
    let b := { c.blk with slice := n, sliced := if n = c.blk.slice then c.blk.sliced else 0 }
    { c with blk := b, sliceUp := b.raised }
  if s.ctx.st = .saved then s.onDev fun d => d.put (physLocal s.ctx.blk.area + 65) 1 s.ctx.sliceUp.toNat else s

/-- A write into the focused context's block. -/
def State.writeCtxReg (s : State) (o : Nat) (x : RegWrite) : State :=
  match o with
  | 0x000 => if bitAt x.raw 8 then s.onCtx fun c => { c with blk := { c.blk with ign := false } } else s
  | 0x040 => if x.lo then s.command (bits x.raw 0 6) else s
  | 0x080 => s.writeSlice (x.val % 2 ^ 32)
  | 0x0C0 => s.writeSave x.val
  | 0x140 => if physDev (bits x.val 0 41 * 2 ^ 19) = s.dev.devId then s.writeRoot x.val else s
  | _ => s

/-! ## 0x703: translation and migration (Table 9.3, R204) -/

/-- The registers of translation, migration and the hatch tree. -/
def Device.migReg (d : Device) (o : Nat) : Option Nat :=
  let g := d.mig
  match o with
  | 0x000 => some (g.en.toNat + g.big.toNat * 2 + g.promo * 4 + g.lowat * 2 ^ 8)
  | 0x040 => some g.limit
  | 0x080 => some (g.aband + g.done * 2 ^ 32)
  | 0x0C0 => some (g.int + g.sample * 2 ^ 32)
  | 0x100 => some (g.hbase + g.hcount * 2 ^ 40)
  | 0x140 => some (g.lbase + g.lcount * 2 ^ 40)
  | 0x180 => some 0
  | 0x1C0 => some g.busy.toNat
  | 0x200 => some (d.hatch.n * 2 ^ 36 + d.hatch.asid * 2 ^ 52)
  | 0x240 => some d.hatch.buf
  | 0x280 => some d.hatch.len
  | _ => none

/-- A write of HFREE or LFREE names local memory; one that names another device is ignored (R371). -/
def State.localBase (s : State) (v : Nat) : Bool := physDev (v % 2 ^ 40 * 2 ^ 20) == s.dev.devId

/-- A write of one of them. -/
def State.writeMigReg (s : State) (o : Nat) (x : RegWrite) : State :=
  let v := x.val
  let onMig := fun (f : MigRegs → MigRegs) => s.onDev fun d => { d with mig := f d.mig }
  let onHatch := fun (f : Hatch → Hatch) => s.onDev fun d => { d with hatch := f d.hatch }
  match o with
  | 0x000 => onMig fun g => { g with en := bitAt v 0, big := bitAt v 1, promo := bits v 2 3, lowat := bits v 8 16 }
  | 0x040 => onMig fun g => { g with limit := v % 2 ^ 32 }
  | 0x0C0 => onMig fun g => { g with int := v % 2 ^ 32, sample := bits v 32 4 }
  | 0x100 => if s.localBase v then onMig fun g => { g with hbase := v % 2 ^ 40, hcount := bits v 40 24 } else s
  | 0x140 => if s.localBase v then onMig fun g => { g with lbase := v % 2 ^ 40, lcount := bits v 40 24 } else s
  | 0x180 => s.writeXcinv x.raw
  | 0x200 => onHatch fun h => { h with asid := bits v 52 12, n := bits v 36 16, count := 0 }
  | 0x240 => onHatch fun h => { h with buf := v % 2 ^ 51 }
  | 0x280 => onHatch fun h => { h with len := v % 2 ^ 32 }
  | _ => s

/-! ## 0x704: the pool and the statistics ring of a core (Tables 10.5 and 10.10) -/

/-- The registers of the focused core's pool and statistics ring. -/
def Core.poolReg (c : Core) (o : Nat) : Option Nat :=
  match o with
  | 0x000 | 0x040 | 0x080 | 0x0C0 => some (c.pool.mins.getD (o / 64) 0 + c.pool.caps.getD (o / 64) 0 * 2 ^ 16)
  | 0x100 => some (c.pool.free + c.pool.err.toNat * 2 ^ 16)
  | 0x200 => some c.stats.base
  | 0x240 => some c.stats.len
  | 0x280 => some c.stats.wr
  | 0x2C0 => some c.stats.drop
  | _ => none

/-- A write of SQBASE and SQLEN: one that would place the region outside local HBM4 is ignored (R235). -/
def State.writeStats (s : State) (base len : Nat) : State :=
  if s.dev.inHbm (base * 2 ^ 9) (len * 128) then s.onCore fun c => { c with stats := { c.stats with base := base, len := len } } else s

/-- A write of one of them. -/
def State.writePoolReg (s : State) (o : Nat) (x : RegWrite) : State :=
  match o with
  | 0x000 | 0x040 | 0x080 | 0x0C0 =>
    s.onCore fun c => { c with pool := c.pool.setLimit (o / 64) (bits x.val 16 10) (bits x.val 0 10) }
  | 0x100 => if bitAt x.raw 16 then s.onCore fun c => { c with pool := { c.pool with err := false } } else s
  | 0x200 => s.writeStats (x.val % 2 ^ 51) s.core.stats.len
  | 0x240 => s.writeStats s.core.stats.base (x.val % 2 ^ 20)
  | _ => s

/-! ## Launch and transport queues (Table 10.11) -/

/-- The registers of a queue. -/
def LaunchQueue.reg (q : LaunchQueue) (o : Nat) : Option Nat :=
  match o with
  | 0x000 => some q.base
  | 0x040 => some (q.en.toNat + q.prio * 2 ^ 8 + q.err.toNat * 2 ^ 10 + q.log2n * 2 ^ 11)
  | 0x080 => some q.wr
  | 0x0C0 => some q.rd
  | 0x100 => some q.stat
  | _ => none

/-- A write of one of them on device d (R237, R371). -/
def LaunchQueue.write (q : LaunchQueue) (d : Device) (o : Nat) (x : RegWrite) : LaunchQueue :=
  match o with
  | 0x000 => if q.en ∨ physDev (x.val % 2 ^ 51 * 2 ^ 9) ≠ d.devId then q else { q with base := x.val % 2 ^ 51 }
  | 0x040 =>
    let n := bits x.val 11 5
    { q with
      log2n := if q.en ∨ 20 < n then q.log2n else n
      err := q.err && !bitAt x.raw 10
      prio := bits x.val 8 2
      en := bitAt x.val 0 }
  | 0x080 => { q with wr := x.val % 2 ^ 32 }
  | _ => q

/-! ## Barriers (Table 11.2) -/

/-- The registers of a barrier. -/
def Barrier.reg (b : Barrier) (core : Bool) (o : Nat) : Option Nat :=
  match o with
  | 0x00 => some (b.count + b.epoch * 2 ^ 40 + b.phase.toNat * 2 ^ 61 + b.state * 2 ^ 62)
  | 0x40 => some (b.target + b.cause * 2 ^ 56)
  | 0x80 => some 0
  | 0xC0 => some (if core then 0 else b.notify.toNat)
  | _ => none

/-- A write to ARRIVE of device barrier j: an arrival of n bits, dropped unless ARMED (R241). -/
def State.writeArrive (s : State) (j n : Nat) : State := s.arriveAt (0x8000 + j) (n % 2 ^ 40)

/-- A write of NOTIFY of device barrier j: an ADDR that is no multiple of 64 leaves it unchanged (R241). -/
def State.writeNotify (s : State) (j v : Nat) : State :=
  if bits v 0 60 % 64 ≠ 0 then s
  else
    let b := s.barrier (0x8000 + j)
    s.setBarrier (0x8000 + j) { b with notify := word (setBits v 60 2 0) }

/-- A write into device barrier j. -/
def State.writeBarrier (s : State) (j o : Nat) (x : RegWrite) : State :=
  match o with
  | 0x80 => s.writeArrive j x.raw
  | 0xC0 => s.writeNotify j x.val
  | _ => s

/-- ARRIVE_WRITE (R241): val written to ARRIVE of device barrier who. -/
def execArriveWrite (s : State) : Host.Outcome State Fault Refusal :=
  if s.ev.who ≥ 1024 then .fault (.noSuchAgent s.ev.who) else .next (s.writeArrive s.ev.who s.ev.val)

/-! ## 0x708: the timer (Table 11.7) -/

/-- The registers of the timer. -/
def Device.timerReg (d : Device) (o : Nat) : Option Nat :=
  match o with
  | 0x000 => some (d.ref % 2 ^ 64)
  | 0x040 => some (d.tnow % 2 ^ 64)
  | 0x080 => some (d.beat % 2 ^ 64)
  | 0x0C0 => some 0
  | 0x100 => some (d.setErr.toNat + d.locked.toNat * 2)
  | _ => none

/-- A write of one of them. -/
def State.writeTimerReg (s : State) (o : Nat) (x : RegWrite) : State :=
  match o with
  | 0x0C0 => s.writeTset x.raw
  | 0x100 => if bitAt x.raw 0 then s.onDev fun d => { d with setErr := false } else s
  | _ => s

/-! ## 0x709 and 0x70A: the macros (Table 13.14, R306) -/

/-- MCNT of a core. -/
def MacroCount.word (m : MacroCount) : Nat := m.span + m.chk * 2 ^ 16 + m.late * 2 ^ 32 + m.softErr.toNat * 2 ^ 63

/-- A write of MCNT of the focused core. -/
def State.writeMcnt (s : State) (x : RegWrite) : State :=
  if bitAt x.raw 63 then s.onCore fun c => { c with mcnt := { c.mcnt with softErr := false } } else s

/-- MSCRUB. -/
def Device.scrubReg (d : Device) : Nat := d.scrubInt + d.rmErr.toNat * 2 ^ 32

/-- A write of MSCRUB. -/
def State.writeScrub (s : State) (x : RegWrite) : State :=
  s.onDev fun d => { d with scrubInt := x.val % 2 ^ 32, rmErr := d.rmErr && !bitAt x.raw 32 }

/-! ## 0x70B: the links (Table 17.6) -/

/-- The link registers. -/
def Device.linkReg (d : Device) (o : Nat) : Option Nat :=
  let l := d.links
  if o % 64 ≠ 0 then none
  else if o = 0 then some d.devId
  else if o = 0x40 then some l.ftmo
  else if o = 0x80 then some l.ctmo
  else if 0x100 ≤ o ∧ o < 0x300 then let p := d.port ((o - 0x100) / 64); some (p.st + p.retry * 2 ^ 16 + p.lanes * 2 ^ 32)
  else if 0x300 ≤ o ∧ o < 0x500 then some (d.port ((o - 0x300) / 64)).en.toNat
  else if 0x500 ≤ o ∧ o < 0x700 then let p := d.port ((o - 0x500) / 64); some (p.cls + p.lat * 2 ^ 32)
  else if o = 0x700 then some (l.ptpPort + l.ptpMaster.toNat * 2 ^ 6 + l.ptpEn.toNat * 2 ^ 7)
  else if o = 0x740 then some (l.ptpSync.toNat + l.ptpOffset * 2 ^ 32)
  else if 0x1000 ≤ o ∧ o < 0x2000 then let x := d.group ((o - 0x1000) / 64); some (x.base + x.n * 2 ^ 51)
  else none

/-- A write of FPCTL of port k: EN first, then TRAIN. -/
def State.writeFpctl (s : State) (k : Nat) (x : RegWrite) : State :=
  if !x.lo then s
  else
    let s := s.portEnable k (bitAt x.raw 0)
    if bitAt x.raw 1 then s.portTrain k else s

/-- A write of one of them (R386). -/
def State.writeLinkReg (s : State) (o : Nat) (x : RegWrite) : State :=
  let v := x.val
  let onLinks := fun (f : Links → Links) => s.onDev fun d => { d with links := f d.links }
  if o = 0 then (if s.dev.everLoaded then s else s.onDev fun d => { d with devId := v % 2 ^ 13 })
  else if o = 0x40 then onLinks fun l => { l with ftmo := v % 2 ^ 32 }
  else if o = 0x80 then onLinks fun l => { l with ctmo := v % 2 ^ 32 }
  else if 0x300 ≤ o ∧ o < 0x500 then s.writeFpctl ((o - 0x300) / 64) x
  else if 0x500 ≤ o ∧ o < 0x700 then s.onDev fun d => d.onPort ((o - 0x500) / 64) fun p => { p with cls := v % 2 ^ 32 }
  else if o = 0x700 then
    (if 6 ≤ v % 8 then s else onLinks fun l => { l with ptpPort := v % 8, ptpMaster := bitAt v 6, ptpEn := bitAt v 7 })
  else if 0x1000 ≤ o ∧ o < 0x2000 then s.writeGroup ((o - 0x1000) / 64) v
  else s

/-! ## 0x70C: power (Table 18.2) -/

/-- The code of a power state (Table 18.2). -/
def PowerState.code : PowerState → Nat
  | .off => 0 | .boot => 1 | .active => 2 | .idle => 3 | .retain => 4

/-- The power registers; the energy counters stand apart (R390). -/
def State.powerReg (s : State) (o : Nat) : Option Nat :=
  let p := s.dev.power
  if o % 64 ≠ 0 then none
  else if o = 0 then some p.cap
  else if o = 0x40 then some p.static
  else if o = 0x80 then some (p.down + p.up * 2 ^ 32)
  else if o = 0xC0 then
    some (p.pclErr.toNat * 2 ^ 20 + p.rampShort.toNat * 2 ^ 21 + p.breach.toNat * 2 ^ 22 + s.dev.lockedMode.toNat * 2 ^ 23 +
      p.duty * 2 ^ 24 + p.st.code * 2 ^ 29 + (s.granted + 999) / 1000 % 2 ^ 32 * 2 ^ 32)
  else if o = 0x100 then some p.plock.toNat
  else if o = 0x140 then some 0
  else if 0x200 ≤ o ∧ o < 0xA00 then (p.clusters[(o - 0x200) / 64]?).map fun c => c.ratio + c.step * 4
  else if 0xA00 ≤ o ∧ o < 0xB00 then (p.towers[(o - 0xA00) / 64]?).map fun t => t.tcap + t.tlim * 2 ^ 32 + t.temp * 2 ^ 48
  else none

/-- A write of PLOCK (R400). -/
def State.writeLock (s : State) (v : Nat) : State :=
  (s.onPower fun p => { p with plock := if v % 2 = 1 then p.plock || s.dev.locked else false }).judgeCap

/-- A write of PTWR of tower t. -/
def State.writeTower (s : State) (t v : Nat) : State :=
  (s.onPower fun p => p.onTower t fun x => 
    { x with tcap := v % 2 ^ 32, tlim := bits v 32 16
             hot := (x.hot && bits v 32 16 ≤ x.temp + 5) || bits v 32 16 ≤ x.temp }).judgeCap

end Sys2Proof.Machine
end

