-- ==== Sys2Proof/Machine/Boot.lean ====
section
/-! DEFINITION. Boot.lean: the power states, retention, firmware activation and boot (R387, R388, R401 to R409). -/

namespace Sys2Proof.Machine

/-! ## IDLE and ACTIVE (R388) -/

/-- Every context of the device is FREE. -/
def State.allFree (s : State) : Bool := s.coreList.all fun n => let t := s.focusCore n; t.ctx.st == .free && t.partner.st == .free

/-- A power command that matches no row (R388). -/
def State.pcmdError (s : State) : State := s.onPower fun p => { p with pclErr := true }

/-- PCMD IDLE (rows 7 and 8). -/
def State.pcmdIdle (s : State) : State :=
  if s.dev.power.st ≠ .active then s.pcmdError
  else if s.allFree then s.onPower fun p => { p with st := .idle, heldIdle := false }
  else s.onPower fun p => { p with heldIdle := true }

/-- PCMD_IDLE (R388). -/
def execPcmdIdle (s : State) : Host.Outcome State Fault Refusal := .next s.pcmdIdle

/-- A held IDLE applies when row 7 holds. -/
def State.applyIdle (s : State) : State :=
  if s.dev.power.heldIdle ∧ s.dev.power.st = .active ∧ s.allFree then s.onPower fun p => { p with st := .idle, heldIdle := false } else s

/-- HELD_IDLE_APPLY (R388). -/
def execHeldIdleApply (s : State) : Host.Outcome State Fault Refusal := .next s.applyIdle

/-- PCMD ACTIVE (rows 9 and 11). -/
def State.pcmdActive (s : State) : State :=
  match s.dev.power.st with
  | .idle => s.onPower fun p => { p with st := .active }
  | .active => if s.dev.power.heldIdle then s.onPower fun p => { p with heldIdle := false } else s.pcmdError
  | _ => s.pcmdError

/-- PCMD_ACTIVE (R388). -/
def execPcmdActive (s : State) : Host.Outcome State Fault Refusal := .next s.pcmdActive

/-! ## Retention entry (R401) -/

/-- Every context of the device in turn. -/
def State.eachCtx (s : State) (f : State → State) : State :=
  (s.coreList.flatMap fun n => [2 * n, 2 * n + 1]).foldl (fun (s : State) c => s.atCtx c f) s

/-- Step 1 on one context: a park request, which one that is parked already or faulted only holds. -/
def State.askPark (s : State) : State :=
  match s.ctx.st with
  | .ready | .running | .waiting | .trapped => s.requestPark
  | .parked | .saved | .retained | .faulted => s.onCtx fun c => { c with blk := { c.blk with preq := true } }
  | .free | .loaded | .retired => s

/-- Step 2 on one context: FORCE where it has not parked. -/
def State.askForce (s : State) : State :=
  match s.ctx.st with | .ready | .running | .waiting | .trapped => s.forcePark | _ => s

/-- Steps 1 to 3 of Table 18.6 begin. -/
def State.beginEntry (s : State) : State :=
  (s.onPower fun p => { p with retStep := 1, retSince := s.dev.ref }).eachCtx State.askPark

/-- PCMD RETAIN (row 6). -/
def State.pcmdRetain (s : State) : State :=
  match s.dev.power.st with
  | .active | .idle => (s.onPower fun p => { p with st := .retain, heldIdle := false }).beginEntry
  | _ => s.pcmdError

/-- PCMD_RETAIN (R401 step 1). -/
def execPcmdRetain (s : State) : Host.Outcome State Fault Refusal := .next s.pcmdRetain

/-- Step 2: FORCE to every context not yet PARKED. -/
def State.forceStep (s : State) : State :=
  if s.dev.power.retStep = 1 then (s.onPower fun p => { p with retStep := 2 }).eachCtx State.askForce else s

/-- RETENTION_FORCE (R401 step 2): 100 µs have passed since retention entry began. -/
def execRetentionForce (s : State) : Host.Outcome State Fault Refusal := .next s.forceStep

/-- A context has nothing left that step 3 waits for. -/
def CtxState.settled : CtxState → Bool
  | .free | .loaded | .saved | .retained | .faulted | .retired => true
  | _ => false

/-- Step 3 is over: contexts settled, started commands complete, statistics rings drained, revocations ended. -/
def State.entryDone (s : State) : Bool :=
  (s.coreList.all fun n =>
    let t := s.focusCore n
    t.ctx.st.settled && t.partner.st.settled && t.core.pool.cmds.all (fun c => !c.started) && t.core.stats.recs.isEmpty) &&
  s.dev.migs.all fun m => m.phase != 2

/-- The focused context, saved, reaches RETAINED (row 16 of Table 5.5). -/
def State.retained (s : State) : State := if s.ctx.st = .saved then s.onCtx fun c => { c with st := .retained } else s

/-- The store cache writes back and gives up its unpinned lines (R401 step 4): all of them, to hold the images (DESIGN CHOICE, log 76). -/
def Device.flushStore (d : Device) : Device :=
  { d with store := (d.store.filter StoreLine.pinned).map fun x => { x with dirty := false } }

/-- What the rails cost when they go (R402): translation caches, walks and loop buffers; a migration in COPY leaves its page where it was. -/
def State.switchOff (s : State) : State :=
  let s := s.coreList.foldl (fun (s : State) n => s.atCore n fun t =>
    (t.onCore fun k => { k with tcache := [], walks := [] }).mapOwn fun c => { c with loopBuf := [] }) s
  s.dev.migs.foldl State.abandon s

/-- Step 5: the CXL link goes down to L2. -/
def Device.linkDown (d : Device) : Device := { d with links := { d.links with cxl := { st := 0, rate := 0, lanes := 0 } } }

/-- Steps 3 to 5: contexts RETAINED; in RETAIN the links go down, the ports OFF, and the rails are switched off. -/
def State.powerDown (s : State) : State :=
  if s.dev.power.retStep ≠ 2 ∨ !s.entryDone then s
  else
    let s := s.eachCtx State.retained
    if s.dev.power.st = .retain then
      ((List.range 8).foldl State.portOff (s.onDev fun d => d.flushStore.linkDown)).switchOff.onPower fun p => { p with retStep := 5 }
    else s

/-- RETENTION_POWER_DOWN (R401 steps 3 to 5). -/
def execRetentionPowerDown (s : State) : Host.Outcome State Fault Refusal := .next s.powerDown

/-! ## Rails (R388, R404) -/

/-- The device in OFF: nothing is kept. The mask ROM is what it was. -/
def State.railsOff (s : State) : State :=
  { State.reset with
    dev := { Device.reset with power := { PowerUnit.reset with st := .off }, boot := { Boot.reset with romver := s.dev.boot.romver } }
    agenda := s.agenda
    ev := s.ev
    delays := s.delays
    free := s.free }

/-- RAIL_FAIL (row 1; R404). -/
def execRailFail (s : State) : Host.Outcome State Fault Refusal := .next s.railsOff

/-- The boot status word with a change. -/
def State.onBoot (s : State) (f : Boot → Boot) : State := s.onDev fun d => { d with boot := f d.boot }

/-- Boot halts (row 5): STAGE at the last step completed, CAUSE at the reason. -/
def State.haltBoot (s : State) (stage cause : Nat) : State := s.onBoot fun b => { b with stage := stage, cause := cause, halted := true }

/-- What a cold boot reads (R406): the firmware image and the configuration record, each with its signature: the SHA-512 of the record, DEVID, the installed LPDDR-6 in bits, the harvested cores, the retired macros by (8t + L) × 2^16 + p, and the remap registers with their values. -/
structure BootRecord where
  image  : FwImage
  config : FwImage
  devId  : Nat
  lpddr  : Nat
  cores  : List Nat
  retired : List Nat
  remap  : List (Nat × Nat)
deriving DecidableEq, Repr

/-- Pairs of a list. -/
def pairsOf : List Nat → List (Nat × Nat)
  | a :: b :: t => (a, b) :: pairsOf t
  | _ => []

/-- A signed object of a version, as four numbers give it. -/
def FwImage.ofData (l : List Nat) : FwImage :=
  { ver := l.getD 0 0 % 2 ^ 16, sha := l.getD 1 0 % 2 ^ 512, sig := l.getD 2 0 % 2 ^ 4096, key := l.getD 3 0 % 2 ^ 512 }

/-- The record as an event gives it: the image and the record's own four numbers, DEVID and the LPDDR-6 size, two counted lists and the pairs. -/
def BootRecord.ofData (l : List Nat) : BootRecord :=
  let n := l.getD 10 0
  let l1 := l.drop 11
  let l2 := l1.drop n
  let m := l2.headD 0
  { image := .ofData l, config := .ofData (l.drop 4), devId := l.getD 8 0 % 2 ^ 13,
    lpddr := min (l.getD 9 0) (2 ^ 43), cores := l1.take n, retired := (l2.drop 1).take m, remap := pairsOf (l2.drop (1 + m)) }

/-- A signed object verifies: its key is the one whose SHA-512 the ROM holds, and its signature is made with it (R406). -/
def FwImage.ok (x : FwImage) : Bool := x.key == Config.romKey && Config.signatureOk x.key x.sha x.sig

/-- The boot-time remap (Table 13.3 rows 1 and 2, R306): every half EMPTY, those of retired macros SPARED, and the registers written. -/
def Device.bootRemap (d : Device) (c : BootRecord) : Device :=
  let sp : Half := { Half.empty with st := 5 }
  let d := c.retired.foldl (fun (d : Device) k => (d.setHalf (2 * k) sp).setHalf (2 * k + 1) sp) { d with halves := [], remap := [] }
  c.remap.foldl (fun (d : Device) (r : Nat × Nat) => d.writeRemap r.1 r.2) d

/-- Where the checks of a cold boot end and why (R406): what the event brings, a cause after a step, and the two verifications; none where all pass. -/
def bootCheck (stage cause : Nat) (c : BootRecord) : Option (Nat × Nat) :=
  if cause ≠ 0 ∧ stage = 0 then some (0, cause)
  else if !c.image.ok then some (0, 2)
  else if cause ≠ 0 ∧ stage = 1 then some (1, cause)
  else if !c.config.ok then some (1, 3)
  else if cause ≠ 0 then some (min stage 4, cause)
  else none

/-- A cold boot (R406): each step whose check passes leaves what it reads, the firmware then writes the remap registers, and a check that fails, or a remap write refused, halts it. -/
def State.coldBoot (s : State) (stage cause : Nat) (c : BootRecord) : State :=
  let s := s.onPower fun p => { p with st := .boot }
  let s := s.onBoot fun b => { b with stage := 0, cause := 0, warm := false, halted := false, fwver := 0 }
  let e := bootCheck stage (cause % 256) c
  let last := match e with | some x => x.1 | none => 4
  let s := if 1 ≤ last then s.onBoot fun b => { b with fwver := c.image.ver, image := c.image } else s
  let s := if 2 ≤ last then
      (s.onBoot fun b => { b with configSha := c.config.sha }).onDev fun d => { d with devId := c.devId, lpddr := c.lpddr, harvest := c.cores }
    else s
  match e with
  | some x => s.haltBoot x.1 x.2
  | none =>
    let s := s.onDev fun d => d.bootRemap c
    if s.dev.rmErr then s.haltBoot 3 8 else s.onBoot fun b => { b with stage := 4 }

/-- A cold boot has begun and done no step: the state after reset (Table 18.2). -/
def Device.coldStart (d : Device) : Bool := d.power.st == .boot && d.power.retStep == 0 && d.boot.stage == 0 && !d.boot.halted

/-- RAILS_APPLIED (row 2): the steps of the cold boot run; with cause val another check than a signature's fails after step sub; data holds what R406 reads. -/
def execRailsApplied (s : State) : Host.Outcome State Fault Refusal :=
  .next (if s.dev.power.st = .off ∨ s.dev.coldStart then s.coldBoot s.ev.sub s.ev.val (BootRecord.ofData s.ev.data) else s)

/-- The links are retrained: ports that may train do (row 6 of Table 17.3). -/
def State.retrain (s : State) : State :=
  (List.range 8).foldl (fun (s : State) k => if (s.dev.port k).en then s.portEnable k true else s) s

/-- A warm boot at the end of RETAIN (R403 steps 1 to 4): the image that the store layers keep is verified, with FWVER 0 until then (R409), the links are retrained, and time is synchronised from a source that reads ref, 0 for none. -/
def State.warmBoot (s : State) (cause ref : Nat) : State :=
  let s := s.onPower fun p => { p with st := .boot }
  let s := s.onBoot fun b => { b with stage := 0, cause := 0, warm := true, halted := false, fwver := 0 }
  if cause % 256 ≠ 0 then s.haltBoot 0 (cause % 256)
  else if !s.dev.boot.image.ok then s.haltBoot 0 7
  else
    let s := (s.onBoot fun b => { b with stage := 1, fwver := b.image.ver }).retrain
    if ref = 0 then s else s.writeTset ref

/-- RAILS_RESTORED (row 3): the rails return in RETAIN; val is the cause that halts the warm boot, 0 for none, addr the REF of the time source. -/
def execRailsRestored (s : State) : Host.Outcome State Fault Refusal :=
  .next (if s.dev.power.st = .retain ∧ s.dev.power.retStep = 5 then s.warmBoot s.ev.val s.ev.addr else s)

/-! ## Firmware update and activation (R405) -/

/-- FIRMWARE_UPDATE (R405): an image is staged in the external flash: data holds its version, SHA-512, signature and key. -/
def execFirmwareUpdate (s : State) : Host.Outcome State Fault Refusal := .next (s.onBoot fun b => { b with staged := some (.ofData s.ev.data) })

/-- The eight words of a queue in the handover record (Table 18.7): its registers, then TAG and handle of its started LAUNCH, or 0. -/
def State.handoverQueue (s : State) (q : LaunchQueue) : List Nat :=
  let l := q.pkts.filterMap fun p => match p.kernel with
    | some k => (s.kernel? k).map fun x => (x.tag, k)
    | none => none
  let r := l.headD (0, 0)
  [q.base, (q.reg 0x40).getD 0, q.wr, q.rd, q.stat, r.1, r.2, 0]

/-- The symmetry and the translation with which a kernel lies on its towers (R354). -/
def Kernel.site (x : Kernel) : Nat × Nat × Nat :=
  let l := x.place.map (· / 2)
  let all := (List.range 8).flatMap fun g => (List.range 8).flatMap fun ty => (List.range 8).map fun tx => (g, tx, ty)
  (all.find? fun c => coresAt x.p (x.shape.getD 0 1) (x.shape.getD 1 1) x.towers c.1 c.2.1 c.2.2 == l).getD (0, 0, 0)

/-- The word of kernel handle k in the handover record: whether a kernel is placed, its towers in order, σ, tx and ty, veiled, for the manual gives the word no layout (log 8). -/
def State.handoverKernel (s : State) (k : Nat) : Nat :=
  let w := match s.dev.kernels.find? fun x => x.1 % 256 == k && x.2.st != .retired && x.2.st != .pending with
    | some (_, x) =>
      let c := x.site
      packFields ([(1, 1), (3, x.towers.length)] ++ ((List.range 4).map fun i => (2, x.towers.getD i 0)) ++ [(3, c.1), (3, c.2.1), (3, c.2.2)])
    | none => 0
  veil (0x8E00 + 64 * k) 64 w

/-- The handover record (Table 18.7) in 64-bit words. -/
def State.handoverRecord (s : State) : List Nat :=
  [1, 70] ++ List.replicate 6 0 ++ s.dev.queues.flatMap s.handoverQueue ++ (List.range 256).map s.handoverKernel

/-- A firmware activation begins (row 10): steps 1 to 3 of Table 18.6 run. -/
def State.activate (s : State) : State :=
  if s.dev.power.st ≠ .active then s
  else (s.onPower fun p => { p with st := .boot }).beginEntry

/-- FIRMWARE_ACTIVATION (R405). -/
def execFirmwareActivation (s : State) : Host.Outcome State Fault Refusal := .next s.activate

/-- The end of step 3 of an activation: the record is written, and the part reboots warm: the firmware cores start afresh, and the ROM verifies the new image, with STAGE 0 and FWVER 0 until then (R405, R409). -/
def State.reboot (s : State) : State :=
  if s.dev.power.st ≠ .boot ∨ s.dev.power.retStep ≠ 2 ∨ !s.entryDone then s
  else
    let s := (List.range 8).foldl State.portOff (s.eachCtx State.retained)
    let r := s.handoverRecord
    let s := { s with fw := List.replicate 4 .reset }
    let s := (s.onPower fun p => { p with retStep := 6 }).onBoot fun b =>
      { b with handover := r, stage := 0, cause := 0, warm := true, fwver := 0, image := b.staged.getD b.image, staged := none }
    if s.dev.boot.image.ok then s.onBoot fun b => { b with stage := 1, fwver := b.image.ver } else s.haltBoot 0 2

/-- A queue as the handover record gives it. -/
def LaunchQueue.fromRecord (q : LaunchQueue) (w : List Nat) : LaunchQueue :=
  let c := w.getD 1 0
  { q with base := w.getD 0 0, en := bitAt c 0, prio := bits c 8 2, err := bitAt c 10, log2n := bits c 11 5, wr := w.getD 2 0, rd := w.getD 3 0,
           stat := w.getD 4 0 }

/-! ## Boot completes (R388 rows 4 and 5, R403) -/

/-- A RETAINED context is restored (rows 17 and 18 of Table 5.5). -/
def State.leaveRetained (s : State) : State :=
  if s.ctx.st = .retained then (s.onCtx fun c => { c with st := .saved }).restoreCmd else s

/-- Every RETAINED context is restored, each kernel held in LOADED gets its release tick, and the arbiter starts again (R403 steps 5 and 6). -/
def State.resumeAll (s : State) : State :=
  let s := s.onPower fun p => { p with retStep := 0 }
  let s := s.eachCtx State.leaveRetained
  s.onDev fun d => { d with kernels := d.kernels.map fun (x : Nat × Kernel) =>
    if x.2.st = .loaded then (x.1, { x.2 with tick := some (releaseTick d.ref) }) else x }

/-- Boot completes: the device is ACTIVE, with the clusters as PCLUS holds them; after RETAIN or an activation the contexts resume, and a cap written in RETAIN applies (R404). -/
def State.bootDone (s : State) : State :=
  let step := s.dev.power.retStep
  let s := s.onPower fun p => { p with st := .active }
  let s := if step = 6 then
      (s.retrain.onDev fun d => { d with queues := d.queues.mapIdx fun i q => q.fromRecord ((d.boot.handover.drop (8 + 8 * i)).take 8) }).onBoot fun b => { b with stage := 7 }
    else if step = 5 then s.onBoot fun b => { b with stage := 6 }
    else s.onBoot fun b => { b with stage := 5 }
  let s := if step = 0 then s else s.resumeAll
  match s.dev.power.capHeld with
  | some v => (s.onPower fun p => { p with capHeld := none }).writeCap v
  | none => s.judgeCap

/-- The steps of the boot that runs are done: 1 to 4 of a cold boot (R406), the verification of a warm one (R403, R405). -/
def Device.bootSteps (d : Device) : Bool :=
  match d.power.retStep with
  | 0 => d.boot.stage == 4
  | 5 | 6 => 1 ≤ d.boot.stage
  | _ => false

/-- BOOT_COMPLETE (rows 4 and 5): boot completes once its steps are done, or halts with cause val after step sub. A boot that has halted stays so, and one that has not left step 3 of an activation is none. -/
def execBootComplete (s : State) : Host.Outcome State Fault Refusal :=
  if s.dev.power.st ≠ .boot ∨ s.dev.boot.halted ∨ s.dev.power.retStep = 1 ∨ s.dev.power.retStep = 2 then .next s
  else .next (if s.ev.val % 256 ≠ 0 then s.haltBoot (s.ev.sub % 256) (s.ev.val % 256) else if s.dev.bootSteps then s.bootDone else s)

/-! ## The clock of these states -/

/-- One reference period of retention entry, an activation and a held IDLE. -/
def State.entryClk (s : State) : State :=
  let p := s.dev.power
  if p.retStep = 1 then (if p.retSince + 120000 ≤ s.dev.ref then s.forceStep else s)
  else if p.retStep = 2 then (if s.dev.ref % 1200 = 0 then (if p.st = .retain then s.powerDown else s.reboot) else s)
  else if p.heldIdle ∧ p.retStep = 0 then s.applyIdle
  else s

/-! ## The rest of the power registers (Table 18.2) -/

/-- A command written to PCMD. -/
def State.pcmd (s : State) (n : Nat) : State :=
  match n with
  | 1 => s.pcmdIdle
  | 2 => s.pcmdActive
  | 3 => s.pcmdRetain
  | _ => s

/-- A write of a power register. -/
def State.writePowerReg (s : State) (o : Nat) (x : RegWrite) : State :=
  let v := x.val
  if o = 0 then s.writeCap (v % 2 ^ 32)
  else if o = 0x40 then (s.onPower fun p => { p with static := v % 2 ^ 32 }).judgeCap
  else if o = 0x80 then s.onPower fun p => { p with down := v % 2 ^ 32, up := bits v 32 32 }
  else if o = 0xC0 then
    s.onPower fun p => { p with breach := p.breach && !bitAt x.raw 22, rampShort := p.rampShort && !bitAt x.raw 21, pclErr := p.pclErr && !bitAt x.raw 20 }
  else if o = 0x100 then s.writeLock v
  else if o = 0x140 then (if x.lo then s.pcmd (x.raw % 4) else s)
  else if 0x200 ≤ o ∧ o < 0xA00 then s.writeClus ((o - 0x200) / 64) v
  else if 0xA00 ≤ o ∧ o < 0xB00 then s.writeTower ((o - 0xA00) / 64) v
  else s

/-! ## The error log (Table 18.9) -/

/-- The registers of the error log, and the boot status word. -/
def Device.logReg (d : Device) (o : Nat) : Option Nat :=
  match o with
  | 0x000 => some d.log.base
  | 0x040 => some d.log.len
  | 0x080 => some d.log.wr
  | 0x0C0 => some d.log.rd
  | 0x100 => some d.log.drop
  | 0x140 => some d.boot.word
  | _ => none

/-- A write of ELBASE and ELLEN (R408): ignored while records are unread, or when the region would leave local HBM4; records the base die holds are written out once there is a region. -/
def Device.writeRegion (d : Device) (base len : Nat) : Device :=
  if d.log.wr ≠ d.log.rd ∨ !d.inHbm (base * 2 ^ 9) (len * 256) then d
  else
    let d := { d with log := { d.log with base := base, len := len } }
    if len = 0 then d
    else d.log.held.foldl Device.putLog { d with log := { d.log with held := [] } }

/-- A write of ELRD (R408): one that would move it past ELWR is ignored. -/
def Device.writeElrd (d : Device) (v : Nat) : Device :=
  let ahead := fun (n : Nat) => (n + 2 ^ 32 - d.log.rd) % 2 ^ 32
  if ahead v > ahead d.log.wr then d else { d with log := { d.log with rd := v } }

/-- A write of one of them. -/
def State.writeLogReg (s : State) (o : Nat) (x : RegWrite) : State :=
  s.onDev fun d => match o with
    | 0x000 => d.writeRegion (x.val % 2 ^ 51) d.log.len
    | 0x040 => d.writeRegion d.log.base (x.val % 2 ^ 20)
    | 0x0C0 => d.writeElrd (x.val % 2 ^ 32)
    | _ => d

/-- ELLEN_WRITE (R408): val written to ELLEN. -/
def execEllenWrite (s : State) : Host.Outcome State Fault Refusal := .next (s.onDev fun d => d.writeRegion d.log.base (s.ev.val % 2 ^ 20))

end Sys2Proof.Machine
end

