-- ==== Sys2Proof/Machine/Bus.lean ====
section
/-! DEFINITION. Bus.lean: the accesses that come from outside the cores: to the unit registers, from other devices, from the host and from the Ethernet ports (R26 to R29, R36, R43, R238, R239, R369, R370, R372, R373, R383). -/

namespace Sys2Proof.Machine

/-! ## Unit registers by their address (R28) -/

/-- The unit a local address of the register region lies in. -/
def regUnit (a : Nat) : Nat := a / 2 ^ 32
/-- The offset within it. -/
def regOff (a : Nat) : Nat := a % 2 ^ 32

/-- A value read at another core or context. -/
def State.lookCore {α : Type} (s : State) (n : Nat) (f : State → Option α) : Option α := if n < 256 then f (s.focusCore n) else none

/-- What the 64-bit register at a local address reads as; none where there is none. -/
def State.regRead (s : State) (a : Nat) : Option Nat :=
  let o := regOff a
  match regUnit a with
  | 0x701 => if o / 0x1000 < 512 then (s.focus (o / 0x1000)).ctxReg (o % 0x1000) else none
  | 0x702 => s.lookCore (o / 0x1000) fun t => (t.core.bfmt[o % 0x1000 / 0x40]?).map BitVec.toNat
  | 0x703 => s.dev.migReg o
  | 0x704 => s.lookCore (o / 0x1000) fun t => t.core.poolReg (o % 0x1000)
  | 0x705 => if o / 0x200 < 64 then (s.dev.queue (o / 0x200)).reg (o % 0x200) else none
  | 0x706 => s.lookCore (o / 2 ^ 16) fun t => (t.barrier (o % 2 ^ 16 / 256)).reg true (o % 256)
  | 0x707 => if o / 256 < 1024 then (s.barrier (0x8000 + o / 256)).reg false (o % 256) else none
  | 0x708 => s.dev.timerReg o
  | 0x709 =>
    if o = 0x100000 then some s.dev.scrubReg
    else s.lookCore (o / 0x1000) fun t => if o % 0x1000 = 0 then some t.core.mcnt.word else none
  | 0x70A => if o / 64 < 2 ^ 20 then some (s.dev.remapped (o / 64)) else none
  | 0x70B => if o < 0x10000 then s.dev.linkReg o else if o < 0x10C00 then (s.dev.queue (64 + (o - 0x10000) / 0x200)).reg (o % 0x200) else none
  | 0x70C => s.powerReg o
  | 0x70D => s.dev.logReg o
  | _ => none

/-- What a write of the 64-bit register at a local address does. -/
def State.regPut (s : State) (a : Nat) (x : RegWrite) : State :=
  let o := regOff a
  match regUnit a with
  | 0x701 => s.atCtx (o / 0x1000) fun t => t.writeCtxReg (o % 0x1000) x
  | 0x703 => s.writeMigReg o x
  | 0x704 => s.atCore (o / 0x1000) fun t => t.writePoolReg (o % 0x1000) x
  | 0x705 => s.onDev fun d => d.onQueue (o / 0x200) fun q => q.write d (o % 0x200) x
  | 0x707 => s.writeBarrier (o / 256) (o % 256) x
  | 0x708 => s.writeTimerReg o x
  | 0x709 => if o = 0x100000 then s.writeScrub x else s.atCore (o / 0x1000) fun t => t.writeMcnt x
  | 0x70A => if x.lo then s.onDev fun d => d.writeRemap (o / 64) x.raw else s
  | 0x70B =>
    if o < 0x10000 then s.writeLinkReg o x
    else s.onDev fun d => d.onQueue (64 + (o - 0x10000) / 0x200) fun q => q.write d (o % 0x200) x
  | 0x70C => s.writePowerReg o x
  | 0x70D => s.writeLogReg o x
  | _ => s

/-- An access of w bits to a unit register is of class W, 32 or 64 bits wide and aligned (R28). -/
def regAligned (a w : Nat) : Bool := (w == 32 || w == 64) && a % w == 0

/-- An energy counter at a local address, for a firmware core's read (R390): its offset, with that of its high half. -/
def State.isCounter (s : State) (a w : Nat) : Bool :=
  regUnit a == 0x70C && ((s.dev.power.counter (regOff a)).isSome || (w == 32 && (s.dev.power.counter (regOff a - 32)).isSome && a % 64 == 32))

/-- A read of w bits of a unit register; f is the firmware core that reads. None where R28 or the maps refuse it. -/
def State.regLoad (s : State) (f a w : Nat) : Option (Nat × State) :=
  if !regAligned a w then none
  else if s.isCounter a w then some (s.readCounter f (regOff a) w)
  else (s.regRead (a / 64 * 64)).map fun v => (bits v (a % 64) w, s)

/-- A write of w bits of a unit register; none where it is refused. -/
def State.regStore (s : State) (a w v : Nat) : Option State :=
  if !regAligned a w then none
  else if s.isCounter a w then some s
  else (s.regRead (a / 64 * 64)).map fun old => s.regPut (a / 64 * 64) (regWrite old a w v)

/-- REGISTER_WRITE (R9): a firmware core writes len bits val to the unit register at local address addr; a write that is refused changes nothing (R29). -/
def execRegisterWrite (s : State) : Host.Outcome State Fault Refusal :=
  .next ((s.regStore s.ev.addr s.ev.len s.ev.val).getD s)

/-! ## The turns of the storage view (R276, R303) -/

/-- A range of local bits leaves a part of a row of a half to merge (R276). -/
def State.mergesRow (s : State) (r : Nat × Nat) : Bool :=
  match s.viewed r.1 with
  | some (_, o) => !(partRows o r.2).isEmpty
  | none => false

/-- An access to ranges of the storage view must wait: for a pass of MCHK (R303), and, where it does not merge itself, for the merges pending on its rows (R276); one through a core window for cells that no bundle needs (R167). -/
def State.viewWaits (s : State) (write : Bool) (l : List (Nat × Nat)) : Bool :=
  l.any fun r => s.windowBusy r.1 r.2 || s.passHolds r.1 || (!(write && s.mergesRow r) && s.rowsBusy r.1 r.2)

/-- An access to ranges of local bits has its effect f in its turn: at once outside the storage view; there it waits, and one that merges rows performs 2 clk after it has arrived. stage is 0 as it arrives, 1 as its merges perform, 2 when it has waited; i is its event, which happens again as e of the new stage. -/
def State.inTurn (s : State) (write : Bool) (stage : Nat) (l : List (Nat × Nat)) (i : Instr) (e : Nat → Event) (f : State → State) : State :=
  if stage = 1 then
    if l.any fun r => s.passHolds r.1 then s.postpone 1 i (e 1)
    else f (l.foldl (fun s r => s.setMerges r.1 r.2 false) s)
  else if s.viewWaits write l then s.postpone 1 i (e 2)
  else if write && l.any s.mergesRow then (l.foldl (fun s r => s.setMerges r.1 r.2 true) s).postpone 2 i (e 1)
  else f s

/-- Writes side by side taken together. -/
def joinWrites : List BitWrite → List BitWrite
  | [] => []
  | x :: t =>
    match joinWrites t with
    | y :: u => if x.addr + x.width = y.addr then { addr := x.addr, width := x.width + y.width, val := x.val % 2 ^ x.width + y.val * 2 ^ x.width } :: u else x :: y :: u
    | [] => [x]

/-- The ranges of local bits some writes cover. -/
def rangesOf (l : List BitWrite) : List (Nat × Nat) := (joinWrites l).map fun x => (physLocal x.addr, x.width)

/-! ## Requests of other devices (R372, R373) -/

/-- The writes of a request, three numbers each: address, width, value. -/
def writesOf : List Nat → List BitWrite
  | a :: w :: v :: t => { addr := a, width := w, val := v } :: writesOf t
  | _ => []

/-- A request for local bits, but for those of a mask, which it forwards from its own older stores (R260): their values, or the cause that refuses them. -/
def State.fabricRead (s : State) (a w mask : Nat) : Except Cause Nat :=
  let l := physLocal a
  if a < 2 ^ 60 ∧ regionOf s.dev.lpddr l = .regs then
    if regUnit l = 0x707 then (match (if regAligned l w then s.regRead (l / 64 * 64) else none) with
      | some v => .ok (bits v (l % 64) w)
      | none => .error .unmapped)
    else .error .unmapped
  else match s.physCause .fabric a w, (if s.isDram l then s.poisonMet a w mask else s.poisoned l w) with
    | some c, _ => .error c
    | none, some _ => .error .poison
    | none, none => .ok (s.physRead l w)

/-- Local bits written for another agent under their masks (R36, R43). -/
def State.writeMasked (s : State) (l : List BitWrite) : State :=
  if l.all fun x => s.isDram (physLocal x.addr) then s.onDev fun d => d.putMasked l
  else (joinWrites l).foldl (fun (s : State) x => s.physWrite (physLocal x.addr) x.width x.val) s

/-- The writes of a request performed: of a device barrier only ARRIVE is reached, its read-only registers ignore a write, and NOTIFY refuses it (R241). -/
def State.fabricWrite (s : State) (l : List BitWrite) : Except Cause State :=
  match l with
  | [] => .ok s
  | x :: t =>
    let a := physLocal x.addr
    if x.addr < 2 ^ 60 ∧ regionOf s.dev.lpddr a = .regs then
      if t = [] ∧ regUnit a = 0x707 ∧ regOff a % 256 / 64 ≠ 3 then (match s.regStore a x.width x.val with
        | some u => .ok u
        | none => .error .unmapped)
      else .error .unmapped
    else match l.findSome? fun y => s.physCause .fabric y.addr y.width with
      | some c => .error c
      | none => .ok (s.writeMasked l)

/-- An atomic of another device (R35, R179): the old value. -/
def State.fabricAtomic (s : State) (a w op x n : Nat) : Except Cause (Nat × State) :=
  let l := physLocal a
  if alignClass l w != .w || regionOf s.dev.lpddr l = .regs then .error .unmapped
  else match s.physCause .fabric a w, s.poisoned l w with
    | some c, _ => .error c
    | none, some _ => .error .poison
    | none, none =>
      let old := s.physRead l w
      .ok (old, match atomNew op w old x n with | some v => s.physWrite l w v | none => s)

/-- The answer to a request of stream k: its number, the cause that refused it or 0, and the bits read. -/
def Device.respond (d : Device) (k seq cause v : Nat) : Device :=
  { d with outbox := d.outbox ++ [{ who := 14, sub := cause, addr := k, val := v, len := seq, data := [] }] }

/-- A request performs at its home (R372): kind 0 reads len bits at addr, 1 writes, 2 is an atomic; the cause that refuses it or 0, the bits, and the state after. -/
def State.fabricPerform (s : State) (kind a w : Nat) (l : List Nat) : Nat × Nat × State :=
  match kind with
  | 0 => (match s.fabricRead a w (l.headD 0) with | .ok v => (0, v, s.readsLines (physLocal a) w) | .error c => (c.code, 0, s))
  | 1 => (match s.fabricWrite (writesOf l) with | .ok u => (0, 0, u) | .error c => (c.code, 0, s))
  | _ => (match s.fabricAtomic a w (l.getD 0 0) (l.getD 1 0) (l.getD 2 0) with | .ok r => (0, r.1, r.2) | .error c => (c.code, 0, s))

/-- The host's CXL.mem requests reach the part: it is not away, and the link has come up as CXL (R368). -/
def Device.hostReaches (d : Device) : Bool := !d.away && d.links.cxl.st == 2

/-- The ranges of local bits a request reaches. -/
def fabricRanges (e : Event) : List (Nat × Nat) :=
  if e.sub = 1 then rangesOf (writesOf e.data.tail) else [(physLocal e.addr, e.len)]

/-- A request that its stream has brought performs in its turn, and is answered. -/
def State.fabricTurn (s : State) (e : Event) : State :=
  s.inTurn (e.sub != 0) e.val (fabricRanges e) .fabricRequest (fun n => { e with val := n }) fun s =>
    let r := s.fabricPerform e.sub e.addr e.len e.data.tail
    r.2.2.onDev fun d => d.respond e.who (e.data.headD 0) r.1 r.2.1

/-- FABRIC_REQUEST (R372): a request of kind sub from stream who of another device, for len bits at the physical address addr; data holds its number in the stream and then its writes or its operands, and val is 0 but for one that waits for its turn at a half. One already performed is discarded, and one that is not next waits for those before it (R373). -/
def execFabricRequest (s : State) : Host.Outcome State Fault Refusal :=
  let k := s.ev.who
  let seq := s.ev.data.headD 0
  if s.ev.val ≠ 0 then .next (s.fabricTurn s.ev)
  else if s.dev.away ∨ seq ≠ (assoc? s.dev.links.streams k).getD 0 then .next s
  else .next ((s.onDev fun d => { d with links := { d.links with streams := assocSet d.links.streams k (seq + 1) } }).fabricTurn s.ev)

/-! ## The host over CXL.mem (R369, Table 17.1) -/

/-- The local bit address of a byte of the HDM range. -/
def hdmLocal (o : Nat) : Nat :=
  let g := 2 ^ 30
  if o < 384 * g then 8 * o
  else if o < 448 * g then 0x40000000000 + 8 * (o - 384 * g)
  else 0x80000000000 + 8 * (o - 448 * g)

/-- The writes of a host access: a byte each where its enable is 1, a word at once where all of its bytes are. -/
def hostWrites (a n v en : Nat) : List BitWrite :=
  if a % 64 = 0 ∧ 8 ≤ n ∧ n % 8 = 0 then
    (List.range (n / 8)).flatMap fun k =>
      if bits en (8 * k) 8 = 255 then [{ addr := a + 64 * k, width := 64, val := bits v (64 * k) 64 }]
      else ((List.range 8).filter fun j => bitAt en (8 * k + j)).map fun j => { addr := a + 64 * k + 8 * j, width := 8, val := bits v (64 * k + 8 * j) 8 }
  else ((List.range n).filter fun j => bitAt en j).map fun j => { addr := a + 8 * j, width := 8, val := bits v (8 * j) 8 }

/-- An answer to the host: 12 over CXL.io, 13 over CXL.mem; sub 0 with its data, 1 refused (Unsupported Request, or data marked poison), 2 without data. -/
def Device.toHost (d : Device) (kind sub addr v : Nat) : Device :=
  { d with outbox := d.outbox ++ [{ who := kind, sub := sub, addr := addr, val := v, len := 0, data := [] }] }

/-- A refused access of the host is entered in the error log (Table 2.2). -/
def Device.hostRef (d : Device) (write : Bool) (cause : Cause) (a o : Nat) : Device := d.logError 0x03 cause.code write.toNat a o

/-- Lines of HBM4 and LPDDR-6 that the host holds under HDM-DB after an access, or no longer holds (R41, R259; log 77). -/
def Device.hostOwns (d : Device) (on : Bool) (a w : Nat) : Device :=
  { d with owned := (linesOf a w).foldl (fun l k => if on then setAdd l k else setDel l k) d.owned }

/-- A host access over CXL.mem at byte o of the HDM range, which HBM4, LPDDR-6 or the storage view holds; own says that the host then holds its lines. -/
def State.hostAccess (s : State) (write own : Bool) (o n v en : Nat) : State :=
  let a := hdmLocal o
  match s.physCause .host (s.dev.devId * 2 ^ 47 + a) (8 * n) with
  | some c => s.onDev fun d => let d := d.hostRef write c a o; if write then d else d.toHost 13 1 o 0
  | none =>
    let dram := s.isDram a
    let s := if dram && (own || write) then s.onDev fun d => d.hostOwns own a (8 * n) else s
    if write then (if dram then s.onDev fun d => d.hostMerge (hostWrites a n v en) else s.writeMasked (hostWrites a n v en))
    else match s.poisoned a (8 * n) with
      | some _ => s.onDev fun d => (d.hostRef false .poison a o).toHost 13 1 o 0
      | none => (s.readsLines a (8 * n)).onDev fun d => d.toHost 13 0 o (s.physRead a (8 * n))

/-- A host access in its turn. -/
def State.hostTurn (s : State) (e : Event) : State :=
  let en := e.data.headD (2 ^ e.len - 1)
  let a := hdmLocal e.addr
  s.inTurn (e.sub == 1) (e.data.getD 1 0) (if e.sub = 1 then rangesOf (hostWrites a e.len e.val en) else [(a, 8 * e.len)])
    .hostCxlMemAccess (fun n => { e with data := [en, n] }) fun s => s.hostAccess (e.sub == 1) (e.who == 1) e.addr e.len e.val en

/-- HOST_CXL_MEM_ACCESS (R369): the host reads, or with sub 1 writes, len bytes at byte addr of the HDM range; val is the data and the head of data the byte enables; with who 1 the host holds the lines under HDM-DB from then on. Without a CXL link it completes with no data. -/
def execHostCxlMemAccess (s : State) : Host.Outcome State Fault Refusal :=
  .next (if !s.dev.hostReaches ∧ s.ev.data.getD 1 0 = 0 then s.onDev fun d => d.toHost 13 2 s.ev.addr 0 else s.hostTurn s.ev)

/-! ## The host over CXL.io (R370, Table 17.2) -/

/-- The local address of a byte of BAR0, when a row holds it. -/
def barLocal (b : Nat) : Option Nat :=
  if b < 0x1000 then some (0x70500000000 + 8 * b)
  else if 0x10000 ≤ b ∧ b < 0x18000 then some (0x70700000000 + 8 * (b - 0x10000))
  else if 0x20000 ≤ b ∧ b < 0x20040 then some (0x70800000000 + 8 * (b - 0x20000))
  else if 0x30000 ≤ b ∧ b < 0x30100 then some (0x70B00000000 + 8 * (b - 0x30000))
  else if 0x31000 ≤ b ∧ b < 0x31180 then some (0x70B00010000 + 8 * (b - 0x31000))
  else if 0x32000 ≤ b ∧ b < 0x32030 then some (0x70D00000000 + 8 * (b - 0x32000))
  else none

/-- The host may write the register at a local address (Table 17.2). -/
def hostMayWrite (a : Nat) : Bool :=
  match regUnit a with
  | 0x705 => true
  | 0x707 => 2 ≤ regOff a % 256 / 64
  | 0x70B => 0x10000 ≤ regOff a
  | 0x70D => regOff a / 64 == 3
  | _ => false

/-- The rows the host reaches as soon as the link is up, before the exit of RETAIN ends: the error log and the boot status word (R401, R409). -/
def barAlways (a : Nat) : Bool := regUnit a == 0x70D

/-- A host access over CXL.io to w bits at byte b of BAR0. -/
def State.barAccess (s : State) (write : Bool) (b w v : Nat) : State :=
  let refuse := s.onDev fun d => d.toHost 12 1 b 0
  match barLocal b with
  | none => refuse
  | some a =>
    if s.dev.links.cxl.st = 0 ∨ s.dev.power.st = .off ∨ (s.dev.away ∧ !barAlways a) then s.onDev fun d => d.toHost 12 2 b 0
    else if write then
      (if !hostMayWrite a then refuse else match s.regStore a w v with
        | some t => t.onDev fun d => d.toHost 12 0 b 0
        | none => refuse)
    else match s.regLoad 4 a w with
      | some r => s.onDev fun d => d.toHost 12 0 b r.1
      | none => refuse

/-- UNSUPPORTED_REQUEST (R370): the host reads, or with sub 1 writes val to, len bits at byte addr of BAR0; what the map or the register refuses completes with Unsupported Request and changes nothing. -/
def execUnsupportedRequest (s : State) : Host.Outcome State Fault Refusal :=
  .next (s.barAccess (s.ev.sub == 1) s.ev.addr s.ev.len s.ev.val)

/-! ## The transport of the Ethernet ports (R383) -/

/-- The SEND at the head of queue q is accepted: its bytes, read from local memory, leave for the peer with its signal. A read that is refused stops the queue (log 40). -/
def State.sendHead (s : State) (q : Nat) : State :=
  let w := s.packet q
  let a := w.getD 1 0
  let n := w.getD 2 0
  let bad := if physDev a ≠ s.dev.devId then some Cause.unmapped else (s.physCause .unit a n).or ((s.poisoned (physLocal a) n).map fun _ => Cause.poison)
  let p := s.newPacket q none
  match bad with
  | some _ => s.onDev fun d => (d.accept q none).stopQueue q p.index 0
  | none =>
    s.onDev fun d =>
      let d := d.accept q (some p)
      { d with outbox := d.outbox ++
        [{ who := 15, sub := q - 64, addr := w.getD 4 0, val := s.physRead (physLocal a) n, len := n,
           data := [w.getD 3 0 % 2 ^ 48, w.getD 5 0, w.getD 6 0, p.index] }] }

/-- The SEND of queue q and index has been acknowledged by its peer, and is complete. -/
def State.sendDone (s : State) (q index : Nat) : State := s.onDev fun d => d.dropPacket q index

/-- SEND_PACKET (R383): the SEND at the head of transport queue who is sent; with sub 1 the peer acknowledges the one of index val. -/
def execSendPacket (s : State) : Host.Outcome State Fault Refusal :=
  if s.ev.who < 64 ∨ 70 ≤ s.ev.who then .fault (.noSuchAgent s.ev.who)
  else .next (if s.ev.sub = 1 then s.sendDone s.ev.who s.ev.val else s.takeHead s.ev.who 0x10 fun t => t.sendHead s.ev.who)

/-- The SEND of queue q and index is refused or stays unacknowledged: the queue stops under R239. -/
def State.sendFailed (s : State) (q index : Nat) : State :=
  if (s.dev.queue q).pkts.any fun p => p.index == index && packetType p.words == 0x10 then
    s.onDev fun d => (d.dropPacket q index).stopQueue q index 0
  else s

/-- SEND_UNACKNOWLEDGED (R383): the SEND of index val of transport queue who fails. -/
def execSendUnacknowledged (s : State) : Host.Outcome State Fault Refusal :=
  if s.ev.who < 64 ∨ 70 ≤ s.ev.who then .fault (.noSuchAgent s.ev.who) else .next (s.sendFailed s.ev.who s.ev.val)

/-- One reference period of transport queue q: its head is sent, and a SEND unacknowledged after FTMO.US µs fails. -/
def State.sendClk (s : State) (q : Nat) : State :=
  let x := s.dev.queue q
  if !x.en && x.pkts.isEmpty then s
  else
    let late := x.pkts.filter fun p => packetType p.words == 0x10 && s.dev.expired p.since
    (late.foldl (fun (s : State) p => s.sendFailed q p.index) s).takeHead q 0x10 fun t => t.sendHead q

/-- TRANSPORT_RECEIVE (R383): a frame of a peer's SEND arrives on Ethernet port who: len bits val for the physical address addr, and in data the signal's address, 0 for none, and its value. The bytes are written, then the signal with release .sys; the peer is told whether it was accepted. -/
def execTransportReceive (s : State) : Host.Outcome State Fault Refusal :=
  if s.ev.who ≥ 6 then .fault (.noSuchAgent s.ev.who)
  else
    let e := s.ev
    let sig := e.data.headD 0
    let answer := fun (s : State) (sub : Nat) => s.onDev fun d => { d with outbox := d.outbox ++ [{ who := 16, sub := sub, addr := e.addr, val := e.who, len := e.len, data := [] }] }
    if s.dev.away then .next s
    else if (e.len ≠ 0 ∧ !s.inDram e.addr e.len) ∨ sig % 64 ≠ 0 then .next (answer s 1)
    else
      let s := s.physWrite (physLocal e.addr) e.len e.val
      if sig = 0 then .next (answer s 0)
      else
        let r := if sig < 2 ^ 60 ∧ physDev sig ≠ s.dev.devId then
            (none, s.onDev fun d => d.send { who := 1, sub := 0, addr := sig, val := e.data.getD 1 0, len := 64, data := [] })
          else s.writeWord 0 0 sig (e.data.getD 1 0)
        .next (answer r.2 (if r.1.isSome then 1 else 0))

end Sys2Proof.Machine
end

