-- ==== Sys2Proof/Machine/Firmware.lean ====
section
/-! DEFINITION. Firmware.lean: the firmware cores: their four instructions and their loads and stores (R29, R45, R46, R390, R405). Their registers are those of RV64 in machine mode; PRESUMED (log 6). -/

namespace Sys2Proof.Machine

/-- Register i of a firmware core; x0 reads as zero. -/
def FwCore.get (c : FwCore) (i : Nat) : Word := if i = 0 then 0 else nth c.x i

/-- Register i of a firmware core written; x0 discards it. -/
def FwCore.put (c : FwCore) (i : Nat) (v : Word) : FwCore := if i = 0 then c else { c with x := c.x.set i v }

/-- One more instruction retires: minstret counts it unless bit 2 of mcountinhibit stops it. -/
def FwCore.retire (c : FwCore) : FwCore := { c with minstret := if c.inhibit.testBit 2 then c.minstret else c.minstret + 1 }

/-- One more clk: mcycle counts it unless bit 0 of mcountinhibit stops it. -/
def FwCore.counted (c : FwCore) : FwCore := { c with mcycle := if c.inhibit.testBit 0 then c.mcycle else c.mcycle + 1 }

/-- The next instruction, after one of 32 bits. -/
def FwCore.advance (c : FwCore) : FwCore := { c.retire with pc := c.pc + 4 }

/-- An illegal-instruction exception (R405). -/
def FwCore.illegal (c : FwCore) : FwCore := c.trap 2

/-- A firmware core of the part. -/
def State.fwCore (s : State) (k : Nat) : FwCore := s.fw.getD k .reset

/-- An instruction of firmware core who. -/
def State.onFwCore (s : State) (f : FwCore → State) : Host.Outcome State Fault Refusal :=
  if s.ev.who ≥ 4 then .fault (.noSuchAgent s.ev.who) else .next (f (s.fwCore s.ev.who))

/-- Core who takes an exception; it writes no register. -/
def State.fwTrap (s : State) (cause : Nat) : State := s.onFw s.ev.who fun c => c.trap cause

/-- Core who writes rd and goes on. -/
def State.fwResult (s : State) (rd : Fin 32) (v : Word) : State := s.onFw s.ev.who fun c => (c.put rd.val v).advance

/-- A firmware core's write: one to a sum file performs among the window writes of its core's clk (R324). -/
def State.fwPut (s : State) (l w v : Nat) : State :=
  if regionOf s.dev.lpddr l = .window ∧ 0x1600000 ≤ l % 2 ^ 25 then
    s.atCore ((l - 0x48000000000) / 2 ^ 25) fun t => t.onCore fun c =>
      let parts : List BitWrite := (lineParts (w / 512 + 2) l w).map fun p => ⟨p.1 % 2 ^ 25, p.2, v / 2 ^ (p.1 - l) % 2 ^ p.2⟩
      { c with winWrites := c.winWrites ++ parts }
  else s.physWrite l w v

/-- A read by firmware core k of w bits at a physical address, n clks from now: the bits and the state after, or the cause that refuses it. A word of another device has the value remote, which its answer brings. -/
def State.fwRead (s : State) (k a w remote n : Nat) : Except Cause (Nat × State) :=
  let l := physLocal a
  if a < 2 ^ 60 ∧ physDev a ≠ s.dev.devId then .ok (remote % 2 ^ w, s)
  else if a < 2 ^ 60 ∧ regionOf s.dev.lpddr l = .regs then
    (match s.regLoad k l w with | some r => .ok r | none => .error .unmapped)
  else match s.physCause .firmware a w, (s.asRead l n).poisoned l w with
    | some c, _ => .error c
    | none, some _ => .error .poison
    | none, none => .ok ((s.asRead l n).physRead l w, s.readsLines l w)

/-- What firmware core k knows of a word of another device it reads changes. -/
def State.fwAsked (s : State) (k : Nat) (v : Option (Option (Nat × Nat))) : State := s.onFw k fun c => { c with asked := v }

/-- The answer for core k's read of w bits at a physical address, a value and a cause code; without one the state in which it waits, its request gone out once. A read of this device needs none. -/
def State.fwAnswer (s : State) (k a w : Nat) : Except State (Nat × Nat) :=
  if 2 ^ 60 ≤ a ∨ physDev a = s.dev.devId then .ok (0, 0)
  else match (s.fwCore k).asked with
    | some (some r) => .ok r
    | some none => .error s
    | none => .error ((s.onDev fun d => d.ask 3 k 0 { who := 19, sub := k, addr := a, val := 0, len := w, data := [] }).fwAsked k (some none))

/-- Core k has its answer, and will ask anew. -/
def State.fwAskDone (s : State) (k : Nat) : State := if (s.fwCore k).asked.isSome then s.fwAsked k none else s

/-- A write by firmware core k of w bits at a physical address; one to another device is posted, and its refusal comes with the answer. -/
def State.fwWrite (s : State) (k a w v : Nat) : Except Cause State :=
  let l := physLocal a
  if a < 2 ^ 60 ∧ physDev a ≠ s.dev.devId then .ok (s.onDev fun d => d.ask 4 k 0 { who := 1, sub := 0, addr := a, val := v, len := w, data := [] })
  else if a < 2 ^ 60 ∧ regionOf s.dev.lpddr l = .regs then
    (match s.regStore l w v with | some t => .ok t | none => .error .unmapped)
  else match s.physCause .firmware a w with
    | some c => .error c
    | none => .ok (s.fwPut l w v)

/-- rfetch (R405): word rs2<2:0> of the packet at LQRD of queue rs1, 0 when the queue holds none; exception 24 for a queue above 69 or a packet whose address is refused. -/
def execRfetch (rd rs1 rs2 : Fin 32) (s : State) : Host.Outcome State Fault Refusal :=
  s.onFwCore fun c =>
    let q := (c.get rs1.val).toNat
    if 69 < q then s.fwTrap 24
    else
      let x := s.dev.queue q
      let a := x.base * 2 ^ 9 + x.rd % 2 ^ x.log2n * 512
      if x.rd = x.wr then s.fwResult rd 0
      else if (s.physCause .firmware a 512).isSome ∨ (s.poisoned (physLocal a) 512).isSome ∨ physDev a ≠ s.dev.devId then s.fwTrap 24
      else s.fwResult rd (word ((s.packet q).getD ((c.get rs2.val).toNat % 8) 0))

/-- bfext (R405): the field of rs1 that rs2 describes; exception 25 where it leaves the register or rs2 has a bit above 11. -/
def execBfext (rd rs1 rs2 : Fin 32) (s : State) : Host.Outcome State Fault Refusal :=
  s.onFwCore fun c =>
    let x := (c.get rs2.val).toNat
    let p := bits x 0 6
    let w := bits x 6 6 + 1
    if 64 < p + w ∨ bits x 12 52 ≠ 0 then s.fwTrap 25 else s.fwResult rd (word (bits (c.get rs1.val).toNat p w))

/-- swait (R405): goes on when the word at rs1 is at least rs2, else executes again; exception 26 where the address is no multiple of 64 or refused. A word of another device is asked for each time. -/
def execSwait (_rd rs1 rs2 : Fin 32) (s : State) : Host.Outcome State Fault Refusal :=
  s.onFwCore fun c =>
    let a := (c.get rs1.val).toNat
    if a % 64 ≠ 0 then s.fwTrap 26
    else if physDev a = s.dev.devId ∧ s.viewWaits false [(physLocal a, 64)] then s
    else match s.fwAnswer s.ev.who a 64 with
      | .error t => t
      | .ok v =>
        let s := s.fwAskDone s.ev.who
        if v.2 ≠ 0 then s.fwTrap 26
        else match s.fwRead s.ev.who a 64 v.1 0 with
          | .error _ => s.fwTrap 26
          | .ok r => if (c.get rs2.val).toNat ≤ r.1 then r.2.onFw s.ev.who FwCore.advance else r.2

/-- disp (R405): the LAUNCH at LQRD of queue rs1 goes to the loader, LQRD advances, and rd is the load status of Table 16.4; the kernel is PENDING until the arbiter starts it (R365, R388); exception 27 where the packet is no LAUNCH or the queue is empty. One whose argument block lies on another device executes again until its reads are answered (log 94). -/
def execDisp (rd rs1 _rs2 : Fin 32) (s : State) : Host.Outcome State Fault Refusal :=
  s.onFwCore fun c =>
    let q := (c.get rs1.val).toNat
    let w := s.packet q
    if 69 < q ∨ (s.dev.queue q).rd = (s.dev.queue q).wr ∨ packetType w ≠ 1 then s.fwTrap 27
    else if s.argWaits q then s.askArgs q
    else
      let st := s.headStatus q
      if st = 0 then (s.launch q).fwResult rd 0
      else (s.onDev fun d => (d.accept q none).onQueue q fun x => { x with stat := st }).fwResult rd (word st)

/-- An access of a firmware core performs. -/
def State.fwAccess (s : State) (e : Event) : State :=
  if e.data.headD 0 = 1 then (match s.fwWrite e.who e.addr e.len e.val with
    | .ok t => t
    | .error c => s.busError e.who c 7)
  else match s.fwRead e.who e.addr e.len e.val 1 with
    | .ok r => r.2.onFw e.who fun x => x.put (e.sub % 32) (word r.1)
    | .error c => s.busError e.who c 5

/-- FIRMWARE_CORE_ACCESS (R29): firmware core who loads len bits at the physical address addr into register sub, or with data [1] stores val there; a refused access is a bus error, with its cause in the fault code. For a load from another device val is the answer. With data [2], val is the answer for the read that core who has asked another device for, and sub the code of the cause where that device refused it; with data [3] the oldest of its stores to other devices is answered, sub the code of the cause or 0. -/
def execFirmwareCoreAccess (s : State) : Host.Outcome State Fault Refusal :=
  s.onFwCore fun _ =>
    let e := s.ev
    let w := e.data.headD 0
    if w = 2 then s.fwAnswered e.who e.val e.sub
    else if w = 3 then s.fwStored e.who e.sub
    else s.inTurn (w == 1) (e.data.getD 1 0) (if physDev e.addr = s.dev.devId then [(physLocal e.addr, e.len)] else []) .firmwareCoreAccess (fun n => { e with data := [w, n] }) fun s => s.fwAccess e

end Sys2Proof.Machine
end

