-- ==== Sys2Proof/Machine/Dispatch.lean ====
section
/-! DEFINITION. Dispatch.lean: one arm per constructor of Instr. -/

namespace Sys2Proof.Machine

/-- The effect of one slot on the bundle at issue, or of one step of the part on the machine. -/
def exec (i : Instr) (s : State) : Host.Outcome State Fault Refusal :=
  match i with
  | .nop => Sys2Proof.Machine.execNop s
  | .trap code => Sys2Proof.Machine.execTrap code s
  | .tret => Sys2Proof.Machine.execTret s
  | .safe => Sys2Proof.Machine.execSafe s
  | .crd d creg => Sys2Proof.Machine.execCrd d creg s
  | .cwr creg a => Sys2Proof.Machine.execCwr creg a s
  | .gfence => Sys2Proof.Machine.execGfence s
  | .exit => Sys2Proof.Machine.execExit s
  | .gidx d dim => Sys2Proof.Machine.execGidx d dim s
  | .lbrk level => Sys2Proof.Machine.execLbrk level s
  | .gspawn a => Sys2Proof.Machine.execGspawn a s
  | .pwracq level => Sys2Proof.Machine.execPwracq level s
  | .pwrrel => Sys2Proof.Machine.execPwrrel s
  | .br disp g => Sys2Proof.Machine.execBr disp g s
  | .call disp g => Sys2Proof.Machine.execCall disp g s
  | .bri b g => Sys2Proof.Machine.execBri b g s
  | .ret g => Sys2Proof.Machine.execRet g s
  | .pbr b disp => Sys2Proof.Machine.execPbr b disp s
  | .loop len count => Sys2Proof.Machine.execLoop len count s
  | .loopReg len a => Sys2Proof.Machine.execLoopReg len a s
  | .loopSafe len count => Sys2Proof.Machine.execLoopSafe len count s
  | .loopSafeReg len a => Sys2Proof.Machine.execLoopSafeReg len a s
  | .ltag level first last => Sys2Proof.Machine.execLtag level first last s
  | .add d a b => Sys2Proof.Machine.execAdd d a b s
  | .sub d a b => Sys2Proof.Machine.execSub d a b s
  | .and d a b => Sys2Proof.Machine.execAnd d a b s
  | .or d a b => Sys2Proof.Machine.execOr d a b s
  | .xor d a b => Sys2Proof.Machine.execXor d a b s
  | .andn d a b => Sys2Proof.Machine.execAndn d a b s
  | .min d a b => Sys2Proof.Machine.execMin d a b s
  | .max d a b => Sys2Proof.Machine.execMax d a b s
  | .minu d a b => Sys2Proof.Machine.execMinu d a b s
  | .maxu d a b => Sys2Proof.Machine.execMaxu d a b s
  | .shl d a b => Sys2Proof.Machine.execShl d a b s
  | .shr d a b => Sys2Proof.Machine.execShr d a b s
  | .sra d a b => Sys2Proof.Machine.execSra d a b s
  | .rol d a b => Sys2Proof.Machine.execRol d a b s
  | .ror d a b => Sys2Proof.Machine.execRor d a b s
  | .clz d a => Sys2Proof.Machine.execClz d a s
  | .ctz d a => Sys2Proof.Machine.execCtz d a s
  | .popc d a => Sys2Proof.Machine.execPopc d a s
  | .brev d a => Sys2Proof.Machine.execBrev d a s
  | .abs d a => Sys2Proof.Machine.execAbs d a s
  | .rdb d n => Sys2Proof.Machine.execRdb d n s
  | .wrb n a => Sys2Proof.Machine.execWrb n a s
  | .rdp d => Sys2Proof.Machine.execRdp d s
  | .wrp a b => Sys2Proof.Machine.execWrp a b s
  | .rdm d n => Sys2Proof.Machine.execRdm d n s
  | .wrm n a => Sys2Proof.Machine.execWrm n a s
  | .rde d n => Sys2Proof.Machine.execRde d n s
  | .wre n a => Sys2Proof.Machine.execWre n a s
  | .rdi d n => Sys2Proof.Machine.execRdi d n s
  | .mul d a b => Sys2Proof.Machine.execMul d a b s
  | .mulh d a b => Sys2Proof.Machine.execMulh d a b s
  | .mulhu d a b => Sys2Proof.Machine.execMulhu d a b s
  | .div d a b => Sys2Proof.Machine.execDiv d a b s
  | .divu d a b => Sys2Proof.Machine.execDivu d a b s
  | .rem d a b => Sys2Proof.Machine.execRem d a b s
  | .remu d a b => Sys2Proof.Machine.execRemu d a b s
  | .addi d a imm => Sys2Proof.Machine.execAddi d a imm s
  | .andi d a imm => Sys2Proof.Machine.execAndi d a imm s
  | .ori d a imm => Sys2Proof.Machine.execOri d a imm s
  | .xori d a imm => Sys2Proof.Machine.execXori d a imm s
  | .shli d a n => Sys2Proof.Machine.execShli d a n s
  | .shri d a n => Sys2Proof.Machine.execShri d a n s
  | .srai d a n => Sys2Proof.Machine.execSrai d a n s
  | .li d imm => Sys2Proof.Machine.execLi d imm s
  | .lih1 d imm => Sys2Proof.Machine.execLih1 d imm s
  | .lih2 d imm => Sys2Proof.Machine.execLih2 d imm s
  | .lih3 d imm => Sys2Proof.Machine.execLih3 d imm s
  | .bfx signed d a pos wid => Sys2Proof.Machine.execBfx signed d a pos wid s
  | .bfi d a pos wid => Sys2Proof.Machine.execBfi d a pos wid s
  | .bfm d pos wid => Sys2Proof.Machine.execBfm d pos wid s
  | .cmp c k a b => Sys2Proof.Machine.execCmp c k a b s
  | .cmpi c k a imm => Sys2Proof.Machine.execCmpi c k a imm s
  | .pand k pa pb => Sys2Proof.Machine.execPand k pa pb s
  | .por k pa pb => Sys2Proof.Machine.execPor k pa pb s
  | .pxor k pa pb => Sys2Proof.Machine.execPxor k pa pb s
  | .pandn k pa pb => Sys2Proof.Machine.execPandn k pa pb s
  | .sel d a b g => Sys2Proof.Machine.execSel d a b g s
  | .padd t d a b => Sys2Proof.Machine.execPadd t d a b s
  | .pdif t d a b => Sys2Proof.Machine.execPdif t d a b s
  | .pidx t d a b => Sys2Proof.Machine.execPidx t d a b s
  | .prec t d a b => Sys2Proof.Machine.execPrec t d a b s
  | .paddB wid d a b => Sys2Proof.Machine.execPaddB wid d a b s
  | .pdifB wid d a b => Sys2Proof.Machine.execPdifB wid d a b s
  | .pscl t d a => Sys2Proof.Machine.execPscl t d a s
  | .pal t d a b => Sys2Proof.Machine.execPal t d a b s
  | .pcls t d a b => Sys2Proof.Machine.execPcls t d a b s
  | .ldAct signed wid d a fe => Sys2Proof.Machine.execLdAct signed wid d a fe s
  | .ldStg signed wid d a => Sys2Proof.Machine.execLdStg signed wid d a s
  | .stAct setfull wid v a g => Sys2Proof.Machine.execStAct setfull wid v a g s
  | .stStg wid v a g => Sys2Proof.Machine.execStStg wid v a g s
  | .ldG signed wid d h o => Sys2Proof.Machine.execLdG signed wid d h o s
  | .stG wid v h o g => Sys2Proof.Machine.execStG wid v h o g s
  | .vldAct fe e32 d a => Sys2Proof.Machine.execVldAct fe e32 d a s
  | .vldActStr e32 d a b => Sys2Proof.Machine.execVldActStr e32 d a b s
  | .vldActCol e32 d a => Sys2Proof.Machine.execVldActCol e32 d a s
  | .vldStg e32 d a => Sys2Proof.Machine.execVldStg e32 d a s
  | .vldG e32 d h o => Sys2Proof.Machine.execVldG e32 d h o s
  | .vstAct m v a e32 g => Sys2Proof.Machine.execVstAct m v a e32 g s
  | .vstActStr16 m v a b g => Sys2Proof.Machine.execVstActStr16 m v a b g s
  | .vstActCol m v a e32 g => Sys2Proof.Machine.execVstActCol m v a e32 g s
  | .vstStg m v a e32 g => Sys2Proof.Machine.execVstStg m v a e32 g s
  | .vstG m v e32 h o g => Sys2Proof.Machine.execVstG m v e32 h o g s
  | .vstActFill m v a e32 g => Sys2Proof.Machine.execVstActFill m v a e32 g s
  | .vstActStr32 m v a b g => Sys2Proof.Machine.execVstActStr32 m v a b g s
  | .aaddAct w ord d a g => Sys2Proof.Machine.execAaddAct w ord d a g s
  | .aandAct w ord d a g => Sys2Proof.Machine.execAandAct w ord d a g s
  | .aorAct w ord d a g => Sys2Proof.Machine.execAorAct w ord d a g s
  | .axorAct w ord d a g => Sys2Proof.Machine.execAxorAct w ord d a g s
  | .aminAct w ord d a g => Sys2Proof.Machine.execAminAct w ord d a g s
  | .amaxAct w ord d a g => Sys2Proof.Machine.execAmaxAct w ord d a g s
  | .aswapAct w ord d a g => Sys2Proof.Machine.execAswapAct w ord d a g s
  | .acasAct w ord d a g => Sys2Proof.Machine.execAcasAct w ord d a g s
  | .aaddG w ord h d g => Sys2Proof.Machine.execAaddG w ord h d g s
  | .aandG w ord h d g => Sys2Proof.Machine.execAandG w ord h d g s
  | .aorG w ord h d g => Sys2Proof.Machine.execAorG w ord h d g s
  | .axorG w ord h d g => Sys2Proof.Machine.execAxorG w ord h d g s
  | .aminG w ord h d g => Sys2Proof.Machine.execAminG w ord h d g s
  | .amaxG w ord h d g => Sys2Proof.Machine.execAmaxG w ord h d g s
  | .aswapG w ord h d g => Sys2Proof.Machine.execAswapG w ord h d g s
  | .acasG w ord h d g => Sys2Proof.Machine.execAcasG w ord h d g s
  | .mark => Sys2Proof.Machine.execMark s
  | .fence ord => Sys2Proof.Machine.execFence ord s
  | .fenceSc => Sys2Proof.Machine.execFenceSc s
  | .fmt bank a => Sys2Proof.Machine.execFmt bank a s
  | .clean h a b => Sys2Proof.Machine.execClean h a b s
  | .inv h a b => Sys2Proof.Machine.execInv h a b s
  | .trans h a k => Sys2Proof.Machine.execTrans h a k s
  | .probe a b => Sys2Proof.Machine.execProbe a b s
  | .hrev h => Sys2Proof.Machine.execHrev h s
  | .hinfo d h => Sys2Proof.Machine.execHinfo d h s
  | .hmov d h => Sys2Proof.Machine.execHmov d h s
  | .binit a b => Sys2Proof.Machine.execBinit a b s
  | .barv ord a b => Sys2Proof.Machine.execBarv ord a b s
  | .bwait ord a => Sys2Proof.Machine.execBwait ord a s
  | .btest k a ord => Sys2Proof.Machine.execBtest k a ord s
  | .hbwait a => Sys2Proof.Machine.execHbwait a s
  | .waitt a => Sys2Proof.Machine.execWaitt a s
  | .fadd f rm d a b => Sys2Proof.Machine.execFadd f rm d a b s
  | .fsub f rm d a b => Sys2Proof.Machine.execFsub f rm d a b s
  | .fmul f rm d a b => Sys2Proof.Machine.execFmul f rm d a b s
  | .fma f rm d a b => Sys2Proof.Machine.execFma f rm d a b s
  | .fms f rm d a b => Sys2Proof.Machine.execFms f rm d a b s
  | .fnma f rm d a b => Sys2Proof.Machine.execFnma f rm d a b s
  | .fmin f d a b => Sys2Proof.Machine.execFmin f d a b s
  | .fmax f d a b => Sys2Proof.Machine.execFmax f d a b s
  | .fabs f d a => Sys2Proof.Machine.execFabs f d a s
  | .fneg f d a => Sys2Proof.Machine.execFneg f d a s
  | .fcmpEq f md a b => Sys2Proof.Machine.execFcmpEq f md a b s
  | .fcmpLt f md a b => Sys2Proof.Machine.execFcmpLt f md a b s
  | .fcmpLe f md a b => Sys2Proof.Machine.execFcmpLe f md a b s
  | .fcmpUn f md a b => Sys2Proof.Machine.execFcmpUn f md a b s
  | .vadd w32 d a b => Sys2Proof.Machine.execVadd w32 d a b s
  | .vsub w32 d a b => Sys2Proof.Machine.execVsub w32 d a b s
  | .vmul w32 d a b => Sys2Proof.Machine.execVmul w32 d a b s
  | .vadds w32 d a b => Sys2Proof.Machine.execVadds w32 d a b s
  | .vaddus w32 d a b => Sys2Proof.Machine.execVaddus w32 d a b s
  | .vsubs w32 d a b => Sys2Proof.Machine.execVsubs w32 d a b s
  | .vsubus w32 d a b => Sys2Proof.Machine.execVsubus w32 d a b s
  | .vmin w32 d a b => Sys2Proof.Machine.execVmin w32 d a b s
  | .vmax w32 d a b => Sys2Proof.Machine.execVmax w32 d a b s
  | .vminu w32 d a b => Sys2Proof.Machine.execVminu w32 d a b s
  | .vmaxu w32 d a b => Sys2Proof.Machine.execVmaxu w32 d a b s
  | .vand w32 d a b => Sys2Proof.Machine.execVand w32 d a b s
  | .vor w32 d a b => Sys2Proof.Machine.execVor w32 d a b s
  | .vxor w32 d a b => Sys2Proof.Machine.execVxor w32 d a b s
  | .vshl w32 d a b => Sys2Proof.Machine.execVshl w32 d a b s
  | .vshr w32 d a b => Sys2Proof.Machine.execVshr w32 d a b s
  | .vsra w32 d a b => Sys2Proof.Machine.execVsra w32 d a b s
  | .vabs w32 d a => Sys2Proof.Machine.execVabs w32 d a s
  | .vcmpEq w32 md a b => Sys2Proof.Machine.execVcmpEq w32 md a b s
  | .vcmpLt w32 md a b => Sys2Proof.Machine.execVcmpLt w32 md a b s
  | .vcmpLtu w32 md a b => Sys2Proof.Machine.execVcmpLtu w32 md a b s
  | .cvt t f rm d a => Sys2Proof.Machine.execCvt t f rm d a s
  | .qnt f pol rm elt d a => Sys2Proof.Machine.execQnt f pol rm elt d a s
  | .dqnt f pol rm elt d a => Sys2Proof.Machine.execDqnt f pol rm elt d a s
  | .vsel m w32 d a b => Sys2Proof.Machine.execVsel m w32 d a b s
  | .vperm w32 d a b => Sys2Proof.Machine.execVperm w32 d a b s
  | .vbcast w32 d a => Sys2Proof.Machine.execVbcast w32 d a s
  | .vins w32 d a b => Sys2Proof.Machine.execVins w32 d a b s
  | .vext w32 d a b => Sys2Proof.Machine.execVext w32 d a b s
  | .mand d a b => Sys2Proof.Machine.execMand d a b s
  | .mor d a b => Sys2Proof.Machine.execMor d a b s
  | .mxor d a b => Sys2Proof.Machine.execMxor d a b s
  | .mandn d a b => Sys2Proof.Machine.execMandn d a b s
  | .mnot d a => Sys2Proof.Machine.execMnot d a s
  | .mpopc d a => Sys2Proof.Machine.execMpopc d a s
  | .eacc t e a => Sys2Proof.Machine.execEacc t e a s
  | .evred t l a => Sys2Proof.Machine.execEvred t l a s
  | .eread t rm d e => Sys2Proof.Machine.execEread t rm d e s
  | .eclr e m => Sys2Proof.Machine.execEclr e m s
  | .eanc e a => Sys2Proof.Machine.execEanc e a s
  | .eflg d e => Sys2Proof.Machine.execEflg d e s
  | .laneAct => Sys2Proof.Machine.execLaneAct s
  | .fexp t rm d a => Sys2Proof.Machine.execFexp t rm d a s
  | .fexp2 t rm d a => Sys2Proof.Machine.execFexp2 t rm d a s
  | .fexpm1 t rm d a => Sys2Proof.Machine.execFexpm1 t rm d a s
  | .flog t rm d a => Sys2Proof.Machine.execFlog t rm d a s
  | .flog2 t rm d a => Sys2Proof.Machine.execFlog2 t rm d a s
  | .flog1p t rm d a => Sys2Proof.Machine.execFlog1p t rm d a s
  | .fsin t rm d a => Sys2Proof.Machine.execFsin t rm d a s
  | .fcos t rm d a => Sys2Proof.Machine.execFcos t rm d a s
  | .fsinpi t rm d a => Sys2Proof.Machine.execFsinpi t rm d a s
  | .fcospi t rm d a => Sys2Proof.Machine.execFcospi t rm d a s
  | .ftanh t rm d a => Sys2Proof.Machine.execFtanh t rm d a s
  | .flogi t rm d a => Sys2Proof.Machine.execFlogi t rm d a s
  | .ferf t rm d a => Sys2Proof.Machine.execFerf t rm d a s
  | .frsq t rm d a => Sys2Proof.Machine.execFrsq t rm d a s
  | .fsqrt t rm d a => Sys2Proof.Machine.execFsqrt t rm d a s
  | .frcp t rm d a => Sys2Proof.Machine.execFrcp t rm d a s
  | .fdiv t rm d a b => Sys2Proof.Machine.execFdiv t rm d a b s
  | .secondPhase => Sys2Proof.Machine.execSecondPhase s
  | .xexp2 t d a => Sys2Proof.Machine.execXexp2 t d a s
  | .xlog2 t d a => Sys2Proof.Machine.execXlog2 t d a s
  | .xrsq t d a => Sys2Proof.Machine.execXrsq t d a s
  | .xrcp t d a => Sys2Proof.Machine.execXrcp t d a s
  | .xtanh t d a => Sys2Proof.Machine.execXtanh t d a s
  | .xlogi t d a => Sys2Proof.Machine.execXlogi t d a s
  | .xsin t d a => Sys2Proof.Machine.execXsin t d a s
  | .xerf t d a => Sys2Proof.Machine.execXerf t d a s
  | .mpush shafts a b => Sys2Proof.Machine.execMpush shafts a b s
  | .mshift shafts z => Sys2Proof.Machine.execMshift shafts z s
  | .macc shafts => Sys2Proof.Machine.execMacc shafts s
  | .mdrain shafts => Sys2Proof.Machine.execMdrain shafts s
  | .maccD shafts => Sys2Proof.Machine.execMaccD shafts s
  | .drainArrival => Sys2Proof.Machine.execDrainArrival s
  | .mset a b => Sys2Proof.Machine.execMset a b s
  | .mmode a b => Sys2Proof.Machine.execMmode a b s
  | .mglaze a => Sys2Proof.Machine.execMglaze a s
  | .mchk a => Sys2Proof.Machine.execMchk a s
  | .mstat d a => Sys2Proof.Machine.execMstat d a s
  | .rld a b => Sys2Proof.Machine.execRld a b s
  | .xpcfg a b => Sys2Proof.Machine.execXpcfg a b s
  | .checkPassEnd => Sys2Proof.Machine.execCheckPassEnd s
  | .reloadStart => Sys2Proof.Machine.execReloadStart s
  | .reloadCompletion => Sys2Proof.Machine.execReloadCompletion s
  | .scrubPass => Sys2Proof.Machine.execScrubPass s
  | .scrubLate => Sys2Proof.Machine.execScrubLate s
  | .remapWrite => Sys2Proof.Machine.execRemapWrite s
  | .qbind q a b => Sys2Proof.Machine.execQbind q a b s
  | .qunb q => Sys2Proof.Machine.execQunb q s
  | .qadv q a => Sys2Proof.Machine.execQadv q a s
  | .qwait q a => Sys2Proof.Machine.execQwait q a s
  | .qstr q a level => Sys2Proof.Machine.execQstr q a level s
  | .qstat d q what => Sys2Proof.Machine.execQstat d q what s
  | .sqrd d what => Sys2Proof.Machine.execSqrd d what s
  | .ringReadAhead => Sys2Proof.Machine.execRingReadAhead s
  | .pushPerform => Sys2Proof.Machine.execPushPerform s
  | .cpy iss ord d a b => Sys2Proof.Machine.execCpy iss ord d a b s
  | .xfer iss ord d a b => Sys2Proof.Machine.execXfer iss ord d a b s
  | .copyStart => Sys2Proof.Machine.execCopyStart s
  | .copyCompletion => Sys2Proof.Machine.execCopyCompletion s
  | .statisticsDrain => Sys2Proof.Machine.execStatisticsDrain s
  | .eqlimWrite => Sys2Proof.Machine.execEqlimWrite s
  | .collAllr iss ord d a b => Sys2Proof.Machine.execCollAllr iss ord d a b s
  | .collBcast iss ord d a b => Sys2Proof.Machine.execCollBcast iss ord d a b s
  | .collAllg iss ord d a b => Sys2Proof.Machine.execCollAllg iss ord d a b s
  | .collRsc iss ord d a b => Sys2Proof.Machine.execCollRsc iss ord d a b s
  | .collectiveExchange => Sys2Proof.Machine.execCollectiveExchange s
  | .collectiveTimeout => Sys2Proof.Machine.execCollectiveTimeout s
  | .cgrpWrite => Sys2Proof.Machine.execCgrpWrite s
  | .rfetch rd rs1 rs2 => Sys2Proof.Machine.execRfetch rd rs1 rs2 s
  | .bfext rd rs1 rs2 => Sys2Proof.Machine.execBfext rd rs1 rs2 s
  | .swait rd rs1 rs2 => Sys2Proof.Machine.execSwait rd rs1 rs2 s
  | .disp rd rs1 rs2 => Sys2Proof.Machine.execDisp rd rs1 rs2 s
  | .park => Sys2Proof.Machine.execPark s
  | .force => Sys2Proof.Machine.execForce s
  | .kill => Sys2Proof.Machine.execKill s
  | .restore => Sys2Proof.Machine.execRestore s
  | .restart => Sys2Proof.Machine.execRestart s
  | .retire => Sys2Proof.Machine.execRetire s
  | .free => Sys2Proof.Machine.execFree s
  | .detach => Sys2Proof.Machine.execDetach s
  | .attach => Sys2Proof.Machine.execAttach s
  | .registerWrite => Sys2Proof.Machine.execRegisterWrite s
  | .sliceExpiry => Sys2Proof.Machine.execSliceExpiry s
  | .deferredTrapEntry => Sys2Proof.Machine.execDeferredTrapEntry s
  | .saveComplete => Sys2Proof.Machine.execSaveComplete s
  | .resultLand => Sys2Proof.Machine.execResultLand s
  | .lateWriteLand => Sys2Proof.Machine.execLateWriteLand s
  | .localAccessPerform => Sys2Proof.Machine.execLocalAccessPerform s
  | .globalWriteMerge => Sys2Proof.Machine.execGlobalWriteMerge s
  | .globalLoadPerform => Sys2Proof.Machine.execGlobalLoadPerform s
  | .fabricRequest => Sys2Proof.Machine.execFabricRequest s
  | .remoteRequestTimeout => Sys2Proof.Machine.execRemoteRequestTimeout s
  | .hostCxlMemAccess => Sys2Proof.Machine.execHostCxlMemAccess s
  | .unsupportedRequest => Sys2Proof.Machine.execUnsupportedRequest s
  | .backgroundWalk => Sys2Proof.Machine.execBackgroundWalk s
  | .eraserSweep => Sys2Proof.Machine.execEraserSweep s
  | .sampler => Sys2Proof.Machine.execSampler s
  | .migrationClaim => Sys2Proof.Machine.execMigrationClaim s
  | .migrationRevoke => Sys2Proof.Machine.execMigrationRevoke s
  | .migrationSwitch => Sys2Proof.Machine.execMigrationSwitch s
  | .migrationAbandon => Sys2Proof.Machine.execMigrationAbandon s
  | .xcinv => Sys2Proof.Machine.execXcinv s
  | .xcinvDone => Sys2Proof.Machine.execXcinvDone s
  | .hatchInterval => Sys2Proof.Machine.execHatchInterval s
  | .nopPacket => Sys2Proof.Machine.execNopPacket s
  | .launchPacket => Sys2Proof.Machine.execLaunchPacket s
  | .signalPacket => Sys2Proof.Machine.execSignalPacket s
  | .signalWrite => Sys2Proof.Machine.execSignalWrite s
  | .waitPacket => Sys2Proof.Machine.execWaitPacket s
  | .waitPacketRelease => Sys2Proof.Machine.execWaitPacketRelease s
  | .sendPacket => Sys2Proof.Machine.execSendPacket s
  | .pendingPlacement => Sys2Proof.Machine.execPendingPlacement s
  | .kernelRelease => Sys2Proof.Machine.execKernelRelease s
  | .groupDispatch => Sys2Proof.Machine.execGroupDispatch s
  | .groupCompletion => Sys2Proof.Machine.execGroupCompletion s
  | .arriveWrite => Sys2Proof.Machine.execArriveWrite s
  | .binitPerform => Sys2Proof.Machine.execBinitPerform s
  | .barrierArrival => Sys2Proof.Machine.execBarrierArrival s
  | .heartbeatTick => Sys2Proof.Machine.execHeartbeatTick s
  | .waittDeadline => Sys2Proof.Machine.execWaittDeadline s
  | .tset => Sys2Proof.Machine.execTset s
  | .lockedSlot => Sys2Proof.Machine.execLockedSlot s
  | .fpctlEn => Sys2Proof.Machine.execFpctlEn s
  | .fpctlTrain => Sys2Proof.Machine.execFpctlTrain s
  | .trainingEnd => Sys2Proof.Machine.execTrainingEnd s
  | .portFault => Sys2Proof.Machine.execPortFault s
  | .ptpMessage => Sys2Proof.Machine.execPtpMessage s
  | .ideKm => Sys2Proof.Machine.execIdeKm s
  | .quote => Sys2Proof.Machine.execQuote s
  | .bootstRequest => Sys2Proof.Machine.execBootstRequest s
  | .pcmdIdle => Sys2Proof.Machine.execPcmdIdle s
  | .heldIdleApply => Sys2Proof.Machine.execHeldIdleApply s
  | .pcmdActive => Sys2Proof.Machine.execPcmdActive s
  | .pcmdRetain => Sys2Proof.Machine.execPcmdRetain s
  | .retentionForce => Sys2Proof.Machine.execRetentionForce s
  | .retentionPowerDown => Sys2Proof.Machine.execRetentionPowerDown s
  | .railFail => Sys2Proof.Machine.execRailFail s
  | .railsApplied => Sys2Proof.Machine.execRailsApplied s
  | .railsRestored => Sys2Proof.Machine.execRailsRestored s
  | .bootComplete => Sys2Proof.Machine.execBootComplete s
  | .firmwareUpdate => Sys2Proof.Machine.execFirmwareUpdate s
  | .firmwareActivation => Sys2Proof.Machine.execFirmwareActivation s
  | .pclusWrite => Sys2Proof.Machine.execPclusWrite s
  | .clusterClockRestart => Sys2Proof.Machine.execClusterClockRestart s
  | .pcapWrite => Sys2Proof.Machine.execPcapWrite s
  | .tempLimit => Sys2Proof.Machine.execTempLimit s
  | .plockWrite => Sys2Proof.Machine.execPlockWrite s
  | .lockLoss => Sys2Proof.Machine.execLockLoss s
  | .grant => Sys2Proof.Machine.execGrant s
  | .rampLimiter => Sys2Proof.Machine.execRampLimiter s
  | .energyCounterRead => Sys2Proof.Machine.execEnergyCounterRead s
  | .ellenWrite => Sys2Proof.Machine.execEllenWrite s
  | .firmwareCoreAccess => Sys2Proof.Machine.execFirmwareCoreAccess s
  | .fabricResponse => Sys2Proof.Machine.execFabricResponse s
  | .transportReceive => Sys2Proof.Machine.execTransportReceive s
  | .sendUnacknowledged => Sys2Proof.Machine.execSendUnacknowledged s
  | .towerCooled => Sys2Proof.Machine.execTowerCooled s

end Sys2Proof.Machine
end

