-- ==== Sys2Proof/Machine/Issue.lean ====
section
/-! DEFINITION. Issue.lean: the issue of bundles: the boundary before a bundle, fetch and framing, the checks, the three stages of issue, the commit, and the merge stage (R71 to R77, R103 to R117, R138 to R144, R167, R253, R269, R366, R392, R393, R415). -/

namespace Sys2Proof.Machine

/-! ## The boundary before a bundle (R101, R108 to R115, R117, R398) -/

/-- What the boundary brings: the state, and whether the next bundle may be tried in this clk. A fault of a load goes before a TRAP entry (Table 5.5 rows 2 and 3), and a TRAP that ended at a safe point enters its handler once every result has landed (R114). -/
def State.boundary (s : State) : State × Bool :=
  if s.ctx.bubble ≠ 0 then (s.onCtx fun c => { c with bubble := c.bubble - 1 }, false)
  else match s.ctx.entry, s.ctx.gfault with
    | some e, some f => (if e.isFault then s.takeEntry e else s.takeLate f, false)
    | some e, none =>
      if !s.ctx.safeHold then (s.takeEntry e, false)
      else if !s.allLanded then (s, false)
      else ((s.onCtx fun c => { c with safeHold := false }).takeEntry e, false)
    | none, some f => (s.takeLate f, false)
    | none, none =>
      if s.ctx.force ∧ !s.ctx.safeHold then (s.stopPark, false)
      else if s.ctx.safeHold ∧ !s.allLanded then (s, false)
      else
        let s := if s.ctx.safeHold then s.safeOver else s
        if s.ctx.st = .parked then (s, false)
        else match s.ctx.dueCause with
          | some c => (s.takeDeferred c, false)
          | none =>
            if s.ctx.withdrawn ≠ [] then (s.reissue 256, false)
            else if s.ctx.power.held < s.ctx.power.level then (s.request s.ctx.power.level, false)
            else (s, true)

/-! ## Fetch, framing and decoding (R71 to R77, R140) -/

/-- The words of the bundle at the PC: from the loop buffer, where the body of an active level has been copied (R75), else from instruction memory. -/
def State.fetchWords (s : State) : Except (Cause × Word × Nat) (List Nat) :=
  let pc := s.ctx.pc.toNat
  match assoc? s.ctx.loopBuf pc with
  | some l => .ok l
  | none =>
    match frameLen s.core.imem s.ctx.code pc 8 0 with
    | none => .error (.bundle, 0, 0)
    | some k =>
      match s.core.poisoned .imem (s.ctx.code.1 + pc) (32 * k) with
      | some a => .error (.poison, word a, 0)
      | none => .ok ((List.range k).map fun j => s.core.imem.readBits (s.ctx.code.1 + pc + 32 * j) 32)

/-- The slot in position j of n is refused by its encoding: unassigned, or an LTAG that gates itself or a position past the last slot (R81, R140). -/
def slotIllegal (n j w : Nat) : Bool :=
  match decodeSlot w with
  | none => true
  | some (.ltag _ f l) => bitAt f.val j || bitAt l.val j || n ≤ 7 && (f.val / 2 ^ n != 0 || l.val / 2 ^ n != 0)
  | some _ => false

/-- A mask of positions. -/
def posMask (l : List Nat) : Nat := l.foldl (fun m j => m ||| 2 ^ j) 0

/-- The port class of a slot (Table 4.1): 0 C, 1 X, 2 L, 3 V, 4 F, 5 M, 6 E; none for NOP and LTAG. -/
def portClass (w : Nat) : Option Nat :=
  let m := fld w 25 6
  if w % 2 ^ 31 = 0 ∨ m = 6 then none
  else if m < 8 then some 0 else if m < 0x18 then some 1 else if m < 0x20 then some 2 else if m < 0x30 then some 3
  else if m < 0x34 then some 4 else if m < 0x38 then some 5 else some 6

/-- The ports of each class some slots take. -/
def portCount (ws : List Nat) (k : Nat) : Nat := (ws.filter fun w => portClass w == some k).length

/-- The limits of Table 4.1. -/
def portsFit (ws : List Nat) : Bool := (List.range 7).all fun k => portCount ws k ≤ [1, 2, 2, 2, 1, 1, 1].getD k 0

/-- The bundle at the PC with its words, or the cause that its framing, its encodings or its ports raise, in this order (R74). DESIGN CHOICE (log 101): BUNDLE marks no slot. -/
def State.fetch (s : State) : Except (Cause × Word × Nat) (List Nat × Bundle) :=
  match s.fetchWords with
  | .error e => .error e
  | .ok ws =>
    let bad := (List.range ws.length).filter fun j => slotIllegal ws.length j (ws.getD j 0)
    if bad ≠ [] then .error (.illegal, 0, posMask bad)
    else
      let slots := ws.filterMap decodeSlot
      if !portsFit ws || 1 < (slots.filter fun i => match i with | .ltag .. => true | _ => false).length then .error (.bundle, 0, 0)
      else .ok (ws, { pc := s.ctx.pc.toNat, next := s.ctx.pc.toNat + 32 * ws.length, slots := slots, pos := 0, mark := .none,
                      gate := none, waitBar := none, waitVal := 0, waitFull := false, kept := [], reach := [], effects := [] })

/-! ## The slots of a bundle at work (R79, R104, R415) -/

/-- How a slot of the bundle ended: its position, its mark, the descriptor it waits on and the value it waits for. -/
structure SlotEnd where
  pos  : Nat
  mark : Mark
  bar  : Option (Nat × Word)
  val  : Word
deriving DecidableEq, Repr

/-- The slot in position j at work on the state before the bundle: what remains of it is the bundle it leaves, and the values it drew. -/
def State.runAt (s : State) (j : Nat) (i : Instr) : Host.Outcome State Fault Refusal :=
  match exec i (s.onBundle fun b => { b with pos := j, mark := .none, waitBar := none, waitVal := 0 }) with
  | .next t => .next { s with bundle := t.bundle, delays := t.delays, free := t.free }
  | .fault f => .fault f
  | .refused r => .refused r

/-- The slots at work in order, with how each ended. -/
def State.runSlots (s : State) : List (Nat × Instr) → List SlotEnd → Host.Outcome (State × List SlotEnd) Fault Refusal
  | [], l => .next (s, l)
  | (j, i) :: t, l =>
    if !s.executes j then s.runSlots t l
    else match s.runAt j i with
      | .next u => u.runSlots t (l ++ [{ pos := j, mark := u.bundle.mark, bar := u.bundle.waitBar, val := u.bundle.waitVal }])
      | .fault f => .fault f
      | .refused r => .refused r

/-- An LTAG. -/
def isLtag : Instr → Bool
  | .ltag .. => true
  | _ => false

/-- The slots in the order they are run: the LTAG sets its gate before the others. -/
def Bundle.order (b : Bundle) : List (Nat × Instr) :=
  let l := b.slots.zipIdx.map fun (x : Instr × Nat) => (x.2, x.1)
  (l.filter fun x => isLtag x.2) ++ l.filter fun x => !isLtag x.2

/-! ## What the slots raise and what they charge (R104, R392, R393) -/

/-- The units of a slot by its port (Table 18.5); the beats and mglaze charge what their effects say. -/
def slotCharge (w : Nat) : Nat :=
  match portClass w with
  | none => 0
  | some 0 | some 1 => 1
  | some 2 => 3
  | some 3 => 20
  | some 4 => 30
  | some 5 => if fld w 25 6 = 0x34 ∨ (fld w 25 6 = 0x35 ∧ fld w 18 7 = 2) then 0 else 4
  | some _ => 10

/-- The charge of the bundle at issue. -/
def State.bundleCharge (s : State) (ws : List Nat) : Nat :=
  1 + ((ws.zipIdx.filter fun (x : Nat × Nat) => s.executes x.2).map fun x => slotCharge x.1).sum +
  (s.bundle.effects.map fun e => match e with | .charge n => n | _ => 0).sum

/-- The positions OVERDRAW marks: the slots that occupy a port and execute (R104). -/
def State.chargedSlots (s : State) (ws : List Nat) : List Nat :=
  (ws.zipIdx.filter fun (x : Nat × Nat) => (portClass x.1).isSome && s.executes x.2).map Prod.snd

/-- Of some causes with their values and positions, the one of lowest code, the value of its first slot and the mask of its slots (R104). -/
def lowestCause (l : List (Cause × Word × Nat)) : Option (Cause × Word × Nat) :=
  match l with
  | [] => none
  | x :: t =>
    let c := t.foldl (fun (m : Cause) y => if y.1.code < m.code then y.1 else m) x.1
    let same := l.filter fun y => y.1 == c
    some (c, (same.headD x).2.1, posMask (same.map fun y => y.2.2))

/-- Of two reports the one of the lower code (R104). -/
def lowerCause (a b : Option (Cause × Word × Nat)) : Option (Cause × Word × Nat) :=
  match a, b with
  | some x, some y => if y.1.code < x.1.code then some y else some x
  | none, y => y
  | x, none => x

/-- The causes raised in stage 1 (R209). -/
def earlyCauses (l : List SlotEnd) : List (Cause × Word × Nat) :=
  l.filterMap fun e => match e.mark with | .raised c v true => some (c, v, e.pos) | _ => none

/-- The causes raised in stage 2. -/
def checkCauses (l : List SlotEnd) : List (Cause × Word × Nat) :=
  l.filterMap fun e => match e.mark with | .raised c v false => some (c, v, e.pos) | _ => none

/-! ## Waits of a bundle (R101 row 10, R416) -/

/-- A context that issues or holds a bundle at issue is RUNNING (rows 13 and 14). -/
def Ctx.run (c : Ctx) : Ctx := if c.st = .ready then { c with st := .running } else c

/-- The bundle is held by a wait instruction: a RUNNING context goes to WAITING, one in its handler stalls (R416). -/
def State.waits (s : State) (l : List SlotEnd) (w : WaitOn) (e : SlotEnd) : State :=
  let bars := l.filterMap fun e => match e.mark with | .waits .barrier => e.bar | _ => none
  let s := if w = .grant then s.request e.val.toNat else s
  s.onCtx fun c =>
    let c : Ctx := { c.run with barWait := bars }
    if c.st = .trapped then c
    else { c with st := .waiting, wait := w, waitVal := e.val, ringWait := if w = .ring then e.bar else none }

/-- The first wait instruction that blocks. -/
def firstWait (l : List SlotEnd) : Option (WaitOn × SlotEnd) :=
  l.findSome? fun e => match e.mark with | .waits w => some (w, e) | _ => none

/-- A fence.sc of the bundle at issue, where its LTAG does not suppress it, starts to count once its drain is complete (R140, R270). -/
def State.startDrain (s : State) (held : Bool) : State :=
  if held ∧ s.ctx.order.scDrain = none ∧ s.scDrained then
    s.onCtx fun c => { c with order := { c.order with scDrain := some 0 } }
  else s

/-! ## Holds on the whole bundle (R167, R269) -/

/-- The accesses of the bundle to the typed spaces. -/
def Bundle.accesses (b : Bundle) : List (Space × Nat × Nat) :=
  b.effects.flatMap fun e => match e with | .cells sp l => l.map fun (r : Nat × Nat) => (sp, r.1, r.2) | _ => []

/-- An effect that a release fence holds back (R269). -/
def Effect.heldByRelease : Effect → Bool
  | .store _ | .push .. | .fmt .. | .command _ => true
  | .barOp o => !o.init
  | .glob a => a.isWrite
  | _ => false

/-- A release fence, older or of the bundle itself, still holds the bundle back. -/
def State.fenceHolds (s : State) : Bool :=
  (s.bundle.effects.any Effect.heldByRelease) &&
  ((s.ctx.order.rel ++ s.bundle.effects.filterMap fun e => match e with
      | .fence o => some (s.bundleNo, max 2 (ordScope o)) | _ => none).any fun f => !s.olderDone f.1 f.2)

/-- An effect that is an access: of a typed space, of global memory, of a ring, of a barrier, of the sum file or of the macros (R259, R272, R273). -/
def Effect.isAccess : Effect → Bool
  | .cells .. | .store _ | .clearFull .. | .glob _ | .push .. | .pop _ | .qadv .. | .barOp _ | .command _ | .acquire _ | .laneAct _ | .beat .. => true
  | _ => false

/-- An acquire of an older bundle holds the bundle back, which has an access (R265, Table 12.2). -/
def State.acquireHolds (s : State) : Bool := s.acquirePending && s.bundle.effects.any Effect.isAccess

/-- A local atomic of an older bundle waits, or will wait, for its release: the accesses of the context to the typed spaces wait behind it (R261, R265). -/
def State.localHolds (s : State) : Bool :=
  (s.core.locals.any fun x => x.slot == s.slot && x.push.isNone && (x.left == 0 || s.releaseWaits x)) && !s.bundle.accesses.isEmpty

/-- The drain of the statistics ring takes L0 in this clk (R235). -/
def State.drainTakesL (s : State) : Bool := !s.core.stats.recs.isEmpty && 256 ≤ s.core.stats.idle

/-- The bundle needs cells that an engine takes in this clk. -/
def State.engineHolds (s : State) : Bool :=
  (s.core.cells s.bundle.accesses).any fun x => s.core.engCells.any fun y => x.1 == y.1 && x.2.1 == y.2.1

/-! ## One bundle tried -/

/-- How a try ended: the state in which no bundle issues, or the bundle staged with its words, ready to issue. -/
inductive Tried where
  | idle (s : State)
  | ready (s : State) (ws : List Nat)
deriving DecidableEq, Repr

/-- A leaf filled by a probe: cached, heated, and requested for promotion where it lies in local LPDDR-6 unpinned (R194, R198). -/
def State.probed (s : State) (x : TcEntry) : State :=
  let e := x.leaf.toNat
  let s := ((s.walkUses s.ctx.blk.root (canonVa (x.vpn * 2 ^ 19))).onCore fun k => { k with tcache := tcFill k.tcache x }).heatLeaf x.addr false
  if !ptePin e && physDev (pteAddr e) == s.dev.devId && regionOf s.dev.lpddr (physLocal (pteAddr e)) == .lpddr && s.dev.probes.length < 64 then
    s.onDev fun d => { d with probes := d.probes ++ [{ leaf := x.addr, asid := x.asid, vpn := x.vpn, big := x.big }] }
  else s

/-- The pages that the probes of a bundle have walked are filled and requested (R194). -/
def State.keepFills (s : State) (b : Bundle) : State := b.kept.foldl State.probed s

/-- A held bundle: its probes go on from where they are when it is tried again (R194). -/
def State.keepProbes (s : State) (b : Bundle) : State :=
  if b.kept.isEmpty && b.reach.isEmpty then s
  else (s.keepFills b).onCtx fun c => { c with probes := b.reach ++ c.probes.filter fun x => !b.reach.any fun y => y.1 == x.1 }

/-- A context held on full granules that is asked to park parks on the waiting bundle (R174); in its handler it does not. -/
def State.parkHeld (s : State) (full : Bool) : State :=
  if full ∧ s.ctx.blk.preq ∧ s.ctx.st = .running then s.stopPark else s

/-- What becomes of a bundle whose slots have been run on s0; s holds the bundle they leave (R415). -/
def State.judge (s0 s : State) (ws : List Nat) (l : List SlotEnd) : Tried :=
  let pc := s.bundle.pc
  let spent := if s.ctx.overdrawn (s.bundleCharge ws) then some (Cause.overdraw, word s.ctx.power.level, posMask (s.chargedSlots ws)) else none
  let raise := fun (t : State) (x : Cause × Word × Nat) => Tried.idle ((t.onCtx Ctx.run).takePrecise x.1 x.2.1 pc x.2.2)
  match lowestCause (earlyCauses l) with
  | some x => raise s0 x
  | none =>
    if l.any fun e => e.mark == .stalled then .idle (s0.onCtx Ctx.run)
    else match lowerCause (lowestCause (checkCauses l)) spent with
      | some x => raise (s0.keepFills s.bundle) x
      | none =>
        match firstWait l with
        | some (w, e) => .idle ((s0.keepProbes s.bundle).waits l w e)
        | none =>
          if l.any (fun e => e.mark == .held) || s.fenceHolds || s.acquireHolds || s.localHolds then
            .idle ((((s0.keepProbes s.bundle).startDrain (s.holdsSlot .fenceSc)).onCtx Ctx.run).parkHeld s.bundle.waitFull)
          else if s.engineHolds || (s.drainTakesL && 2 ≤ portCount ws 2) then .idle (s0.onCtx Ctx.run)
          else if s.ctx.served + 1 < s.core.conflict s.bundle.accesses then
            .idle (s0.onCtx fun c => { c.run with served := c.served + 1 })
          else .ready s ws

/-- The fmt values of the focused context that the bundle tried now would use; where it is the primary's, a value of its partner's that took effect at the start of the clk on the same bank remains (R171). -/
def State.dueFmt (s : State) : State :=
  let own := fun (x : FmtPend) => x.slot == s.slot && x.bundles == 1
  let banks := (s.core.fmtPend.filter own).map FmtPend.bank
  s.onCore fun k =>
    let k := k.applyFmt own
    if k.primary ≠ s.slot then k else k.putFmts k.primary (k.fmtTie.filter fun x => x.slot != s.slot && banks.contains x.bank)

/-- The state with the formats of another, and the scratch as they address it (R172). -/
def State.fmtOf (s t : State) : State :=
  s.onCore fun k => { k with bfmt := t.core.bfmt, fmtPend := t.core.fmtPend, act := t.core.act, poison := t.core.poison }

/-- The state before a clk's issue with the BFMT values that have taken effect by u in force from its start (R171). -/
def State.fmtBefore (s u : State) : State :=
  s.onCore fun k => { k with
    bfmt := u.core.bfmt, act := u.core.act, poison := u.core.poison
    fmtPend := k.fmtPend.filter fun x => u.core.fmtPend.any fun y => x.slot == y.slot && x.bank == y.bank && x.val == y.val && x.left == y.left }

/-- The next bundle of the focused context tried: fetched, checked, run. -/
def State.tryBundle (s : State) : Host.Outcome Tried Fault Refusal :=
  match s.fetch with
  | .error (c, v, m) => .next (.idle ((s.onCtx Ctx.run).takePrecise c v s.ctx.pc.toNat m))
  | .ok (ws, b) =>
    let t := { s.dueFmt with bundle := b }
    match t.runSlots b.order [] with
    | .next (u, l) =>
      (match t.judge u ws l with
       | .idle x => .next (.idle (x.fmtOf s))
       | y => .next y)
    | .fault f => .fault f
    | .refused r => .refused r

/-- A context that may issue (R101, R366). -/
def CtxState.issues : CtxState → Bool
  | .ready | .running | .trapped => true
  | _ => false

/-- A context stopped issuing in its turn (R171): by a trap, a park, a fault, EXIT or entry to WAITING. -/
def Ctx.halts (a b : Ctx) : Bool := !b.st.issues || (b.inh && !a.inh) || (b.entry.isSome && a.entry.isNone)

/-- After a turn of the context that was c: where it stopped issuing, its BFMT values take effect (R171). -/
def State.afterTurn (s : State) (c : Ctx) : State := if c.halts s.ctx then s.fmtStops else s

/-- A context without a ready bundle: the count of clks its bundle failed to issue starts afresh (R366). -/
def State.notReady (s : State) : State := s.onCtx fun c => { c with starve := 0 }

/-- A context whose ready bundle did not issue. -/
def Ctx.starves (c : Ctx) : Ctx := { c with starve := c.starve + 1, st := if c.st = .running then .ready else c.st }

/-- What throttling leaves of a turn: a ready bundle fails to issue in a clk that the duty does not give its core (R366, R395). -/
def State.throttled (s : State) : Host.Outcome Tried Fault Refusal :=
  match s.tryBundle with
  | .next (.ready _ _) => .next (.idle (s.onCtx Ctx.starves))
  | .next (.idle _) => .next (.idle s.notReady)
  | y => y

/-- The focused context's turn at issue; one that a tick, a deadline or a release has freed waits for the period after it (R253, R270, R356). -/
def State.attempt (s : State) : Host.Outcome Tried Fault Refusal :=
  if !s.ctx.st.issues || s.dev.ref < s.ctx.notBefore then .next (.idle s)
  else
    let r := s.boundary
    if !r.2 || !r.1.ctx.st.issues then .next (.idle r.1.notReady)
    else if !r.1.dutyAllows then r.1.throttled
    else match r.1.tryBundle with
      | .next (.idle t) => .next (.idle t.notReady)
      | y => y

/-! ## EndStep (R138, R216) -/

/-- EndStep(n) (R138): the address the context goes on at, and whether an iteration of a safe level ended; fuel counts the levels. -/
def State.endStep (s : State) (n : Nat) : Nat → State × Nat × Bool
  | 0 => (s, n, false)
  | fuel + 1 =>
    match s.ctx.loops.levels.getLast? with
    | none => (s, n, false)
    | some l =>
      if n ≠ l.stop then (s, n, false)
      else
        let k := s.ctx.loops.levels.length - 1
        let s := s.iterationEnd k
        let rest := s.ctx.loops.levels.take k
        if l.index + 1 < l.count then
          let t := s.onCtx fun c => { c with loops := { c.loops with levels := rest ++ [{ l with index := l.index + 1 }] } }
          let r := t.endStep l.start fuel
          (r.1, r.2.1, l.safe || r.2.2)
        else
          let t := s.onCtx fun c => { c with loops := { c.loops with levels := rest } }
          let r := t.endStep n fuel
          (r.1, r.2.1, l.safe || r.2.2)

/-- The context goes on at n after EndStep; the end of an iteration of a safe level is a safe point (R113). -/
def State.goOn (s : State) (n : Nat) : State :=
  let r := s.endStep n 7
  let s := r.1.onCtx fun c => { c with pc := word r.2.1 }
  if r.2.2 then s.onCtx Ctx.safePoint else s

/-! ## Commit (R103) -/

/-- The barv of a release at .dev of a device barrier with an off-device waiter is promoted to .sys (R247). -/
def State.promote (s : State) (o : BarOp) : State × BarOp :=
  let b := s.barrier o.bar
  let off := bitAt b.notify.toNat 63 && !barIsCore o.bar && (bitAt b.notify.toNat 62 || physDev b.notify.toNat != s.dev.devId)
  (s, if !o.init && ordRelease o.order && off then { o with order := 10 } else o)

/-- A background walk starts when fewer than 4 are outstanding (R192); its length is drawn (log 7). -/
def State.startWalk (s : State) (va : Word) : State :=
  if s.core.walks.length < 4 then
    let r := s.draw
    r.2.onCore fun k => { k with walks := k.walks ++ [{ asid := s.ctx.blk.asid, root := s.ctx.blk.root, va := va, left := r.1 + 1 }] }
  else s

/-- In interlocked compatibility mode every result is interlocked (R88). -/
def Ctx.locks (c : Ctx) (p : Pending) : Pending := if c.compat ∧ p.inter = 0 then { p with inter := 1 } else p

/-- A global access. -/
def Effect.isGlob : Effect → Bool
  | .glob _ => true
  | _ => false

/-- One effect of the bundle applied; those that redirect the context are applied after the others. -/
def State.applyEffect (s : State) (e : Effect) : State :=
  match e with
  | .result p => s.onCtx fun c => { c with pend := c.pend ++ [c.locks p] }
  | .pop q => s.onCtx fun c => { c with rings := c.rings.set q (c.ring q).popped }
  | .push q p =>
    s.onCtx fun c => { c with
      rings := c.rings.set q (c.ring q).pushed
      pend := if p.left = 0 then c.pend else c.pend ++ [c.locks p] }
  | .charge _ | .cells .. | .acquire _ | .mglaze _ => s
  | .store a =>
    let s := s.onCore fun k => { k with locals := k.locals ++ [{ a with turns := if a.space = .act then k.turns else [] }] }
    if a.atomic.isSome then s.onCtx fun c => { c with awaits := c.awaits ++ [a.dest] } else s
  | .clearFull a w => s.onCore fun k => k.drain a w
  | .glob a =>
    s.onCtx fun c => { c with gq := c.gq ++ [{ a with id := c.nextId }], nextId := c.nextId + 1 }
  | .cwr n v => s.onCtx fun c => c.writeCreg n v
  | .bubble n => s.onCtx fun c => { c with bubble := c.bubble + n }
  | .safePoint => s.onCtx Ctx.safePoint
  | .gfence => s.onCtx fun c => { c with gen := (c.gen + 1) % 2 ^ 16 }
  | .hrev i => s.onCtx fun c => { c with regs := { c.regs with h := c.regs.h.set i (hSetState (c.regs.readH i) 0) } }
  | .touch x => s.onCore fun k => { k with tcache := tcFill k.tcache x }
  | .fills l => l.foldl State.probed s
  | .walk va => s.startWalk va
  | .sample leaf w => s.sample leaf w
  | .power k => s.commitPower k
  | .spawn w x => s.commitSpawn w x
  | .hset i h => s.onCtx fun c => { c with regs := { c.regs with h := c.regs.h.set i h } }
  | .fmt bank v => s.onCore fun k => { k with fmtPend := k.fmtPend ++ [{ bank := bank, val := v, slot := s.slot, bundles := 2, left := 64 }] }
  | .mark => s.onCtx fun c => { c with order := { c.order with marks := c.order.marks ++ [s.bundleNo] } }
  | .fence o => s.onCtx fun c => { c with order := { c.order with rel := c.order.rel ++ [(s.bundleNo, max 2 (ordScope o))] } }
  | .fenceSc => s.onCtx fun c => { c with order := { c.order with scDrain := none, scPassed := false } }
  | .command c => s.commitCommand c
  | .barOp o => let r := s.promote o; r.1.onCore fun k => { k with barOps := k.barOps ++ [r.2] }
  | .laneAct a => s.onCore fun k => { k with laneActs := k.laneActs ++ [a] }
  | .fnEntry e => s.onCore fun k => { k with fnQueue := k.fnQueue ++ [e] }
  | .beat kind mask planes sh => s.commitBeat kind mask planes sh s.bundle.pc
  | .mset sh es => s.commitMset sh es
  | .mrelease => s.releaseDot
  | .mmode f n fmt dot => s.commitMmode f n fmt dot s.bundle.pc
  | .mchk f => s.commitMchk f s.bundle.pc
  | .qbind q a w h => s.commitQbind q a w h
  | .qunb q => s.commitQunb q
  | .qadv q n => s.commitQadv q n
  | .qstr q k v => s.onCtx fun c => { c with loops := { c.loops with strides := c.loops.strides.set (16 * k + q) v } }
  | .branch _ | .endStep _ | .enter _ | .lbrk _ | .trap _ | .tret | .exit => s

/-- tret (R124, R145): the held loops come back, the context leaves its handler, and its late writes replay from the bundle at TEPC. -/
def State.commitTret (s : State) : State :=
  (s.onCtx fun c => { c with
    loops := c.held, held := .empty, inh := false, st := .running, replay := !c.late.isEmpty, probes := [],
    order := { c.order with scDrain := none, scPassed := false } }).reinstate (bits s.ctx.tr.tepc.toNat 5 16 * 32)

/-- TRAP after its bundle has committed (R123): taken at the next boundary, DOUBLE in a handler, or escalated. -/
def State.commitTrap (s : State) (code pos : Nat) : State :=
  if s.ctx.inh ∨ !s.ctx.tr.enabled then s.takePrecise .trap (word code) s.ctx.pc.toNat (2 ^ pos)
  else s.onCtx fun c => { c with entry := some { cause := .trap, val := word code, epc := c.pc.toNat, slots := 2 ^ pos, defer := false } }

/-- Where a bundle that has committed leaves its context: its redirect, or EndStep of the address after it (R138, R143). -/
def State.sequence (s : State) : State :=
  let next := s.bundle.next
  match s.bundle.effects.find? fun e => match e with
      | .branch _ | .endStep _ | .enter _ | .lbrk _ | .trap _ | .tret | .exit => true | _ => false with
  | some (.branch t) => s.onCtx fun c => { c with pc := t, loops := c.loops.branchTo t.toNat }
  | some (.endStep n) => s.goOn n
  | some (.enter l) => s.onCtx fun c => { c with pc := word next, loops := { c.loops with levels := c.loops.levels ++ [l] } }
  | some (.lbrk k) =>
    let stop := match s.ctx.loops.levels[k]? with | some l => l.stop | none => next
    (s.onCtx fun c => { c with loops := { c.loops with levels := c.loops.levels.take k } }).goOn stop
  | some (.trap code) => (s.goOn next).commitTrap code ((s.bundle.slots.findIdx? fun i => match i with | .trap _ => true | _ => false).getD 0)
  | some .tret => s.commitTret
  | some .exit => s.commitExit
  | _ => s.goOn next

/-- The loop buffer after a bundle: its copy joins, for the first pass of a body fills it, and those outside the active bodies go (R75, R137; log 37). -/
def Ctx.keepCopies (c : Ctx) (pc : Nat) (ws : List Nat) : Ctx :=
  let l := if c.loopBuf.any fun x => x.1 == pc then c.loopBuf else c.loopBuf ++ [(pc, ws)]
  { c with loopBuf := l.filter fun (x : Nat × List Nat) => c.loops.levels.any fun v => v.start ≤ x.1 && x.1 < v.stop }

/-- The fmt values of a context come one of its bundles nearer (R171). -/
def Core.countFmt (k : Core) (slot : Nat) : Core :=
  { k with fmtPend := k.fmtPend.map fun x => if x.slot = slot then { x with bundles := x.bundles - 1 } else x }

/-- The bundle at issue commits (R103): late writes replay from it, its charge counts, its effects apply in slot order, those of pops and pushes first and then the global accesses, which a qbind of the bundle finds in their queues (R219), and its context goes on. -/
def State.commit (s : State) (ws : List Nat) : State :=
  let b := s.bundle
  let charge := s.bundleCharge ws
  let s := s.onCtx fun c => { c.run.replayLate.chargeBundle charge with served := 0, starve := 0, first := false, barWait := [], released := [], probes := [] }
  let s := (s.countUnits s.coreNo charge).onCore fun k => (k.countFmt s.slot)
  let s := (b.effects.filter Effect.ofRing ++ b.effects.filter Effect.isGlob ++ b.effects.filter fun e => !e.ofRing && !e.isGlob).foldl State.applyEffect s
  let s := s.onCore fun k => { k with cellsNow := k.cellsNow ++ k.cells b.accesses }
  let s := s.sequence
  s.onCtx fun c => { (c.keepCopies b.pc ws) with commits := c.commits + 1 }

/-! ## The merge stage (R366) -/

/-- Slot a goes before slot b at the merge stage. -/
def primaryOf (c0 c1 : Ctx) : Nat :=
  if c0.first ≠ c1.first then (if c0.first then 0 else 1)
  else if (64 ≤ c0.starve) ≠ (64 ≤ c1.starve) then (if 64 ≤ c0.starve then 0 else 1)
  else if c0.prio ≠ c1.prio then (if c1.prio < c0.prio then 0 else 1)
  else 0

/-- The contexts of the focused core by slot. -/
def State.slotCtx (s : State) (k : Nat) : Ctx := if s.slot = k then s.ctx else s.partner

/-- The secondary's bundle, staged in t with words v, may issue beside the primary's (R366). -/
def mayMerge (p t : State) (ws v : List Nat) : Bool :=
  !p.ctx.compat && !t.ctx.compat && portsFit (ws ++ v) && !(t.drainTakesL && 2 ≤ portCount (ws ++ v) 2) &&
  t.core.conflict (p.bundle.accesses ++ t.bundle.accesses) ≤ 1 &&
  (!(t.bundle.effects.any fun e => match e with | .fnEntry _ => true | _ => false) || t.core.fnQueue.length < 16)

/-- What the focused core issued in a clk. -/
structure Issued where
  s  : State
  ws : List Nat
deriving DecidableEq, Repr

/-- Slot k takes its turn; what it would issue is left staged. -/
def State.turn (s : State) (k : Nat) : Host.Outcome Tried Fault Refusal :=
  let s := s.focusSlot k
  match s.attempt with
  | .next (.idle t) => .next (.idle (t.afterTurn s.ctx))
  | y => y

/-- A staged bundle issues. -/
def State.issues (t : State) (ws : List Nat) : State := (t.commit ws).afterTurn t.ctx

/-- A core with no bundle ready but that of the focused slot, which is primary. -/
def issueAlone (t : State) (ws : List Nat) : Issued := { s := (t.onCore fun c => { c with primary := t.slot }).issues ws, ws := ws }

/-- A secondary, c before its turn, whose ready bundle the primary's has kept from issuing, by the last place of the function queue or otherwise: the clk counts (R366). -/
def passedOver (c d : Ctx) : Ctx := if d.st.issues ∧ d.entry.isNone ∧ d.pc = c.pc ∧ d.inh = c.inh then { d with starve := c.starve + 1, st := if d.st = .running then .ready else d.st } else d

/-- The primary, slot k, issues alone: its partner's ready bundle does not issue beside it (R366). -/
def State.issueFirst (s : State) (k : Nat) : Host.Outcome Issued Fault Refusal :=
  match s.turn k with
  | .next (.ready p ws) => .next { s := ((p.issues ws).focusSlot (1 - k)).onCtx Ctx.starves, ws := ws }
  | .next (.idle t) => .next { s := t, ws := [] }
  | .fault f => .fault f
  | .refused r => .refused r

/-- Both slots have a ready bundle, and slot k is primary: it issues, and the secondary beside it where it may; the formats in force for both are returned with what issued, where a value of the secondary's takes effect in the clk (R171). -/
def State.issuePair (s : State) (k : Nat) : Host.Outcome (Issued × Option State) Fault Refusal :=
  match s.turn k with
  | .next (.ready p ws) =>
    let q := p.issues ws
    (match q.turn (1 - k) with
     | .next (.ready t v) =>
       if mayMerge p t ws v then
         let u := t.issues v
         .next ({ s := u, ws := ws ++ v }, if u.core.bfmt = p.core.bfmt then none else some u)
       else .next ({ s := (q.focusSlot (1 - k)).onCtx Ctx.starves, ws := ws }, none)
     | .next (.idle t) => .next ({ s := t.onCtx (passedOver (q.focusSlot (1 - k)).ctx), ws := ws }, none)
     | .fault f => .fault f
     | .refused r => .refused r)
  | .next (.idle t) => .next ({ s := t, ws := [] }, none)
  | .fault f => .fault f
  | .refused r => .refused r

/-- Both slots have a ready bundle. The accesses of both use the values that take effect in the clk (R171): where the secondary brings one, the primary's bundle is tried again with it, and where both no longer issue then, the primary issues alone with the old one. DEDUCED (log 31). -/
def State.issueBoth (s : State) : Host.Outcome Issued Fault Refusal :=
  let k := primaryOf (s.slotCtx 0) (s.slotCtx 1)
  let s := s.onCore fun c => { c with primary := k }
  match s.issuePair k with
  | .next (x, none) => .next x
  | .next (x, some u) =>
    (match (s.fmtBefore u).issuePair k with
     | .next (y, _) => if y.ws = x.ws then .next y else s.issueFirst k
     | .fault f => .fault f
     | .refused r => .refused r)
  | .fault f => .fault f
  | .refused r => .refused r

/-- Slot k takes its turn as the only one with a bundle ready, and so as primary (R366). -/
def State.turnAlone (s : State) (k : Nat) : Host.Outcome Tried Fault Refusal := (s.onCore fun c => { c with primary := k }).turn k

/-- The issue of the focused core in one clk, given the formats in force at its start. -/
def State.issueWith (s : State) : Host.Outcome Issued Fault Refusal :=
  match s.turnAlone 0 with
  | .fault f => .fault f
  | .refused r => .refused r
  | .next (.idle s0) =>
    (match s0.turnAlone 1 with
     | .fault f => .fault f
     | .refused r => .refused r
     | .next (.idle s1) => .next { s := s1.onCore fun c => { c with primary := 0 }, ws := [] }
     | .next (.ready t ws) => .next (issueAlone t ws))
  | .next (.ready t0 ws0) =>
    (match s.turnAlone 1 with
     | .fault f => .fault f
     | .refused r => .refused r
     | .next (.ready _ _) => s.issueBoth
     | .next (.idle s1) =>
       (match s1.turnAlone 0 with
        | .next (.ready t ws) => .next (issueAlone t ws)
        | _ => .next (issueAlone t0 ws0)))

/-- The values that the 64th clk put into effect now, in the order of a clk whose primary is slot p (R171). -/
def State.retied (s : State) (p : Nat) : State := s.onCore fun k => k.putFmts p k.fmtTie

/-- The issue of the focused core in one clk. Values of both contexts that take effect at its start apply in the order of its primary, which is known once its bundles have been tried; slot 0's goes first where none issues (R171). -/
def State.issue (s : State) : Host.Outcome Issued Fault Refusal :=
  let s := s.onCore fun k => { k with cellsNow := [] }
  match s.issueWith with
  | .next x => if s.core.fmtTie.isEmpty ∨ x.ws = [] ∨ x.s.core.primary = 0 then .next x else (s.retied x.s.core.primary).issueWith
  | y => y

/-- The issue of the focused core in one reference period, and what it leaves for the rest of the clk (log 1). A core whose cluster has no clk issues nothing, and its engines find every cell free (R389, log 85). -/
def State.coreIssue (s : State) : Host.Outcome (State × Turn) Fault Refusal :=
  let done := s.core.finishing
  if !s.coreRuns then
    .next (s.onCore fun k => { k with cellsNow := [] }, { core := s.coreNo, ran := false, lUsed := false, mUsed := false, done := done })
  else
    let k := s.slot
    match s.issue with
    | .fault f => .fault f
    | .refused r => .refused r
    | .next x =>
      .next (x.s.nearer.focusSlot k, { core := s.coreNo, ran := true, lUsed := portCount x.ws 2 != 0, mUsed := portCount x.ws 5 != 0, done := done })

/-- The issue of some cores of the device, in turn. -/
def State.coresIssue (s : State) : List Nat → List Turn → Host.Outcome (State × List Turn) Fault Refusal
  | [], l => .next (s, l)
  | n :: t, l =>
    let c := s.phys
    match (s.focusCore n).coreIssue with
    | .next (u, x) => (u.focus c).coresIssue t (l ++ [x])
    | .fault f => .fault f
    | .refused r => .refused r

end Sys2Proof.Machine
end

