-- ==== Sys2Proof/Machine/Rv.lean ====
section
/-! DEFINITION. Rv.lean: the base instructions of the firmware cores. R405 names RV64IMAC with Zicsr in machine mode only and gives the four instructions it adds; what the named base does is PRESUMED from that standard (log 98). -/

namespace Sys2Proof.Machine

/-! ## Instructions of the base -/

/-- The integer operations of a register with a register or a constant. -/
inductive RvAlu where
  | add | sub | sll | slt | sltu | xor | srl | sra | or | and
  | mul | mulh | mulhsu | mulhu | div | divu | rem | remu
deriving DecidableEq, Repr

/-- The conditions of a branch. -/
inductive RvCmp where
  | eq | ne | lt | ge | ltu | geu
deriving DecidableEq, Repr

/-- What an atomic does to its word. -/
inductive RvAmo where
  | lr | sc | swap | add | xor | and | or | min | max | minu | maxu
deriving DecidableEq, Repr

/-- The second operand of an integer operation. -/
inductive RvSrc where
  | reg (r : Nat)
  | imm (v : Word)
deriving DecidableEq, Repr

/-- What an access of a control register writes to it. -/
inductive RvCsr where
  | write | set | clear
deriving DecidableEq, Repr

/-- A base instruction. Accesses have a width in bits, constants are extended. -/
inductive RvOp where
  | alu (op : RvAlu) (w32 : Bool) (rd a : Nat) (b : RvSrc)
  | const (rd : Nat) (v : Word)
  | pcRel (rd : Nat) (v : Word)
  | jump (rd : Nat) (off : Word)
  | jumpReg (rd a : Nat) (off : Word)
  | branch (c : RvCmp) (a b : Nat) (off : Word)
  | load (w : Nat) (extend : Bool) (rd a : Nat) (off : Word)
  | store (w a b : Nat) (off : Word)
  | amo (op : RvAmo) (w rd a b : Nat)
  | csr (op : RvCsr) (n rd : Nat) (src : RvSrc) (writes : Bool)
  | fence | ecall | ebreak | mret | wfi
deriving DecidableEq, Repr

/-! ## Decoding -/

/-- A field of n bits extended with its sign. -/
def rvSigned (x n : Nat) : Word := BitVec.ofInt 64 (sext x n)

/-- The operation of a register form by funct7 and funct3; with 32 bits only some exist. -/
def rvAluOf (f7 f3 : Nat) (w32 : Bool) : Option RvAlu :=
  let row := fun (l : List (Option RvAlu)) => l.getD f3 none
  match w32, f7 with
  | false, 0 => row [some .add, some .sll, some .slt, some .sltu, some .xor, some .srl, some .or, some .and]
  | false, 32 => row [some .sub, none, none, none, none, some .sra]
  | false, 1 => row [some .mul, some .mulh, some .mulhsu, some .mulhu, some .div, some .divu, some .rem, some .remu]
  | true, 0 => row [some .add, some .sll, none, none, none, some .srl]
  | true, 32 => row [some .sub, none, none, none, none, some .sra]
  | true, 1 => row [some .mul, none, none, none, some .div, some .divu, some .rem, some .remu]
  | _, _ => none

/-- A shift by a constant: the bits above the amount choose it. -/
def rvShiftOf (hi f3 : Nat) : Option RvAlu :=
  match hi, f3 with
  | 0, 1 => some .sll
  | 0, 5 => some .srl
  | 16, 5 => some .sra
  | _, _ => none

/-- Operations of a register with a constant. -/
def rvImmOp (w : Nat) (w32 : Bool) : Option RvOp :=
  let f3 := bits w 12 3
  let put := fun (op : RvAlu) (v : Word) => RvOp.alu op w32 (bits w 7 5) (bits w 15 5) (.imm v)
  if f3 = 1 ∨ f3 = 5 then
    if w32 ∧ bitAt w 25 then none else (rvShiftOf (bits w 26 6) f3).map fun op => put op (word (bits w 20 6))
  else if w32 ∧ f3 ≠ 0 then none
  else ([some RvAlu.add, none, some .slt, some .sltu, some .xor, none, some .or, some .and].getD f3 none).map fun op => put op (rvSigned (bits w 20 12) 12)

/-- Atomics by funct5. -/
def rvAmoOf : Nat → Option RvAmo
  | 0 => some .add
  | 1 => some .swap
  | 2 => some .lr
  | 3 => some .sc
  | 4 => some .xor
  | 8 => some .or
  | 12 => some .and
  | 16 => some .min
  | 20 => some .max
  | 24 => some .minu
  | 28 => some .maxu
  | _ => none

/-- The instructions of the system opcode: traps, the return, the wait, and the accesses of control registers. -/
def rvSystem (w : Nat) : Option RvOp :=
  let f3 := bits w 12 3
  let a := bits w 15 5
  if f3 = 0 then
    (match w / 2 ^ 7 with
    | 0 => some .ecall
    | 0x2000 => some .ebreak
    | 0x604000 => some .mret
    | 0x20A000 => some .wfi
    | _ => none)
  else if f3 = 4 then none
  else
    let op : RvCsr := if f3 % 4 = 1 then .write else if f3 % 4 = 2 then .set else .clear
    some (.csr op (bits w 20 12) (bits w 7 5) (if f3 < 4 then .reg a else .imm (word a)) (f3 % 4 = 1 || a != 0))

/-- An instruction of 32 bits. -/
def rvDecode (w : Nat) : Option RvOp :=
  let rd := bits w 7 5
  let a := bits w 15 5
  let b := bits w 20 5
  let f3 := bits w 12 3
  match bits w 0 7 with
  | 0x37 => some (.const rd (rvSigned (bits w 12 20 * 2 ^ 12) 32))
  | 0x17 => some (.pcRel rd (rvSigned (bits w 12 20 * 2 ^ 12) 32))
  | 0x6F => some (.jump rd (rvSigned (2 * bits w 21 10 + 2 ^ 11 * bits w 20 1 + 2 ^ 12 * bits w 12 8 + 2 ^ 20 * bits w 31 1) 21))
  | 0x67 => if f3 = 0 then some (.jumpReg rd a (rvSigned (bits w 20 12) 12)) else none
  | 0x63 => ([some RvCmp.eq, some .ne, none, none, some .lt, some .ge, some .ltu, some .geu].getD f3 none).map fun c =>
      .branch c a b (rvSigned (2 * bits w 8 4 + 2 ^ 5 * bits w 25 6 + 2 ^ 11 * bits w 7 1 + 2 ^ 12 * bits w 31 1) 13)
  | 0x03 => if f3 = 7 then none else some (.load (2 ^ (3 + f3 % 4)) (f3 < 4) rd a (rvSigned (bits w 20 12) 12))
  | 0x23 => if 3 < f3 then none else some (.store (2 ^ (3 + f3)) a b (rvSigned (bits w 7 5 + 2 ^ 5 * bits w 25 7) 12))
  | 0x13 => rvImmOp w false
  | 0x1B => rvImmOp w true
  | 0x33 => (rvAluOf (bits w 25 7) f3 false).map fun op => .alu op false rd a (.reg b)
  | 0x3B => (rvAluOf (bits w 25 7) f3 true).map fun op => .alu op true rd a (.reg b)
  | 0x2F =>
    if f3 = 2 ∨ f3 = 3 then
      match rvAmoOf (bits w 27 5) with
      | some .lr => if b = 0 then some (.amo .lr (2 ^ (3 + f3)) rd a 0) else none
      | some op => some (.amo op (2 ^ (3 + f3)) rd a b)
      | none => none
    else none
  | 0x0F => if f3 = 0 then some .fence else none
  | 0x73 => rvSystem w
  | _ => none

/-- The eight registers a field of 3 bits names. -/
def rvShort (x lo : Nat) : Nat := 8 + bits x lo 3

/-- The short form of quadrant 0: addresses of the stack, loads and stores of words and doublewords. -/
def rvShort0 (x : Nat) : Option RvOp :=
  let a := rvShort x 7
  let r := rvShort x 2
  let o4 := word (4 * bits x 6 1 + 8 * bits x 10 3 + 2 ^ 6 * bits x 5 1)
  let o8 := word (8 * bits x 10 3 + 2 ^ 6 * bits x 5 2)
  match bits x 13 3 with
  | 0 =>
    let n := 4 * bits x 6 1 + 8 * bits x 5 1 + 2 ^ 4 * bits x 11 2 + 2 ^ 6 * bits x 7 4
    if n = 0 then none else some (.alu .add false r 2 (.imm (word n)))
  | 2 => some (.load 32 true r a o4)
  | 3 => some (.load 64 true r a o8)
  | 6 => some (.store 32 a r o4)
  | 7 => some (.store 64 a r o8)
  | _ => none

/-- The operations of quadrant 1 on the eight short registers. -/
def rvShortAlu (x : Nat) : Option RvOp :=
  let r := rvShort x 7
  let n := bits x 2 5 + 2 ^ 5 * bits x 12 1
  let two := fun (op : RvAlu) (w32 : Bool) => RvOp.alu op w32 r r (.reg (rvShort x 2))
  match bits x 10 2 with
  | 0 => some (.alu .srl false r r (.imm (word n)))
  | 1 => some (.alu .sra false r r (.imm (word n)))
  | 2 => some (.alu .and false r r (.imm (rvSigned n 6)))
  | _ => [some (two .sub false), some (two .xor false), some (two .or false), some (two .and false), some (two .sub true), some (two .add true)].getD
      (4 * bits x 12 1 + bits x 5 2) none

/-- The short form of quadrant 1: constants, operations, jumps and branches. -/
def rvShort1 (x : Nat) : Option RvOp :=
  let r := bits x 7 5
  let v := rvSigned (bits x 2 5 + 2 ^ 5 * bits x 12 1) 6
  let near := rvSigned (2 * bits x 3 2 + 2 ^ 3 * bits x 10 2 + 2 ^ 5 * bits x 2 1 + 2 ^ 6 * bits x 5 2 + 2 ^ 8 * bits x 12 1) 9
  match bits x 13 3 with
  | 0 => some (.alu .add false r r (.imm v))
  | 1 => if r = 0 then none else some (.alu .add true r r (.imm v))
  | 2 => some (.const r v)
  | 3 =>
    if v = 0 then none
    else if r = 2 then
      some (.alu .add false 2 2 (.imm (rvSigned (2 ^ 4 * bits x 6 1 + 2 ^ 5 * bits x 2 1 + 2 ^ 6 * bits x 5 1 + 2 ^ 7 * bits x 3 2 + 2 ^ 9 * bits x 12 1) 10)))
    else some (.const r (v <<< 12))
  | 4 => rvShortAlu x
  | 5 => some (.jump 0 (rvSigned (2 * bits x 3 3 + 2 ^ 4 * bits x 11 1 + 2 ^ 5 * bits x 2 1 + 2 ^ 6 * bits x 7 1 + 2 ^ 7 * bits x 6 1 + 2 ^ 8 * bits x 9 2 + 2 ^ 10 * bits x 8 1 + 2 ^ 11 * bits x 12 1) 12))
  | 6 => some (.branch .eq (rvShort x 7) 0 near)
  | _ => some (.branch .ne (rvShort x 7) 0 near)

/-- The short form of quadrant 2: shifts, moves, jumps to registers, and accesses by the stack pointer. -/
def rvShort2 (x : Nat) : Option RvOp :=
  let r := bits x 7 5
  let b := bits x 2 5
  match bits x 13 3 with
  | 0 => some (.alu .sll false r r (.imm (word (b + 2 ^ 5 * bits x 12 1))))
  | 2 => if r = 0 then none else some (.load 32 true r 2 (word (4 * bits x 4 3 + 2 ^ 5 * bits x 12 1 + 2 ^ 6 * bits x 2 2)))
  | 3 => if r = 0 then none else some (.load 64 true r 2 (word (8 * bits x 5 2 + 2 ^ 5 * bits x 12 1 + 2 ^ 6 * bits x 2 3)))
  | 4 =>
    if b ≠ 0 then some (.alu .add false r (if bitAt x 12 then r else 0) (.reg b))
    else if r = 0 then if bitAt x 12 then some .ebreak else none
    else some (.jumpReg (if bitAt x 12 then 1 else 0) r 0)
  | 6 => some (.store 32 2 b (word (4 * bits x 9 4 + 2 ^ 6 * bits x 7 2)))
  | 7 => some (.store 64 2 b (word (8 * bits x 10 3 + 2 ^ 6 * bits x 7 3)))
  | _ => none

/-- An instruction of 16 bits. -/
def rvDecodeShort (x : Nat) : Option RvOp :=
  match bits x 0 2 with
  | 0 => rvShort0 x
  | 1 => rvShort1 x
  | 2 => rvShort2 x
  | _ => none

/-! ## Values -/

/-- A quotient rounded to zero; by 0 it is −1. -/
def rvQuot (a b : Int) : Int := if b = 0 then -1 else Int.tdiv a b

/-- The remainder of that quotient; by 0 it is the dividend. -/
def rvRest (a b : Int) : Int := if b = 0 then a else Int.tmod a b

/-- An integer operation on w bits: exact, then narrowed. -/
def rvValue (op : RvAlu) (w : Nat) (a b : BitVec w) : BitVec w :=
  let n := b.toNat % w
  match op with
  | .add => a + b
  | .sub => a - b
  | .sll => a <<< n
  | .slt => if a.toInt < b.toInt then 1 else 0
  | .sltu => if a.toNat < b.toNat then 1 else 0
  | .xor => a ^^^ b
  | .srl => a >>> n
  | .sra => a.sshiftRight n
  | .or => a ||| b
  | .and => a &&& b
  | .mul => a * b
  | .mulh => BitVec.ofInt w (a.toInt * b.toInt / 2 ^ w)
  | .mulhsu => BitVec.ofInt w (a.toInt * b.toNat / 2 ^ w)
  | .mulhu => BitVec.ofNat w (a.toNat * b.toNat / 2 ^ w)
  | .div => BitVec.ofInt w (rvQuot a.toInt b.toInt)
  | .divu => BitVec.ofInt w (rvQuot a.toNat b.toNat)
  | .rem => BitVec.ofInt w (rvRest a.toInt b.toInt)
  | .remu => BitVec.ofInt w (rvRest a.toNat b.toNat)

/-- The same on the low 32 bits, their result extended. -/
def rvValue32 (op : RvAlu) (a b : Word) : Word := (rvValue op 32 (a.setWidth 32) (b.setWidth 32)).signExtend 64

/-- The condition of a branch. -/
def RvCmp.holds (c : RvCmp) (a b : Word) : Bool :=
  match c with
  | .eq => a == b
  | .ne => a != b
  | .lt => a.toInt < b.toInt
  | .ge => b.toInt ≤ a.toInt
  | .ltu => a.toNat < b.toNat
  | .geu => b.toNat ≤ a.toNat

/-- What an atomic leaves in its word, from the old value and an operand. -/
def RvAmo.leaves (op : RvAmo) (w : Nat) (old x : BitVec w) : BitVec w :=
  match op with
  | .lr => old
  | .sc | .swap => x
  | .add => old + x
  | .xor => old ^^^ x
  | .and => old &&& x
  | .or => old ||| x
  | .min => if old.toInt ≤ x.toInt then old else x
  | .max => if x.toInt ≤ old.toInt then old else x
  | .minu => if old.toNat ≤ x.toNat then old else x
  | .maxu => if x.toNat ≤ old.toNat then old else x

/-- The second operand. -/
def FwCore.src (c : FwCore) : RvSrc → Word
  | .reg r => c.get r
  | .imm v => v

/-! ## Control registers -/

/-- mstatus: MIE, MPIE and MPP, which stays machine mode; no other field exists with one mode and no floating point. -/
def FwCore.mstatus (c : FwCore) : Nat := 8 * c.ie.toNat + 2 ^ 7 * c.pie.toNat + 3 * 2 ^ 11

/-- A control register as firmware core k reads it: none where it does not exist. Those for further counters read 0. -/
def FwCore.csr (c : FwCore) (k n : Nat) : Option Word :=
  match n with
  | 0x300 => some (word c.mstatus)
  | 0x301 => some 0x8000000000001105
  | 0x304 => some c.mie
  | 0x305 => some c.mtvec
  | 0x320 => some (word c.inhibit)
  | 0x340 => some c.mscratch
  | 0x341 => some c.mepc
  | 0x342 => some c.mcause
  | 0x343 => some c.mtval
  | 0x344 => some c.mip
  | 0xB00 => some c.mcycle
  | 0xB02 => some c.minstret
  | 0xF14 => some (word k)
  | _ => if 0xF11 ≤ n ∧ n ≤ 0xF15 ∨ 0x323 ≤ n ∧ n ≤ 0x33F ∨ 0xB03 ≤ n ∧ n ≤ 0xB1F then some 0 else none

/-- The interrupts a core can enable: software, timer and external, of machine mode. -/
def rvIrqs : Word := 0x888

/-- A control register written: bits that do not exist stay 0, and the read-only ones keep their value. -/
def FwCore.setCsr (c : FwCore) (n : Nat) (v : Word) : FwCore :=
  match n with
  | 0x300 => { c with ie := v.getLsbD 3, pie := v.getLsbD 7 }
  | 0x304 => { c with mie := v &&& rvIrqs }
  | 0x305 => { c with mtvec := v &&& ~~~2 }
  | 0x320 => { c with inhibit := (v &&& 5).toNat }
  | 0x340 => { c with mscratch := v }
  | 0x341 => { c with mepc := v &&& ~~~1 }
  | 0x342 => { c with mcause := v }
  | 0x343 => { c with mtval := v }
  | 0xB00 => { c with mcycle := v }
  | 0xB02 => { c with minstret := v }
  | _ => c

/-- What an access leaves in a control register. -/
def RvCsr.leaves (op : RvCsr) (old x : Word) : Word :=
  match op with
  | .write => x
  | .set => old ||| x
  | .clear => old &&& ~~~x

/-- The interrupt a core takes: of those pending and enabled, external before software before timer. -/
def FwCore.irq (c : FwCore) : Option Nat :=
  if c.ie then [11, 3, 7].find? fun i => (c.mip &&& c.mie).getLsbD i else none

/-- An interrupt: as an exception, at its own entry in vectored mode. An answer that was awaited is no longer. -/
def FwCore.interrupt (c : FwCore) (i : Nat) : FwCore :=
  let t := { c.trapAt (2 ^ 63 + i) 0 with asked := none }
  if c.mtvec.getLsbD 0 then { t with pc := t.pc + word (4 * i) } else t

/-! ## Accesses -/

/-- A bus error of core k: exception m with the byte address in mtval, and the cause in the fault code (R29). -/
def State.rvError (s : State) (k m : Nat) (a : Word) (c : Cause) : State := s.onFw k fun x => { x.trapAt m a.toNat with fault := c.code }

/-- What keeps an atomic of w bits from a byte address: 0 that it is misaligned, 1 that it is not in local memory, where alone there are atomics. -/
def State.rvAmoFault (s : State) (a : Word) (w : Nat) : Option Nat :=
  if 8 * a.toNat % w ≠ 0 then some 0
  else if physDev (8 * a.toNat) = s.dev.devId ∧ s.isDram (physLocal (8 * a.toNat)) ∧ 8 * a.toNat < 2 ^ 60 then none
  else some 1

/-- An instruction of core k retires with an effect; what that writes to minstret stays. -/
def State.rvGo (s : State) (k : Nat) (f : FwCore → FwCore) : State := s.onFw k fun c => f c.retire

/-- Core k loads w bits from byte address a into rd. One that waits in the storage view, or for its answer, executes again. -/
def State.rvLoad (s : State) (k len w : Nat) (extend : Bool) (rd : Nat) (a : Word) : State :=
  let p := 8 * a.toNat
  if physDev p = s.dev.devId ∧ s.viewWaits false [(physLocal p, w)] then s
  else match s.fwAnswer k p w with
    | .error s => s
    | .ok remote => match s.fwRead k p w remote.1 0 with
      | .error c => (s.fwAskDone k).rvError k 5 a c
      | .ok r =>
        if remote.2 ≠ 0 then (s.fwAskDone k).onFw k fun x => { x.trapAt 5 a.toNat with fault := remote.2 }
        else (r.2.fwAskDone k).rvGo k fun c => { c.put rd (if extend then rvSigned r.1 w else word r.1) with pc := c.pc + word len }

/-- Core k stores w bits at byte address a. -/
def State.rvStore (s : State) (k len w : Nat) (a v : Word) : State :=
  let p := 8 * a.toNat
  let l := if physDev p = s.dev.devId then [(physLocal p, w)] else []
  if s.viewWaits true l then s
  else match s.fwWrite k p w v.toNat with
    | .error c => s.rvError k 7 a c
    | .ok _ =>
      let e : Event := { Event.none with who := k, addr := p, val := v.toNat % 2 ^ w, len := w, data := [1] }
      (s.inTurn true 0 l .firmwareCoreAccess (fun n => { e with data := [1, n] }) fun s => s.fwAccess e).rvGo k fun c => { c with pc := c.pc + word len }

/-- An atomic of core k on w bits of local memory, in one step. lr reserves them for the core, which a write to any of them ends; sc writes only while they are reserved, and ends the reservation. -/
def State.rvAmo (s : State) (k len : Nat) (op : RvAmo) (w rd : Nat) (a x : Word) : State :=
  let p := 8 * a.toNat
  let l := physLocal p
  let m := if op = .lr then 4 else 6
  let done := fun (s : State) (v : Word) => s.rvGo k fun c => { c.put rd v with pc := c.pc + word len }
  let free := fun (s : State) => s.onDev fun d => { d with reserves := d.reserves.filter fun r => r.1 != k }
  match s.rvAmoFault a w with
  | some n => if n = 0 then s.onFw k fun c => c.trapAt m a.toNat else s.rvError k (m + 1) a .unmapped
  | none => match s.fwRead k p w 0 0 with
    | .error c => s.rvError k (m + 1) a c
    | .ok r =>
      let old := rvSigned r.1 w
      let new := (op.leaves w (BitVec.ofNat w r.1) (x.setWidth w)).toNat
      match op with
      | .lr => done ((free s).onDev fun d => { d with reserves := d.reserves ++ [(k, l, w)] }) old
      | .sc => if s.dev.reserves.contains (k, l, w) then done (free (s.physWrite l w new)) 0 else done (free s) 1
      | _ => done (s.physWrite l w new) old

/-! ## One instruction -/

/-- Core k executes a base instruction of len bytes. -/
def State.rvExec (s : State) (k len : Nat) (op : RvOp) : State :=
  let c := s.fwCore k
  let on := fun (f : FwCore → FwCore) => s.rvGo k fun c => { f c with pc := c.pc + word len }
  match op with
  | .alu op w32 rd a b => on fun c => c.put rd (if w32 then rvValue32 op (c.get a) (c.src b) else rvValue op 64 (c.get a) (c.src b))
  | .const rd v => on fun c => c.put rd v
  | .pcRel rd v => on fun c => c.put rd (c.pc + v)
  | .jump rd off => s.rvGo k fun c => { c.put rd (c.pc + word len) with pc := c.pc + off }
  | .jumpReg rd a off => s.rvGo k fun c => { c.put rd (c.pc + word len) with pc := (c.get a + off) &&& ~~~1 }
  | .branch q a b off => s.rvGo k fun c => { c with pc := c.pc + if q.holds (c.get a) (c.get b) then off else word len }
  | .load w extend rd a off => s.rvLoad k len w extend rd (c.get a + off)
  | .store w a b off => s.rvStore k len w (c.get a + off) (c.get b)
  | .amo op w rd a b => s.rvAmo k len op w rd (c.get a) (c.get b)
  | .csr op n rd src writes =>
    match c.csr k n with
    | none => s.onFw k FwCore.illegal
    | some old =>
      if writes ∧ 0xC00 ≤ n then s.onFw k FwCore.illegal
      else on fun c => (if writes then fun (x : FwCore) => x.setCsr n (op.leaves old (c.src src)) else id) (c.put rd old)
  | .fence | .wfi => on id
  | .ecall => s.onFw k fun c => c.trap 11
  | .ebreak => s.onFw k fun c => c.trap 3
  | .mret => s.rvGo k fun c => { c with pc := c.mepc, ie := c.pie, pie := true }

end Sys2Proof.Machine
end

