-- ==== Sys2Proof/Machine/Clock.lean ====
section
/-! DEFINITION. Clock.lean: one reference period of the machine, the instructions of the firmware cores that run in it, and where a program is placed (R8, R10, R405; log 1, log 12). -/

namespace Sys2Proof.Machine

/-! ## Events of one clk on one object (R10) -/

/-- The row of Table 5.5 of a command written to CXCTL; PARK sets the request of rows 6 and 7. -/
def commandRow (n : Nat) : Nat := [26, 7, 5, 1, 18, 21, 22, 23, 24, 25].getD n 26

/-- The object that an event meets, as the number of its transition table and its own, and the row of the table it may match: contexts (Table 5.5), barriers by the core they are on, 256 for the device's (Table 11.3), halves by their core (Table 13.3), kernels (Table 16.6), fabric ports (Table 17.3), the power unit (Table 18.1). -/
def Device.eventRow (d : Device) (i : Instr) (e : Event) : Option (Nat × Nat × Nat) :=
  match i with
  | .kill => some (5, e.who, 1)
  | .force => some (5, e.who, 5)
  | .park => some (5, e.who, 7)
  | .deferredTrapEntry => some (5, e.who, 8)
  | .saveComplete => some (5, e.who, 15)
  | .restore => some (5, e.who, 18)
  | .restart => some (5, e.who, 21)
  | .retire => some (5, e.who, 22)
  | .free => some (5, e.who, 23)
  | .detach => some (5, e.who, 24)
  | .attach => some (5, e.who, 25)
  | .registerWrite =>
    if regUnit e.addr = 0x701 ∧ regOff e.addr % 0x1000 = 0x40 then some (5, regOff e.addr / 0x1000, commandRow (e.val % 64))
    else if regUnit e.addr = 0x707 ∧ regOff e.addr % 256 / 64 = 2 then some (11, 256, 5)
    else if regUnit e.addr = 0x70B ∧ 0x300 ≤ regOff e.addr ∧ regOff e.addr < 0x500 then
      some (17, (regOff e.addr - 0x300) / 64, if !bitAt e.val 0 then 1 else if bitAt e.val 1 ∧ (d.port ((regOff e.addr - 0x300) / 64)).en then 7 else 6)
    else if regUnit e.addr = 0x70C ∧ regOff e.addr = 0x140 then
      some (18, 0, if e.val % 4 = 3 then 6 else if e.val % 4 = 1 then 7 else if d.power.st = .active then 11 else 9)
    else none
  | .copyCompletion | .reloadCompletion => some (11, e.who, if e.val = 0 then 5 else 2)
  | .binitPerform => some (11, e.who, 4)
  | .barrierArrival => some (11, e.who, 5)
  | .checkPassEnd => some (13, e.who, 3)
  | .scrubPass => some (13, e.who, 4)
  | .reloadStart => some (13, e.who, 5)
  | .pendingPlacement => some (16, e.who, 2)
  | .kernelRelease => some (16, e.who, 4)
  | .fpctlEn => some (17, e.who, if bitAt e.val 0 then 6 else 1)
  | .portFault => some (17, e.who, 2)
  | .trainingEnd => some (17, e.who, 3)
  | .fpctlTrain => some (17, e.who, 7)
  | .railFail => some (18, 0, 1)
  | .railsApplied => some (18, 0, 2)
  | .railsRestored => some (18, 0, 3)
  | .bootComplete => some (18, 0, 4)
  | .pcmdRetain => some (18, 0, 6)
  | .pcmdIdle => some (18, 0, 7)
  | .pcmdActive => some (18, 0, if d.power.st = .active then 11 else 9)
  | .firmwareActivation => some (18, 0, 10)
  | _ => none

/-- Two events meet one object, and the first matches the higher row. -/
def Device.goesBefore (d : Device) (i : Instr) (e : Event) (j : Instr) (f : Event) : Bool :=
  match d.eventRow i e, d.eventRow j f with
  | some (t, n, r), some (u, m, q) => t == u && n == m && r < q
  | _, _ => false

/-- The number of events at the head of an agenda whose time has come. -/
def dueEvents : List (Nat × Instr × Event) → Nat
  | (0, _, _) :: t => dueEvents t + 1
  | _ => 0

/-- Of the event (i, e) and the n that follow it on the agenda, those of the same clk, the place, from 1 on, of the one of the highest row among those that meet its object (R10); 0 for itself. -/
def Device.firstOf (d : Device) (i : Instr) (e : Event) (n : Nat) (l : List (Nat × Instr × Event)) : Nat × Instr × Event :=
  (l.take n).zipIdx.foldl (fun (m : Nat × Instr × Event) (x : (Nat × Instr × Event) × Nat) =>
    if d.goesBefore x.1.2.1 x.1.2.2 m.2.1 m.2.2 then (x.2 + 1, x.1.2) else m) (0, i, e)

/-- The event that happens first of those due, of which (i, e) stands first on the agenda (R10), and the agenda of the rest. -/
def Device.firstDue (d : Device) (i : Instr) (e : Event) (l : List (Nat × Instr × Event)) : Instr × Event × List (Nat × Instr × Event) :=
  let m := d.firstOf i e (dueEvents l) l
  (m.2.1, m.2.2, if m.1 = 0 then l else (0, i, e) :: l.eraseIdx (m.1 - 1))

/-! ## The firmware cores (R405) -/

/-- What keeps firmware core k from fetching w bits at a physical address: only local memory holds its code (log 6). -/
def State.fwFetchCause (s : State) (p w : Nat) : Option Cause :=
  if (s.physCause .firmware p w).isSome then s.physCause .firmware p w
  else if physDev p ≠ s.dev.devId ∨ !s.isDram (physLocal p) then some .unmapped
  else (s.poisoned (physLocal p) w).map fun _ => .poison

/-- The next instruction of a firmware core at a byte address, and its length in bytes: 16 bits, or 32 where the low two are 1; else the cause that refuses it. -/
def State.fwFetch (s : State) (pc : Word) : Except Cause (Nat × Nat) :=
  let p := 8 * pc.toNat
  match s.fwFetchCause p 16 with
  | some c => .error c
  | none =>
    if s.physRead (physLocal p) 2 ≠ 3 then .ok (s.physRead (physLocal p) 16, 2)
    else match s.fwFetchCause p 32 with
      | some c => .error c
      | none => .ok (s.physRead (physLocal p) 32, 4)

/-- Firmware core k meets an instruction: one of the four of R405, one of the base set, or an illegal one. -/
def State.fwInstr (s : State) (k w len : Nat) : Host.Outcome State Fault Refusal :=
  match (if len = 4 then decodeFirmware w else none) with
  | some i => exec i { s with ev := { Event.none with who := k } }
  | none => match (if len = 4 then rvDecode w else rvDecodeShort w) with
    | some op => .next (s.rvExec k len op)
    | none => .next (s.onFw k FwCore.illegal)

/-- The interrupt firmware core c takes now. One that awaits the answer of another device takes none, but in swait, which executes again afterwards (R405). -/
def State.fwIrq (s : State) (c : FwCore) : Option Nat :=
  if c.asked.isNone then c.irq
  else match s.fwFetch c.pc with
    | .ok r => (match decodeFirmware r.1 with | some (.swait _ _ _) => c.irq | _ => none)
    | .error _ => c.irq

/-- One clk of firmware core k: it takes an interrupt, or executes its next instruction. -/
def State.fwStep (s : State) (k : Nat) : Host.Outcome State Fault Refusal :=
  match s.fw[k]? with
  | none => .next s
  | some c =>
    if !c.run then .next s
    else
      let s := s.onFw k FwCore.counted
      match s.fwIrq c, s.fwFetch c.pc with
      | some i, _ => .next (s.onFw k fun c => c.interrupt i)
      | none, .error e => .next (s.rvError k 1 c.pc e)
      | none, .ok r => s.fwInstr k r.1 r.2

/-- The store that firmware core k executes next, as the event it is; none where it executes another instruction or takes an interrupt. -/
def State.fwStore (s : State) (k : Nat) : Option Event :=
  match s.fw[k]? with
  | none => none
  | some c =>
    if !c.run then none
    else match s.fwIrq c, s.fwFetch c.pc with
      | none, .ok r => match (if r.2 = 4 then rvDecode r.1 else rvDecodeShort r.1) with
        | some (.store w a b off) => some { Event.none with who := k, addr := physLocal (8 * (c.get a + off).toNat), val := (c.get b).toNat, len := w }
        | some (.amo _ w _ a b) => some { Event.none with who := k, addr := physLocal (8 * (c.get a).toNat), val := (c.get b).toNat, len := w }
        | _ => none
      | _, _ => none

/-- Firmware core k in its place among those that store in a clk: of two commands to one object the one of the higher row goes first (R10). -/
def State.fwInsert (s : State) (k : Nat) (e : Event) : List (Nat × Event) → List (Nat × Event)
  | [] => [(k, e)]
  | x :: t => if s.dev.goesBefore .registerWrite e .registerWrite x.2 then (k, e) :: x :: t else x :: s.fwInsert k e t

/-- The firmware cores of a clk: those that store, and the others. -/
def State.fwOrder (s : State) (l : List Nat) : List Nat × List Nat :=
  let st := l.foldl (fun o k => match s.fwStore k with | some e => s.fwInsert k e o | none => o) []
  (st.map Prod.fst, l.filter fun k => !st.any fun x => x.1 == k)

/-- The firmware cores in turn. -/
def State.fwSteps (s : State) : List Nat → Host.Outcome State Fault Refusal
  | [] => .next s
  | k :: t =>
    match s.fwStep k with
    | .next u => u.fwSteps t
    | .fault f => .fault f
    | .refused r => .refused r

/-- The agenda one reference period nearer: its first entry waits one less. -/
def State.agendaNearer (s : State) : State :=
  match s.agenda with
  | (n, i, e) :: t => { s with agenda := (n - 1, i, e) :: t }
  | [] => s

/-- What the device brings at the end of a reference period: its own clock, the transport queues, and the steps between power states; with the rails off nothing runs (R21). -/
def State.endClk (s : State) : State :=
  if s.dev.power.retStep = 5 ∧ s.dev.power.st = .retain then s else ([64, 65, 66, 67, 68, 69].foldl State.sendClk s.devTick).entryClk

/-- The rest of a clk once the bundles of every core have issued (R10, R169, R246, R280, R324): the transitions it brings, the stores of the firmware cores k, the accesses of the engines, the other instructions of the firmware cores, and each core's own accesses. -/
def State.restOfClk (s : State) (l : List Turn) (k : List Nat) : Host.Outcome State Fault Refusal :=
  let s := s.beforeAccesses l
  let o := s.fwOrder k
  match s.fwSteps o.1 with
  | .next t =>
    match (t.engineAccesses l).fwSteps o.2 with
    | .next u => .next (u.afterAccesses l)
    | .fault f => .fault f
    | .refused r => .refused r
  | .fault f => .fault f
  | .refused r => .refused r

/-- One reference period of the whole machine (log 1): one clk of each core whose cluster's clock has one, the firmware cores, and then the device. -/
def State.clk (s : State) : Host.Outcome State Fault Refusal :=
  let off := s.dev.power.retStep = 5 ∧ s.dev.power.st = .retain
  let s := s.agendaNearer
  match s.coresIssue s.coreList [] with
  | .fault f => .fault f
  | .refused r => .refused r
  | .next (t, l) =>
    match t.restOfClk l (if off then [] else [0, 1, 2, 3]) with
    | .next u => .next u.endClk
    | .fault f => .fault f
    | .refused r => .refused r

/-! ## A program placed (log 12) -/

/-- The words of a bundle around one slot: the slot first, or last where its S bit ends the bundle; NOPs fill it to four. -/
def bundleOf (w : Nat) : List Nat := if bitAt w 31 then [0, 0, 0, w] else [w, 0, 0, 2 ^ 31]

/-- Words of a program placed at the PC of the focused context, which stands as a loaded and released context does: RUNNING, with all of its core's instruction memory and the weight of its level. -/
def State.placeSlots (s : State) (ws : List Nat) : State :=
  let s := s.onCtx fun c => { c with
    st := .running
    claims := { c.claims with ibase := 0, imem := 32 }
    power := { c.power with held := max c.power.held c.power.level } }
  let s := s.onCore fun k => { k with imem := k.imem.writeBits (s.ctx.pc.toNat) (32 * ws.length) (unchunks 32 ws) }
  s.onPower fun p => { p with st := .active }

/-- A word placed at the PC of firmware core 0, which runs. -/
def State.placeFirmware (s : State) (w : Nat) : State :=
  let a := match s.fw[0]? with | some c => 8 * c.pc.toNat | none => 0
  (s.onDev fun d => { d with mem := d.mem.writeBits a 32 w }).onFw 0 fun c => { c with run := true }

end Sys2Proof.Machine
end

