-- ==== Sys2Proof/Machine/Step.lean ====
section
/-! DEFINITION. Step.lean: one step of the machine: the next event of the agenda when its time has come, else one reference period (log 1); and where a program is placed for it (log 12). -/

namespace Sys2Proof.Machine

/-- One step (log 1): of the events whose time has come and that meet one object, the one of the highest row (R10). -/
def step (s : State) : Host.Outcome State Fault Refusal :=
  match s.agenda with
  | (0, i, e) :: t => let r := s.dev.firstDue i e t; exec r.1 { s with agenda := r.2.2, ev := r.2.1 }
  | _ => s.clk

/-- The instruction with bits w placed where the next step runs it (log 12): a slot word in a bundle of its own at the PC of the context in focus, a word of the firmware cores at that of firmware core 0. -/
def State.withFetchWord (s : State) (nbits w : Nat) : State :=
  if nbits = 32 then
    match decodeSlot w, decodeFirmware w with
    | none, some _ => s.placeFirmware w
    | _, _ => s.placeSlots (bundleOf w)
  else s

end Sys2Proof.Machine
end

