-- ==== Sys2Proof/Safety.lean ====
section
/-! DEFINITION. Safety.lean: what counts as a safe step, and the words of the statements: what an operand delivers, what a slot stages on its bundle, what no slot changes. -/

namespace Sys2Proof.Machine

/-- A step that neither faults nor is refused. -/
def Safe (s : State) : Prop := ∃ t, step s = .next t

/-- An operand read or a check of a slot succeeds on s, whatever the slot's earlier operands met: it delivers x, the state is then t (for a pop, with the pop staged), no operand is found missing and none meets a cause. -/
def Gives {α : Type} (m : Act α) (s : State) (x : α) (t : State) : Prop :=
  ∃ l, ∀ w : Operands, ∃ q, (m.run.run s).run w = ((.ok x, t), { w with quiet := q, owed := w.owed ++ l })

/-- An operand of a slot is not available on s: the slot goes on to its other operands, and stalls when none of them raises a cause at once (R415 stage 1). -/
def Misses {α : Type} (m : Act α) (s : State) : Prop :=
  ∀ w : Operands, ∃ (x : α) (t : State) (o : Operands), (m.run.run s).run w = ((.ok x, t), o) ∧ o.missing = true

/-- The first cause the operands of a slot meet on s, with its value, where its guard is not false: it is raised when no operand is missing (R80, R415). -/
def Meets {α : Type} (m : Act α) (s : State) (c : Cause) (v : Word) : Prop :=
  ∀ w : Operands, w.quiet = false → w.cause = none →
    ∃ (x : α) (t : State) (o : Operands), (m.run.run s).run w = ((.ok x, t), o) ∧ o.missing = w.missing ∧ o.cause = some (c, v)

/-- An operand whose ring's mode does not permit it: the cause is raised at once, where the guard of the slot is not false (R209, R415). -/
def RaisesEarly {α : Type} (m : Act α) (s : State) (c : Cause) (v : Word) : Prop :=
  ∀ w : Operands, w.quiet = false → (m.run.run s).run w = ((.error (.raiseEarly c v), s), w)

/-- A check of a slot fails on s, after operands that were all there (R415 stage 2). -/
def Refuses {α : Type} (m : Act α) (s : State) (c : Cause) (v : Word) : Prop :=
  ∃ l, ∀ w : Operands, ∃ q, (m.run.run s).run w = ((.error (.raise c v), s), { w with quiet := q, owed := w.owed ++ l })

/-- The state with further effects staged on the bundle at issue (R103). -/
def State.staged (s : State) (l : List Effect) : State :=
  { s with bundle := { s.bundle with effects := s.bundle.effects ++ l } }

/-- A register result as a slot stages it (R84). -/
def State.resultOf (s : State) (d : Dest) (lat inter val flags : Nat) : Effect :=
  .result { dest := d, val := val, addr := 0, left := lat, inter := inter, flags := flags, pc := s.bundle.pc, bno := s.accNo }

/-- A push as a slot stages it, with the address it is given at issue (R210). -/
def State.pushOf (s : State) (q lat val flags : Nat) : Effect :=
  .push q { dest := .ring q, val := val, addr := (s.ctx.ring q).pushAddr (s.bundle.pushes q), left := lat, inter := 0,
            flags := flags, pc := s.bundle.pc, bno := s.accNo }

/-- The result of a slot with a scalar destination (R78). -/
def State.sOf (s : State) (d : Dst) (lat : Nat) (v : Word) : Effect :=
  match d with
  | .reg i => s.resultOf (.s i.val) lat 0 v.toNat 0
  | .push q => s.pushOf q.val lat v.toNat 0

/-- The result of a slot with a vector destination, with the flags it raises. -/
def State.vOf (s : State) (d : Dst) (lat : Nat) (v : Wide) (flags : Nat) : Effect :=
  match d with
  | .reg i => s.resultOf (.v i.val) lat 0 v.toNat flags
  | .push q => s.pushOf q.val lat v.toNat flags

/-- A predicate pair written with c (R129). -/
def State.pairOf (s : State) (k lat : Nat) (c : Bool) : Effect := s.resultOf (.pair k) lat 0 (if c then 1 else 0) 0

/-- The outcome of a slot that stages l on s. -/
def State.stages (s : State) (l : List Effect) : Host.Outcome State Fault Refusal := .next (s.staged l)

/-- The state with one of the drawn durations used up (log 7). -/
def State.drawn (s : State) : State := { s with delays := s.delays.tail }

/-- No result is on its way that a guard p(g) waits for (R80, R84); p0 and p1 wait for none. -/
def State.guardReady (s : State) (g : Nat) : Prop := g < 2 ∨ s.ctx.busy (.pair (g / 2)) = false

/-- A load of w bits at a of a typed space reads in this clk: no word of it is poisoned (R43), no merge or atomic is pending on one (R168), and with fe its granules are full (R173). -/
def State.loadReady (s : State) (sp : Space) (fe a w : Nat) : Prop :=
  s.core.poisoned sp a w = none ∧ s.mergePending sp a w = false ∧ (fe = 0 ∨ s.core.allFull a w = true)

/-- The effects by which a load names its cells and empties its granules (R167, R173). -/
def Effect.isCells : Effect → Bool
  | .cells .. | .clearFull .. => true
  | _ => false

/-- The 32 or 64 lanes of a vector access, and their bits (R177). -/
def lanesIn (e32 : Bool) : Nat := if e32 then 32 else 64
/-- The bits of one of them. -/
def bitsIn (e32 : Bool) : Nat := if e32 then 32 else 16

/-- Lane i of a vector in the view of 32 or of 16 bits (R310). -/
def laneB (e32 : Bool) (x : Wide) (i : Nat) : BitVec (bitsIn e32) := x.extractLsb' (bitsIn e32 * i) (bitsIn e32)

/-- The same lane read as the exact value of an element of a float format. -/
def laneF (f : FloatFmt) (x : Wide) (i : Nat) : Exact := FloatFmt.value f (laneB (FloatFmt.is32 f) x i).toNat

/-- v holds the lane values and fl the union of the flags of the lane results r (R310, R54). -/
def LanesAre (e32 : Bool) (v : Wide) (fl : Nat) (r : Nat → Nat × Nat) : Prop :=
  (∀ i < lanesIn e32, (laneB e32 v i).toNat = (r i).1) ∧
  ∀ k, bitAt fl k = true ↔ ∃ i < lanesIn e32, bitAt (r i).2 k = true

/-- m holds bit i for each lane i that c holds for, and 0 above the lanes (R315, R316). -/
def MaskIs (e32 : Bool) (m : Word) (c : Nat → Bool) : Prop := ∀ i < 64, m.getLsbD i = (decide (i < lanesIn e32) && c i)

/-- The latency of the float lane instructions (Table 4.8). -/
def floatLat (f : FloatFmt) : Nat := if f = .fp32 then 5 else 4

/-- out is the outcome of a function instruction with lane results r (R338, R339): one result of 12 clk with the values and flags of the lanes, and one entry of the function queue that holds 48 clk for each lane in the second phase. -/
def FunctionResult (t : State) (d : Dst) (f : FloatFmt) (out : Host.Outcome State Fault Refusal) (r : Nat → LaneResult) : Prop :=
  ∃ v fl tag info val, LanesAre (FloatFmt.is32 f) v fl (fun i => ((r i).val, (r i).flags)) ∧
    out = t.stages [
      (match d with
       | .reg i => .result { dest := .v i.val, val := BitVec.toNat v, addr := 0, left := 12, inter := 3, flags := raising fl, pc := t.bundle.pc, tag := tag, bno := t.accNo }
       | .push q => .push q.val { dest := .ring q.val, val := BitVec.toNat v, addr := (t.ctx.ring q.val).pushAddr (t.bundle.pushes q.val), left := 12,
                                  inter := 3, flags := raising fl, pc := t.bundle.pc, tag := tag, bno := t.accNo }),
      .fnEntry { slot := t.slot, tag := tag, wait := 12, work := 48 * ((List.range (lanesIn (FloatFmt.is32 f))).filter fun i => (r i).second).length,
                 second := (List.range (lanesIn (FloatFmt.is32 f))).any fun i => (r i).second, pc := t.bundle.pc, info := info, val := val }]

/-- The state in which a slot whose checks have passed stages its effects: its own where the wait condition holds, else the same with its bundle held (R415). -/
def HeldUnless (s : State) (ok : Prop) (h : State) : Prop :=
  ok ∧ h = s ∨ ¬ ok ∧ s.bundle.mark = .none ∧ h = { s with bundle := { s.bundle with mark := .held } }

/-- Queue k has an entry for one more command of the bundle at issue (R225), which counts those the bundle has staged. -/
def State.poolRoom (s : State) (k : Nat) : Prop :=
  ({ s.core.pool with cmds := s.core.pool.cmds ++ s.bundle.effects.filterMap fun (e : Effect) => match e with | .command x => some x | _ => none }).room k s.phys = true

/-- A command as a slot stages it (R225): its context, its tag, its bundle and its number, and the operands read at issue. -/
def State.commandOf (s : State) (queue op order : Nat) (issuer : Bool) (a b d e : Word) : Command :=
  { queue := queue, ctx := s.phys, lcore := s.ctx.lcore, tag := s.ctx.gen, op := op, order := order, issuer := issuer, a := a, b := b, d := d, e := e,
    hsrc := 0, hdst := 0, frm := 0, seed := 0, sctr := 0, pc := s.bundle.pc, older := s.accNo, id := s.newCommand,
    target := s.coreNo, started := false, left := 0 }

/-- No half on a named shaft is in transition (R277). -/
def State.settled (s : State) (mask : Nat) : Prop :=
  ∀ e ∈ s.core.dot.entries, bitAt mask e.shaft = true → (s.halfAt e.f).inTransition = false

/-- The width of an element of a vector access to the scratch at x (R172): 8 when its bank widens it. -/
def State.elemBits (s : State) (e32 : Bool) (x : Word) : Nat := if e32 = false ∧ s.core.widening x.toNat ≠ 0 then 8 else bitsIn e32

/-- Lane i of a vector loaded from m bits at a of a typed space: zero- or sign-extended when its bank widens it (R172). -/
def State.laneAt (s : State) (sp : Space) (e32 : Bool) (x : Word) (m a : Nat) : Nat :=
  if sp = .act ∧ e32 = false ∧ s.core.widening x.toNat = 2 then ((BitVec.ofNat 8 ((s.core.mem sp).readBits a 8)).signExtend 16).toNat
  else (s.core.mem sp).readBits a m

/-- The access of w bits at offset off of handle register h passes its checks (R176, R187): the handle is there, VALID or DOOMED, with the right, the bits lie in its page and their physical address refuses no context. -/
def State.handleOk (s : State) (h : Nat) (off : Word) (w : Nat) (right : HandleBits → Bool) : Prop :=
  s.ctx.busy (.h h) = false ∧ hUsable (s.ctx.regs.readH h) = true ∧ off.toNat + w ≤ hSize (s.ctx.regs.readH h) ∧
  right (s.ctx.regs.readH h) = true ∧ s.ctxCause (hBase (s.ctx.regs.readH h) + off.toNat) w = none

/-- The physical address of an offset of a handle's page (R176). -/
def State.handleAddr (s : State) (h : Nat) (off : Word) : Nat := hBase (s.ctx.regs.readH h) + off.toNat

/-- A global access as a slot stages it: its entry of the load or store queue (R262) and its sample (R198). -/
def State.globOf (s : State) (kind : GlobKind) (a w : Nat) (writes : List BitWrite) (dest : Dest) (order h left : Nat) (write : Bool) : List Effect :=
  [.glob { id := 0, kind := kind, addr := a, width := w, got := 0, gotBits := 0, writes := writes, dest := dest, order := order,
           bno := s.accNo, pc := s.bundle.pc, slots := 2 ^ s.bundle.pos, left := left, sent := false },
   .sample (hLeaf (s.ctx.regs.readH h)) write]

/-- The atomics on the activation scratch by the op code of R82. -/
def localAtomic (w ord : Fin 16) (d a : Fin 32) (g : Fin 16) : Nat → Instr
  | 0 => .aaddAct w ord d a g
  | 1 => .aandAct w ord d a g
  | 2 => .aorAct w ord d a g
  | 3 => .axorAct w ord d a g
  | 4 => .aminAct w ord d a g
  | 5 => .amaxAct w ord d a g
  | 6 => .aswapAct w ord d a g
  | _ => .acasAct w ord d a g

/-- The global atomics by the op code of R82. -/
def globalAtomic (w ord h : Fin 16) (d : Fin 32) (g : Fin 16) : Nat → Instr
  | 0 => .aaddG w ord h d g
  | 1 => .aandG w ord h d g
  | 2 => .aorG w ord h d g
  | 3 => .axorG w ord h d g
  | 4 => .aminG w ord h d g
  | 5 => .amaxG w ord h d g
  | 6 => .aswapG w ord h d g
  | _ => .acasG w ord h d g

/-- Two states that differ at most in the bundle at issue and in the model's own draws (log 5, log 7). -/
def SameMachine (s t : State) : Prop := t = { s with bundle := t.bundle, delays := t.delays, free := t.free }

/-- A slot word of the opcode table, and so an instruction that runs as a slot of a bundle. -/
def IsSlot (i : Instr) : Prop := (encodeSlot i).isSome

end Sys2Proof.Machine
end

