-- ==== Sys2Proof/Certificates/Slice0/Obligations.lean ====
section
/-! DEFINITION. Obligations.lean: the statements for the provers, in the order of OBLIGATIONS.json. -/

open Sys2Proof Sys2Proof.Machine

/-- R148 (majors 0x08, minors 0x00 to 0x0E) and R150 (minors 0 to 2), with the latencies of R146. Every source form and every destination form is covered: what a source delivers and leaves is the state after it. -/
def Obligations.ScalarTwoSources : Prop :=
  ∀ (d : Dst) (a b : Src) (s s1 s2 : State) (x y : Word),
    Gives (readS a) s x s1 → Gives (readS b) s1 y s2 → Gives (readyS d) s2 () s2 →
    exec (.add d a b) s = s2.stages [s2.sOf d 1 (x + y)] ∧
    exec (.sub d a b) s = s2.stages [s2.sOf d 1 (x - y)] ∧
    exec (.and d a b) s = s2.stages [s2.sOf d 1 (x &&& y)] ∧
    exec (.or d a b) s = s2.stages [s2.sOf d 1 (x ||| y)] ∧
    exec (.xor d a b) s = s2.stages [s2.sOf d 1 (x ^^^ y)] ∧
    exec (.andn d a b) s = s2.stages [s2.sOf d 1 (x &&& ~~~y)] ∧
    exec (.min d a b) s = s2.stages [s2.sOf d 1 (BitVec.ofInt 64 (min x.toInt y.toInt))] ∧
    exec (.max d a b) s = s2.stages [s2.sOf d 1 (BitVec.ofInt 64 (max x.toInt y.toInt))] ∧
    exec (.minu d a b) s = s2.stages [s2.sOf d 1 (BitVec.ofNat 64 (min x.toNat y.toNat))] ∧
    exec (.maxu d a b) s = s2.stages [s2.sOf d 1 (BitVec.ofNat 64 (max x.toNat y.toNat))] ∧
    exec (.shl d a b) s = s2.stages [s2.sOf d 1 (BitVec.ofNat 64 (x.toNat * 2 ^ (y.toNat % 64)))] ∧
    exec (.shr d a b) s = s2.stages [s2.sOf d 1 (BitVec.ofNat 64 (x.toNat / 2 ^ (y.toNat % 64)))] ∧
    exec (.sra d a b) s = s2.stages [s2.sOf d 1 (BitVec.ofInt 64 (x.toInt / 2 ^ (y.toNat % 64)))] ∧
    exec (.rol d a b) s = s2.stages [s2.sOf d 1 (x.rotateLeft (y.toNat % 64))] ∧
    exec (.ror d a b) s = s2.stages [s2.sOf d 1 (x.rotateRight (y.toNat % 64))] ∧
    exec (.mul d a b) s = s2.stages [s2.sOf d 3 (BitVec.ofInt 64 (x.toInt * y.toInt))] ∧
    exec (.mulh d a b) s = s2.stages [s2.sOf d 3 (BitVec.ofInt 64 (x.toInt * y.toInt / 2 ^ 64))] ∧
    exec (.mulhu d a b) s = s2.stages [s2.sOf d 3 (BitVec.ofNat 64 (x.toNat * y.toNat / 2 ^ 64))]

/-- R148, minors 0x10 to 0x14. -/
def Obligations.ScalarOneSource : Prop :=
  ∀ (d : Dst) (a : Src) (s t : State) (x : Word),
    Gives (readS a) s x t → Gives (readyS d) t () t →
    (∃ n ≤ 64, exec (.clz d a) s = t.stages [t.sOf d 1 (BitVec.ofNat 64 n)] ∧
      (∀ k < n, x.getLsbD (63 - k) = false) ∧ (n < 64 → x.getLsbD (63 - n) = true)) ∧
    (∃ n ≤ 64, exec (.ctz d a) s = t.stages [t.sOf d 1 (BitVec.ofNat 64 n)] ∧
      (∀ k < n, x.getLsbD k = false) ∧ (n < 64 → x.getLsbD n = true)) ∧
    exec (.popc d a) s = t.stages [t.sOf d 1 (BitVec.ofNat 64 ((List.range 64).filter fun k => x.getLsbD k).length)] ∧
    (∃ v : Word, exec (.brev d a) s = t.stages [t.sOf d 1 v] ∧ ∀ k < 64, v.getLsbD k = x.getLsbD (63 - k)) ∧
    exec (.abs d a) s = t.stages [t.sOf d 1 (BitVec.ofInt 64 |x.toInt|)]

/-- R151, R152 and R153; the well-formed forms have pos + N ≤ 64 (N is wid + 1). -/
def Obligations.ScalarImmediates : Prop :=
  ∀ (d : Dst) (r : Fin 32) (a : Src) (s t : State) (x old : Word) (im10 : BitVec 10) (im16 : BitVec 16) (n pos wid : Fin 64),
    pos.val + wid.val < 64 → Gives (readS a) s x t → Gives (readyS d) t () t → Gives (readyS d) s () s →
    Gives (readReg r.val) s old s → Gives (readyDest (.s r.val)) s () s → Gives (readyDest (.s r.val)) t () t →
    exec (.addi d a im10) s = t.stages [t.sOf d 1 (x + im10.signExtend 64)] ∧
    exec (.andi d a im10) s = t.stages [t.sOf d 1 (x &&& im10.signExtend 64)] ∧
    exec (.ori d a im10) s = t.stages [t.sOf d 1 (x ||| im10.signExtend 64)] ∧
    exec (.xori d a im10) s = t.stages [t.sOf d 1 (x ^^^ im10.signExtend 64)] ∧
    exec (.shli d a n) s = t.stages [t.sOf d 1 (BitVec.ofNat 64 (x.toNat * 2 ^ n.val))] ∧
    exec (.shri d a n) s = t.stages [t.sOf d 1 (BitVec.ofNat 64 (x.toNat / 2 ^ n.val))] ∧
    exec (.srai d a n) s = t.stages [t.sOf d 1 (BitVec.ofInt 64 (x.toInt / 2 ^ n.val))] ∧
    exec (.bfx false d a pos wid) s = t.stages [t.sOf d 1 ((x.extractLsb' pos.val (wid.val + 1)).setWidth 64)] ∧
    exec (.bfx true d a pos wid) s = t.stages [t.sOf d 1 ((x.extractLsb' pos.val (wid.val + 1)).signExtend 64)] ∧
    exec (.li d im16) s = s.stages [s.sOf d 1 (im16.signExtend 64)] ∧
    exec (.bfm d pos wid) s = s.stages [s.sOf d 1 (BitVec.ofNat 64 ((2 ^ (wid.val + 1) - 1) * 2 ^ pos.val))] ∧
    (∀ k ∈ [1, 2, 3], ∃ v : Word,
      exec (match k with | 1 => .lih1 r im16 | 2 => .lih2 r im16 | _ => .lih3 r im16) s = s.stages [s.resultOf (.s r.val) 1 0 v.toNat 0] ∧
      ∀ j < 64, v.getLsbD j = if 16 * k ≤ j ∧ j < 16 * k + 16 then im16.getLsbD (j - 16 * k) else old.getLsbD j) ∧
    ∃ v : Word, exec (.bfi r a pos wid) s = t.stages [t.resultOf (.s r.val) 1 0 v.toNat 0] ∧
      ∀ j < 64, v.getLsbD j = if pos.val ≤ j ∧ j < pos.val + wid.val + 1 then x.getLsbD (j - pos.val) else old.getLsbD j

/-- R148 (minors 0x20 to 0x28) and R149, for registers no result is pending for (R84). What the staged write of wrp does to the predicates when it lands is in ResultsLandInTheirRegisters. -/
def Obligations.RegisterMoves : Prop :=
  ∀ (d : Dst) (a b : Src) (s t u : State) (x y : Word) (n : Fin 4) (k : Fin 8),
    Gives (readyS d) s () s →
    (s.ctx.busy (.b n.val false) = false → exec (.rdb d n) s = s.stages [s.sOf d 1 (s.ctx.regs.b.getD n.val 0)]) ∧
    (s.ctx.busy (.m k.val) = false → exec (.rdm d k) s = s.stages [s.sOf d 1 (s.ctx.regs.m.getD k.val 0)]) ∧
    (s.ctx.busy (.e k.val) = false → exec (.rde d k) s = s.stages [s.sOf d 1 (BitVec.ofNat 64 (s.ctx.regs.e.getD k.val 0))]) ∧
    exec (.rdi d k) s = s.stages [s.sOf d 1 (BitVec.ofNat 64 ((s.ctx.loops.levels[k.val]?.map Level.index).getD 0))] ∧
    ((∀ j < 8, s.ctx.busy (.pair j) = false) → ∃ v : Word, exec (.rdp d) s = s.stages [s.sOf d 1 v] ∧
      (∀ j < 16, v.getLsbD j = s.ctx.regs.readP j) ∧ ∀ j, 16 ≤ j → v.getLsbD j = false) ∧
    (Gives (readS a) s x t →
      (t.ctx.busyWrite (.b n.val false) = false → exec (.wrb n a) s = t.stages [t.resultOf (.b n.val false) 1 0 x.toNat 0]) ∧
      (t.ctx.busyWrite (.m k.val) = false → exec (.wrm k a) s = t.stages [t.resultOf (.m k.val) 1 0 x.toNat 0]) ∧
      (t.ctx.busyWrite (.e k.val) = false → x.toNat % 64 = 0 → x.toNat < 4096 →
        exec (.wre k a) s = t.stages [t.resultOf (.e k.val) 1 0 x.toNat 0]) ∧
      (Gives (readS b) t y u → (∀ j < 8, u.ctx.busyWrite (.pair j) = false) →
        exec (.wrp a b) s = u.stages [u.resultOf .preds 1 0 (x.toNat % 2 ^ 16 + y.toNat % 2 ^ 16 * 2 ^ 16) 0]))

/-- R150 with the interlock of R146 and R147; when the result lands is the part's (log 7). -/
def Obligations.DivisionsComplete : Prop :=
  ∀ (d : Fin 32) (a b : Src) (s s1 s2 : State) (x y : Word),
    Gives (readS a) s x s1 → Gives (readS b) s1 y s2 → s2.ctx.busyWrite (.s d.val) = false →
    ∃ lat, 1 ≤ lat ∧ lat ≤ 40 ∧
      (∀ v : Word, v = (if y = 0 then -1 else if x.toInt = -2 ^ 63 ∧ y.toInt = -1 then x else BitVec.ofInt 64 (x.toInt.tdiv y.toInt)) →
        exec (.div d a b) s = s2.drawn.stages [s2.resultOf (.s d.val) lat 2 v.toNat 0]) ∧
      (∀ v : Word, v = (if y = 0 then -1 else BitVec.ofNat 64 (x.toNat / y.toNat)) →
        exec (.divu d a b) s = s2.drawn.stages [s2.resultOf (.s d.val) lat 2 v.toNat 0]) ∧
      (∀ v : Word, v = (if y = 0 then x else if x.toInt = -2 ^ 63 ∧ y.toInt = -1 then 0 else BitVec.ofInt 64 (x.toInt.tmod y.toInt)) →
        exec (.rem d a b) s = s2.drawn.stages [s2.resultOf (.s d.val) lat 2 v.toNat 0]) ∧
      (∀ v : Word, v = (if y = 0 then x else BitVec.ofNat 64 (x.toNat % y.toNat)) →
        exec (.remu d a b) s = s2.drawn.stages [s2.resultOf (.s d.val) lat 2 v.toNat 0])

/-- R130 with Table 6.2, R131 and R132. -/
def Obligations.ComparesAndPredicateLogic : Prop :=
  ∀ (k : Fin 8) (pa pb g : Fin 16) (d : Dst) (a b : Src) (s s1 s2 : State) (x y : Word) (imm : BitVec 12),
    (Gives (readS a) s x s1 → Gives (readS b) s1 y s2 → s2.ctx.busyWrite (.pair k.val) = false →
      exec (.cmp .eq k a b) s = s2.stages [s2.pairOf k.val 1 (decide (x = y))] ∧
      exec (.cmp .ne k a b) s = s2.stages [s2.pairOf k.val 1 (decide (x ≠ y))] ∧
      exec (.cmp .lt k a b) s = s2.stages [s2.pairOf k.val 1 (decide (x.toInt < y.toInt))] ∧
      exec (.cmp .ge k a b) s = s2.stages [s2.pairOf k.val 1 (decide (y.toInt ≤ x.toInt))] ∧
      exec (.cmp .ltu k a b) s = s2.stages [s2.pairOf k.val 1 (decide (x.toNat < y.toNat))] ∧
      exec (.cmp .geu k a b) s = s2.stages [s2.pairOf k.val 1 (decide (y.toNat ≤ x.toNat))] ∧
      exec (.cmp .tst k a b) s = s2.stages [s2.pairOf k.val 1 (decide (x &&& y ≠ 0))] ∧
      exec (.cmp .ntst k a b) s = s2.stages [s2.pairOf k.val 1 (decide (x &&& y = 0))]) ∧
    (Gives (readS a) s x s1 → s1.ctx.busyWrite (.pair k.val) = false → y = imm.signExtend 64 →
      exec (.cmpi .eq k a imm) s = s1.stages [s1.pairOf k.val 1 (decide (x = y))] ∧
      exec (.cmpi .ne k a imm) s = s1.stages [s1.pairOf k.val 1 (decide (x ≠ y))] ∧
      exec (.cmpi .lt k a imm) s = s1.stages [s1.pairOf k.val 1 (decide (x.toInt < y.toInt))] ∧
      exec (.cmpi .ge k a imm) s = s1.stages [s1.pairOf k.val 1 (decide (y.toInt ≤ x.toInt))] ∧
      exec (.cmpi .ltu k a imm) s = s1.stages [s1.pairOf k.val 1 (decide (x.toNat < y.toNat))] ∧
      exec (.cmpi .geu k a imm) s = s1.stages [s1.pairOf k.val 1 (decide (y.toNat ≤ x.toNat))] ∧
      exec (.cmpi .tst k a imm) s = s1.stages [s1.pairOf k.val 1 (decide (x &&& y ≠ 0))] ∧
      exec (.cmpi .ntst k a imm) s = s1.stages [s1.pairOf k.val 1 (decide (x &&& y = 0))]) ∧
    (s.guardReady pa.val → s.guardReady pb.val → s.ctx.busyWrite (.pair k.val) = false →
      exec (.pand k pa pb) s = s.stages [s.pairOf k.val 1 (s.ctx.regs.readP pa.val && s.ctx.regs.readP pb.val)] ∧
      exec (.por k pa pb) s = s.stages [s.pairOf k.val 1 (s.ctx.regs.readP pa.val || s.ctx.regs.readP pb.val)] ∧
      exec (.pxor k pa pb) s = s.stages [s.pairOf k.val 1 (s.ctx.regs.readP pa.val ^^ s.ctx.regs.readP pb.val)] ∧
      exec (.pandn k pa pb) s = s.stages [s.pairOf k.val 1 (s.ctx.regs.readP pa.val && !s.ctx.regs.readP pb.val)]) ∧
    (s.guardReady g.val → Gives (readS a) s x s1 → Gives (readS b) s1 y s2 → Gives (readyS d) s2 () s2 →
      exec (.sel d a b g) s = s2.stages [s2.sOf d 1 (if s.ctx.regs.readP g.val = true then x else y)])

/-- R149, R157, R158, R124, R141 and R127; the checks of R137 in its order (an immediate count is below 2^32); R176 and R187, the order of the checks of
GAddr. All are checks of stage 2 of R415. A push the slot owes counts in the room of its ring (R79). That pcls refuses a last element that does not fit is the model's choice (log 73). -/
def Obligations.SlotsRaiseInOrder : Prop :=
  (∀ (s t u : State) (a b : Src) (d : Dst) (r : Fin 32) (k : Fin 8) (x y v : Word) (f : Fmt) (wid : Fin 64) (level : Fin 8),
    (Gives (readS a) s x t → t.ctx.busyWrite (.e k.val) = false → ¬ (x.toNat % 64 = 0 ∧ x.toNat < 4096) →
      exec (.wre k a) s = .next (t.raised .illegalUse x false)) ∧
    (Gives (readS a) s x t → Gives (readS b) t y u → Gives (readyS d) u () u →
      (ptrAdd (Fmt.stride f) x y = .error v → exec (.padd f d a b) s = .next ((u.owePushes (Dst.rings d)).raised .illegalUse v false) ∧ v = y) ∧
      (ptrAdd { w := wid.val + 1, l := 0 } x y = .error v → exec (.paddB wid d a b) s = .next ((u.owePushes (Dst.rings d)).raised .illegalUse v false) ∧ v = y) ∧
      (ptrDif (Fmt.stride f) x y = .error v → exec (.pdif f d a b) s = .next ((u.owePushes (Dst.rings d)).raised .illegalUse v false) ∧
        v = if Fmt.recLen f = 0 then x - y else BitVec.ofInt 64 (curR x - curR y)) ∧
      (ptrDif { w := wid.val + 1, l := 0 } x y = .error v → exec (.pdifB wid d a b) s = .next ((u.owePushes (Dst.rings d)).raised .illegalUse v false) ∧ v = x - y) ∧
      (f ≠ .mxi4z → ptrIdx (Fmt.stride f) x y = .error v → exec (.pidx f d a b) s = .next ((u.owePushes (Dst.rings d)).raised .illegalUse v false) ∧ v = y) ∧
      (f ≠ .mxi4z → ptrRec (Fmt.stride f) x y = .error v → exec (.prec f d a b) s = .next ((u.owePushes (Dst.rings d)).raised .illegalUse v false) ∧ v = y) ∧
      (∀ n, n = x.toInt + 42 + 4 * ((List.range (y.toNat / 2 ^ 32)).filter fun k => y.getLsbD k).length → (2 ^ 37 ≤ y.toNat ∨ 2 ^ 63 ≤ n) →
        exec (.pidx .mxi4z d a b) s = .next ((u.owePushes (Dst.rings d)).raised .illegalUse y false)) ∧
      (∀ n, n = x.toInt + 42 + 4 * ((List.range 32).filter fun k => y.getLsbD k).length → (2 ^ 32 ≤ y.toNat ∨ 2 ^ 63 ≤ n) →
        exec (.prec .mxi4z d a b) s = .next ((u.owePushes (Dst.rings d)).raised .illegalUse y false)) ∧
      (ptrAlign (Fmt.stride f) x y = .error v → exec (.pal f d a b) s = .next ((u.owePushes (Dst.rings d)).raised .illegalUse v false) ∧ v = x) ∧
      (ptrClass (Fmt.stride f) x y = .error v → exec (.pcls f d a b) s = .next ((u.owePushes (Dst.rings d)).raised .illegalUse v false) ∧ v = y)) ∧
    (s.ctx.inh = false → exec .tret s = .next (s.raised .illegalUse 0 false)) ∧
    (s.ctx.loops.levels.length ≤ level.val → exec (.lbrk level) s = .next (s.raised .illegalUse (BitVec.ofNat 64 level.val) false)) ∧
    (s.ctx.busy (.s r.val) = false → (s.ctx.regs.readS r.val).toNat % 8 ∈ [6, 7] →
      exec (.cwr 2 r) s = .next (s.raised .illegalUse (s.ctx.regs.readS r.val) false))) ∧
  (∀ (s t : State) (len : Fin 64) (count : Fin 131072) (a : Src) (n : Word) (r : Host.Outcome State Fault Refusal),
    (t = s ∧ n.toNat = count.val ∧ (r = exec (.loop len count) s ∨ r = exec (.loopSafe len count) s) ∨
     Gives (readS a) s n t ∧ (r = exec (.loopReg len a) s ∨ r = exec (.loopSafeReg len a) s)) →
    (frameBody t.core.imem t.ctx.code t.bundle.next (len.val + 1) = none → r = .next (t.raised .bundle 0 false)) ∧
    ∀ stop, frameBody t.core.imem t.ctx.code t.bundle.next (len.val + 1) = some stop →
      (2 ^ 32 ≤ n.toNat → r = .next (t.raised .illegalUse n false)) ∧
      (n.toNat < 2 ^ 32 →
        (6 ≤ t.ctx.loops.levels.length → r = .next (t.raised .illegalUse 6 false)) ∧
        (t.ctx.loops.levels.length < 6 →
          (∀ l, t.ctx.loops.levels.getLast? = some l → l.stop < stop →
            r = .next (t.raised .illegalUse (BitVec.ofNat 64 stop) false)) ∧
          ((∀ l, t.ctx.loops.levels.getLast? = some l → stop ≤ l.stop) → t.ctx.claims.loopBuf < len.val + 1 →
            r = .next (t.raised .illegalUse (BitVec.ofNat 64 (len.val + 1)) false))))) ∧
  (∀ (signed : Bool) (wid : Fin 64) (h : Fin 16) (i v o : Fin 32) (g : Fin 16) (s : State) (off val : Word) (w : Nat) (hv : HandleBits)
    (right : HandleBits → Bool) (r : Host.Outcome State Fault Refusal),
    Gives (readReg o.val) s off s → s.ctx.busy (.h h.val) = false → w = wid.val + 1 → hv = s.ctx.regs.readH h.val →
    (right = hRd ∧ r = exec (.ldG signed wid (.reg i) h o) s ∧ Gives (readyS (.reg i)) s () s ∨
     right = hWr ∧ r = exec (.stG wid v h o g) s ∧ Gives (readReg v.val) s val s ∧ s.guardReady g.val ∧ s.ctx.regs.readP g.val = true) →
    (hUsable hv = false → r = .next (s.raised .invhandle (BitVec.ofNat 64 h.val) false)) ∧
    (hUsable hv = true → hSize hv < off.toNat + w → r = .next (s.raised .bounds off false)) ∧
    (hUsable hv = true → off.toNat + w ≤ hSize hv → right hv = false → r = .next (s.raised .invhandle (BitVec.ofNat 64 h.val) false)) ∧
    (hUsable hv = true → off.toNat + w ≤ hSize hv → right hv = true → ∀ c, s.ctxCause (hBase hv + off.toNat) w = some c →
      r = .next (s.raised c (BitVec.ofNat 64 (hBase hv + off.toNat)) false)))

/-- R158 to R163: Fmt.stride gives w and L of Table 7.5; padd.bN and pdif.bN are plain of width N (R155). The second part says what they compute:
R158, its last sentence among it, R159, R160, R162 and R163; curJ and curR are Cur(c) of R157. That pcls refuses a last element that does not fit is the model's choice (log 73). -/
def Obligations.PointersComplete : Prop :=
  (∀ (s t u : State) (a b : Src) (d : Dst) (x y v : Word) (f : Fmt) (wid : Fin 64),
    Gives (readS a) s x t → Gives (readS b) t y u → Gives (readyS d) u () u → Gives (readyS d) t () t →
    (ptrAdd (Fmt.stride f) x y = .ok v → exec (.padd f d a b) s = u.stages [u.sOf d 1 v]) ∧
    (ptrDif (Fmt.stride f) x y = .ok v → exec (.pdif f d a b) s = u.stages [u.sOf d 1 v]) ∧
    (ptrAdd { w := wid.val + 1, l := 0 } x y = .ok v → exec (.paddB wid d a b) s = u.stages [u.sOf d 1 v]) ∧
    (ptrDif { w := wid.val + 1, l := 0 } x y = .ok v → exec (.pdifB wid d a b) s = u.stages [u.sOf d 1 v]) ∧
    (f ≠ .mxi4z → ptrIdx (Fmt.stride f) x y = .ok v → exec (.pidx f d a b) s = u.stages [u.sOf d 1 v]) ∧
    (∀ n, n = x.toInt + 42 + 4 * ((List.range (y.toNat / 2 ^ 32)).filter fun k => y.getLsbD k).length → y.toNat < 2 ^ 37 → n < 2 ^ 63 →
      exec (.pidx .mxi4z d a b) s = u.stages [u.sOf d 1 (BitVec.ofInt 64 n)]) ∧
    (f ≠ .mxi4z → ptrRec (Fmt.stride f) x y = .ok v → exec (.prec f d a b) s = u.stages [u.sOf d 1 v]) ∧
    (∀ n, n = x.toInt + 42 + 4 * ((List.range 32).filter fun k => y.getLsbD k).length → y.toNat < 2 ^ 32 → n < 2 ^ 63 →
      exec (.prec .mxi4z d a b) s = u.stages [u.sOf d 1 (BitVec.ofInt 64 n)]) ∧
    exec (.pscl f d a) s = t.stages [t.sOf d 1 ((x.extractLsb' 0 59).signExtend 64)] ∧
    (ptrAlign (Fmt.stride f) x y = .ok v → exec (.pal f d a b) s = u.stages [u.sOf d 1 v]) ∧
    (ptrClass (Fmt.stride f) x y = .ok v → exec (.pcls f d a b) s = u.stages [u.sOf d 1 v])) ∧
  ((∀ (w : Nat) (x y : Word), ptrAdd { w := w, l := 0 } x y =
    if -2 ^ 63 ≤ x.toInt + y.toInt * w ∧ x.toInt + y.toInt * w < 2 ^ 63 then .ok (BitVec.ofInt 64 (x.toInt + y.toInt * w)) else .error y) ∧
  (∀ (f : Fmt) (x y : Word) (m r : Int), Fmt.recLen f ≠ 0 → m = curJ x + y.toInt → r = curR x + m / 32 * Fmt.recLen f →
    (-2 ^ 58 ≤ r → r < 2 ^ 58 → ∃ v, ptrAdd (Fmt.stride f) x y = .ok v ∧ curJ v = m % 32 ∧ curR v = r) ∧
    (r < -2 ^ 58 ∨ 2 ^ 58 ≤ r → ptrAdd (Fmt.stride f) x y = .error y)) ∧
  (∀ (f : Fmt) (x y n : Word), ptrDif (Fmt.stride f) x y = .ok n → ptrAdd (Fmt.stride f) y n = .ok x) ∧
  (∀ (wid : Fin 64) (x y n : Word), ptrDif { w := wid.val + 1, l := 0 } x y = .ok n → ptrAdd { w := wid.val + 1, l := 0 } y n = .ok x)) ∧
  (∀ (w : Nat) (x y : Word), ptrIdx { w := w, l := 0 } x y = ptrAdd { w := w, l := 0 } x y) ∧
  (∀ (f : Fmt) (x y : Word), Fmt.recLen f ≠ 0 →
    (∀ c, ptrAdd (Fmt.stride f) x y = .ok c → ptrIdx (Fmt.stride f) x y = .ok (BitVec.ofInt 64 (curR c + 10 + curJ c * Fmt.width f))) ∧
    (∀ e, ptrAdd (Fmt.stride f) x y = .error e → ptrIdx (Fmt.stride f) x y = .error y) ∧
    ∀ r, r = curR x + y.toInt * Fmt.recLen f →
      (-2 ^ 58 ≤ r → r < 2 ^ 58 → ∃ v, ptrRec (Fmt.stride f) x y = .ok v ∧ curJ v = 0 ∧ curR v = r) ∧
      (r < -2 ^ 58 ∨ 2 ^ 58 ≤ r → ptrRec (Fmt.stride f) x y = .error y)) ∧
  (∀ (w k : Nat) (x y : Word), 0 < w →
    (x.toInt < y.toInt → ptrAlign { w := w, l := 0 } x y = .error x) ∧
    (y.toInt ≤ x.toInt → x.toInt ≤ y.toInt + k * w → (∀ j < k, y.toInt + j * w < x.toInt) → ptrAlign { w := w, l := 0 } x y =
      if y.toInt + k * w < 2 ^ 63 then .ok (BitVec.ofInt 64 (y.toInt + k * w)) else .error x)) ∧
  (∀ (f : Fmt) (k j : Nat) (x y : Word) (code : Nat → Nat → Int), Fmt.recLen f ≠ 0 →
    (∀ k j, code k j = y.toInt + k * Fmt.recLen f + 10 + j * Fmt.width f) →
    (x.toInt < y.toInt → ptrAlign (Fmt.stride f) x y = .error x) ∧
    (y.toInt ≤ x.toInt → j < 32 → x.toInt ≤ code k j → (∀ k' j', j' < 32 → x.toInt ≤ code k' j' → code k j ≤ code k' j') →
      (-2 ^ 58 ≤ y.toInt + k * Fmt.recLen f → y.toInt + k * Fmt.recLen f < 2 ^ 58 →
        ∃ v, ptrAlign (Fmt.stride f) x y = .ok v ∧ curJ v = j ∧ curR v = y.toInt + k * Fmt.recLen f) ∧
      (y.toInt + k * Fmt.recLen f < -2 ^ 58 ∨ 2 ^ 58 ≤ y.toInt + k * Fmt.recLen f → ptrAlign (Fmt.stride f) x y = .error x))) ∧
  (∀ (t : Stride) (x y c e : Word) (at' : Word → Int) (lo hi : Int),
    (∀ c, at' c = if t.l = 0 then c.toInt else curR c + 10 + curJ c * t.w) →
    (y.toInt < 1 → ptrClass t x y = .error y) ∧
    (1 ≤ y.toInt → ptrAdd t x (y - 1) = .error e → ptrClass t x y = .error y) ∧
    (1 ≤ y.toInt → ptrAdd t x (y - 1) = .ok c → lo = at' x → hi = at' c + t.w - 1 →
      ptrClass t x y = .ok (if lo / 64 = hi / 64 then 0 else if lo / 512 = hi / 512 then 1 else 2)))

/-- What the staged effects do when the bundle commits is in CommitAppliesEffects, CommitSequencesTheContext and ReturnsAndTrapInstructions. -/
def Obligations.OperandFreeSlots : Prop :=
  (∀ (s : State) (code : Fin 4096) (h q : Fin 16) (level : Fin 8) (first last : Fin 256),
    exec .nop s = s.stages [] ∧
    exec (.trap code) s = s.stages [.trap code.val] ∧
    (s.ctx.inh = true → exec .tret s = s.stages [.tret]) ∧
    exec .safe s = s.stages [.safePoint] ∧
    exec .mark s = s.stages [.mark] ∧
    (s.ctx.busyWrite (.h h.val) = false → exec (.hrev h) s = s.stages [.hrev h.val]) ∧
    exec .pwrrel s = s.stages [.power 1] ∧
    exec (.qunb q) s = s.stages [.qunb q.val] ∧
    (s.ctx.inh = false ∨ s.groupRemains = false → exec .exit s = s.stages [.exit]) ∧
    exec (.ltag level first last) s =
      .next { s with bundle := { s.bundle with gate := some (level.val, first.val, last.val) } }) ∧
  (∀ (s : State) (d : Dst) (dim : Fin 8) (a : Fin 32) (k : Fin 16) (w x : Word),
    (Gives (readyS d) s () s → exec (.gidx d dim) s = s.stages [s.sOf d 1 (BitVec.ofNat 64 (s.ctx.group.coords.getD dim.val 0))]) ∧
    (Gives (readReg a.val) s w s → Gives (readReg (a.val + 1)) s x s → w.toNat < 2 ^ 41 →
      (w.getLsbD 40 = true ∨ w.toNat % 2 ^ 40 ≤ s.ctx.group.index) → s.spawnIndex < 2 ^ 40 - 1 →
      (∀ y, s.myKernel = some y → y.2.table.length < 4096) → exec (.gspawn a) s = s.stages [.spawn w x]) ∧
    (k.val ≤ s.ctx.power.level ∨ k.val ≤ s.ctx.power.held →
      exec (.pwracq k) s = ({ s with bundle := { s.bundle with waitVal := BitVec.ofNat 64 k.val } } : State).stages [.power k.val]) ∧
    (s.ctx.power.level < k.val → s.ctx.power.held < k.val → s.bundle.mark = .none →
      exec (.pwracq k) s = ({ s with bundle := { s.bundle with waitVal := BitVec.ofNat 64 k.val, mark := .waits .grant } } : State).stages [.power k.val]))

/-- R134 and R135, with the displacement of R133. -/
def Obligations.BranchesComplete : Prop :=
  ∀ (s : State) (disp : BitVec 18) (g : Fin 16) (n : Fin 4) (target : Word),
    target = BitVec.ofInt 64 (s.bundle.pc + 32 * disp.toInt) → s.guardReady g.val →
    (s.ctx.regs.readP g.val = false →
      exec (.br disp g) s = s.stages [] ∧ exec (.call disp g) s = s.stages [] ∧
      exec (.bri n g) s = s.stages [] ∧ exec (.ret g) s = s.stages []) ∧
    (s.ctx.regs.readP g.val = true →
      exec (.br disp g) s = s.stages [.bubble 2, .branch target] ∧
      (s.ctx.busyWrite (.b 3 false) = false →
        exec (.call disp g) s = s.stages [s.resultOf (.b 3 false) 1 0 s.bundle.next 0, .bubble 2, .branch target]) ∧
      (s.ctx.busy (.b n.val false) = false →
        exec (.bri n g) s = s.stages ((if s.ctx.regs.bPbr.getD n.val false = true ∧ 3 ≤ s.ctx.regs.bAge.getD n.val 0 then [] else [.bubble 2]) ++
          [.branch (s.ctx.regs.b.getD n.val 0)])) ∧
      (s.ctx.busy (.b 3 false) = false → exec (.ret g) s = s.stages [.bubble 2, .branch (s.ctx.regs.b.getD 3 0)])) ∧
    (s.ctx.busyWrite (.b n.val true) = false →
      exec (.pbr n disp) s = s.stages [s.resultOf (.b n.val true) 1 0 target.toNat 0])

/-- R137 and R141. frameBody frames len bundles under R72. -/
def Obligations.LoopsComplete : Prop :=
  ∀ (s t : State) (len : Fin 64) (count : Fin 131072) (a : Src) (n : Word) (stop : Nat) (level : Fin 8)
    (enters : State → Nat → Bool → Effect),
    (∀ u c b, enters u c b = if c = 0 then .endStep stop else .enter { start := u.bundle.next, stop := stop, count := c, index := 0, safe := b }) →
    (∀ u, u = s ∨ u = t → frameBody u.core.imem u.ctx.code u.bundle.next (len.val + 1) = some stop ∧ u.ctx.loops.levels.length < 6 ∧
      (∀ l, u.ctx.loops.levels.getLast? = some l → stop ≤ l.stop) ∧ len.val + 1 ≤ u.ctx.claims.loopBuf) →
    exec (.loop len count) s = s.stages [enters s count.val false] ∧
    exec (.loopSafe len count) s = s.stages [enters s count.val true] ∧
    (Gives (readS a) s n t → n.toNat < 2 ^ 32 →
      exec (.loopReg len a) s = t.stages [enters t n.toNat false] ∧
      exec (.loopSafeReg len a) s = t.stages [enters t n.toNat true]) ∧
    (level.val < s.ctx.loops.levels.length → exec (.lbrk level) s = s.stages [.lbrk level.val])

/-- R126 and R127 over the registers of Tables 5.2 and 5.3. -/
def Obligations.ControlRegistersReadAndWrite : Prop :=
  (∀ (s : State) (d : Fin 32) (creg : Fin 4096), s.ctx.busyWrite (.s d.val) = false → (creg.val = 0 → s.ctx.flagsPending = false) →
    ∃ lat, 1 ≤ lat ∧ exec (.crd d creg) s = .next (s.drawn.staged [s.resultOf (.s d.val) lat 1 (s.readCreg creg.val).toNat 0])) ∧
  (∀ (s : State) (a : Fin 32) (creg : Fin 4096), s.ctx.busy (.s a.val) = false →
    (creg.val = 2 → (s.ctx.regs.readS a.val).toNat % 8 < 6) →
    exec (.cwr creg a) s = .next (s.staged [.cwr creg.val (s.ctx.regs.readS a.val)])) ∧
  ∀ (s t : State) (n : Nat) (v : Word), t = s.applyEffect (.cwr n v) →
    t = { s with ctx := { s.ctx with fp := t.ctx.fp, tr := t.ctx.tr, late := t.ctx.late } } ∧
    (∀ k, k ≠ n → t.readCreg k = if k = 0x022 then t.readCreg k else s.readCreg k) ∧
    (n ≠ 0x023 → t.ctx.late = s.ctx.late) ∧
    (n = 0x000 → t.readCreg n = v &&& 0x1F) ∧ (n = 0x001 → t.readCreg n = v &&& 0x1F) ∧ (n = 0x002 → t.readCreg n = v &&& 0x7) ∧
    (n = 0x003 → t.readCreg n = v) ∧ (n = 0x004 → t.readCreg n = v) ∧ (n = 0x015 → t.readCreg n = v) ∧
    (n = 0x010 → t.readCreg n = v &&& 0x1FFFE1) ∧ (n = 0x011 → t.readCreg n = v &&& 0xE0FF) ∧
    (n = 0x012 → t.readCreg n = v &&& 0x1FFFE0) ∧ (n = 0x016 → t.readCreg n = v &&& 3) ∧
    (n = 0x023 → t.readCreg n = 0 ∧ t.ctx.late =
      if v.getLsbD 0 then (s.ctx.late.filter fun p => match p.dest with | .ring _ | .bits .. => true | _ => false).map fun p => { p with flags := 0 }
      else s.ctx.late)

/-- R128; tagOlder is the comparison of R116. The effect applied at commit changes no field but GEN, so it orders no access. -/
def Obligations.GfenceAdvancesGeneration : Prop :=
  ∀ (s : State),
    ((∀ c ∈ s.core.pool.cmds, c.ctx = s.phys → tagOlder c.tag ((s.ctx.gen + 1) % 2 ^ 16) = true) → exec .gfence s = s.stages [.gfence]) ∧
    (∀ c ∈ s.core.pool.cmds, c.ctx = s.phys → tagOlder c.tag ((s.ctx.gen + 1) % 2 ^ 16) = false →
      exec .gfence s = ({ s with bundle := { s.bundle with mark := s.bundle.mark.hold none } } : State).stages [.gfence]) ∧
    s.applyEffect .gfence = { s with ctx := { s.ctx with gen := (s.ctx.gen + 1) % 2 ^ 16 } } ∧
    ∀ a b : Nat, a < 2 ^ 16 → b < 2 ^ 16 → (tagOlder a b = true ↔ 1 ≤ (b + 2 ^ 16 - a) % 2 ^ 16 ∧ (b + 2 ^ 16 - a) % 2 ^ 16 ≤ 2 ^ 15 - 1)

/-- R175, load. w is wid + 1; weight staging has no fe (R175). -/
def Obligations.ScalarLocalLoads : Prop :=
  ∀ (signed : Bool) (wid : Fin 64) (d : Dst) (a : Src) (fe : Fin 4) (s t u : State) (x : Word) (sp : Space) (n : Nat) (v : Word),
    n = wid.val + 1 → fe.val < 3 → Gives (readS a) s x t → Gives (readyS d) t () t →
    (sp = .act ∨ sp = .stg ∧ fe.val = 0) → x.toNat + n ≤ sp.size → t.loadReady sp fe.val x.toNat n →
    u = t.staged (.cells sp [(x.toNat, n)] :: if fe.val = 2 then [.clearFull x.toNat n] else []) →
    v = (if signed then (BitVec.ofNat n ((t.core.mem sp).readBits x.toNat n)).signExtend 64
         else BitVec.ofNat 64 ((t.core.mem sp).readBits x.toNat n)) →
    (sp = .act → exec (.ldAct signed wid d a fe) s = u.stages [u.sOf d 6 v]) ∧
    (sp = .stg → exec (.ldStg signed wid d a) s = u.stages [u.sOf d 6 v])

/-- R177 with Table 8.3 and the widening of R172. -/
def Obligations.VectorLocalLoads : Prop :=
  ∀ (e32 : Bool) (fe : Fin 4) (d : Dst) (a b : Src) (s t u : State) (x y : Word) (m : Nat) (gets : State → Space → (Nat → Nat) → Host.Outcome State Fault Refusal → Prop),
    fe.val < 3 → m = t.elemBits e32 x → u.core = t.core → Gives (readS a) s x t →
    (∀ w sp addr r, gets w sp addr r ↔ ∃ (pre : List Effect) (v : Wide), (∀ e ∈ pre, e.isCells = true) ∧
      r = (w.staged pre).stages [(w.staged pre).vOf d 6 v 0] ∧
      ∀ i < lanesIn e32, (v.toNat / 2 ^ (i * bitsIn e32)) % 2 ^ bitsIn e32 =
        w.laneAt sp e32 x (if sp = .act then m else bitsIn e32) (addr i)) →
    (Gives (readyV d) t () t → x.toNat + lanesIn e32 * m ≤ Space.act.size → t.loadReady .act fe.val x.toNat (lanesIn e32 * m) →
      gets t .act (fun i => x.toNat + i * m) (exec (.vldAct fe e32 d a) s)) ∧
    (Gives (readyV d) t () t → x.toNat + 1024 * (lanesIn e32 - 1) + m ≤ Space.act.size →
      (∀ i < lanesIn e32, t.loadReady .act 0 (x.toNat + i * 1024) m) →
      gets t .act (fun i => x.toNat + i * 1024) (exec (.vldActCol e32 d a) s)) ∧
    (Gives (readyV d) t () t → x.toNat + lanesIn e32 * bitsIn e32 ≤ Space.stg.size → t.loadReady .stg 0 x.toNat (lanesIn e32 * bitsIn e32) →
      gets t .stg (fun i => x.toNat + i * bitsIn e32) (exec (.vldStg e32 d a) s)) ∧
    (Gives (readS b) t y u → Gives (readyV d) u () u →
      (∀ i < lanesIn e32, 0 ≤ (x.toNat : Int) + y.toInt * i ∧ (x.toNat : Int) + y.toInt * i + m ≤ Space.act.size ∧
        u.loadReady .act 0 ((x.toNat : Int) + y.toInt * i).toNat m) →
      gets u .act (fun i => ((x.toNat : Int) + y.toInt * i).toNat) (exec (.vldActStr e32 d a b) s))

/-- R175, store. -/
def Obligations.ScalarLocalStores : Prop :=
  ∀ (fill : Bool) (wid : Fin 64) (v a : Src) (g : Fin 16) (s t u : State) (val x : Word) (sp : Space) (f : Bool) (r : Host.Outcome State Fault Refusal),
    Gives (readS v) s val t → Gives (readS a) t x u → s.guardReady g.val →
    (sp = .act ∧ f = fill ∧ r = exec (.stAct fill wid v a g) s ∨ sp = .stg ∧ f = false ∧ r = exec (.stStg wid v a g) s) →
    (s.ctx.regs.readP g.val = false → r = u.stages []) ∧
    (s.ctx.regs.readP g.val = true → x.toNat + (wid.val + 1) ≤ sp.size →
      ∃ slow, slow = partialWords [{ addr := x.toNat, width := wid.val + 1, val := val.toNat }] ∧
        r = u.stages [.cells sp [(x.toNat, wid.val + 1)],
          .store { slot := u.slot, left := if slow then 2 else 1, slow := slow, space := sp,
                   writes := [{ addr := x.toNat, width := wid.val + 1, val := val.toNat }], setFull := f, atomic := none, dest := .none,
                   order := 0, bno := u.accNo, pc := u.bundle.pc }]) ∧
    (s.ctx.regs.readP g.val = true → sp.size < x.toNat + (wid.val + 1) → r = .next (u.raised .illegalUse x false))

/-- R178 with Table 8.3. Which bank decides the widening where lane 0 is disabled or X lies outside the scratch is the model's choice (log 74, DESIGN CHOICE). -/
def Obligations.VectorLocalStores : Prop :=
  ∀ (m : Fin 8) (v a b : Fin 32) (e32 e : Bool) (g : Fin 16) (s : State) (x y : Word) (sp : Space) (fill contig : Bool) (w : Nat) (step : Int)
    (r : Host.Outcome State Fault Refusal) (lanes : List Nat) (addr : Nat → Int) (writes : List BitWrite),
    Gives (readReg a.val) s x s → Gives (readReg b.val) s y s → Gives (readMask m.val) s (s.ctx.regs.readM m.val) s →
    Gives (readVReg v.val) s (s.ctx.regs.readV v.val) s → s.guardReady g.val →
    (r = exec (.vstAct m v a e32 g) s ∧ sp = .act ∧ e = e32 ∧ fill = false ∧ contig = true ∧ step = w ∨
     r = exec (.vstActStr16 m v a b g) s ∧ sp = .act ∧ e = false ∧ fill = false ∧ contig = false ∧ step = y.toInt ∨
     r = exec (.vstActCol m v a e32 g) s ∧ sp = .act ∧ e = e32 ∧ fill = false ∧ contig = false ∧ step = 1024 ∨
     r = exec (.vstStg m v a e32 g) s ∧ sp = .stg ∧ e = e32 ∧ fill = false ∧ contig = true ∧ step = w ∨
     r = exec (.vstActFill m v a e32 g) s ∧ sp = .act ∧ e = e32 ∧ fill = true ∧ contig = true ∧ step = w ∨
     r = exec (.vstActStr32 m v a b g) s ∧ sp = .act ∧ e = true ∧ fill = false ∧ contig = false ∧ step = y.toInt) →
    w = (if sp = .act ∧ x.toNat < Space.act.size then s.elemBits e x else bitsIn e) →
    lanes = (List.range (lanesIn e)).filter (fun i => (s.ctx.regs.readM m.val).getLsbD i) →
    (∀ i, addr i = x.toNat + step * i) →
    writes = lanes.map (fun i => { addr := (addr i).toNat, width := w, val := (s.ctx.regs.readV v.val).toNat / 2 ^ (bitsIn e * i) % 2 ^ w }) →
    (s.ctx.regs.readP g.val = false → r = s.stages []) ∧
    (s.ctx.regs.readP g.val = true → (∀ i ∈ lanes, 0 ≤ addr i ∧ addr i + w ≤ sp.size) →
      r = if lanes = [] then s.stages [] else
        s.stages [.cells sp (writes.map fun x => (x.addr, x.width)),
          .store { slot := s.slot, left := if contig = false ∨ partialWords writes = true then 2 else 1, slow := !contig || partialWords writes,
                   space := sp, writes := writes, setFull := fill, atomic := none, dest := .none, order := 0, bno := s.accNo,
                   pc := s.bundle.pc }]) ∧
    (s.ctx.regs.readP g.val = true → ∀ i, lanes.find? (fun i => decide (addr i < 0 ∨ (sp.size : Int) < addr i + w)) = some i →
      r = .next (s.raised .illegalUse (BitVec.ofInt 64 (addr i)) false))

/-- R179, local; the step at the bank is in AtomicsPerformAtTheirBank. -/
def Obligations.LocalAtomics : Prop :=
  ∀ (w ord : Fin 16) (d a : Fin 32) (g : Fin 16) (s : State) (op : Nat) (x addr n : Word) (width : Nat),
    w.val < 11 → width = atomWidth w.val → Gives (readReg d.val) s x s → Gives (readReg a.val) s addr s → Gives (readReg (d.val + 1)) s n s →
    s.guardReady g.val → s.ctx.busyWrite (.s d.val) = false → op < 8 →
    ∀ i, i = localAtomic w ord d a g op →
    (s.ctx.regs.readP g.val = false → exec i s = s.stages []) ∧
    (s.ctx.regs.readP g.val = true →
      (addr.toNat + width ≤ 2 ^ 24 → alignClass addr.toNat width = .w →
        exec i s = s.stages [.cells .act [(addr.toNat, width)],
          .store { slot := s.slot, left := 2, slow := true, space := .act, writes := [{ addr := addr.toNat, width := width, val := 0 }],
                   setFull := false, atomic := some (op, x.toNat % 2 ^ width, if op = 7 then n.toNat % 2 ^ width else 0), dest := .s d.val,
                   order := ord.val, bno := s.accNo, pc := s.bundle.pc }]) ∧
      (2 ^ 24 < addr.toNat + width ∨ alignClass addr.toNat width ≠ .w → exec i s = .next (s.raised .illegalUse addr false)))

/-- R179's step and R42, for a core without poison whose focused context issued the atomic. -/
def Obligations.AtomicsPerformAtTheirBank : Prop :=
  ∀ (s t : State) (x : LocalAcc) (op v n a w : Nat) (old : Nat),
    x.atomic = some (op, v, n) → x.writes = [{ addr := a, width := w, val := 0 }] → x.space = .act → x.slot = s.slot →
    s.core.poison = [] → s.core.act.wf = true → 0 < w → v < 2 ^ w → n < 2 ^ w → op < 8 → x.turns = [] ∨ x.turns = s.core.turns →
    old = s.core.act.readBits a w → t = s.performLocal x →
    t.core.act.readBits a w = (match op with
      | 0 => (old + v) % 2 ^ w | 1 => old &&& v | 2 => old ||| v | 3 => old ^^^ v | 4 => min old v | 5 => max old v | 6 => v
      | _ => if old = v then n else old) ∧
    (∀ b, b + 1 ≤ a ∨ a + w ≤ b → t.core.act.readBits b 1 = s.core.act.readBits b 1) ∧
    t.ctx = { s.ctx with
      awaits := s.ctx.awaits.erase x.dest
      pend := s.ctx.pend ++ [{ dest := x.dest, val := old, addr := 0, left := 1, inter := 1, flags := 0, pc := x.pc, bno := x.bno }] } ∧
    t = { s with core := { s.core with act := t.core.act }, ctx := t.ctx }

/-- R176, and kind 4 of R177 and R178. -/
def Obligations.GlobalLoadsAndStores : Prop :=
  ∀ (signed e32 : Bool) (wid : Fin 64) (i : Fin 32) (q : Fin 16) (h : Fin 16) (o v : Fin 32) (ov : Src) (m : Fin 8) (g : Fin 16) (s t : State)
    (off val : Word) (mask : Word) (vec : Wide),
    ∃ lat : Nat, 3 ≤ lat ∧
    (Gives (readReg o.val) s off s → s.handleOk h.val off (wid.val + 1) hRd →
      (Gives (readyS (.reg i)) s () s → exec (.ldG signed wid (.reg i) h o) s =
        s.drawn.stages (s.globOf (.load signed) (s.handleAddr h.val off) (wid.val + 1) [] (.s i.val) 0 h.val lat false)) ∧
      (Gives (readyS (.push q)) s () s → ∃ p, p = s.pushOf q.val 0 0 0 ∧ exec (.ldG signed wid (.push q) h o) s =
        s.drawn.stages (p :: s.globOf (.load signed) (s.handleAddr h.val off) (wid.val + 1) []
          (.ringAt q.val ((s.ctx.ring q.val).pushAddr (s.bundle.pushes q.val))) 0 h.val lat false))) ∧
    (Gives (readS ov) s off t → ∃ lat, 3 ≤ lat ∧ (t.handleOk h.val off 1024 hRd →
      (Gives (readyV (.reg i)) t () t → exec (.vldG e32 (.reg i) h ov) s =
        t.drawn.stages (t.globOf (.vload e32) (t.handleAddr h.val off) 1024 [] (.v i.val) 0 h.val lat false)) ∧
      (Gives (readyV (.push q)) t () t → ∃ p, p = t.pushOf q.val 0 0 0 ∧ exec (.vldG e32 (.push q) h ov) s =
        t.drawn.stages (p :: t.globOf (.vload e32) (t.handleAddr h.val off) 1024 []
          (.ringAt q.val ((t.ctx.ring q.val).pushAddr (t.bundle.pushes q.val))) 0 h.val lat false)))) ∧
    (Gives (readReg v.val) s val s → Gives (readReg o.val) s off s → s.guardReady g.val →
      (s.ctx.regs.readP g.val = false → exec (.stG wid v h o g) s = s.stages []) ∧
      (s.ctx.regs.readP g.val = true → s.handleOk h.val off (wid.val + 1) hWr → exec (.stG wid v h o g) s =
        s.drawn.stages (s.globOf .store (s.handleAddr h.val off) (wid.val + 1)
          (splitLines [{ addr := s.handleAddr h.val off, width := wid.val + 1, val := val.toNat % 2 ^ (wid.val + 1) }]) .none 0 h.val lat true))) ∧
    (Gives (readReg o.val) s off s → Gives (readMask m.val) s mask s → Gives (readVReg v.val) s vec s → s.guardReady g.val →
      s.ctx.busy (.h h.val) = false →
      (s.ctx.regs.readP g.val = false → exec (.vstG m v e32 h o g) s = s.stages []) ∧
      (s.ctx.regs.readP g.val = true → hUsable (s.ctx.regs.readH h.val) = true → hWr (s.ctx.regs.readH h.val) = true →
        ∀ lanes, lanes = (List.range (lanesIn e32)).filter (fun i => mask.getLsbD i) →
        (∀ i ∈ lanes, off.toNat + i * bitsIn e32 + bitsIn e32 ≤ hSize (s.ctx.regs.readH h.val) ∧
          s.ctxCause (s.handleAddr h.val off + i * bitsIn e32) (bitsIn e32) = none) →
        exec (.vstG m v e32 h o g) s = if lanes = [] then s.stages [] else
          s.drawn.stages (s.globOf .store (s.handleAddr h.val off) 1024
            (splitLines (lanes.map fun i => { addr := s.handleAddr h.val off + i * bitsIn e32, width := bitsIn e32,
                                              val := vec.toNat / 2 ^ (bitsIn e32 * i) % 2 ^ bitsIn e32 })) .none 0 h.val lat true)))

/-- R179, global, and R181. -/
def Obligations.GlobalAtomicsAndMaintenance : Prop :=
  ∀ (w ord h : Fin 16) (d : Fin 32) (g : Fin 16) (a b : Src) (s t u : State) (op : Nat) (x off n len : Word) (width : Nat),
    (w.val < 11 → width = atomWidth w.val → Gives (readReg d.val) s x s → Gives (readReg (d.val + 1)) s off s → Gives (readReg (d.val + 2)) s n s →
      s.guardReady g.val → s.ctx.busyWrite (.s d.val) = false → op < 8 →
      ∀ i, i = globalAtomic w ord h d g op →
      (s.ctx.regs.readP g.val = false → exec i s = s.stages []) ∧
      (s.ctx.regs.readP g.val = true → s.handleOk h.val off width hAt →
        (alignClass (s.handleAddr h.val off) width = .w → ∃ lat, 3 ≤ lat ∧ exec i s = s.drawn.stages
          (s.globOf (.atomic op (x.toNat % 2 ^ width) (if op = 7 then n.toNat % 2 ^ width else 0)) (s.handleAddr h.val off) width
            [{ addr := s.handleAddr h.val off, width := width, val := 0 }] (.s d.val) ord.val h.val lat true)) ∧
        (alignClass (s.handleAddr h.val off) width ≠ .w → exec i s = .next (s.raised .illegalUse off false)))) ∧
    (Gives (readS a) s off t → Gives (readS b) t len u → u.ctx.busy (.h h.val) = false → hUsable (u.ctx.regs.readH h.val) = true →
      off.toNat + len.toNat ≤ hSize (u.ctx.regs.readH h.val) → ∃ lat, 3 ≤ lat ∧ ∀ evict, ∀ acc : GlobAcc,
      acc = { id := 0, kind := .maintain evict, addr := u.handleAddr h.val off, width := len.toNat, got := 0, gotBits := 0, writes := [],
              dest := .none, order := 0, bno := u.accNo, pc := u.bundle.pc, slots := 2 ^ u.bundle.pos, left := lat, sent := false } →
      exec (if evict then .inv h a b else .clean h a b) s = u.drawn.stages [.glob acc])

/-- R193, R194, R196 and R197. -/
def Obligations.HandleSlots : Prop :=
  ∀ (s t u : State) (h d : Fin 16) (r : Fin 32) (k : Fin 8) (a b : Src) (va len : Word),
    (Gives (readS a) s va t → t.ctx.handlePending h.val = false → t.ctx.busyWrite (.h h.val) = false → t.ctx.busyWrite (.pair k.val) = false →
      (∀ x, isCanonical va.toNat = true → tcFind t.core.tcache t.ctx.blk.asid va.toNat = some x → pteMig x.leaf.toNat < 2 →
        exec (.trans h a k) s = t.stages [.touch x, t.resultOf (.h h.val) 16 0 (handleOf t.dev.devId x va.toNat) 0, t.pairOf k.val 16 true]) ∧
      ((isCanonical va.toNat = false ∨ tcFind t.core.tcache t.ctx.blk.asid va.toNat = none ∨
          ∃ x, tcFind t.core.tcache t.ctx.blk.asid va.toNat = some x ∧ 2 ≤ pteMig x.leaf.toNat) →
        exec (.trans h a k) s = t.stages [.walk va, t.resultOf (.h h.val) 16 0 0 0, t.pairOf k.val 16 false])) ∧
    (Gives (readS a) s va t → Gives (readS b) t len u → u.holdsSlot .safe = true → assoc? u.ctx.probes u.accNo = none →
      u.ctx.pend = [] → u.ctx.awaits = [] → u.ctx.gq = [] →
      (∀ fills, u.probePages va.toNat (va.toNat + len.toNat) [] 64 = .done fills → exec (.probe a b) s = u.stages [.fills fills]) ∧
      (∀ c v fills, u.probePages va.toNat (va.toNat + len.toNat) [] 64 = .fault c v fills →
        exec (.probe a b) s = .next (({ u with bundle := { u.bundle with kept := u.bundle.kept ++ fills } } : State).raised c (BitVec.ofNat 64 v) false)) ∧
      (len = 0 → u.probePages va.toNat (va.toNat + len.toNat) [] 64 = .done [])) ∧
    (s.ctx.handlePending h.val = false → s.ctx.busy (.h h.val) = false →
      ∃ lat, 1 ≤ lat ∧
        (s.ctx.busyWrite (.s r.val) = false → exec (.hinfo (.reg r) h) s = s.drawn.stages [s.resultOf (.s r.val) lat 1 (s.hSummary (s.ctx.regs.readH h.val)) 0]) ∧
        (∀ q, Gives (readyS (.push q)) s () s →
          ∀ v a, v = s.hSummary (s.ctx.regs.readH h.val) → a = (s.ctx.ring q.val).pushAddr (s.bundle.pushes q.val) → exec (.hinfo (.push q) h) s =
            s.drawn.stages [.push q.val { dest := .ring q.val, val := v, addr := a, left := lat, inter := 1, flags := 0, pc := s.bundle.pc, bno := s.accNo }]) ∧
        (hState (s.ctx.regs.readH h.val) = 0 → s.hSummary (s.ctx.regs.readH h.val) = 0)) ∧
    (s.ctx.handlePending d.val = false → s.ctx.busyWrite (.h d.val) = false → s.ctx.busy (.h h.val) = false →
      exec (.hmov d h) s = s.stages (if d = h then [] else [s.resultOf (.h d.val) 1 0 (s.ctx.regs.readH h.val).toNat 0]))

/-- R269, R270, R171 and R249 to R253, for operands that deliver. That bwait and btest are held for the context's own operations on the barrier is DEDUCED from R245 (log 78). -/
def Obligations.OrderBarrierAndTimeSlots : Prop :=
  ∀ (s t u : State) (a b : Src) (ord : Fin 16) (o : Fin 64) (bank : Fin 16) (k : Fin 8) (x y : Word),
    ((ord.val ≤ 5 ∨ 6 ≤ ord.val ∧ ord.val ≤ 10 ∨ s.readsDone s.bundleNo = true) → (1 ≤ ord.val ∧ ord.val ≤ 5 → s.readsDone s.bundleNo = true) →
      exec (.fence ord) s = s.stages (if 6 ≤ ord.val then [.fence ord.val] else [])) ∧
    (s.scDrained = true → s.ctx.order.scPassed = true → exec .fenceSc s = s.stages [.fenceSc]) ∧
    (s.scDrained = false ∨ s.ctx.order.scPassed = false → s.bundle.mark = .none →
      exec .fenceSc s = ({ s with bundle := { s.bundle with mark := .held } } : State).stages [.fenceSc]) ∧
    (Gives (readS a) s x t →
      (bfmtOk x = true → exec (.fmt bank a) s = t.stages [.fmt bank.val (BitVec.ofNat 64 (x.toNat % 2 ^ 33))]) ∧
      (bfmtOk x = false → exec (.fmt bank a) s = .next (t.raised .format x false)) ∧
      (descOkWait x = true → (t.barrier (descNum x)).armed = true → t.barBusy (descNum x) = false → ∀ w, w = ({ t with bundle := { t.bundle with waitBar := some (descNum x, x) } } : State) →
        (x ∈ t.ctx.released ∨ (t.barrier (descNum x)).passed x = true → exec (.bwait o a) s = w.stages [.acquire o.val]) ∧
        (x ∉ t.ctx.released → (t.barrier (descNum x)).passed x = false → t.bundle.mark = .none →
          exec (.bwait o a) s = ({ w with bundle := { w.bundle with mark := .waits .barrier } } : State).stages [.acquire o.val]) ∧
        (t.ctx.busyWrite (.pair k.val) = false → ∃ lat, 1 ≤ lat ∧ lat ≤ (if descNum x < 256 then 8 else 48) ∧
          exec (.btest k a o) s = t.drawn.stages (t.resultOf (.pair k.val) lat 1 (if (t.barrier (descNum x)).passed x then 1 else 0) 0 ::
            if (t.barrier (descNum x)).passed x then [.acquire o.val] else [.cells .act []]))) ∧
      (descOkWait x = true → t.barBusy (descNum x) = true → t.bundle.mark = .none → ∀ w, w = ({ t with bundle := { t.bundle with mark := .held } } : State) →
        exec (.bwait o a) s = .next w ∧ (t.ctx.busyWrite (.pair k.val) = false → exec (.btest k a o) s = .next w)) ∧
      (∀ w, w = ({ t with bundle := { t.bundle with waitVal := x } } : State) →
        (x.toNat ≤ t.dev.ref / 1024 → exec (.hbwait a) s = .next w) ∧
        (t.dev.ref / 1024 < x.toNat → t.bundle.mark = .none → exec (.hbwait a) s = .next { w with bundle := { w.bundle with mark := .waits .tick } }) ∧
        (x.toNat ≤ t.dev.ref * 5 / 6 → exec (.waitt a) s = .next w) ∧
        (t.dev.ref * 5 / 6 < x.toNat → t.bundle.mark = .none → exec (.waitt a) s = .next { w with bundle := { w.bundle with mark := .waits .time } })) ∧
      (Gives (readS b) t y u → descOkArrive x = true → ∃ left, 1 ≤ left ∧ left ≤ (if descNum x < 256 then 1 else 48) ∧
        (0 < y.toNat → y.toNat < 2 ^ 40 → exec (.binit a b) s = u.drawn.stages
          [.barOp { bar := descNum x, init := true, n := y.toNat, left := left, order := 0, ctx := u.phys, bno := u.accNo }]) ∧
        (y.toNat < 2 ^ 40 → (u.barrier (descNum x)).armed = true → exec (.barv o a b) s = u.drawn.stages
          [.barOp { bar := descNum x, init := false, n := y.toNat, left := left, order := o.val, ctx := u.phys, bno := u.accNo }]) ∧
        (y.toNat < 2 ^ 40 → (u.barrier (descNum x)).armed = false → exec (.barv o a b) s = .next (u.raised .illegalUse x false))))

/-- Table 11.3 (R243), Arrive of R244 and Passed of R248. -/
def Obligations.BarrierTransitions : Prop :=
  (∀ (b : Barrier) (n : Nat), b.state = 1 → 0 < b.target → b.count < b.target →
    b.arrive n = ({ b with count := (b.count + n) % b.target, phase := b.phase ^^ decide ((b.count + n) / b.target % 2 = 1),
                           epoch := (b.epoch + (b.count + n) / b.target) % 2 ^ 16 }, (b.count + n) / b.target)) ∧
  (∀ (b : Barrier) (n : Nat), b.state ≠ 1 → b.arrive n = (b, 0)) ∧
  (∀ (b : Barrier) (t : Nat), b.arm t = { b with state := 1, target := t, count := 0, cause := 0 }) ∧
  (∀ (b : Barrier) (d : Word), d.getLsbD 17 = false → (b.passed d = true ↔ b.phase ≠ d.getLsbD 16)) ∧
  (∀ (b : Barrier) (d : Word) (ev : Nat), d.getLsbD 17 = true → ev = d.toNat / 2 ^ 32 % 2 ^ 16 → b.epoch < 2 ^ 16 →
    (b.passed d = true ↔ ∃ k, 1 ≤ k ∧ k ≤ 2 ^ 15 - 1 ∧ b.epoch = (ev + k) % 2 ^ 16)) ∧
  (∀ (s : State) (num cause : Nat), (s.barrier num).state ≠ 1 → s.barrierError num cause = s) ∧
  ∀ (s : State) (num cause : Nat), num < 256 ∨ 0x8000 ≤ num → (s.barrier num).state = 1 →
    (s.barrierError num cause).barrier num = { s.barrier num with state := 2, cause := cause } ∧
    (∀ d, (num, d) ∈ s.ctx.barWait → d ∈ (s.barrierError num cause).ctx.released)

/-- The flags word of a result holds the flags and the mark that its instruction can raise one (raising). R312 and R313: realAdd, realMul and realFma give the exact value with the flag IV of special operands, FloatFmt.round is RoundTo of R52. -/
def Obligations.FloatArithmeticLanes : Prop :=
  ∀ (f : FloatFmt) (rm : Rnd) (d : Dst) (vd : Fin 32) (a b : Src) (s t u : State) (x y z : Wide),
    Gives (readV a) s x t → Gives (readV b) t y u →
    (Gives (readyV d) u () u →
      ∀ p ∈ [(Instr.fadd f rm, fun (m : Nat) (p q : Exact) => realAdd (m == 4) p q), (Instr.fsub f rm, fun m p q => realAdd (m == 4) p q.negate),
             (Instr.fmul f rm, fun _ p q => realMul p q)],
        ∃ v fl, exec (p.1 d a b) s = u.stages [u.vOf d (floatLat f) v (raising fl)] ∧
          LanesAre (FloatFmt.is32 f) v fl fun i => FloatFmt.round f (s.laneMode rm) (p.2 (s.laneMode rm) (laneF f x i) (laneF f y i))) ∧
    (Gives (readVReg vd.val) u z u → Gives (readyDest (.v vd.val)) u () u →
      ∀ p ∈ [(Instr.fma f rm, fun (m : Nat) (p q r : Exact) => realFma (m == 4) p q r), (Instr.fms f rm, fun m p q r => realFma (m == 4) p q r.negate),
             (Instr.fnma f rm, fun m p q r => realFma (m == 4) p.negate q r)],
        ∃ v fl, exec (p.1 vd a b) s = u.stages [u.resultOf (.v vd.val) (floatLat f) 0 (BitVec.toNat v) (raising fl)] ∧
          LanesAre (FloatFmt.is32 f) v fl fun i => FloatFmt.round f (u.laneMode rm) (p.2 (u.laneMode rm) (laneF f x i) (laneF f y i) (laneF f z i)))

/-- R314 and R315. -/
def Obligations.FloatSelectionsAndCompares : Prop :=
  ∀ (f : FloatFmt) (d : Dst) (md : Fin 8) (a b : Src) (s t u : State) (x y : Wide) (w : Nat), w = (FloatFmt.spec f).width →
    Gives (readV a) s x t →
    (Gives (readyV d) t () t → ∀ p ∈ [(Instr.fabs f, false), (Instr.fneg f, true)],
      ∃ v, exec (p.1 d a) s = t.stages [t.vOf d (floatLat f) v 0] ∧
        ∀ i < lanesIn (FloatFmt.is32 f), ∀ e, e = (laneB (FloatFmt.is32 f) x i).toNat % 2 ^ w →
          (laneB (FloatFmt.is32 f) v i).toNat = if (laneF f x i).isNan then (FloatFmt.spec f).nan
            else e % 2 ^ (w - 1) + (if p.2 = true ∧ e < 2 ^ (w - 1) then 2 ^ (w - 1) else 0)) ∧
    (Gives (readV b) t y u →
      (Gives (readyV d) u () u → ∀ p ∈ [(Instr.fmin f, false), (Instr.fmax f, true)],
        ∃ v fl, exec (p.1 d a b) s = u.stages [u.vOf d (floatLat f) v (raising fl)] ∧
          LanesAre (FloatFmt.is32 f) v fl fun i =>
            if (laneF f x i).isNan || (laneF f y i).isNan then ((FloatFmt.spec f).nan, (laneF f x i).ivOf ||| (laneF f y i).ivOf)
            else ((if ((realLt (laneF f x i) (laneF f y i) || (realEq (laneF f x i) (laneF f y i) && (laneF f x i).neg? && !(laneF f y i).neg?)) ^^ p.2) = true
              then (laneB (FloatFmt.is32 f) x i).toNat else (laneB (FloatFmt.is32 f) y i).toNat) % 2 ^ w, 0)) ∧
      (u.ctx.busyWrite (.m md.val) = false →
        ∀ p ∈ [(Instr.fcmpEq f, realEq), (Instr.fcmpLt f, realLt), (Instr.fcmpLe f, fun p q => realLt p q || realEq p q),
               (Instr.fcmpUn f, fun p q => p.isNan || q.isNan)],
          ∃ (m : Word) (fl : Nat), exec (p.1 md a b) s = u.stages [u.resultOf (.m md.val) (floatLat f) 0 m.toNat (raising fl)] ∧
            MaskIs (FloatFmt.is32 f) m (fun i => p.2 (laneF f x i) (laneF f y i)) ∧
            ∀ k, bitAt fl k = true ↔ k = 4 ∧ ∃ i < lanesIn (FloatFmt.is32 f), laneF f x i = .nan true ∨ laneF f y i = .nan true)) ∧
    (∀ p q : Exact, p.isNan = true ∨ q.isNan = true → realEq p q = false ∧ realLt p q = false) ∧
    (∀ (n m : Bool) (k l : Nat), realEq (.fin n 0 k) (.fin m 0 l) = true)

/-- R316 with Table 14.3. -/
def Obligations.IntegerLanes : Prop :=
  ∀ (w : Bool) (d : Dst) (a b : Src) (s t u : State) (x y : Wide) (lo hi : Int), lo = -2 ^ (bitsIn w - 1) → hi = 2 ^ (bitsIn w - 1) - 1 →
    Gives (readV a) s x t →
    (Gives (readyV d) t () t → ∃ v, exec (.vabs w d a) s = t.stages [t.vOf d 2 v 0] ∧
      ∀ i < lanesIn w, laneB w v i = BitVec.ofInt (bitsIn w) |(laneB w x i).toInt|) ∧
    (Gives (readV b) t y u → Gives (readyV d) u () u →
      ∀ p ∈ [(Instr.vadd w, fun (p q : BitVec (bitsIn w)) => p + q), (Instr.vsub w, fun p q => p - q), (Instr.vmul w, fun p q => p * q),
             (Instr.vadds w, fun p q => BitVec.ofInt (bitsIn w) (max lo (min hi (p.toInt + q.toInt)))),
             (Instr.vaddus w, fun p q => BitVec.ofNat (bitsIn w) (min (2 ^ bitsIn w - 1) (p.toNat + q.toNat))),
             (Instr.vsubs w, fun p q => BitVec.ofInt (bitsIn w) (max lo (min hi (p.toInt - q.toInt)))),
             (Instr.vsubus w, fun p q => BitVec.ofNat (bitsIn w) (p.toNat - q.toNat)),
             (Instr.vmin w, fun p q => if p.toInt ≤ q.toInt then p else q), (Instr.vmax w, fun p q => if p.toInt ≤ q.toInt then q else p),
             (Instr.vminu w, fun p q => if p.toNat ≤ q.toNat then p else q), (Instr.vmaxu w, fun p q => if p.toNat ≤ q.toNat then q else p),
             (Instr.vand w, fun p q => p &&& q), (Instr.vor w, fun p q => p ||| q), (Instr.vxor w, fun p q => p ^^^ q),
             (Instr.vshl w, fun p q => p <<< (q.toNat % bitsIn w)), (Instr.vshr w, fun p q => p >>> (q.toNat % bitsIn w)),
             (Instr.vsra w, fun p q => p.sshiftRight (q.toNat % bitsIn w))],
        ∃ v, exec (p.1 d a b) s = u.stages [u.vOf d 2 v 0] ∧ ∀ i < lanesIn w, laneB w v i = p.2 (laneB w x i) (laneB w y i))

/-- R316 (ops 18 to 20) and R319. -/
def Obligations.IntegerComparesAndMasks : Prop :=
  ∀ (w : Bool) (d : Dst) (k l m : Fin 8) (a b : Src) (s t u : State) (x y : Wide),
    (Gives (readV a) s x t → Gives (readV b) t y u → u.ctx.busyWrite (.m k.val) = false →
      ∀ p ∈ [(Instr.vcmpEq w, fun (p q : BitVec (bitsIn w)) => decide (p = q)), (Instr.vcmpLt w, fun p q => decide (p.toInt < q.toInt)),
             (Instr.vcmpLtu w, fun p q => decide (p.toNat < q.toNat))],
        ∃ c : Word, exec (p.1 k a b) s = u.stages [u.resultOf (.m k.val) 2 0 c.toNat 0] ∧
          MaskIs w c fun i => p.2 (laneB w x i) (laneB w y i)) ∧
    (s.ctx.busy (.m l.val) = false → s.ctx.busy (.m m.val) = false → s.ctx.busyWrite (.m k.val) = false →
      ∀ p q : Word, p = s.ctx.regs.readM l.val → q = s.ctx.regs.readM m.val →
        exec (.mand k l m) s = s.stages [s.resultOf (.m k.val) 1 0 (p &&& q).toNat 0] ∧
        exec (.mor k l m) s = s.stages [s.resultOf (.m k.val) 1 0 (p ||| q).toNat 0] ∧
        exec (.mxor k l m) s = s.stages [s.resultOf (.m k.val) 1 0 (p ^^^ q).toNat 0] ∧
        exec (.mandn k l m) s = s.stages [s.resultOf (.m k.val) 1 0 (p &&& ~~~q).toNat 0] ∧
        exec (.mnot k l) s = s.stages [s.resultOf (.m k.val) 1 0 (~~~p).toNat 0]) ∧
    (s.ctx.busy (.m l.val) = false → Gives (readyS d) s () s →
      exec (.mpopc d l) s = s.stages [s.sOf d 1 (BitVec.ofNat 64 ((List.range 64).filter fun j => (s.ctx.regs.readM l.val).getLsbD j).length)])

/-- R317 and R318 with Table 14.4. A bundle marked as raised does not commit (RaisingBundlesDoNotCommit). -/
def Obligations.SelectAndPermute : Prop :=
  ∀ (w : Bool) (k : Fin 8) (d : Dst) (vd : Fin 32) (a b : Src) (s t u : State) (x y old : Wide) (p q : Word),
    (s.ctx.busy (.m k.val) = false → Gives (readV a) s x t → Gives (readV b) t y u → Gives (readyV d) u () u →
      (∃ v, exec (.vsel k w d a b) s = u.stages [u.vOf d 2 v 0] ∧
        ∀ i < lanesIn w, laneB w v i = if (s.ctx.regs.readM k.val).getLsbD i then laneB w x i else laneB w y i) ∧
      (∃ v, exec (.vperm w d a b) s = u.stages [u.vOf d 3 v 0] ∧
        ∀ i < lanesIn w, laneB w v i = laneB w x ((laneB w y i).toNat % lanesIn w))) ∧
    (Gives (readS a) s p t →
      (Gives (readyV d) t () t → ∃ v, exec (.vbcast w d a) s = t.stages [t.vOf d 3 v 0] ∧
        ∀ i < lanesIn w, laneB w v i = p.setWidth (bitsIn w)) ∧
      (Gives (readS b) t q u → Gives (readVReg vd.val) u old u → Gives (readyDest (.v vd.val)) u () u →
        (q.toNat < lanesIn w → ∃ v, exec (.vins w vd a b) s = u.stages [u.resultOf (.v vd.val) 3 0 (BitVec.toNat v) 0] ∧
          ∀ i < lanesIn w, laneB w v i = if i = q.toNat then p.setWidth (bitsIn w) else laneB w old i) ∧
        (lanesIn w ≤ q.toNat → exec (.vins w vd a b) s = .next (u.raised .illegalUse q false)))) ∧
    (Gives (readV a) s x t → Gives (readS b) t q u → Gives (readyS d) u () u →
      (q.toNat < lanesIn w → exec (.vext w d a b) s = u.stages [u.sOf d 3 (BitVec.ofNat 64 (laneB w x q.toNat).toNat)]) ∧
      (lanesIn w ≤ q.toNat → exec (.vext w d a b) s = .next ((u.owePushes (Dst.rings d)).raised .illegalUse q false))) ∧
    decodeSlot (0x50000000 + k.val * 0x400000 + w.toNat * 0x200000 + d.code * 0x1000 + a.code * 0x40 + b.code) = some (.vsel k w d a b) ∧
    decodeSlot (0x52000000 + (0 * 32 + w.toNat * 16) * 0x40000 + d.code * 0x1000 + a.code * 0x40 + b.code) = some (.vperm w d a b) ∧
    decodeSlot (0x52000000 + (1 * 32 + w.toNat * 16) * 0x40000 + d.code * 0x1000 + a.code * 0x40) = some (.vbcast w d a) ∧
    decodeSlot (0x52000000 + (2 * 32 + w.toNat * 16) * 0x40000 + vd.val * 0x1000 + a.code * 0x40 + b.code) = some (.vins w vd a b) ∧
    decodeSlot (0x52000000 + (3 * 32 + w.toNat * 16) * 0x40000 + d.code * 0x1000 + a.code * 0x40 + b.code) = some (.vext w d a b) ∧
    ∀ n < 2 ^ 32,
      (n / 2 ^ 25 % 2 ^ 6 = 0x28 → n / 2 ^ 18 % 2 ^ 3 ≠ 0 → decodeSlot n = none) ∧
      (n / 2 ^ 25 % 2 ^ 6 = 0x29 → n / 2 ^ 18 % 2 ^ 4 ≠ 0 ∨ n / 2 ^ 23 % 2 ^ 2 = 1 ∧ n % 2 ^ 6 ≠ 0 → decodeSlot n = none)

/-- R320 and R321: convert is RoundTo, R53 or the wrap of one element; quantiseBlock, readRecord, Record.pack and Record.value are R62 and R56 to R60. -/
def Obligations.ConversionSlots : Prop :=
  ∀ (d : Dst) (a : Src) (s t : State) (x : Wide) (tf ff : Fmt) (rm : Rnd) (pol : Fin 4) (elt : Fin 4) (mode : Nat) (draw : Nat → Nat),
    Gives (readV a) s x t → Gives (readyV d) t () t → mode = (if rm = .dyn then t.ctx.fp.frm.toNat else rm.code) →
    draw = (fun i => srDraw t.ctx.fp.seed t.ctx.fp.sctr i) →
    (tf ∈ [.fp32, .bf16, .fp16, .fp8e4, .fp8e5, .s8, .s16, .s32, .n8, .n16, .n32] → ∀ n, n = (if Fmt.lane32 tf || Fmt.lane32 ff then 32 else 64) →
      ∃ v fl, exec (.cvt tf ff rm d a) s = t.stages [t.vOf d 3 v (raising fl)] ∧
        (∀ i < lanesIn (Fmt.lane32 tf), (laneB (Fmt.lane32 tf) v i).toNat =
          if i < n then (convert tf ff mode (laneB (Fmt.lane32 ff) x i).toNat (draw i)).1 else 0) ∧
        ∀ k, bitAt fl k = true ↔ ∃ i < n, bitAt (convert tf ff mode (laneB (Fmt.lane32 ff) x i).toNat (draw i)).2 k = true) ∧
    (∀ (f : Fmt) (e : FloatFmt), f ∈ [.mxi8, .mxi6, .mxi4, .mxf4, .mxi3, .mxi4z] → e = (match elt.val with | 0 => .bf16 | 1 => .fp16 | _ => .fp32) →
      (∀ q : Nat → Record × Nat, q = (fun b => quantiseBlock f.code mode pol.val ((List.range 32).map fun j => laneF e x (32 * b + j)) fun j => draw (32 * b + j)) →
        ∃ fl, (∀ k, bitAt fl k = true ↔ (bitAt (q 0).2 k = true ∨ e ≠ .fp32 ∧ bitAt (q 1).2 k = true)) ∧
          exec (.qnt f pol rm elt d a) s = t.stages [t.vOf d 3 (BitVec.ofNat 1024 ((q 0).1.pack f.code +
            if e = .fp32 then 0 else (q 1).1.pack f.code * 2 ^ (q 0).1.len f.code)) (raising fl)]) ∧
      (∀ r : Nat → Record, r 0 = readRecord f.code x.toNat → r 1 = readRecord f.code (x.toNat / 2 ^ recordLen f.code x.toNat) →
        ∃ v fl, exec (.dqnt f pol rm elt d a) s = t.stages [t.vOf d 3 v (raising fl)] ∧
          LanesAre (FloatFmt.is32 e) v fl fun i => roundTo (FloatFmt.spec e) mode ((r (i / 32)).value f.code pol.val (i % 32)) (draw i)))

/-- R324 to R331. -/
def Obligations.SumFileSlots : Prop :=
  ∀ (tf : Fmt) (rm : Rnd) (e m : Fin 8) (r l : Fin 32) (q : Fin 16) (a : Src) (s t : State) (x : Wide) (es : List Nat) (act : State → LaneOp → Nat → Effect),
    act = (fun s op tag => .laneAct { slot := s.slot, left := 3, op := op, tag := tag }) →
    es = (List.range (if Fmt.lane32 tf then 32 else 64)).map (fun i => (laneB (Fmt.lane32 tf) x i).toNat) →
    (Gives (readV a) s x t → t.ctx.busy (.e e.val) = false →
      exec (.eacc tf e a) s = t.stages [act t (.add (t.ctx.regs.readE e.val) tf es) 0]) ∧
    (s.ctx.busy (.s l.val) = false → Gives (readV a) s x t → ∀ k : Word, k = s.ctx.regs.readS l.val →
      (k.toNat < 4096 → exec (.evred tf l a) s = t.stages [act t (.into k.toNat tf es) 0]) ∧
      (4096 ≤ k.toNat → exec (.evred tf l a) s = .next (t.raised .illegalUse k false))) ∧
    (s.ctx.busy (.e e.val) = false → ∀ w l0, HeldUnless s (s.drainsPast = true) w → l0 = s.ctx.regs.readE e.val →
      (s.ctx.busyWrite (.v r.val) = false → ∃ tag ≠ 0,
        exec (.eread tf rm (.reg r) e) s = w.stages [.result { dest := .v r.val, val := 0, addr := 0, left := 8, inter := 0, flags := raising 0, pc := s.bundle.pc, tag := tag, bno := s.accNo },
          act s (.read l0 tf (s.laneMode rm)) tag] ∧
        exec (.eflg (.reg r) e) s = w.stages [.result { dest := .v r.val, val := 0, addr := 0, left := 8, inter := 0, flags := 0, pc := s.bundle.pc, tag := tag, bno := s.accNo },
          act s (.flags l0) tag]) ∧
      (Gives (readyV (.push q)) s () s → ∃ tag ≠ 0, ∀ p, p = ({ dest := .ring q.val, val := 0, addr := (s.ctx.ring q.val).pushAddr (s.bundle.pushes q.val), left := 8, inter := 0, flags := 0, pc := s.bundle.pc, tag := tag, bno := s.accNo } : Pending) →
        exec (.eread tf rm (.push q) e) s = w.stages [.push q.val { p with flags := raising 0 }, act s (.read l0 tf (s.laneMode rm)) tag] ∧
        exec (.eflg (.push q) e) s = w.stages [.push q.val p, act s (.flags l0) tag]) ∧
      (s.ctx.busy (.m m.val) = false → exec (.eclr e m) s = w.stages [act s (.clear l0 (s.ctx.regs.readM m.val).toNat) 0]) ∧
      (s.ctx.busy (.s l.val) = false → ∀ k : Word, k = s.ctx.regs.readS l.val →
        (-2048 ≤ k.toInt ∧ k.toInt ≤ 2047 → exec (.eanc e l) s = w.stages [act s (.anchor l0 k.toInt) 0]) ∧
        (¬ (-2048 ≤ k.toInt ∧ k.toInt ≤ 2047) → exec (.eanc e l) s = .next (s.raised .illegalUse k false))))

/-- R332 to R339 and R344: Fn.lane, divLane and XFn.lane give a lane's bits and flags, and for the first two whether it takes the second phase (R337, log 5). -/
def Obligations.FunctionSlots : Prop :=
  ∀ (f : FloatFmt) (rm : Rnd) (d : Dst) (a b : Src) (s t u w : State) (x y : Wide),
    Gives (readV a) s x t →
    (Gives (readyV d) t () t → HeldUnless t (t.core.fnQueue.length < 16) w →
      ∀ p ∈ [(Instr.fexp, Fn.exp), (Instr.fexp2, Fn.exp2), (Instr.fexpm1, Fn.expm1), (Instr.flog, Fn.log), (Instr.flog2, Fn.log2), (Instr.flog1p, Fn.log1p),
             (Instr.fsin, Fn.sin), (Instr.fcos, Fn.cos), (Instr.fsinpi, Fn.sinpi), (Instr.fcospi, Fn.cospi), (Instr.ftanh, Fn.tanh), (Instr.flogi, Fn.logi),
             (Instr.ferf, Fn.erf), (Instr.frsq, Fn.rsq), (Instr.fsqrt, Fn.sqrt), (Instr.frcp, Fn.rcp)],
        FunctionResult w d f (exec (p.1 f rm d a) s) fun i => p.2.lane f (t.laneMode rm) (laneB (FloatFmt.is32 f) x i).toNat) ∧
    (Gives (readV b) t y u → Gives (readyV d) u () u →
      HeldUnless u (u.core.fnQueue.length < 16) w →
        FunctionResult w d f (exec (.fdiv f rm d a b) s) fun i =>
          divLane f (u.laneMode rm) (laneB (FloatFmt.is32 f) x i).toNat (laneB (FloatFmt.is32 f) y i).toNat) ∧
    (Gives (readyV d) t () t →
      ∀ p ∈ [(Instr.xexp2, XFn.exp2), (Instr.xlog2, XFn.log2), (Instr.xrsq, XFn.rsq), (Instr.xrcp, XFn.rcp), (Instr.xtanh, XFn.tanh),
             (Instr.xlogi, XFn.logi), (Instr.xsin, XFn.sin), (Instr.xerf, XFn.erf)],
        ∃ v fl, exec (p.1 f d a) s = t.stages [t.vOf d 12 v (raising fl)] ∧
          LanesAre (FloatFmt.is32 f) v fl fun i => p.2.lane f (laneB (FloatFmt.is32 f) x i).toNat)

/-- R285, R287, R288, R290, R293 and the charges of Table 18.5. For mshift the shafts are taken in turn by shiftAll, whose parts are in ShiftingAShaft. -/
def Obligations.BeatSlots : Prop :=
  ∀ (m : Fin 256) (z : Bool) (i j : Fin 32) (s t : State) (sh : List Shaft) (ps : List (Nat × Nat)) (af : Nat) (hi : Wide),
    (s.core.dot.owner ≠ some s.slot →
      (s.ctx.busy (.v i.val) = false → s.ctx.busy (.v j.val) = false → (i.val < 31 → s.ctx.busy (.v (i.val + 1)) = false) →
        exec (.mpush m (.reg i) (.reg j)) s = .next (s.raised .illegalUse (BitVec.ofNat 64 m.val) false)) ∧
      exec (.mshift m z) s = .next (s.raised .illegalUse (BitVec.ofNat 64 m.val) false) ∧
      exec (.macc m) s = .next (s.raised .illegalUse (BitVec.ofNat 64 m.val) false) ∧
      exec (.mdrain m) s = .next (s.raised .illegalUse (BitVec.ofNat 64 m.val) false) ∧
      exec (.maccD m) s = .next (s.raised .illegalUse (BitVec.ofNat 64 m.val) false)) ∧
    (s.core.dot.owner = some s.slot →
      (m.val ≠ 0 → (∀ k ∈ maskShafts m.val, (s.shaft k).af = af ∧ (s.shaft k).rb = false ∧ (s.shaft k).back = none) → af ≠ 0 → s.settled m.val →
        s.ctx.busy (.v i.val) = false → s.ctx.busy (.v j.val) = false →
        (af ≤ 2 → i.val < 31 ∧ s.ctx.busy (.v (i.val + 1)) = false ∧ hi = s.ctx.regs.readV (i.val + 1)) → (2 < af → hi = 0) →
        sh = s.core.dot.shafts.mapIdx (fun k x => if bitAt m.val k then { x with back := some (halfVecOfRegs (af + 7) (s.shaft k).pol
          ((s.ctx.regs.readV i.val).toNat + hi.toNat * 2 ^ 1024) (s.ctx.regs.readV j.val).toNat) } else x) →
        exec (.mpush m (.reg i) (.reg j)) s = s.stages [.charge (8 * (maskShafts m.val).length), .beat 0 m.val [] sh]) ∧
      (s.ctx.busy (.v i.val) = false → s.ctx.busy (.v j.val) = false → (i.val < 31 → s.ctx.busy (.v (i.val + 1)) = false) →
        exec (.mpush 0 (.reg i) (.reg j)) s = s.stages []) ∧
      (∀ (q : Fin 16) (v : Nat) (pops : Bool) (u : State), m.val ≠ 0 → (∀ k ∈ maskShafts m.val, (s.shaft k).af = af ∧ (s.shaft k).rb = false ∧ (s.shaft k).back = none) →
        af ≠ 0 → s.settled m.val → (s.ctx.ring q.val).feeds af = true → u = (if pops then s.staged [.pop q.val] else s) →
        Gives (ringElem q.val (if pops then s.bundle.pops q.val else 0) (if pops then 32 + q.val else 48 + q.val) fun r => r.feeds af) s v s →
        sh = s.core.dot.shafts.mapIdx (fun k x => if bitAt m.val k then { x with back := some (halfVecOfRing (af + 7) (s.ctx.ring q.val).halfPol v) } else x) →
        exec (.mpush m (if pops then .pop q else .peek q) (.reg 0)) s = u.stages [.charge (8 * (maskShafts m.val).length), .beat 0 m.val [] sh]) ∧
      (Gives (shiftAll m.val z (maskShafts m.val) s.core.dot.shafts []) s (sh, ps) t → t.settled m.val →
        exec (.mshift m z) s = t.stages [.beat 1 m.val ps sh]) ∧
      (s.splitGroup m.val = none → s.settled m.val →
        ((∀ k ∈ maskShafts m.val, (s.shaft k).st = 2) → (∀ e ∈ s.groupHalves m.val, e.held = false) →
          exec (.macc m) s = s.stages [.charge (4 * (s.groupHalves m.val).length), .beat 2 m.val [] s.core.dot.shafts] ∧
          (s.core.busLeft = 0 ∨ s.groupHalves m.val = [] →
            exec (.maccD m) s = s.stages [.charge (8 * (s.groupHalves m.val).length), .beat 4 m.val [] s.core.dot.shafts])) ∧
        (s.core.busLeft = 0 ∨ (∀ e ∈ s.groupHalves m.val, e.held = false) →
          exec (.mdrain m) s = s.stages [.charge (4 * (s.groupHalves m.val).length), .beat 3 m.val [] s.core.dot.shafts])))

/-- R288 (planes and their order), for a shaft that needs no pop. -/
def Obligations.ShiftingAShaft : Prop :=
  ∀ (mask : Nat) (z : Bool) (h h1 : Shaft) (s : State),
    (h.st = 2 → Gives (shiftShaft mask z h) s (h, [], 0) s) ∧
    (h.st ≠ 1 → h.st ≠ 2 → h.back = none → h.rb = false → Refuses (shiftShaft mask z h) s .illegalUse (BitVec.ofNat 64 mask)) ∧
    ((h.st = 1 ∧ h1 = h ∨ h.st ≠ 1 ∧ h.st ≠ 2 ∧ ∃ v, h.back = some v ∧ h1 = { h with front := v, back := none, planes := 0, st := 1 }) →
      h1.planes ≤ afPlanes h1.af → (h1.rb = false ∨ h1.back ≠ none) →
      ∃ (qs : List Nat) (n : Nat) (h2 : Shaft), Gives (shiftShaft mask z h) s (h2, qs, n) s ∧
        qs = List.range' h1.planes qs.length ∧ h2 = { h1 with planes := h1.planes + qs.length, st := if h2.planes = afPlanes h1.af then 2 else 1 } ∧
        h2.planes ≤ afPlanes h1.af ∧ n ≤ 1 ∧
        (∃ q, (∀ x ∈ qs, x ≠ q → h1.planeZero x = true) ∧ (n = 0 → ∀ x ∈ qs, h1.planeZero x = true)) ∧
        (z = false → h1.planes < afPlanes h1.af → qs = [h1.planes] ∧ n = 1) ∧
        (z = true → h2.planes < afPlanes h1.af → h1.planeZero h2.planes = false))

/-- R283, R284 and R301 to R304. -/
def Obligations.MacroSlots : Prop :=
  ∀ (a b d : Fin 32) (s t : State) (x w : Word) (f n fmt : Nat) (dot : Bool) (sh : List Shaft) (es : List Nat),
    x = s.ctx.regs.readS a.val → w = s.ctx.regs.readS b.val → s.ctx.busy (.s a.val) = false → s.ctx.busy (.s b.val) = false →
    (s.core.dot.owner ≠ none ∧ s.core.dot.owner ≠ some s.slot ∨ (∃ h ∈ s.core.dot.shafts, h.st = 1 ∨ h.st = 2) ∨ (∃ e ∈ s.core.dot.entries, e.held = true) →
      exec (.mset a b) s = .next (s.raised .illegalUse w false)) ∧
    ((s.core.dot.owner = none ∨ s.core.dot.owner = some s.slot) → (∀ h ∈ s.core.dot.shafts, h.st ≠ 1 ∧ h.st ≠ 2) → (∀ e ∈ s.core.dot.entries, e.held = false) →
      (w = 0 → exec (.mset a b) s = s.stages [.mrelease]) ∧
      (w ≠ 0 → sh = (List.range 8).map (fun k => { Shaft.off with byte := w.toNat / 2 ^ (8 * k) % 256 }) →
        ((∃ h ∈ sh, shaftByteOk h.byte = false ∨ h.rb = true ∧ (s.ctx.ring h.ringNo).feeds h.af = false) → exec (.mset a b) s = .next (s.raised .format w false)) ∧
        ((∀ h ∈ sh, shaftByteOk h.byte = true ∧ (h.rb = true → (s.ctx.ring h.ringNo).feeds h.af = true)) →
          (x.toNat % 64 ≠ 0 ∨ 2 ^ 24 < x.toNat + 8192 → exec (.mset a b) s = .next (s.raised .illegalUse x false)) ∧
          (x.toNat % 64 = 0 → x.toNat + 8192 ≤ 2 ^ 24 → s.loadReady .act 0 x.toNat 8192 →
            es = (List.range 128).map (fun k => s.core.act.readBits (x.toNat + 64 * k) 64) → t = s.staged [.cells .act [(x.toNat, 8192)]] →
            (∀ e, s.badEntry w.toNat [] es = some e → exec (.mset a b) s = .next (t.raised .format (BitVec.ofNat 64 e) false)) ∧
            (s.badEntry w.toNat [] es = none →
              (∀ e, es.find? (fun e => descV e && !(s.halfAt (descF e)).nameable) = some e →
                exec (.mset a b) s = .next (t.raised .illegalUse (BitVec.ofNat 64 (descF e)) false)) ∧
              ((∀ e ∈ es, descV e = true → (s.halfAt (descF e)).nameable = true) →
                exec (.mset a b) s = t.stages [.mset sh ((es.zipIdx.filter fun p => descV p.1).map fun p => s.newEntry p.2 p.1)])))))) ∧
    (f = x.toNat % 8192 → dot = x.getLsbD 13 → fmt = x.toNat / 2 ^ 14 % 32 → n = w.toNat →
      (x.toNat < 2 ^ 19 → (dot = true → 8 ≤ fmt ∧ fmt ≤ 11) → (dot = false → fmt = 0) → 0 < n → n ≤ 128 → f + n ≤ 8192 →
        (∀ k < n, s.mmodeOk (f + k) fmt dot = true) → exec (.mmode a b) s = s.stages [.mmode f n fmt dot]) ∧
      (2 ^ 19 ≤ x.toNat ∨ (dot = true ∧ ¬ (8 ≤ fmt ∧ fmt ≤ 11)) ∨ (dot = false ∧ fmt ≠ 0) → exec (.mmode a b) s = .next (s.raised .format x false)) ∧
      (x.toNat < 2 ^ 19 → (dot = true → 8 ≤ fmt ∧ fmt ≤ 11) → (dot = false → fmt = 0) →
        (n = 0 ∨ 128 < n ∨ 8192 < f + n → exec (.mmode a b) s = .next (s.raised .illegalUse w false)) ∧
        (0 < n → n ≤ 128 → f + n ≤ 8192 → ∀ k < n, (∀ j < k, s.mmodeOk (f + j) fmt dot = true) → s.mmodeOk (f + k) fmt dot = false →
          exec (.mmode a b) s = .next (s.raised .illegalUse (BitVec.ofNat 64 (f + k)) false)))) ∧
    (w.toNat ≤ 128 → exec (.mglaze b) s = s.stages [.charge (14 * s.glazeHalves w.toNat), .mglaze w.toNat]) ∧
    (128 < w.toNat → exec (.mglaze b) s = .next (s.raised .illegalUse w false)) ∧
    (x.toNat < 8192 → ((s.halfAt x.toNat).storage = true ∨ (s.halfAt x.toNat).st = 3 ∧ (s.halfAt x.toNat).chk = false) → exec (.mchk a) s = s.stages [.mchk x.toNat]) ∧
    (8192 ≤ x.toNat ∨ (s.halfAt x.toNat).storage = false ∧ ¬ ((s.halfAt x.toNat).st = 3 ∧ (s.halfAt x.toNat).chk = false) → exec (.mchk a) s = .next (s.raised .illegalUse x false)) ∧
    (s.ctx.busyWrite (.s d.val) = false → 2 ^ 16 ≤ x.toNat ∨ 2 < x.toNat / 8192 ∨ (x.toNat / 8192 ≠ 0 ∧ x.toNat % 8192 ≠ 0) →
      exec (.mstat d a) s = .next (s.raised .illegalUse x false)) ∧
    (x.toNat < 2 ^ 16 → x.toNat / 8192 ≤ 2 → (0 < x.toNat / 8192 → x.toNat % 8192 = 0) → s.ctx.busyWrite (.s d.val) = false →
      ∃ lat, 1 ≤ lat ∧ exec (.mstat d a) s = s.drawn.stages [s.resultOf (.s d.val) lat 1 (s.mstatVal (x.toNat / 8192) (x.toNat % 8192)) 0])

/-- R208, R214, R215, R219 to R224 and R236. That ringCfgOk refuses a FIFO of capacity 0 is the model's choice (log 114). -/
def Obligations.RingSlots : Prop :=
  ∀ (q : Fin 16) (a b d : Fin 32) (level : Fin 8) (what : Fin 4) (s : State) (x w : Word) (r : Ring),
    x = s.ctx.regs.readS a.val → w = s.ctx.regs.readS b.val → r = s.ctx.ring q.val →
    exec (.qunb q) s = s.stages [.qunb q.val] ∧
    (s.ctx.busy (.s a.val) = false →
      (s.ctx.busy (.s b.val) = false →
        (ringCfgOk w (s.core.bankFmt x.toNat) = true → ((s.bindRing x w).mode = 1 → x.toNat + (s.bindRing x w).capacity * (s.bindRing x w).size ≤ (spaceOf (s.bindRing x w).spaceNo).size) →
          ((s.bindRing x w).spaceNo = 2 → s.ctx.busy (.h (w.toNat / 2 ^ 44 % 16)) = false ∧ hUsable (s.ctx.regs.readH (w.toNat / 2 ^ 44 % 16)) = true ∧
            (if (s.bindRing x w).mode = 2 then hRd (s.ctx.regs.readH (w.toNat / 2 ^ 44 % 16)) else hWr (s.ctx.regs.readH (w.toNat / 2 ^ 44 % 16))) = true) →
          exec (.qbind q a b) s = s.stages [.qbind q.val x w (s.bindRing x w).copy]) ∧
        (ringCfgOk w (s.core.bankFmt x.toNat) = true → (s.bindRing x w).mode = 1 → ∀ n, n = x.toNat + (s.bindRing x w).capacity * (s.bindRing x w).size →
          (spaceOf (s.bindRing x w).spaceNo).size < n → exec (.qbind q a b) s = .next (s.raised .illegalUse (BitVec.ofNat 64 (n - 1)) false)) ∧
        (ringCfgOk w (s.core.bankFmt x.toNat) = true → (s.bindRing x w).spaceNo = 2 → ∀ n h, n = w.toNat / 2 ^ 44 % 16 → h = s.ctx.regs.readH n → s.ctx.busy (.h n) = false →
          hUsable h = false ∨ (if (s.bindRing x w).mode = 2 then hRd h else hWr h) = false →
          exec (.qbind q a b) s = .next (s.raised .invhandle (BitVec.ofNat 64 n) false)) ∧
        (ringCfgOk w (s.core.bankFmt x.toNat) = false → exec (.qbind q a b) s = .next (s.raised .format w false))) ∧
      (r.mode ≠ 0 → x.toNat < 2 ^ 24 → (r.mode = 1 → x.toNat ≤ r.capacity ∧ x.toNat ≤ r.count) → exec (.qadv q a) s = s.stages [.qadv q.val x.toNat]) ∧
      (r.mode = 0 → exec (.qadv q a) s = .next (s.raised .illegalUse (BitVec.ofNat 64 q.val) false)) ∧
      ((r.mode = 1 → x.toNat ≤ r.capacity) → (r.mode = 2 → x.toNat ≤ r.depth) →
        ∀ t, t = ({ s with bundle := { s.bundle with waitBar := some (q.val, x) } } : State) →
          ((r.mode = 1 → x.toNat ≤ r.count) → (r.mode = 2 → x.toNat ≤ r.window.length) → (r.mode = 3 → r.pending = 0 ∧ s.oldPushes q.val = false) → exec (.qwait q a) s = .next t) ∧
          ((r.mode = 1 ∧ r.count < x.toNat ∨ r.mode = 2 ∧ r.window.length < x.toNat ∨ r.mode = 3 ∧ (r.pending ≠ 0 ∨ s.oldPushes q.val = true)) → s.bundle.mark = .none →
            exec (.qwait q a) s = .next { t with bundle := { t.bundle with mark := .waits .ring } })) ∧
      (-2 ^ 23 ≤ x.toInt → x.toInt < 2 ^ 23 → exec (.qstr q a level) s = s.stages [.qstr q.val level.val x.toInt])) ∧
    (s.ctx.busyWrite (.s d.val) = false → ∃ lat, 1 ≤ lat ∧
      (what.val < 3 → exec (.qstat d q what) s = s.drawn.stages [s.resultOf (.s d.val) lat 1 (match what.val with
        | 0 => r.cfg.toNat | 1 => r.cur.toNat
        | _ => (BitVec.ofNat 64 (r.window.length % 256 * 2 ^ 32 + r.pending % 256 * 2 ^ 24 + if r.mode = 1 then r.count else 0)).toNat) 0]) ∧
      ((what.val = 3 → s.core.stats.recs = [] ∧ s.core.stats.fresh = []) → exec (.sqrd d what) s = s.drawn.stages [s.resultOf (.s d.val) lat 1 (match what.val with
        | 1 => s.core.stats.recs.length | 2 => s.core.stats.drop | _ => s.core.stats.wr) 0]))

/-- R225, R227, R228, R296, R298, R300 and R378. A copy within local memories has no handle; hs and hd are those of its two sides where they are in global memory. -/
def Obligations.EngineCommandSlots : Prop :=
  ∀ (iss : Bool) (ord : Fin 16) (d a b : Fin 32) (s : State) (dst src c e wa srcA eb : Word) (op : Nat),
    dst = s.ctx.regs.readS d.val → src = s.ctx.regs.readS a.val → c = s.ctx.regs.readS b.val → e = s.ctx.regs.readS (b.val + 1) →
    s.ctx.busy (.s d.val) = false → s.ctx.busy (.s a.val) = false → s.ctx.busy (.s b.val) = false → s.ctx.busy (.s (b.val + 1)) = false →
    wa = src → srcA = s.ctx.regs.readS (a.val + 1) → eb = c →
    (∀ (hs hd : Nat) (hsv hdv : HandleBits), hs = c.toNat / 2 ^ 52 % 16 → hd = c.toNat / 2 ^ 56 % 16 →
      hsv = (if op = 0 ∧ ccSSP c = 2 then s.ctx.regs.readH hs else 0) → hdv = (if op = 0 ∧ ccDSP c = 2 then s.ctx.regs.readH hd else 0) → op < 2 →
      (op = 0 ∧ ccSSP c = 2 → s.ctx.busy (.h hs) = false) → (op = 0 ∧ ccDSP c = 2 → s.ctx.busy (.h hd) = false) →
      s.copyFormatOk op c e src dst = true → (ccSSP c = 2 → hUsable hsv = true ∧ hRd hsv = true) → (ccDSP c = 2 → hUsable hdv = true ∧ hWr hdv = true) →
      cwBarsOk e = true → (op = 1 → ccTCORE c < s.ctx.kcores) →
      (∀ ss ds, ss = s.core.sideSpan (ccCONV c) (ccSSP c) (ccSFMT c) src.toNat (ccN c) → ds = (s.targetCore op c).sideSpan (ccCONV c) (ccDSP c) (ccDFMT c) dst.toNat (ccN c) →
        localOffence (ccDSP c) (ccSSP c) dst.toNat ds src.toNat ss (op == 0 || ccTCORE c == s.ctx.lcore) = none ∧
        (ccSSP c = 2 → src.toNat + ss ≤ hSize hsv) ∧ (ccDSP c = 2 → dst.toNat + ds ≤ hSize hdv)) →
      ∀ cmd, cmd = { s.commandOf op op ord.val iss src c dst e with hsrc := hsv, hdst := hdv, frm := resolveRm (ccRM c) s.ctx.fp.frm.toNat, seed := s.ctx.fp.seed, sctr := s.ctx.fp.sctr, target := if op = 0 then s.coreNo else s.coreOf (ccTCORE c) } →
        ∀ t, HeldUnless s (s.poolRoom op) t → exec (if op = 0 then .cpy iss ord d a b else .xfer iss ord d a b) s = t.stages [.command cmd]) ∧
    (∀ g : CollGroup, g = s.dev.group (kwGRP dst) → op < 4 → collOk op dst e g = true → (s.dev.memberList g).contains (s.dev.memberEntry s.phys) = true →
      cwBarsOk e = true → collOffence op dst g.members src.toNat c.toNat = none →
      (collSums op = true → s.core.anchorsAre c.toNat (collLanes op dst g.members) (kwANC dst) = true) → ∀ t, HeldUnless s (s.poolRoom 3) t →
      exec (match op with | 0 => .collAllr iss ord d a b | 1 => .collBcast iss ord d a b | 2 => .collAllg iss ord d a b | _ => .collRsc iss ord d a b) s =
        t.stages [.command (s.commandOf 3 op ord.val iss src dst c e)]) ∧
    (∀ h : HandleBits, h = (if rcSSP wa = 2 then s.ctx.regs.readH (rcH wa) else 0) → s.ctx.busy (.s (a.val + 1)) = false → (rcSSP wa = 2 → s.ctx.busy (.h (rcH wa)) = false) →
      reloadFormatOk wa eb = true → (s.halfAt (rcF wa)).st ≠ 3 → (rcSSP wa = 2 → hUsable h = true ∧ hRd h = true ∧ srcA.toNat + reloadSpan wa ≤ hSize h) →
      cwBarsOk eb = true → (rcSSP wa ≠ 2 → srcA.toNat + reloadSpan wa ≤ (spaceOf (rcSSP wa)).size) → ∀ t, HeldUnless s (s.poolRoom 2) t →
      exec (.rld a b) s = t.stages [.command { s.commandOf 2 2 (rcORDER wa) (rcISSUER wa) wa 0 srcA eb with hsrc := h, birth := s.ctx.birth }]) ∧
    (∀ t, HeldUnless s (s.poolRoom 2) t → exec (.xpcfg a b) s = t.stages [.command (s.commandOf 2 3 0 false src c 0 0)])

/-- R405; who names the core. The register layout of the firmware cores is the model's (log 6), and so are exception 27 for a queue above 69 and LQSTAT of a refused disp (log 57) and the
requests for words of another device (logs 59, 94 and 98). -/
def Obligations.FirmwareInstructions : Prop :=
  ∀ (s : State) (rd rs1 rs2 : Fin 32) (c : FwCore) (x y : Word) (ends : Nat → State) (goes : FwCore → FwCore) (gives : State → Word → State), s.ev.who < 4 → c = s.fw.getD s.ev.who .reset →
    x = (if rs1.val = 0 then 0 else c.x.getD rs1.val 0) → y = (if rs2.val = 0 then 0 else c.x.getD rs2.val 0) →
    ends = (fun n => s.onFw s.ev.who fun k => { k with mcause := BitVec.ofNat 64 n, mepc := k.pc, mtval := 0, pie := k.ie, ie := false, pc := k.mtvec &&& ~~~3 }) →
    goes = (fun k => { k with minstret := if k.inhibit.testBit 2 then k.minstret else k.minstret + 1, pc := k.pc + 4 }) →
    gives = (fun t v => t.onFw s.ev.who fun k => goes { k with x := if rd.val = 0 then k.x else k.x.set rd.val v }) →
    (y.toNat < 4096 → y.toNat % 64 + (y.toNat / 64 + 1) ≤ 64 →
      exec (.bfext rd rs1 rs2) s = .next (gives s (BitVec.ofNat 64 (x.toNat / 2 ^ (y.toNat % 64) % 2 ^ (y.toNat / 64 + 1))))) ∧
    (4096 ≤ y.toNat ∨ 64 < y.toNat % 64 + (y.toNat / 64 % 64 + 1) → exec (.bfext rd rs1 rs2) s = .next (ends 25)) ∧
    (69 < x.toNat → exec (.rfetch rd rs1 rs2) s = .next (ends 24) ∧ exec (.disp rd rs1 rs2) s = .next (ends 27)) ∧
    (x.toNat ≤ 69 → ∀ q, q = s.dev.queue x.toNat →
      (q.rd = q.wr → exec (.rfetch rd rs1 rs2) s = .next (gives s 0) ∧ exec (.disp rd rs1 rs2) s = .next (ends 27)) ∧
      (q.rd ≠ q.wr → ∀ adr, adr = q.base * 512 + q.rd % 2 ^ q.log2n * 512 → s.physCause .firmware adr 512 = none → s.poisoned (physLocal adr) 512 = none →
        physDev adr = s.dev.devId → exec (.rfetch rd rs1 rs2) s = .next (gives s (BitVec.ofNat 64 ((s.packet x.toNat).getD (y.toNat % 8) 0)))) ∧
      (q.rd ≠ q.wr → packetType (s.packet x.toNat) ≠ 1 → exec (.disp rd rs1 rs2) s = .next (ends 27)) ∧
      (q.rd ≠ q.wr → packetType (s.packet x.toNat) = 1 → s.argWaits x.toNat = true → exec (.disp rd rs1 rs2) s = .next (s.askArgs x.toNat)) ∧
      (q.rd ≠ q.wr → packetType (s.packet x.toNat) = 1 → s.argWaits x.toNat = false → ∀ st, st = s.headStatus x.toNat →
        (st = 0 → exec (.disp rd rs1 rs2) s = .next (gives (s.launch x.toNat) 0)) ∧
        (st ≠ 0 → ∃ t, exec (.disp rd rs1 rs2) s = .next (gives t (BitVec.ofNat 64 st)) ∧ (t.dev.queue x.toNat).stat = st))) ∧
    (x.toNat % 64 ≠ 0 → exec (.swait rd rs1 rs2) s = .next (ends 26)) ∧
    (x.toNat % 64 = 0 → c.asked = none →
      (2 ^ 60 ≤ x.toNat ∨ physDev x.toNat = s.dev.devId → s.viewWaits false [(physLocal x.toNat, 64)] = false →
        (∀ r t, s.fwRead s.ev.who x.toNat 64 0 0 = .ok (r, t) → y.toNat ≤ r → exec (.swait rd rs1 rs2) s = .next (t.onFw s.ev.who goes)) ∧
        (∀ r t, s.fwRead s.ev.who x.toNat 64 0 0 = .ok (r, t) → r < y.toNat → exec (.swait rd rs1 rs2) s = .next t) ∧
        (∀ k, s.fwRead s.ev.who x.toNat 64 0 0 = .error k → exec (.swait rd rs1 rs2) s = .next (ends 26))) ∧
      (x.toNat < 2 ^ 60 → physDev x.toNat ≠ s.dev.devId → exec (.swait rd rs1 rs2) s = .next
        ((s.onDev fun d => d.ask 3 s.ev.who 0 { who := 19, sub := s.ev.who, addr := x.toNat, val := 0, len := 64, data := [] }).onFw s.ev.who fun k =>
          { k with asked := some none })))

/-- R79 and R206 to R214 for scalar operands; vector operands differ in the element kinds 1 and 2 only (R209), which the last clauses say. -/
def Obligations.OperandsDeliver : Prop :=
  ∀ (s : State) (i : Fin 32) (q : Fin 16) (k : Nat) (r : Ring), k = s.bundle.pops q.val → r = s.ctx.rings.getD q.val Ring.unbound →
    (s.ctx.busy (.s i.val) = false → Gives (readS (.reg i)) s (if i.val = 0 then 0 else s.ctx.regs.s.getD i.val 0) s) ∧
    (s.ctx.busy (.s i.val) = true → Misses (readS (.reg i)) s) ∧
    (s.ctx.busy (.v i.val) = false → Gives (readV (.reg i)) s (s.ctx.regs.v.getD i.val 0) s) ∧
    (r.mode = 2 → r.elem = 0 →
      (∀ w, r.addrCause q.val (r.addrAt k) = none → r.window[k]? = some w →
        (w.cause = none → Gives (readS (.pop q)) s (BitVec.ofNat 64 (r.deliver w.val)) (s.staged [.pop q.val])) ∧
        (∀ c, w.cause = some c → Meets (readS (.pop q)) s c (BitVec.ofNat 64 w.addr))) ∧
      (∀ w, r.addrCause q.val (r.addrAt 0) = none → r.window[0]? = some w → w.cause = none →
        Gives (readS (.peek q)) s (BitVec.ofNat 64 (r.deliver w.val)) s) ∧
      (∀ c v, r.addrCause q.val (r.addrAt k) = some (c, v) → Meets (readS (.pop q)) s c v) ∧
      (r.addrCause q.val (r.addrAt k) = none → r.window.length ≤ k → Misses (readS (.pop q)) s)) ∧
    (r.mode = 1 → r.elem = 0 →
      (k < r.count → s.ctx.busy (.ring q.val) = false → s.core.poisoned (spaceOf r.spaceNo) (r.fifoAddr k) r.size = none →
        Gives (readS (.pop q)) s (BitVec.ofNat 64 (r.deliver ((s.core.mem (spaceOf r.spaceNo)).readBits (r.fifoAddr k) r.size))) (s.staged [.pop q.val])) ∧
      (r.count ≤ k ∨ s.ctx.busy (.ring q.val) = true → Misses (readS (.pop q)) s) ∧
      (0 < r.count → s.ctx.busy (.ring q.val) = false → s.core.poisoned (spaceOf r.spaceNo) (r.fifoAddr 0) r.size = none →
        Gives (readS (.peek q)) s (BitVec.ofNat 64 (r.deliver ((s.core.mem (spaceOf r.spaceNo)).readBits (r.fifoAddr 0) r.size))) s) ∧
      (r.count = 0 ∨ s.ctx.busy (.ring q.val) = true → Misses (readS (.peek q)) s)) ∧
    (r.mode ≠ 1 ∧ r.mode ≠ 2 ∨ r.elem ≠ 0 →
      RaisesEarly (readS (.pop q)) s .illegalUse (BitVec.ofNat 64 (32 + q.val)) ∧
      RaisesEarly (readS (.peek q)) s .illegalUse (BitVec.ofNat 64 (48 + q.val))) ∧
    (r.mode = 2 → r.elem = 1 ∨ r.elem = 2 → ∀ w, r.addrCause q.val (r.addrAt k) = none → r.window[k]? = some w → w.cause = none →
      Gives (readV (.pop q)) s (BitVec.ofNat 1024 (r.deliver w.val)) (s.staged [.pop q.val])) ∧
    (r.mode = 1 → r.elem = 0 → r.hasRoom (s.bundle.pushes q.val) = true → Gives (readyS (.push q)) s () s) ∧
    (r.mode = 3 → r.elem = 0 → r.hasRoom (s.bundle.pushes q.val) = true →
      (r.addrCause q.val (r.addrAt (s.bundle.pushes q.val)) = none → Gives (readyS (.push q)) s () s) ∧
      ∀ c v, r.addrCause q.val (r.addrAt (s.bundle.pushes q.val)) = some (c, v) → Meets (readyS (.push q)) s c v) ∧
    (∀ n, r.hasRoom n = true ↔ r.pending + n < r.depth ∧ (r.mode = 1 → r.count + r.pending + n < r.capacity)) ∧
    (r.mode = 1 ∨ r.mode = 3 → r.elem = 0 → r.hasRoom (s.bundle.pushes q.val) = false → Misses (readyS (.push q)) s) ∧
    (r.mode ≠ 1 ∧ r.mode ≠ 3 ∨ r.elem ≠ 0 → RaisesEarly (readyS (.push q)) s .illegalUse (BitVec.ofNat 64 (32 + q.val)))

/-- R78, R84, R129, R134, R148 and R149 for the landing of a result; R54 for its flags. -/
def Obligations.ResultsLandInTheirRegisters : Prop :=
  ∀ (s : State) (p : Pending) (r : Regs) (lands : Dest → Regs → Prop), r = s.ctx.regs →
    (∀ d u, lands d u ↔ (p.flags = 0 → p.dest = d → s.landResult p = { s with ctx := { s.ctx with regs := u } })) →
    lands (.s 0) r ∧ (∀ i, i ≠ 0 → lands (.s i) { r with s := r.s.set i (BitVec.ofNat 64 p.val) }) ∧
    (∀ i, lands (.v i) { r with v := r.v.set i (BitVec.ofNat 1024 p.val) }) ∧
    lands (.pair 0) r ∧
    (∀ k, k ≠ 0 → lands (.pair k) { r with p := (r.p.set (2 * k) (decide (p.val % 2 = 1))).set (2 * k + 1) (decide (p.val % 2 = 0)) }) ∧
    lands .preds { r with p := (List.range 16).map fun k => if 2 ≤ k ∧ bitAt p.val (16 + k) then bitAt p.val k else r.readP k } ∧
    (∀ i byPbr, lands (.b i byPbr) { r with b := r.b.set i (BitVec.ofNat 64 p.val), bAge := r.bAge.set i 1, bPbr := r.bPbr.set i byPbr }) ∧
    (∀ i, lands (.m i) { r with m := r.m.set i (BitVec.ofNat 64 p.val) }) ∧
    (∀ i, lands (.e i) { r with e := r.e.set i (p.val % 4096) }) ∧
    (∀ i (h : HandleBits), h = BitVec.ofNat 256 p.val → (hState h ≠ 1 ∨ s.dev.revoked h = false) → lands (.h i) { r with h := r.h.set i h }) ∧
    (∀ i (h : HandleBits), h = BitVec.ofNat 256 p.val → hState h = 1 → s.dev.revoked h = true → lands (.h i) { r with h := r.h.set i (hSetState h 2) }) ∧
    ((∃ i, p.dest = .s i ∨ p.dest = .v i ∨ p.dest = .m i) → (s.landResult p).ctx.fp.fflags = s.ctx.fp.fflags ||| BitVec.ofNat 5 p.flags) ∧
    r.readS 0 = 0 ∧ r.readP 0 = true ∧ r.readP 1 = false ∧ (∀ i, i ≠ 0 → r.readS i = r.s.getD i 0) ∧ (∀ k, 2 ≤ k → r.readP k = r.p.getD k false)

/-- The frame of every slot (R103, R415): its effects are staged, and take place when the bundle commits. -/
def Obligations.SlotsChangeNothingButTheirBundle : Prop :=
  ∀ (i : Instr) (s t : State), IsSlot i → s.bundle.mark = .none → exec i s = .next t →
    ((∀ c v e, t.bundle.mark ≠ .raised c v e) → SameMachine s t) ∧
    ∀ c v e, t.bundle.mark = .raised c v e →
      ∃ u, SameMachine s u ∧ u.bundle.pc = s.bundle.pc ∧ u.bundle.pos = s.bundle.pos ∧
        t = { u.takePrecise c v s.bundle.pc (2 ^ s.bundle.pos) with bundle := t.bundle }

/-- R103: the effects of a bundle that commits, one by one. Stores perform later, at their banks (StoresPerformAtTheirBank). -/
def Obligations.CommitAppliesEffects : Prop :=
  ∀ (s : State) (e : Effect),
    (∀ p p', p' = (if s.ctx.compat = true ∧ p.inter = 0 then { p with inter := 1 } else p) →
      (e = .result p → s.applyEffect e = { s with ctx := { s.ctx with pend := s.ctx.pend ++ [p'] } }) ∧
      (∀ q r, e = .push q p → r = s.ctx.ring q → p.left ≠ 0 → s.applyEffect e = { s with ctx := { s.ctx with
        rings := s.ctx.rings.set q { r with alloc := r.alloc + 1, cur := if r.mode = 1 then r.cur else r.addrAt 1 },
        pend := s.ctx.pend ++ [p'] } })) ∧
    (∀ a a', e = .store a → a' = { a with turns := if a.space = .act then s.core.turns else [] } →
      (a.atomic = none → s.applyEffect e = { s with core := { s.core with locals := s.core.locals ++ [a'] } }) ∧
      (a.atomic ≠ none → s.applyEffect e =
        { s with core := { s.core with locals := s.core.locals ++ [a'] }, ctx := { s.ctx with awaits := s.ctx.awaits ++ [a.dest] } })) ∧
    (∀ a, e = .glob a → s.applyEffect e = { s with ctx := { s.ctx with
      gq := s.ctx.gq ++ [{ a with id := s.ctx.nextId }], nextId := s.ctx.nextId + 1 } }) ∧
    (∀ a, e = .laneAct a → s.applyEffect e = { s with core := { s.core with laneActs := s.core.laneActs ++ [a] } }) ∧
    (∀ a, e = .fnEntry a → s.applyEffect e = { s with core := { s.core with fnQueue := s.core.fnQueue ++ [a] } }) ∧
    (∀ c, e = .command c → c.queue ≠ 3 → s.applyEffect e = { s with core := { s.core with pool := { s.core.pool with cmds := s.core.pool.cmds ++ [c] } } }) ∧
    (∀ q r, e = .pop q → r = s.ctx.ring q →
      (r.mode ≠ 1 → s.applyEffect e = { s with ctx := { s.ctx with rings := s.ctx.rings.set q { r with cur := r.addrAt 1, window := r.window.tail } } }) ∧
      (r.mode = 1 → s.applyEffect e = { s with ctx := { s.ctx with rings := s.ctx.rings.set q { r with head := (r.head + 1) % r.capacity, count := r.count - 1 } } })) ∧
    (e = .gfence → s.applyEffect e = { s with ctx := { s.ctx with gen := (s.ctx.gen + 1) % 2 ^ 16 } }) ∧
    (∀ i, e = .hrev i → s.applyEffect e = { s with ctx := { s.ctx with regs := { s.ctx.regs with h := s.ctx.regs.h.set i (hSetState (s.ctx.regs.readH i) 0) } } }) ∧
    ((∀ l, e ≠ .fills l) → (∀ leaf w, e ≠ .sample leaf w) →
      (s.applyEffect e).core.act = s.core.act ∧ (s.applyEffect e).core.stg = s.core.stg ∧
      (s.applyEffect e).core.imem = s.core.imem ∧ (s.applyEffect e).dev.mem = s.dev.mem)

/-- R136, R138, R141 and R143; a context has at most six levels, and a body holds a bundle (R136, R137). -/
def Obligations.CommitSequencesTheContext : Prop :=
  ∀ (s : State) (l : Level) (n : Nat), n = s.bundle.next →
    (∀ (rest ended active : List Level) (at' : Nat) (pre post : List Effect),
      (∀ e ∈ pre, match e with | .branch _ | .endStep _ | .enter _ | .lbrk _ | .trap _ | .tret | .exit => False | _ => True) →
      (s.bundle.effects = pre ∧ at' = n ∧ active = s.ctx.loops.levels ∨
       s.bundle.effects = pre ++ .endStep at' :: post ∧ active = s.ctx.loops.levels ∨
       ∃ k x, s.bundle.effects = pre ++ .lbrk k :: post ∧ s.ctx.loops.levels[k]? = some x ∧ at' = x.stop ∧ active = s.ctx.loops.levels.take k) →
      active.length ≤ 6 → (∀ x ∈ ended, x.stop = at' ∧ x.count ≤ x.index + 1) →
      (active = ended → (s.sequence).ctx.pc = BitVec.ofNat 64 at' ∧ (s.sequence).ctx.loops.levels = [] ∧
        (s.sequence).ctx.safeHold = (s.ctx.safeHold || ended.any Level.safe)) ∧
      (active = rest ++ l :: ended → l.stop ≠ at' → (s.sequence).ctx.pc = BitVec.ofNat 64 at' ∧ (s.sequence).ctx.loops.levels = rest ++ [l] ∧
        (s.sequence).ctx.safeHold = (s.ctx.safeHold || ended.any Level.safe)) ∧
      (active = rest ++ l :: ended → l.stop = at' → l.index + 1 < l.count → l.start ≠ l.stop →
        (s.sequence).ctx.pc = BitVec.ofNat 64 l.start ∧ (s.sequence).ctx.loops.levels = rest ++ [{ l with index := l.index + 1 }] ∧
        (s.sequence).ctx.safeHold = (s.ctx.safeHold || ended.any Level.safe || l.safe))) ∧
    (∀ (t : Word) (pre post : List Effect), s.bundle.effects = pre ++ .branch t :: post →
      (∀ e ∈ pre, match e with | .branch _ | .endStep _ | .enter _ | .lbrk _ | .trap _ | .tret | .exit => False | _ => True) →
      (s.sequence).ctx.pc = t ∧ ∃ k, (s.sequence).ctx.loops.levels = s.ctx.loops.levels.take k ∧
        (∀ x, (s.sequence).ctx.loops.levels.getLast? = some x → x.start ≤ t.toNat ∧ t.toNat < x.stop) ∧
        ∀ x, s.ctx.loops.levels[k]? = some x → ¬ (x.start ≤ t.toNat ∧ t.toNat < x.stop)) ∧
    (∀ (pre post : List Effect), s.bundle.effects = pre ++ .enter l :: post →
      (∀ e ∈ pre, match e with | .branch _ | .endStep _ | .enter _ | .lbrk _ | .trap _ | .tret | .exit => False | _ => True) →
      (s.sequence).ctx.pc = BitVec.ofNat 64 n ∧ (s.sequence).ctx.loops.levels = s.ctx.loops.levels ++ [l])

/-- R110 with R105; R114 for a trap at a safe point. stopped counts the clks since the stop (log 11). An entry of the buffer keeps whether the handler's own bundle wrote it (log 17). -/
def Obligations.TakingATrap : Prop :=
  ∀ (c : Ctx) (e : Entry) (t : Ctx), t = c.takeTrap e →
    (c.safeHold = false → c.pend.filter Pending.isInter = [] → c.awaits = [] → (∀ a ∈ c.gq, a.dest = .none) →
      t.st = .trapped ∧ t.inh = true ∧ t.pc = BitVec.ofNat 64 (c.tr.tvec.toNat / 2 ^ 5 % 2 ^ 16 * 32) ∧
      t.late = c.late ++ c.pend.map (fun p => { p with left := p.left + c.stopped.getD 0, inh := c.inh }) ∧ t.pend = [] ∧ t.loops = LoopStack.empty ∧ t.held = c.loops ∧
      t.tr.tcause.toNat = (if e.defer then 2 ^ 15 else 0) + (if t.late = [] then 0 else 2 ^ 14) + e.cause.code ∧
      t.tr.tval = e.val ∧ t.tr.tepc.toNat = e.epc / 2 ^ 5 % 2 ^ 16 * 32 ∧ t.tr.tslot.toNat = e.slots % 256 ∧
      bitAt t.tr.tpend.toNat e.cause.code = false ∧ (∀ k, k ≠ e.cause.code → bitAt t.tr.tpend.toNat k = bitAt c.tr.tpend.toNat k) ∧
      t.regs = c.regs ∧ t.fp = c.fp ∧ t.rings = c.rings ∧ t.gq = c.gq ∧ t.tr.tvec = c.tr.tvec ∧ t.tr.tscr = c.tr.tscr ∧ t.tr.tena = c.tr.tena ∧
      t.power = c.power ∧ t.blk = c.blk ∧ t.order = { c.order with scDrain := none, scPassed := false } ∧ t.entry = none) ∧
    (c.safeHold = true → t = { c with entry := some e, st := .running }) ∧
    (c.safeHold = false → (∃ p ∈ c.pend, p.isInter = true) →
      t.st = .running ∧ t.entry = some e ∧ t.stopped = some (c.stopped.getD 0) ∧ t.late = c.late ∧ t.pend = c.pend ∧ t.pc = c.pc ∧ t.regs = c.regs ∧ t.tr = c.tr ∧ t.inh = c.inh ∧ t.loops = c.loops)

/-- R111; while function results of the context are pending, the fault waits for them, which is the model's reading of R341 (log 13). -/
def Obligations.ProgramTrapsEscalate : Prop :=
  ∀ (s t : State) (c : Cause) (v : Word) (pc slots : Nat) (stops : Cause → Word → Bool → Prop), c.isProgram = true → t = s.takePrecise c v pc slots → pc < 2 ^ 21 → slots < 256 →
    (∀ k w b, stops k w b ↔
      (s.ctx.fnPending = false → t.ctx.st = .faulted ∧ t.ctx.blk.fcause = k.code ∧ t.ctx.blk.fval = w ∧ t.ctx.blk.esc = b ∧ t.ctx.blk.fpc = pc ∧ t.ctx.blk.fslots = slots ∧
        t.ctx.tr.tval = w ∧ bitAt t.ctx.tr.tcause.toNat 13 = (b || bitAt s.ctx.tr.tcause.toNat 13)) ∧
      (s.ctx.fnPending = true → ∃ e : Entry, t.ctx.entry = some e ∧ ∀ u : State, u.ctx.fnPending = false → ∀ z, z = u.takeEntry e →
        z.ctx.st = .faulted ∧ z.ctx.blk.fcause = k.code ∧ z.ctx.blk.fval = w ∧ z.ctx.blk.esc = b ∧ z.ctx.blk.fpc = pc ∧ z.ctx.blk.fslots = slots ∧
          z.ctx.tr.tval = w ∧ bitAt z.ctx.tr.tcause.toNat 13 = (b || bitAt u.ctx.tr.tcause.toNat 13))) →
    (s.ctx.inh = true → stops .double (BitVec.ofNat 64 c.code) false) ∧
    (s.ctx.inh = false → s.ctx.tr.tvec.getLsbD 0 = false → stops c v true)

/-- R112 with R101 row 2 and R117; that TEPC, TVAL and TSLOT are written for every system fault is log 72; while function results are pending the fault waits for them, and nothing else changes, which is the model's
reading of R341 (log 13). -/
def Obligations.SystemFaultsStopTheContext : Prop :=
  ∀ (s t : State) (c : Cause) (v : Word) (pc slots : Nat) (mine : Command → Bool), c.isProgram = false → t = s.takePrecise c v pc slots → pc < 2 ^ 21 → slots < 256 →
    mine = (fun x => x.ctx == 2 * s.coreNo + (if s.second then 1 else 0) && !x.started) →
    (s.ctx.fnPending = false →
      t.ctx.st = .faulted ∧ t.ctx.blk = { s.ctx.blk with fpc := pc, fslots := slots, fcause := c.code, fval := v, esc := false } ∧
      t.ctx.withdrawn = s.ctx.withdrawn ++ s.core.pool.cmds.filter mine ∧ t.core.pool.cmds = s.core.pool.cmds.filter (fun x => !mine x) ∧
      t.core = { s.core with pool := { s.core.pool with cmds := t.core.pool.cmds } } ∧
      t.ctx.regs = s.ctx.regs ∧ t.ctx.fp = s.ctx.fp ∧ t.ctx.tr = { s.ctx.tr with tepc := BitVec.ofNat 64 (pc / 2 ^ 5 % 2 ^ 16 * 32), tval := v, tslot := BitVec.ofNat 64 slots } ∧ t.ctx.loops = s.ctx.loops ∧ t.ctx.rings = s.ctx.rings ∧ t.ctx.pc = s.ctx.pc ∧
      t.ctx.pend = s.ctx.pend ∧ t.ctx.late = s.ctx.late ∧ t.ctx.gq = s.ctx.gq ∧ t.ctx.inh = s.ctx.inh ∧
      t.partner = s.partner ∧ t.others = s.others ∧ t.dev = s.dev ∧ t.fw = s.fw) ∧
    (s.ctx.fnPending = true → s.ctx.st = .running → s.ctx.wait = .nothing → s.ctx.barWait = [] → s.ctx.ringWait = none → s.ctx.released = [] →
      ∃ e : Entry, t = { s with ctx := { s.ctx with entry := some e } } ∧ ∀ u : State, u.ctx.fnPending = false → u.takeEntry e = u.takePrecise c v pc slots)

/-- R123 and R124. Which late writes replay in a handler (log 17) and when TRAP is taken (log 32) are the model's readings. A return into a loop body fetches that body again first (R145), which costs time only. -/
def Obligations.ReturnsAndTrapInstructions : Prop :=
  (∀ (s t : State) (n : Nat), t = s.commitTret → n = s.ctx.tr.tepc.toNat / 2 ^ 5 % 2 ^ 16 * 32 → (s.ctx.held.branchTo n).levels = [] →
    t.ctx.st = .running ∧ t.ctx.inh = false ∧ t.ctx.pc = BitVec.ofNat 64 n ∧ t.ctx.loops = { s.ctx.held with levels := [] } ∧ t.ctx.held = LoopStack.empty ∧
    (t.ctx.replay = true ↔ s.ctx.late ≠ []) ∧ t.ctx.late = s.ctx.late ∧ t.ctx.regs = s.ctx.regs ∧ t.ctx.fp = s.ctx.fp ∧ t.ctx.tr = s.ctx.tr ∧
    t.core = s.core ∧ t.dev = s.dev) ∧
  (∀ (s : State) (n : Nat), n = s.ctx.tr.tepc.toNat / 2 ^ 5 % 2 ^ 16 * 32 → s.commitTret.ctx.st = .running →
    s.commitTret.ctx.pc = BitVec.ofNat 64 n ∧ s.commitTret.ctx.inh = false ∧ s.commitTret.ctx.loops = s.ctx.held.branchTo n ∧ s.commitTret.ctx.regs = s.ctx.regs) ∧
  (∀ (c : Ctx), c.replay = true → c.replayLate.replay = false ∧ (c.inh = false → c.replayLate.pend = c.late ++ c.pend ∧ c.replayLate.late = []) ∧
    (c.inh = true → c.replayLate.pend = c.late.filter (fun p => p.inh) ++ c.pend ∧ c.replayLate.late = c.late.filter fun p => !p.inh)) ∧
  ∀ (s t : State) (code pos : Nat), t = s.commitTrap code pos → code < 4096 → s.ctx.fnPending = false →
    (s.ctx.inh = false → s.ctx.tr.tvec.getLsbD 0 = true → ∃ e, t = { s with ctx := { s.ctx with entry := some e } } ∧
      e.cause = .trap ∧ e.val = BitVec.ofNat 64 code ∧ e.epc = s.ctx.pc.toNat ∧ e.defer = false) ∧
    (s.ctx.inh = true → t.ctx.st = .faulted ∧ t.ctx.blk.fcause = Cause.double.code ∧ t.ctx.blk.fval.toNat = Cause.trap.code) ∧
    (s.ctx.inh = false → s.ctx.tr.tvec.getLsbD 0 = false → t.ctx.st = .faulted ∧ t.ctx.blk.fcause = Cause.trap.code ∧ t.ctx.blk.esc = true)

/-- R103, R104 and the order of R415; positions are those of a bundle, below 8. -/
def Obligations.RaisingBundlesDoNotCommit : Prop :=
  ∀ (s0 s : State) (ws : List Nat) (l : List SlotEnd) (cs : List (Cause × Word × Nat)), (∀ e ∈ l, e.pos < 8) → cs ≠ [] →
    (cs = earlyCauses l ∨ earlyCauses l = [] ∧ (∀ e ∈ l, e.mark ≠ .stalled) ∧ s.ctx.overdrawn (s.bundleCharge ws) = false ∧ cs = checkCauses l) →
    ∃ (c : Cause) (v : Word) (m : Nat) (u : State), s0.judge s ws l = .idle (u.takePrecise c v s.bundle.pc m) ∧
      u = { s0 with ctx := { s0.ctx with st := u.ctx.st }, core := { s0.core with tcache := u.core.tcache }, dev := u.dev } ∧
      (u.ctx.st = s0.ctx.st ∨ s0.ctx.st = .ready ∧ u.ctx.st = .running) ∧ (s.bundle.kept = [] ∨ cs = earlyCauses l → u.core = s0.core ∧ u.dev = s0.dev) ∧
      (∃ j, (c, v, j) ∈ cs) ∧ (∀ x ∈ cs, c.code ≤ x.1.code) ∧ ∀ j, bitAt m j = true ↔ ∃ x ∈ cs, x.1 = c ∧ x.2.2 = j

/-- R36 with the bit numbering of R1 and R2, for the one operation by which memory is written; the canonical form is the model's own (log 2). -/
def Obligations.WritesChangeOnlyTheirBits : Prop :=
  (∀ (m : Memory) (a w v : Nat), m.wf = true →
    (m.writeBits a w v).wf = true ∧ (m.writeBits a w v).readBits a w = v % 2 ^ w ∧
    (∀ b n, b + n ≤ a ∨ a + w ≤ b → (m.writeBits a w v).readBits b n = m.readBits b n) ∧
    ∀ k, 8 * k + 8 ≤ a ∨ a + w ≤ 8 * k → (m.writeBits a w v).readByte k = m.readByte k) ∧
  (∀ (m : Memory) (l : List BitWrite), m.wf = true → (m.writeAll l).wf = true ∧
    ∀ b, (∀ x ∈ l, b + 1 ≤ x.addr ∨ x.addr + x.width ≤ b) → (m.writeAll l).readBits b 1 = m.readBits b 1) ∧
  (∀ (m n : Memory), m.wf = true → n.wf = true → (∀ k, m.readByte k = n.readByte k) → m = n) ∧
  State.reset.core.act.wf = true ∧ State.reset.core.stg.wf = true ∧ State.reset.core.imem.wf = true ∧ State.reset.dev.mem.wf = true

/-- R36, R168 and R173 for a store to a typed space without poison; R171 and R172 for the cells of a bank whose layout changes in between. -/
def Obligations.StoresPerformAtTheirBank : Prop :=
  ∀ (s t : State) (x : LocalAcc) (a w v : Nat), x.atomic = none → x.writes = [{ addr := a, width := w, val := v }] → x.space ≠ .glob → s.core.poison = [] →
    (s.core.mem x.space).wf = true → 0 < w → t = s.performLocal x →
    (x.turns ≠ [] → x.space = .act → x.turns ≠ s.core.turns → w ≤ 16 - a % 16 → t.core.act.readBits
      (8 * turnByte (x.turns.getD (a / 2 ^ 20) 0) (s.core.turns.getD (a / 2 ^ 20) 0) (a / 8) + a % 8) w = v % 2 ^ w) ∧
    (x.turns = [] ∨ x.turns = s.core.turns →
    (t.core.mem x.space).readBits a w = v % 2 ^ w ∧
    (∀ b n, b + n ≤ a ∨ a + w ≤ b → (t.core.mem x.space).readBits b n = (s.core.mem x.space).readBits b n) ∧
    (∀ sp, sp ≠ x.space → t.core.mem sp = s.core.mem sp) ∧
    t = { s with core := { s.core with act := t.core.act, stg := t.core.stg, imem := t.core.imem, full := t.core.full } } ∧
    (x.setFull = false ∨ x.space ≠ .act → t.core.full = s.core.full) ∧
    (x.setFull = true → x.space = .act → ∀ g, g ∈ t.core.full ↔ g ∈ s.core.full ∨ a / 128 ≤ g ∧ g ≤ (a + w - 1) / 128))

/-- The reset columns of Tables 5.1, 5.3, 9.3, 10.5, 17.6 and 18.2. Where a table gives no value the model's own stands: that the memories list nothing (log 2), and that the registers and full bits without a value are 0 (log 3). -/
def Obligations.ResetLeavesTheTableValues : Prop :=
  ∀ (s : State), s = State.reset →
    s.ctx.st = .free ∧ s.partner.st = .free ∧ s.ctx.regs.readP 0 = true ∧ (∀ i, s.ctx.regs.readS i = 0) ∧ (∀ i, s.ctx.regs.readV i = 0) ∧
    (∀ k, 1 ≤ k → s.ctx.regs.readP k = false) ∧ (∀ i, s.ctx.regs.readM i = 0) ∧ (∀ i, s.ctx.regs.readE i = 0) ∧ (∀ i, s.ctx.regs.readH i = 0) ∧
    s.ctx.fp.fflags = 0 ∧ s.ctx.tr.tvec = 0 ∧ s.ctx.tr.tpend = 0 ∧ s.ctx.loops.levels = [] ∧ (∀ q, (s.ctx.ring q).mode = 0) ∧
    s.dev.power.st = .boot ∧ s.dev.power.cap = 4800 ∧ s.dev.power.static = 1337 ∧ s.dev.power.up = 100 ∧ s.dev.power.down = 100 ∧ s.dev.power.duty = 16 ∧
    s.dev.power.towers.length = 4 ∧ (∀ x ∈ s.dev.power.towers, x.tlim = 95 ∧ x.tcap = 1200) ∧
    s.dev.links.ftmo = 100 ∧ s.dev.links.ctmo = 1000000 ∧ s.core.pool.caps = [512, 512, 512, 512] ∧ s.core.pool.mins = [64, 64, 64, 64] ∧
    s.dev.scrubInt = 1000000 ∧ s.dev.ref = 0 ∧ (∀ k, (s.dev.half k).st = 0 ∧ (s.dev.half k).fmt = 8) ∧
    s.dev.queues.length = 70 ∧ (∀ x ∈ s.dev.queues, x.en = false ∧ x.wr = 0 ∧ x.rd = 0) ∧
    s.core.act = [] ∧ s.core.stg = [] ∧ s.core.imem = [] ∧ s.dev.mem = [] ∧ s.core.full = []

/-- How instructions reach exec (log 1): the agenda with the order of R10, the bundles of R71 to R74, and the firmware cores of R405. -/
def Obligations.StepRunsTheDecodedInstruction : Prop :=
  (∀ (s : State) (i : Instr) (e : Event) (rest : List (Nat × Instr × Event)), s.agenda = (0, i, e) :: rest →
    ((∀ x ∈ rest, x.1 = 0 → s.dev.goesBefore x.2.1 x.2.2 i e = false) → step s = exec i { s with agenda := rest, ev := e }) ∧
    ∃ x ∈ (0, i, e) :: rest, ∃ l, x.1 = 0 ∧ ((0, i, e) :: rest).Perm (x :: l) ∧
      (∀ y ∈ rest.takeWhile (fun z => z.1 == 0), s.dev.goesBefore y.2.1 y.2.2 x.2.1 x.2.2 = false) ∧ step s = exec x.2.1 { s with agenda := l, ev := x.2.2 }) ∧
  (∀ (s : State), (∀ x, s.agenda.head? = some x → x.1 ≠ 0) → step s = s.clk) ∧
  (∀ (s : State) (ws : List Nat) (b : Bundle), s.fetch = .ok (ws, b) →
    b.slots.map some = ws.map decodeSlot ∧ b.pc = s.ctx.pc.toNat ∧ b.next = s.ctx.pc.toNat + 32 * ws.length ∧ ∀ i ∈ b.slots, i.wf = true) ∧
  (∀ (s t : State) (j : Nat) (i : Instr), exec i { s with bundle := { s.bundle with pos := j, mark := .none, waitBar := none, waitVal := 0 } } = .next t →
    s.runAt j i = .next { s with bundle := t.bundle, delays := t.delays, free := t.free }) ∧
  (∀ (s t : State) (j : Nat) (i : Instr) (l : List (Nat × Instr)) (ends : List SlotEnd), s.executes j = true → s.runAt j i = .next t →
    s.runSlots ((j, i) :: l) ends = t.runSlots l (ends ++ [{ pos := j, mark := t.bundle.mark, bar := t.bundle.waitBar, val := t.bundle.waitVal }])) ∧
  (∀ (s t : State) (k w : Nat) (c : FwCore), s.fw[k]? = some c → c.run = true → c.irq = none → t = s.onFw k FwCore.counted →
    (t.fwFetch c.pc = .ok (w, 4) →
      (∀ i, decodeFirmware w = some i → s.fwStep k = exec i { t with ev := { Event.none with who := k } }) ∧
      (∀ op, decodeFirmware w = none → rvDecode w = some op → s.fwStep k = .next (t.rvExec k 4 op)) ∧
      (decodeFirmware w = none → rvDecode w = none → s.fwStep k = .next (t.onFw k FwCore.illegal))) ∧
    (t.fwFetch c.pc = .ok (w, 2) →
      (∀ op, rvDecodeShort w = some op → s.fwStep k = .next (t.rvExec k 2 op)) ∧
      (rvDecodeShort w = none → s.fwStep k = .next (t.onFw k FwCore.illegal)))) ∧
  (∀ c : FwCore, c.illegal.mcause = 2 ∧ c.illegal.mepc = c.pc ∧ c.illegal.pc = c.mtvec &&& ~~~3 ∧ c.illegal.ie = false ∧ c.illegal.pie = c.ie ∧ c.illegal.x = c.x)

/-- The encodings of R81 and R82 with the assignments of every chapter, and those of R405. -/
def Obligations.DecodeAndEncodeAgree : Prop :=
  (∀ (i : Instr) (w : Nat), encodeSlot i = some w → i.wf = true → w < 2 ^ 31 ∧ decodeSlot w = some i ∧ decodeSlot (w + 2 ^ 31) = some i) ∧
  (∀ (i : Instr) (w : Nat), decodeSlot w = some i → i.wf = true ∧ encodeSlot i = some (w % 2 ^ 31)) ∧
  (∀ (i : Instr) (w : Nat), encodeFirmware i = some w → w < 2 ^ 32 ∧ decodeFirmware w = some i) ∧
  (∀ (i : Instr) (w : Nat), w < 2 ^ 32 → decodeFirmware w = some i → encodeFirmware i = some w)

/-- A sanity statement on fixed words: the examples of R151, R153 and R312, and the tables of the other families. -/
def Obligations.WrittenOutWordsDecode : Prop :=
  decodeSlot 0x1601CDEF = some (.li (.reg 1) (-12817)) ∧ decodeSlot 0x164189AB = some (.lih1 1 0x89AB) ∧
  decodeSlot 0x40003042 = some (.fadd .bf16 .rne (.reg 3) (.reg 1) (.reg 2)) ∧
  decodeSlot 0 = some .nop ∧ decodeSlot 0x80000000 = some .nop ∧ decodeSlot 0x00080000 = some .tret ∧ decodeSlot 0x00040123 = some (.trap 0x123) ∧
  decodeSlot 0x10003042 = some (.add (.reg 3) (.reg 1) (.reg 2)) ∧ decodeSlot 0x10063042 = some (.sub (.push 3) (.reg 1) (.reg 2)) ∧
  decodeSlot 0x00001234 = none

/-- The rows of Table 5.5 that events of firmware and of the part drive, each on the context in focus; the parts of the record whose layout the manual does not give are the model's (log 8), and so is what DETACH leaves in CXROOT (log 90). That the firmware commands and the part's own transitions are events of these forms is log 12 (DESIGN CHOICE), that a deferred cause with the vector disabled waits for its function results log 13 (DEDUCED), how a FORCE waits log 14 (DEDUCED), which states a slice counts and what marks it log 42 (DEDUCED), and that a record at CXSAVE 0 is the one at address 0 log 89 (DESIGN CHOICE). RESTORE and RESTART reinstate the loop stack (R145), and end in FAULTED when a body is no longer framed. -/
def Obligations.ContextCommandsComplete : Prop :=
  ∀ (s : State),
    (s.ev.who < 512 →
      exec .park s = .next (s.atCtx s.ev.who State.parkCmd) ∧ exec .force s = .next (s.atCtx s.ev.who State.forceCmd) ∧
      exec .kill s = .next (s.atCtx s.ev.who State.killCmd) ∧ exec .restore s = .next (s.atCtx s.ev.who State.restoreCmd) ∧
      exec .restart s = .next (s.atCtx s.ev.who State.restartCmd) ∧ exec .retire s = .next (s.atCtx s.ev.who State.retireCmd) ∧
      exec .free s = .next (s.atCtx s.ev.who State.freeCmd) ∧ exec .detach s = .next (s.atCtx s.ev.who State.detachCmd) ∧
      exec .attach s = .next (s.atCtx s.ev.who State.attachCmd) ∧
      exec .sliceExpiry s = .next (s.atCtx s.ev.who fun t => t.onCtx fun c => if c.sliceDue then c.sliceEnds else c) ∧
      exec .deferredTrapEntry s = .next (s.atCtx s.ev.who fun t => (t.ctx.dueCause.map fun c => (t.takeDeferred c).fmtStops).getD t) ∧
      ∃ f : State → State, exec .saveComplete s = .next (s.atCtx s.ev.who f) ∧
        ∀ t n, t.ctx.st = .parked → t.ctx.saveLeft = some n → ∃ u : State, f t = u.saved ∧ u.ctx.regs = t.ctx.regs ∧ u.ctx.blk = t.ctx.blk) ∧
    (512 ≤ s.ev.who → ∀ i ∈ [Instr.park, .force, .kill, .restore, .restart, .retire, .free, .detach, .attach, .sliceExpiry, .deferredTrapEntry, .saveComplete],
      exec i s = .fault (.noSuchAgent s.ev.who)) ∧
    (s.ctx.st = .ready ∨ s.ctx.st = .running ∨ s.ctx.st = .trapped → s.parkCmd = { s with ctx := { s.ctx with blk := { s.ctx.blk with preq := true } } }) ∧
    (s.ctx.st = .waiting → s.ctx.interPending = false → s.parkCmd.ctx.st = .parked ∧ s.parkCmd.ctx.fromSt = 4 ∧ s.parkCmd.ctx.forced = true ∧ s.parkCmd.ctx.regs = s.ctx.regs) ∧
    (s.ctx.st = .ready ∨ s.ctx.st = .running ∨ s.ctx.st = .waiting ∨ s.ctx.st = .trapped → s.ctx.entry = none → s.ctx.safeHold = false → s.ctx.interPending = false →
      s.forceCmd.ctx.st = .parked ∧ s.forceCmd.ctx.forced = true ∧ s.forceCmd.ctx.regs = s.ctx.regs) ∧
    (s.ctx.st = .ready ∨ s.ctx.st = .running ∨ s.ctx.st = .waiting ∨ s.ctx.st = .trapped → s.ctx.interPending = true →
      s.forceCmd.ctx.st = s.ctx.st ∧ s.forceCmd.ctx.force = true ∧ s.forceCmd.ctx.regs = s.ctx.regs) ∧
    (s.killCtx.ctx.st = .retired ∨ s.ctx.st = .free) ∧
    (s.ctx.st ≠ .free → s.ctx.st ≠ .retired → s.ctx.kernel = none → s.killCmd = s.killCtx ∧ s.killCtx.ctx.claims = Claims.none ∧ s.killCtx.ctx.withdrawn = []) ∧
    (s.ctx.st = .faulted → s.ctx.kernel = none → s.retireCmd.ctx.st = .retired ∧ s.retireCmd.ctx.claims = Claims.none) ∧
    (s.ctx.st = .retired → s.freeCmd = { s with ctx := { s.ctx with st := .free, kernel := none } }) ∧
    (∀ part : Nat → Nat → Nat, s.ctx.st = .saved → s.ctx.blk.save ≠ 0 → (∀ o w, part o w = s.dev.mem.readBits (physLocal (s.ctx.blk.save * 2 ^ 21) + o) w) → ∀ t, t = s.restoreCmd →
      (∀ i, i < 32 → t.ctx.regs.s.getD i 0 = BitVec.ofNat 64 (part (0xE00 + 64 * i) 64) ∧ t.ctx.regs.v.getD i 0 = BitVec.ofNat 1024 (part (0x5200 + 1024 * i) 1024)) ∧
      (∀ i, i < 8 → t.ctx.regs.m.getD i 0 = BitVec.ofNat 64 (part (0x1600 + 64 * i) 64)) ∧ (∀ k, k < 16 → t.ctx.regs.p.getD k false = decide (part (0x1900 + k) 1 = 1)) ∧
      t.ctx.pc = BitVec.ofNat 64 (part 8 21) ∧ t.ctx.inh = decide (part 5 1 = 1) ∧ t.ctx.gen = part 32 16 ∧
      (∀ ctl : Nat → Word, (∀ k, ctl k = BitVec.ofNat 64 (veil (0x2A00 + 64 * k) 64 (part (0x2A00 + 64 * k) 64))) →
        t.ctx.fp = (s.ctx.withControls ctl).fp ∧ (t.ctx.st ≠ .faulted → t.ctx.tr = (s.ctx.withControls ctl).tr)) ∧
      (∀ x, s.poisonedRecord = some x → t.ctx.st = .faulted ∧ t.ctx.blk.fcause = Cause.poison.code ∧ t.ctx.blk.fval = BitVec.ofNat 64 x) ∧
      (s.poisonedRecord = none → t.ctx.st = (if part 4 1 = 1 then .waiting else if part 5 1 = 1 then .trapped else .ready) ∨ t.ctx.st = .faulted ∧ t.ctx.blk.fcause = Cause.bundle.code)) ∧
    (s.ctx.st = .faulted → s.ctx.blk.fcause = Cause.pagefault.code → s.restartCmd.ctx.pc = s.ctx.pc ∧ s.restartCmd.ctx.regs.s = s.ctx.regs.s ∧
      (s.restartCmd.ctx.st = .ready ∨ s.restartCmd.ctx.st = .faulted ∧ s.restartCmd.ctx.blk.fcause = Cause.bundle.code)) ∧
    (s.ctx.st = .saved → s.core.detached.length < 8 →
      s.detachCmd.ctx.st = .free ∧ s.detachCmd.ctx.blk.save = 0 ∧ s.detachCmd.ctx.blk.root = 0 ∧ s.detachCmd.core.detached = s.core.detached ++ [s.ctx.blk.area] ∧
      assoc? s.detachCmd.dev.records s.ctx.blk.area = some { core := s.coreNo, rseq := s.ctx.rseq, ctx := s.ctx }) ∧
    (∀ r h, s.ctx.st = .free → assoc? s.dev.records s.ctx.blk.area = some r → s.poisoned (physLocal s.ctx.blk.area) 512 = none → h = s.dev.mem.readBits (physLocal (s.ctx.blk.save * 2 ^ 21)) 512 →
      h / 2 ^ 66 % 2 ^ 8 = s.coreNo → s.core.detached.contains s.ctx.blk.area = true → 2 ≤ h % 16 → h % 16 ≤ 5 → s.attachCmd.ctx.st = .saved ∧ s.attachCmd.ctx.regs = r.ctx.regs ∧ s.attachCmd.ctx.pc = r.ctx.pc ∧
        s.attachCmd.core.detached = s.core.detached.filter (fun x => x != s.ctx.blk.area)) ∧
    (∀ c : Ctx, (c.sliceDue = true ↔ c.blk.slice ≠ 0 ∧ (c.st = .ready ∨ c.st = .running ∨ c.st = .trapped) ∧ max c.blk.slice 7168 ≤ c.blk.sliced + 1) ∧ c.sliceEnds = { c with blk := { c.blk with preq := true, sliced := 0 }, sliceUp := c.sliceUp || decide (c.blk.slice < 7168) }) ∧
    (∀ c, s.ctx.st = .ready ∨ s.ctx.st = .running → s.ctx.entry = none → s.ctx.tr.lowest = some c → s.ctx.dueCause = some c ∧
      (s.ctx.tr.tvec.getLsbD 0 = true → s.takeDeferred c = { s with ctx := s.ctx.takeTrap { cause := c, val := s.ctx.tr.deferVal c, epc := s.ctx.pc.toNat, slots := 0, defer := true } }) ∧
      (s.ctx.tr.tvec.getLsbD 0 = false → s.ctx.fnPending = false → (s.takeDeferred c).ctx.st = .faulted ∧ (s.takeDeferred c).ctx.blk.fcause = c.code ∧ (s.takeDeferred c).ctx.blk.esc = true)) ∧
    (s.saved.ctx.st = .saved ∧ s.saved.ctx.rseq = s.dev.revSeq ∧ s.saved.ctx.regs = s.ctx.regs ∧ s.saved.dev.records = s.dev.records ∧
      (s.dev.mem.wf = true → s.ctx.late.length ≤ 64 → s.ctx.withdrawn.length ≤ 256 → (∀ e ∈ s.core.dot.entries, e.index < 128 ∧ e.vals.length ≤ 96) → ∀ x ∈ s.recordParts,
        s.saved.dev.mem.readBits (physLocal (s.ctx.blk.save * 2 ^ 21) + x.addr) x.width = x.val % 2 ^ x.width)) ∧
    (s.ctx.st = .free → s.parkCmd = { s with ctx := { s.ctx with blk := { s.ctx.blk with ign := true } } } ∧ s.forceCmd = s.parkCmd ∧ s.killCmd = s.parkCmd ∧
      s.restoreCmd = s.parkCmd ∧ s.restartCmd = s.parkCmd ∧ s.retireCmd = s.parkCmd ∧ s.freeCmd = s.parkCmd ∧ s.detachCmd = s.parkCmd) ∧
    ∀ o w v, veil o w (veil o w v) = v % 2 ^ w

/-- R84 and R106 for results, R168, R213 and R244 to R249 at banks and barriers, R41 and R259 in global memory, R374 for responses. What a store or an atomic does at its bank is in StoresPerformAtTheirBank and AtomicsPerformAtTheirBank. The operands of the events are the model's (log 12, DESIGN CHOICE), an event acts on what is due (log 39, DESIGN CHOICE), and that a load read in one line touches that line of the store cache is read with log 76 (DESIGN CHOICE). -/
def Obligations.LandingAndPerforming : Prop :=
  ∀ (s : State),
    (s.ev.who < 512 →
      exec .resultLand s = .next (s.atCtx s.ev.who State.landDue) ∧
      exec .lateWriteLand s = .next (s.atCtx s.ev.who State.landDue) ∧
      (s.ev.val = 0 → exec .globalWriteMerge s = .next (s.atCtx s.ev.who fun t => t.globSome fun a => !a.isLoad)) ∧
      (s.ev.val ≠ 2 → exec .globalLoadPerform s = .next (s.atCtx s.ev.who fun t => t.globSome GlobAcc.isLoad)) ∧
      exec .ringReadAhead s = .next (s.atCtx s.ev.who fun t => t.readAhead (s.ev.sub % 16)) ∧
      (s.ev.data = [] → exec .fabricResponse s = .next (s.atCtx s.ev.who fun t => t.globResponse s.ev.sub s.ev.len s.ev.val) ∧
        exec .remoteRequestTimeout s = .next (s.atCtx s.ev.who fun t => t.globResponse s.ev.sub Cause.unmapped.code 0))) ∧
    (512 ≤ s.ev.who → ∀ i ∈ [Instr.resultLand, .lateWriteLand, .globalWriteMerge, .globalLoadPerform, .ringReadAhead], exec i s = .fault (.noSuchAgent s.ev.who)) ∧
    (s.ev.who < 256 →
      (s.ev.val = 0 → exec .localAccessPerform s = .next (s.atCore s.ev.who fun t => t.core.bankOrder.foldl State.localsOf t)) ∧
      exec .pushPerform s = .next (s.atCore s.ev.who fun t => (t.pushesOf t.core.primary).pushesOf (1 - t.core.primary)) ∧
      exec .binitPerform s = .next (s.atCore s.ev.who fun t => t.barEach BarOp.init [] t.core.barOps) ∧
      exec .barrierArrival s = .next (s.atCore s.ev.who fun t => t.barEach (fun o => !o.init) [] t.core.barOps) ∧
      exec .backgroundWalk s = .next (s.atCore s.ev.who fun t =>
        ({ t with core := { t.core with walks := t.core.walks.map fun w => { w with left := 0 } } } : State).walksClk)) ∧
    (256 ≤ s.ev.who → ∀ i ∈ [Instr.localAccessPerform, .pushPerform, .binitPerform, .barrierArrival, .backgroundWalk], exec i s = .fault (.noSuchAgent s.ev.who)) ∧
    (s.ev.who < 1024 → exec .arriveWrite s = .next (s.arriveAt (0x8000 + s.ev.who) (s.ev.val % 2 ^ 40))) ∧
    s.landDue.ctx.pend = s.ctx.pend.filter (fun p => p.left != 0) ∧
    (∀ p, s.ctx.pend.filter (fun p => p.left == 0) = [p] →
      s.landDue = ({ s with ctx := { s.ctx with pend := s.ctx.pend.filter fun p => p.left != 0 } } : State).landResult p) ∧
    (∀ x k, s.core.locals = [x] → x.left = 0 → x.slot = k → x.push = none → s.releaseWaits x = false → s.localsOf k = ({ s with core := { s.core with locals := [] } } : State).performLocal x) ∧
    (∀ o, s.core.barOps = [o] → o.left = 0 → o.order = 0 → ∀ f, f = (fun (c : Core) => { c with barOps := [] }) →
      (o.init = true → s.barEach BarOp.init [] [o] = (s.setBarrier o.bar ((s.barrier o.bar).arm o.n)).onCore f) ∧
      (o.init = false → s.barEach (fun o => !o.init) [] [o] = (s.arriveAt o.bar o.n).onCore f)) ∧
    (∀ a, s.ctx.gq = [a] → a.left = 0 → a.sent = false → physDev a.addr = s.dev.devId → s.ctx.marked a.bno = false → s.olderLocal a.bno = false →
      (∀ i, a.kind = .load false → a.dest = .s i → a.got = 0 → a.gotBits = 0 → 0 < a.width → a.width ≤ 512 - a.addr % 512 → s.ctxCause a.addr a.width = none →
        s.dev.poison = [] → s.globSome GlobAcc.isLoad = { s with dev := s.dev.useLine (physLocal a.addr / 512), ctx := { s.ctx with
          gq := []
          pend := s.ctx.pend ++ [{ dest := .s i, val := s.physRead (physLocal a.addr) a.width, addr := 0, left := 1, inter := 1, flags := 0, pc := a.pc, bno := a.bno }] } }) ∧
      (∀ x, a.kind = .store → a.writes = [x] → s.globSome (fun a => !a.isLoad) = { s with ctx := { s.ctx with gq := [] }, dev := s.dev.putMasked [x] })) ∧
    (∀ (d : Device) (x : BitWrite), d.mem.wf = true → 0 < x.width → (d.putMasked [x]).mem.readBits (physLocal x.addr) x.width = x.val % 2 ^ x.width ∧
      ∀ b n, b + n ≤ physLocal x.addr ∨ physLocal x.addr + x.width ≤ b → (d.putMasked [x]).mem.readBits b n = d.mem.readBits b n) ∧
    (∀ q r a, r = s.ctx.ring q → a = r.addrAt (r.window.length + s.ctx.readsOf q) → r.mode = 2 → r.window.length + s.ctx.readsOf q < r.depth →
      r.addrCause q a = none → r.spaceNo < 2 → r.fe = 0 → s.core.poison = [] →
      s.readAhead q = { s with ctx := { s.ctx with rings := s.ctx.rings.set q { r with
        window := r.window ++ [{ val := (s.core.mem (spaceOf r.spaceNo)).readBits a.toNat r.size, addr := a.toNat, cause := none }] } } }) ∧
    (∀ q w r, q < s.ctx.rings.length → r = s.ctx.ring q → r.elem = 0 → r.spaceNo < 2 → 0 < r.size → s.core.poison = [] →
      (s.core.mem (spaceOf r.spaceNo)).wf = true → ∀ t, t = s.performPush q w →
        (t.core.mem (spaceOf r.spaceNo)).readBits w.addr r.size = w.val % 2 ^ r.size ∧
        t.ctx.ring q = { r with buf := r.buf.filter (fun x => x.seq != w.seq), count := if r.mode = 1 then r.count + 1 else r.count } ∧ t.dev = s.dev) ∧
    (∀ a v, s.ctx.gq = [a] → a.sent = true → a.fwd = [] → a.kind = .load false → ∀ i, a.dest = .s i →
      s.globResponse a.id 0 v = { s with ctx := { s.ctx with
        gq := []
        pend := s.ctx.pend ++ [{ dest := .s i, val := v % 2 ^ a.width, addr := 0, left := 1, inter := 1, flags := 0, pc := a.pc, bno := a.bno }] } } ∧
      (a.orphan = true → s.globResponse a.id Cause.unmapped.code v = { s with ctx := { s.ctx with gq := [] } }) ∧
      (s.ctx.gfault = none → a.orphan = false → s.globResponse a.id Cause.unmapped.code v =
        { s with ctx := { s.ctx with gq := [], gfault := some (.unmapped, BitVec.ofNat 64 a.addr, a.pc, a.slots) } }))

/-- Each event by the operation of its unit; the fault is that of an agent the part does not have. The operands of the events are the model's (log 12, DESIGN CHOICE), an event acts on what is due (log 39, DESIGN CHOICE), MSCRUB.INT of 0 gives no pass (log 83, DESIGN CHOICE), a pass made before its interval is over is the agenda's (log 38, DESIGN CHOICE), and a remap register written with its own macro is no error (log 88, DESIGN CHOICE). -/
def Obligations.UnitEventsComplete : Prop :=
  ∀ (s : State),
    (s.ev.who < 256 →
      exec .laneAct s = .next (s.atCore s.ev.who State.sumClk) ∧
      exec .drainArrival s = .next (s.atCore s.ev.who fun t => { t with core := (t.core.drains.filter fun x => x.left == 0).foldl Core.drainLands { t.core with drains := t.core.drains.filter fun x => x.left != 0 } }) ∧
      exec .secondPhase s = .next (s.atCore s.ev.who fun t => [0, 1].foldl (fun (t : State) k => t.atCtx (2 * t.coreNo + k) State.landDue)
        (t.fnServe ((t.core.fnQueue.map fun e => e.wait + e.work).sum + 1))) ∧
      (∃ f, exec .checkPassEnd s = .next (s.atCore s.ev.who f) ∧
        (∀ t : State, (∀ p ∈ t.core.passes, p.f ≠ s.ev.addr % 8192) → f t = t) ∧
        ∀ (t : State) p, s.ev.data = [] → t.core.passes = [p] → p.f = s.ev.addr % 8192 → f t = if s.ev.val = 0 then t.passToEnd p.f 256 256 else t.passHits p.f ((s.ev.val - 1) % 256)) ∧
      exec .reloadStart s = .next (s.atCore s.ev.who State.reloadStart) ∧
      (∃ f, exec .reloadCompletion s = .next (s.atCore s.ev.who f) ∧
        ∀ (t : State) c, t.core.running 2 = [c] → (s.ev.val ≠ 0 → f t = t.reloadFailed c (s.ev.val % 256) true) ∧
          (s.ev.val = 0 → c.run.wait = false → 8 * halfK (rcTFMT c.a) ≤ c.run.idx → c.run.held = true → f t = t.reloadDone c)) ∧
      exec .copyStart s = .next (s.atCore s.ev.who fun t => t.copyStart (s.ev.sub % 2)) ∧
      (∃ f, exec .copyCompletion s = .next (s.atCore s.ev.who f) ∧
        ∀ (t : State) c, t.core.running (s.ev.sub % 2) = [c] → (s.ev.val ≠ 0 → f t = t.copyFailed c (s.ev.val % 256)) ∧
          (s.ev.val = 0 → c.run.held = true → f t = t.copyDone c)) ∧
      exec .statisticsDrain s = .next (s.atCore s.ev.who State.drainRecord) ∧
      exec .eqlimWrite s = .next (s.atCore s.ev.who fun t => { t with core := { t.core with
        pool := t.core.pool.setLimit (s.ev.sub % 4) (s.ev.val / 2 ^ 16 % 2 ^ 10) (s.ev.val % 2 ^ 10) } }) ∧
      exec .sampler s = .next (s.atCore s.ev.who fun t => t.heatLeaf s.ev.addr (s.ev.val == 1))) ∧
    (256 ≤ s.ev.who → ∀ i ∈ [Instr.laneAct, .drainArrival, .secondPhase, .checkPassEnd, .reloadStart, .reloadCompletion, .copyStart, .copyCompletion,
      .statisticsDrain, .eqlimWrite, .sampler], exec i s = .fault (.noSuchAgent s.ev.who)) ∧
    (s.ev.sub < 64 → exec .collectiveExchange s = .next (s.collMeets s.ev.sub s.ev.val (contributions s.ev.data) s.ev) ∧
      exec .collectiveTimeout s = .next (s.collTimeout s.ev.sub s.ev.val)) ∧
    (s.ev.who < 64 → exec .cgrpWrite s = .next (s.writeGroup s.ev.who s.ev.val)) ∧
    (s.ev.addr < 2 ^ 20 → exec .remapWrite s = .next { s with dev := s.dev.writeRemap s.ev.addr s.ev.val }) ∧
    (∀ k h g, k = s.ev.addr → h = s.dev.half k → g = { h with seen := s.dev.ref } →
      (2 ^ 22 ≤ k → exec .scrubPass s = .fault (.noSuchAgent k) ∧ exec .scrubLate s = .fault (.noSuchAgent k)) ∧
      (k < 2 ^ 22 → (s.dev.scrubInt = 0 ∨ h.storage = false ∨ s.halfBusy k = true → exec .scrubPass s = .next s) ∧
        (s.dev.scrubInt ≠ 0 → h.storage = true → s.halfBusy k = false → s.ev.val = 0 → s.ev.data = [] → ∀ from0, from0 = s.dev.scrubRow k →
          ((∀ j < 256, from0 ≤ j → h.rowFails j = false) → exec .scrubPass s = .next { s with
            dev := { s.dev.setHalf k g with scrubs := assocDel s.dev.scrubs k } }) ∧
          (∀ row < 256, from0 ≤ row → h.rowFails row = true → (∀ j < row, from0 ≤ j → h.rowFails j = false) → s.dev.holder k = none → exec .scrubPass s = .next { s with
            dev := { (s.dev.setHalf k (g.react (.fail true)).1).logError 0x04 Cause.checksum.code (k / 2 ^ 17) (k % 2 ^ 17) row with scrubs := assocDel s.dev.scrubs k } })) ∧
        (h.st ≠ 3 ∨ s.dev.scrubDue h = false → exec .scrubLate s = .next s) ∧
        (h.st = 3 → s.dev.scrubDue h = true → exec .scrubLate s = .next (s.scrubMissed k) ∧
          (s.dev.holder k = none → s.scrubMissed k = { s with dev := s.dev.setHalf k { h with seen := h.seen + 1200 * s.dev.scrubInt } })))) ∧
    (s.sweepDue = true → exec .eraserSweep s = .next { s.sweep with dev := { s.sweep.dev with mig := { s.sweep.dev.mig with swept := s.sweep.dev.ref / 1200 + 1 } } }) ∧
    (s.sweepDue = false → exec .eraserSweep s = .next s) ∧
    (s.sweepDue = true ↔ s.dev.mig.int ≠ 0 ∧ s.dev.ref % 1200 = 0 ∧ s.dev.ref / 1200 % s.dev.mig.int = 0 ∧ s.dev.mig.swept ≠ s.dev.ref / 1200 + 1) ∧
    exec .migrationClaim s = .next s.claim ∧
    (∀ m, s.dev.migs[s.ev.who]? = some m → (m.phase = 1 → exec .migrationRevoke s = .next (s.revokeMove m)) ∧
      (s.maySwitch m = true → exec .migrationSwitch s = .next (s.switch m)) ∧ (m.phase = 2 → s.overLimit m = true ∨ s.maySwitch m = true ∧ s.switchOk m = false → exec .migrationAbandon s = .next (s.abandon m)) ∧
      (m.phase ≠ 2 ∨ s.overLimit m = false ∧ (s.maySwitch m = false ∨ s.switchOk m = true) → exec .migrationAbandon s = .next s)) ∧
    exec .xcinv s = .next (s.writeXcinv s.ev.val) ∧ exec .xcinvDone s = .next s.xcinvClk ∧ (s.dev.hatch.due = none → exec .hatchInterval s = .next s) ∧
    (∀ root, s.dev.hatch.due = some root → exec .hatchInterval s = .next
      { s.hatchClose root with dev := { (s.hatchClose root).dev with hatch := { (s.hatchClose root).dev.hatch with due := none } } }) ∧
    (∀ (p : Pool) k cap min, ((p.mins.set k min).sum ≤ 512 ∧ min ≤ cap ∧ cap ≤ 512 → p.setLimit k cap min = { p with caps := p.caps.set k cap, mins := p.mins.set k min }) ∧
      (512 < (p.mins.set k min).sum ∨ cap < min ∨ 512 < cap → p.setLimit k cap min = { p with err := true })) ∧
    (∀ r l, s.core.stats.recs = r :: l →
      (s.core.stats.len = 0 → s.drainRecord = { s with core := { s.core with stats := { s.core.stats with recs := l, drop := (s.core.stats.drop + 1) % 2 ^ 32, idle := 0 } } }) ∧
      (s.core.stats.len ≠ 0 → s.drainRecord.core = { s.core with stats := { s.core.stats with recs := l, wr := (s.core.stats.wr + 1) % 2 ^ 32, idle := 0 } } ∧
        s.drainRecord.dev = s.dev.put (physLocal (s.core.stats.base * 2 ^ 9) + s.core.stats.wr % s.core.stats.len * 128) 128 r)) ∧
    (∀ (d : Device) k v p, p = v % 2 ^ 16 → d.everLoaded = false → p < 33792 → d.mapped (k / 32768) p = false ∨ d.remapped k = p →
      (∀ h < 2, (d.half (macroHalf (k / 32768) p h)).st ≠ 5) → d.writeRemap k v = { d with remap := assocSet d.remap k p }) ∧
    (∀ (d : Device) k v, d.everLoaded = true → d.writeRemap k v = { d with rmErr := true }) ∧
    (s.dev.mig.busy = true → s.writeXcinv s.ev.val = s)

/-- R238 and R239 with the packets of Chapter 10, R352 to R362 for kernels, R365 for the arbiter, R383 for transport queues. The operands of the events are the model's (log 12, DESIGN CHOICE), what leaves for another device goes to the outbox (log 59, DESIGN CHOICE), a WAIT on a word of another device takes the value it is given (log 10, DESIGN CHOICE), an argument block there is asked for and answered (log 94, DESIGN CHOICE), and the answers to a kernel's writes there come with this event (log 99, DESIGN CHOICE). -/
def Obligations.LaunchEventsComplete : Prop :=
  ∀ (s : State) (q : Nat), q = s.ev.who →
    (q < 70 → s.headReady q = true →
      (s.headGood q = false → exec .nopPacket s = .next (s.badPacket q) ∧ exec .signalPacket s = .next (s.badPacket q) ∧ exec .waitPacket s = .next (s.badPacket q)) ∧
      (s.headGood q = true →
        (packetType (s.packet q) = 0 → exec .nopPacket s = .next { s with dev := s.dev.accept q none }) ∧
        (packetType (s.packet q) = 1 → q < 64 → (s.argWaits q = false → exec .launchPacket s = .next (s.startHead q)) ∧
          (s.argWaits q = true → s.ev.val = 0 → s.ev.data = [] → exec .launchPacket s = .next (s.askArgs q))) ∧
        (packetType (s.packet q) = 2 → exec .signalPacket s = .next { s with dev := s.dev.accept q (some (s.newPacket q none)) }) ∧
        (packetType (s.packet q) = 3 → exec .waitPacket s = .next { s with dev := s.dev.accept q (some (s.newPacket q none)) }) ∧
        (packetType (s.packet q) = 0x10 → 64 ≤ q → s.ev.sub ≠ 1 → exec .sendPacket s = .next (s.sendHead q)))) ∧
    (64 ≤ q → q < 70 → (s.ev.sub = 1 → exec .sendPacket s = .next { s with dev := s.dev.dropPacket q s.ev.val }) ∧
      exec .sendUnacknowledged s = .next (s.sendFailed q s.ev.val)) ∧
    (q < 70 → exec .signalWrite s = .next (if s.ev.sub ≠ 1 then s.signalDue q else
        let d := s.dev.askEnds (fun x => x.kind == 0 && x.n == q && x.k == s.ev.addr) 1
        { s with dev := if s.ev.val % 256 = 0 then d else d.stopQueue q s.ev.addr (s.ev.val % 256) }) ∧
      exec .waitPacketRelease s = .next (s.waitDue q (some (if s.ev.sub = 0 then .ok s.ev.val else .error (refusalOf s.ev.sub))))) ∧
    (70 ≤ q → ∀ i ∈ [Instr.nopPacket, .launchPacket, .signalPacket, .signalWrite, .waitPacket, .waitPacketRelease, .sendPacket, .sendUnacknowledged],
      exec i s = .fault (.noSuchAgent q)) ∧
    (∀ l d, l = s.headStatus q → l ≠ 0 → d = s.dev.onQueue q (fun x => { x with stat := l }) →
      s.launch q = { s with dev := d.stopQueue q (d.queue q).rd 0 }) ∧
    (∀ x, s.dev.queues[q]? = some x → (s.badPacket q).dev.queues[q]? = some { x with err := true, en := false }) ∧
    (∀ a n, a = (s.packet q).getD 1 0 → n = (s.packet q).getD 2 0 → physDev a = s.dev.devId → s.physCause .unit a n = none → s.poisoned (physLocal a) n = none →
      (s.sendHead q).dev.outbox = s.dev.outbox ++ [{ who := 15, sub := q - 64, addr := (s.packet q).getD 4 0, val := s.physRead (physLocal a) n, len := n, data := [(s.packet q).getD 3 0 % 2 ^ 48, (s.packet q).getD 5 0, (s.packet q).getD 6 0, (s.dev.queue q).rd] }]) ∧
    (∀ p l, (s.dev.queue q).pkts = p :: l → packetType p.words = 2 →
      (∀ t, s.writeWord q p.index (p.words.getD 1 0) (p.words.getD 2 0) = (none, t) → s.signalDue q = { t with dev := t.dev.popPacket q }) ∧
      (∀ t c, s.writeWord q p.index (p.words.getD 1 0) (p.words.getD 2 0) = (some c, t) → s.signalDue q = { t with dev := (t.dev.popPacket q).stopQueue q p.index c.code })) ∧
    (∀ p l v rm, (s.dev.queue q).pkts = p :: l → packetType p.words = 3 → physDev (p.words.getD 1 0) = s.dev.devId → s.watchWord (p.words.getD 1 0) = .ok v →
      s.waitDue q rm = if p.words.getD 2 0 ≤ v then { s with dev := s.dev.dropPacket q p.index } else { s with dev := s.dev.asksAnew q p.index }) ∧
    (s.kernel? q = none → exec .pendingPlacement s = .next s) ∧
    (∀ x, s.kernel? q = some x →
      (x.st ≠ .loading → exec .pendingPlacement s = .next (if x.st = .pending ∧ s.choice = some x.queue then (s.countStart x.queue).startQueue x.queue else s)) ∧
      ∀ ends : Nat → State, (∀ n, ends n = { s with dev := s.dev.askEnds (fun y => y.kind == 1 && y.n == q) n }) →
        (x.st = .loading → s.ev.val % 256 ≠ 0 → exec .pendingPlacement s = .next ((ends s.dev.links.asks.length).abort q s.ev.sub (s.ev.val % 256))) ∧
        (x.st = .loading → s.ev.val % 256 = 0 → s.ev.len < x.posts → exec .pendingPlacement s = .next ((ends s.ev.len).setKernel q { x with posts := x.posts - s.ev.len })) ∧
        (x.st = .loading → s.ev.val % 256 = 0 → x.posts ≤ s.ev.len →
          exec .pendingPlacement s = .next ((ends s.ev.len).setKernel q { x with posts := 0, st := .loaded, tick := some (releaseTick s.dev.ref) }))) ∧
    (s.dev.launching = false ∨ s.dev.mayLaunch = false → s.choice = none) ∧
    (s.dev.launching = false → s.startHead q = s) ∧
    (s.choice = some q → s.startHead q = (s.countStart q).startQueue q) ∧
    (s.choice ≠ some q → s.dev.launching = true → s.headStatus q ≠ 0 ∨ s.startable q = false → s.startHead q = s.launch q) ∧
    (s.choice ≠ some q → s.headStatus q = 0 → s.startable q = true → s.startHead q = s) ∧
    (∀ k, s.pendingOf q = some k → s.startQueue q = s.placeKernel k) ∧
    (∀ k t, s.pendingOf q = none → t = s.launch q → t.pendingOf q = some k → s.startQueue q = t.placeKernel k) ∧
    (s.headStatus q = 0 → ∃ x, (s.launch q).kernel? s.dev.nextKernel = some x ∧ x.st = .pending ∧ x.queue = q ∧ x.index = (s.dev.queue q).rd ∧
      x.image = (s.packet q).getD 1 0 ∧ x.arg = (s.packet q).getD 2 0 ∧ x.root = (s.packet q).getD 3 0) ∧
    (∀ x, s.kernel? q = some x → x.st = .pending → ∀ l, s.placement (s.placedHead x.image) = some l →
      s.placeKernel q = s.loadKernel q l ((s.dev.queues.map LaunchQueue.prio).getD x.queue 0)) ∧
    (∀ x, s.kernel? q = some x → x.st = .loaded →
      (∀ n, x.tick = some n → s.dev.power.retStep = 0 → n ≤ s.dev.ref → exec .kernelRelease s = .next (s.release q x)) ∧
      (s.dev.power.retStep ≠ 0 ∨ x.tick = none → exec .kernelRelease s = .next s) ∧
      (∀ n, x.tick = some n → s.dev.ref < n → exec .kernelRelease s = .next s)) ∧
    (q < 512 → exec .groupDispatch s = .next (s.atCtx q State.dispatchGroup) ∧
      exec .groupCompletion s = .next (s.atCtx q fun t => (if t.groupOver then t.completeGroup else t).retireIfDone)) ∧
    (∀ k x g, s.myKernel = some (k, x) → s.ctx.st = .waiting → s.ctx.wait = .group → s.ctx.group.active = false → x.st = .running →
      x.nextGroup s.ctx.lcore = some (g, none) → ∀ t, t = s.dispatchGroup → t.ctx.st = .ready ∧ t.ctx.pc = BitVec.ofNat 64 s.ctx.claims.entry ∧
        t.ctx.regs.s = ((s.ctx.regs.s.set 1 (BitVec.ofNat 64 g)).set 2 (BitVec.ofNat 64 x.arg)).set 3 0 ∧ t.ctx.group.index = g ∧ t.ctx.group.coords = x.coords g) ∧
    (∀ k x g v, s.myKernel = some (k, x) → s.ctx.st = .waiting → s.ctx.wait = .group → s.ctx.group.active = false → x.st = .running →
      x.nextGroup s.ctx.lcore = some (g, some v) → ∀ t, t = s.dispatchGroup → t.ctx.st = .ready ∧
        t.ctx.regs.s = ((s.ctx.regs.s.set 1 (BitVec.ofNat 64 g)).set 2 (BitVec.ofNat 64 x.arg)).set 3 v ∧ t.ctx.group.index = g) ∧
    (s.completeGroup.ctx.group.active = false ∧ s.completeGroup.ctx.regs = s.ctx.regs)

/-- R372 and R373 for the fabric, R369 and R370 for the host, R375 and R376 for ports, R253 to R257 for time, R407 and R409 for the management bus. The operands by which these events name their accesses are the model's (log 12, DESIGN CHOICE), which register accesses are refused is read in log 44 (DEDUCED), how many requests a slot of another class than 1 carries is log 53 (DEDUCED), and what leaves the part goes to the outbox in a form of the model's (log 59, DESIGN CHOICE). -/
def Obligations.BusEventsComplete : Prop :=
  ∀ (s : State),
    (∀ t, s.regStore s.ev.addr s.ev.len s.ev.val = some t → exec .registerWrite s = .next t) ∧
    (s.regStore s.ev.addr s.ev.len s.ev.val = none → exec .registerWrite s = .next s) ∧
    (∀ n u, s.ev.val = 0 → s.dev.away = false → n = s.ev.data.headD 0 → n = (assoc? s.dev.links.streams s.ev.who).getD 0 →
      u = { s with dev := { s.dev with links := { s.dev.links with streams := assocSet s.dev.links.streams s.ev.who (n + 1) } } } →
      u.viewWaits (s.ev.sub != 0) (fabricRanges s.ev) = false → (s.ev.sub ≠ 0 → (fabricRanges s.ev).any u.mergesRow = false) →
      ∀ r, r = u.fabricPerform s.ev.sub s.ev.addr s.ev.len s.ev.data.tail →
        exec .fabricRequest s = .next { r.2.2 with dev := r.2.2.dev.respond s.ev.who n r.1 r.2.1 } ∧ assoc? u.dev.links.streams s.ev.who = some (n + 1)) ∧
    (∀ (d : Device) k seq cause v, d.respond k seq cause v = { d with outbox := d.outbox ++ [{ who := 14, sub := cause, addr := k, val := v, len := seq, data := [] }] }) ∧
    (s.ev.val = 0 → s.ev.data.headD 0 ≠ (assoc? s.dev.links.streams s.ev.who).getD 0 → exec .fabricRequest s = .next s) ∧
    (s.dev.hostReaches = true ↔ s.dev.away = false ∧ s.dev.links.cxl.st = 2) ∧
    (s.dev.hostReaches = false → s.ev.data.getD 1 0 = 0 → exec .hostCxlMemAccess s = .next { s with dev := s.dev.toHost 13 2 s.ev.addr 0 }) ∧
    (∀ a en l, a = hdmLocal s.ev.addr → en = s.ev.data.headD (2 ^ s.ev.len - 1) → s.dev.hostReaches = true → s.ev.data.getD 1 0 = 0 →
      l = (if s.ev.sub = 1 then rangesOf (hostWrites a s.ev.len s.ev.val en) else [(a, 8 * s.ev.len)]) →
      s.viewWaits (s.ev.sub == 1) l = false → (s.ev.sub = 1 → l.any s.mergesRow = false) →
      exec .hostCxlMemAccess s = .next (s.hostAccess (s.ev.sub == 1) (s.ev.who == 1) s.ev.addr s.ev.len s.ev.val en)) ∧
    exec .unsupportedRequest s = .next (s.barAccess (s.ev.sub == 1) s.ev.addr s.ev.len s.ev.val) ∧
    (∀ b v w, barLocal b = none → s.barAccess w b 64 v = { s with dev := s.dev.toHost 12 1 b 0 }) ∧
    (∀ b a v w, barLocal b = some a → s.dev.links.cxl.st = 0 → s.barAccess w b 64 v = { s with dev := s.dev.toHost 12 2 b 0 }) ∧
    (∀ o n v en, s.physCause .host (s.dev.devId * 2 ^ 47 + hdmLocal o) (8 * n) = none → s.poisoned (hdmLocal o) (8 * n) = none →
      ∀ u, u = s.readsLines (hdmLocal o) (8 * n) →
        s.hostAccess false false o n v en = { u with dev := u.dev.toHost 13 0 o (s.physRead (hdmLocal o) (8 * n)) }) ∧
    (s.ev.who < 8 →
      exec .fpctlEn s = .next (s.portEnable s.ev.who (bitAt s.ev.val 0)) ∧ exec .fpctlTrain s = .next (s.portTrain s.ev.who) ∧
      exec .trainingEnd s = .next (s.portTrained s.ev.who s.ev.val s.ev.len) ∧
      exec .portFault s = .next (s.movePort s.ev.who fun p => if p.usable = false then p
        else if s.ev.sub = 1 then { p with retry := (p.retry + s.ev.val) % 2 ^ 16 } else { p with st := 1, lanes := 0, retry := (p.retry + s.ev.val) % 2 ^ 16 }) ∧
      (s.dev.lockedMode = true → s.dev.ref / 64 % 16 = s.ev.sub % 16 → s.ev.len ≠ 0 → exec .lockedSlot s = .next (s.slotBegins s.ev.who s.ev.len)) ∧
      (s.dev.lockedMode = false ∨ s.dev.ref / 64 % 16 ≠ s.ev.sub % 16 → exec .lockedSlot s = .next s)) ∧
    (∀ k n j, j = s.dev.ref / 64 → (s.dev.ref % 64 ≠ 0 ∨ (s.dev.port k).slot = j + 1 → s.slotBegins k n = s) ∧
      (s.dev.ref % 64 = 0 → (s.dev.port k).slot ≠ j + 1 → ∀ u, u = ({ s with dev := s.dev.onPort k fun p => { p with slot := j + 1 } } : State) →
        s.slotBegins k n = u.carry k j (if bits (s.dev.port k).cls (2 * (j % 16)) 2 = 1 then 32 else n))) ∧
    (8 ≤ s.ev.who → ∀ i ∈ [Instr.fpctlEn, .fpctlTrain, .portFault, .lockedSlot], exec i s = .fault (.noSuchAgent s.ev.who)) ∧
    (8 < s.ev.who → exec .trainingEnd s = .fault (.noSuchAgent s.ev.who)) ∧
    (s.ev.who = 8 → s.dev.away = false → ∀ l, (s.ev.len < 32 ∨ s.ev.val < 4 → l = { st := 0, rate := 0, lanes := 0 }) →
      (32 ≤ s.ev.len → 4 ≤ s.ev.val → l = { st := if s.ev.sub = 1 then 2 else 1, rate := min s.ev.len 64, lanes := min s.ev.val 8 }) →
      exec .trainingEnd s = .next { s with dev := { s.dev with links := { s.dev.links with cxl := l } } }) ∧
    (∀ k p, s.dev.links.ports[k]? = some p → ∀ f : Port → Port, (s.movePort k f).dev.links.ports[k]? = some (f p)) ∧
    (∀ k good lat p, s.dev.links.ports[k]? = some p → p.st = 1 → ∀ t, t = s.portTrained k good lat →
      (8 ≤ good → t.dev.links.ports[k]? = some { p with st := 2, lanes := 8, lat := lat % 2 ^ 8 }) ∧
      (4 ≤ good → good < 8 → t.dev.links.ports[k]? = some { p with st := 3, lanes := 4, lat := lat % 2 ^ 8 }) ∧
      (good < 4 → t.dev.links.ports[k]? = some { p with st := 4, lanes := 0 })) ∧
    (s.dev.refRuns = true → exec .heartbeatTick s = .next (s.refTo ((s.dev.ref / 1024 + 1) * 1024))) ∧
    (∀ n, (s.refTo n).dev.ref = max s.dev.ref n) ∧
    (s.ev.who < 512 → s.dev.refRuns = true → (s.ctxAt s.ev.who).st = .waiting → (s.ctxAt s.ev.who).wait = .time →
      ∃ n, exec .waittDeadline s = .next (s.refTo n) ∧ (s.ctxAt s.ev.who).waitVal.toNat ≤ n * 5 / 6 ∧ (0 < n → (n - 1) * 5 / 6 < (s.ctxAt s.ev.who).waitVal.toNat)) ∧
    (∀ v, v = s.ev.val % 2 ^ 64 → (s.dev.ref ≤ v → exec .tset s = .next (({ s with dev := { s.dev with refSet := true } } : State).refTo v)) ∧
      (v < s.dev.ref → exec .tset s = .next { s with dev := { s.dev with setErr := true } })) ∧
    (s.dev.links.ptpEn = false ∨ s.dev.links.ptpPort ≠ s.ev.who → exec .ptpMessage s = .next s) ∧
    (s.dev.links.ptpEn = true → s.dev.links.ptpPort = s.ev.who → s.ev.sub = 0 → exec .ptpMessage s = .next { s with dev := { s.dev with links := { s.dev.links with
      ptpOffset := s.ev.val % 2 ^ 32, ptpSync := decide ((BitVec.ofNat 32 s.ev.val).toInt.natAbs ≤ 40) } } }) ∧
    exec .ideKm s = .next { s with dev := { s.dev with links := { s.dev.links with ide := setAdd s.dev.links.ide s.ev.val } } } ∧
    (s.dev.power.st ≠ .off → exec .bootstRequest s = .next { s with dev := s.dev.answer 11 s.dev.boot.word [] }) ∧
    (s.dev.away = false → ∀ l, l = [s.ev.val % 2 ^ 256, s.dev.boot.romver, s.dev.boot.image.sha, s.dev.boot.configSha, s.dev.boot.fwver] →
      ∃ r, exec .quote s = .next { s with free := s.free + 1, dev := s.dev.answer 10 (Config.signature (Config.attestationKey Config.identitySeed) (quoteDigest l) r) l }) ∧
    (s.dev.away = true → exec .quote s = .next s) ∧
    (s.ev.who < 6 → s.dev.away = false → (s.ev.len ≠ 0 → s.inDram s.ev.addr s.ev.len = true) → s.ev.data.headD 0 = 0 →
      ∃ t : State, exec .transportReceive s = .next t ∧ t.dev.mem = (s.physWrite (physLocal s.ev.addr) s.ev.len s.ev.val).dev.mem ∧
        t.dev.outbox = (s.physWrite (physLocal s.ev.addr) s.ev.len s.ev.val).dev.outbox ++
          [{ who := 16, sub := 0, addr := s.ev.addr, val := s.ev.who, len := s.ev.len, data := [] }]) ∧
    (∀ l, l = (if physDev s.ev.addr = s.dev.devId then [(physLocal s.ev.addr, s.ev.len)] else []) →
    (s.ev.who < 4 → s.ev.data = [] → s.viewWaits false l = false → ∀ v t, s.fwRead s.ev.who s.ev.addr s.ev.len s.ev.val 1 = .ok (v, t) →
      exec .firmwareCoreAccess s = .next { t with fw := t.fw.mapIdx fun i c => if i = s.ev.who then
        (if s.ev.sub % 32 = 0 then c else { c with x := c.x.set (s.ev.sub % 32) (BitVec.ofNat 64 v) }) else c }) ∧
    (∀ t, s.ev.who < 4 → s.ev.data = [1] → s.viewWaits true l = false → l.any s.mergesRow = false → s.fwWrite s.ev.who s.ev.addr s.ev.len s.ev.val = .ok t →
      exec .firmwareCoreAccess s = .next t))

/-- R388 to R408 by the operation of the power unit and of boot; where the manual gives an event no operands, those are the model's (log 12, DESIGN CHOICE). That a cap, a temperature or the lock is judged in the step of its event is read in log 22 (DEDUCED), which limits the duty holds in log 110 and which loads the ramp counts in log 111 (DEDUCED); the arithmetic of the signatures is free (log 5, DESIGN CHOICE). -/
def Obligations.PowerEventsComplete : Prop :=
  ∀ (s : State) (pw : PowerUnit), pw = s.dev.power → ∀ (withP : (PowerUnit → PowerUnit) → State), (∀ f, withP f = { s with dev := { s.dev with power := f pw } }) →
    (pw.st = .active → (s.allFree = true → exec .pcmdIdle s = .next (withP fun p => { p with st := .idle, heldIdle := false })) ∧
      (s.allFree = false → exec .pcmdIdle s = .next (withP fun p => { p with heldIdle := true })) ∧
      (pw.heldIdle = true → s.allFree = true → exec .heldIdleApply s = .next (withP fun p => { p with st := .idle, heldIdle := false })) ∧
      (pw.heldIdle = true → exec .pcmdActive s = .next (withP fun p => { p with heldIdle := false })) ∧
      (pw.heldIdle = false → exec .pcmdActive s = .next (withP fun p => { p with pclErr := true })) ∧
      exec .firmwareActivation s = .next (withP fun p => { p with st := .boot }).beginEntry) ∧
    (pw.st = .idle → exec .pcmdActive s = .next (withP fun p => { p with st := .active })) ∧
    (pw.st ≠ .active → exec .pcmdIdle s = .next (withP fun p => { p with pclErr := true })) ∧
    (pw.st = .active ∨ pw.st = .idle → exec .pcmdRetain s = .next (withP fun p => { p with st := .retain, heldIdle := false }).beginEntry) ∧
    (pw.retStep = 1 → exec .retentionForce s = .next ((withP fun p => { p with retStep := 2 }).eachCtx State.askForce)) ∧
    (pw.retStep = 2 → s.entryDone = true → pw.st = .retain → ∃ t : State, exec .retentionPowerDown s = .next t ∧ t.dev.power.retStep = 5) ∧
    (∃ t : State, exec .railFail s = .next t ∧ t.dev.power.st = .off ∧ t.ctx = Ctx.reset ∧ t.core = Core.reset ∧ t.others = [] ∧ t.dev.mem = [] ∧
      t.dev.boot.romver = s.dev.boot.romver ∧ t.agenda = s.agenda ∧ t.fw = State.reset.fw) ∧
    (pw.st = .off ∨ s.dev.coldStart = true → ∀ r t, r = BootRecord.ofData s.ev.data → t = s.coldBoot s.ev.sub s.ev.val r →
      exec .railsApplied s = .next t ∧ t.dev.power.st = .boot ∧
      ∀ halts : Nat → Nat → Prop, (∀ n c, halts n c = (t.dev.boot.halted = true ∧ t.dev.boot.stage = n ∧ t.dev.boot.cause = c)) →
        (s.ev.val % 256 ≠ 0 → s.ev.sub = 0 → halts 0 (s.ev.val % 256) ∧ t.dev.boot.fwver = 0) ∧
        (s.ev.val % 256 = 0 ∨ s.ev.sub ≠ 0 →
          if r.image.ok = false then halts 0 2 ∧ t.dev.boot.fwver = 0
          else if s.ev.val % 256 ≠ 0 ∧ s.ev.sub = 1 then halts 1 (s.ev.val % 256) ∧ t.dev.boot.fwver = r.image.ver
          else if r.config.ok = false then halts 1 3 ∧ t.dev.boot.fwver = r.image.ver
          else if s.ev.val % 256 ≠ 0 then halts (min s.ev.sub 4) (s.ev.val % 256) ∧ t.dev.devId = r.devId
          else r.remap = [] → s.dev.rmErr = false →
            t.dev.boot.halted = false ∧ t.dev.boot.stage = 4 ∧ t.dev.boot.image = r.image ∧ t.dev.boot.configSha = r.config.sha ∧
            t.dev.devId = r.devId ∧ t.dev.lpddr = r.lpddr ∧ t.dev.harvest = r.cores)) ∧
    (∀ x : FwImage, x.ok = true ↔ x.key = Config.romKey ∧ Config.signatureOk x.key x.sha x.sig = true) ∧
    (pw.st = .retain → pw.retStep = 5 → exec .railsRestored s = .next (s.warmBoot s.ev.val s.ev.addr)) ∧
    (pw.st = .boot → s.dev.boot.halted = false → pw.retStep ≠ 1 → pw.retStep ≠ 2 →
      (s.ev.val % 256 = 0 → exec .bootComplete s = .next (if s.dev.bootSteps then s.bootDone else s)) ∧
      (s.dev.bootSteps = true ↔ pw.retStep = 0 ∧ s.dev.boot.stage = 4 ∨ (pw.retStep = 5 ∨ pw.retStep = 6) ∧ 1 ≤ s.dev.boot.stage) ∧
      (s.ev.val % 256 ≠ 0 → exec .bootComplete s = .next { s with dev := { s.dev with boot := { s.dev.boot with stage := s.ev.sub % 256, cause := s.ev.val % 256, halted := true } } })) ∧
    exec .firmwareUpdate s = .next { s with dev := { s.dev with boot := { s.dev.boot with staged := some (FwImage.ofData s.ev.data) } } } ∧
    (s.ev.who < 32 → ∀ ratio step, ratio = s.ev.val % 4 → step = s.ev.val / 4 % 4 →
      (ratio = 3 → exec .pclusWrite s = .next (withP fun p => { p with pclErr := true })) ∧
      (s.dev.lockedMode = true → s.clusterBusy s.ev.who = true → exec .pclusWrite s = .next (withP fun p => { p with pclErr := true })) ∧
      (ratio ≠ 3 → s.dev.lockedMode = false ∨ s.clusterBusy s.ev.who = false → ∀ u, u = (withP fun p => { p with clusters := p.clusters.mapIdx fun i x =>
        if i = s.ev.who then { ratio := ratio, step := step, stop := max x.stop (if x.ratio ≠ ratio then 24000 else if x.step ≠ step then 2400 else 0) } else x }) →
        exec .pclusWrite s = .next (u.rises (u.granted - s.granted))) ∧
      exec .clusterClockRestart s = .next (withP fun p => { p with clusters := p.clusters.mapIdx fun i x => if i = s.ev.who ∧ x.stop ≤ 1 then { x with stop := 0 } else x })) ∧
    (∀ w, (w = 0 → s.rises w = s) ∧ (w ≠ 0 → s.rises w = withP fun p => { p with risen := (s.dev.ref, w) :: p.risen.filter fun x => s.dev.ref < x.1 + 1200 })) ∧
    (∀ v, v = s.ev.val % 2 ^ 32 →
      (pw.st = .retain → exec .pcapWrite s = .next (withP fun p => { p with capHeld := some (min v 4800) })) ∧
      (pw.st ≠ .retain → exec .pcapWrite s = .next ((withP fun p => { p with cap := min v 4800 }).judgeCap))) ∧
    (s.ev.who < 4 → ∀ c, c = s.ev.val % 2 ^ 16 →
      exec .tempLimit s = .next ((withP fun p => p.onTower s.ev.who fun t => { t with temp := c, hot := decide (t.tlim ≤ c) || t.hot && decide (t.tlim ≤ c + 5) }).judgeCap) ∧
      exec .towerCooled s = .next (((withP fun p => p.onTower s.ev.who fun t => { t with temp := c, hot := t.hot && decide (t.tlim ≤ c + 5) }).grantClk).judgeCap)) ∧
    (s.ev.val % 2 = 1 → exec .plockWrite s = .next ((withP fun p => { p with plock := p.plock || s.dev.locked }).judgeCap)) ∧
    (s.ev.val % 2 = 0 → exec .plockWrite s = .next ((withP fun p => { p with plock := false }).judgeCap)) ∧
    exec .lockLoss s = .next (({ s with dev := { s.dev with locked := false } } : State).judgeCap) ∧
    exec .grant s = .next s.grantClk.judgeCap ∧
    (s.dev.ref % 1200 = 0 → pw.ramped ≠ s.dev.ref / 1200 + 1 →
      exec .rampLimiter s = .next { s.rampStep with dev := { s.rampStep.dev with power := { s.rampStep.dev.power with ramped := s.dev.ref / 1200 + 1 } } }) ∧
    (s.dev.ref % 1200 ≠ 0 ∨ pw.ramped = s.dev.ref / 1200 + 1 → exec .rampLimiter s = .next s) ∧
    (s.ev.who < 4 → ∀ v, pw.counter s.ev.addr = some v → ∃ t : State, exec .energyCounterRead s = .next t ∧ t.dev.mem = s.dev.mem ∧
      (∀ c, s.fw[s.ev.who]? = some c → s.ev.sub % 32 ≠ 0 → t.fw[s.ev.who]? = some { c with x := c.x.set (s.ev.sub % 32) (BitVec.ofNat 64 (if s.ev.len = 64 then v else v % 2 ^ 32)) })) ∧
    exec .ellenWrite s = .next { s with dev := s.dev.writeRegion s.dev.log.base (s.ev.val % 2 ^ 20) } ∧
    (32 ≤ s.ev.who → ∀ i ∈ [Instr.pclusWrite, .clusterClockRestart], exec i s = .fault (.noSuchAgent s.ev.who)) ∧
    (4 ≤ s.ev.who → ∀ i ∈ [Instr.tempLimit, .towerCooled, .energyCounterRead], exec i s = .fault (.noSuchAgent s.ev.who))
end

