-- ==== Sys2Proof/Laws/Act.lean ====
section
/-! SUPPORT. Act.lean: one law for each operation of a slot: what it delivers and what it leaves (cited instead of unfolding the slot). -/

namespace Sys2Proof.Machine

variable {α β : Type}

theorem runSlot_gives {m : Act Unit} {s t : State} (h : Gives m s () t) : runSlot m s = .next t := by
  obtain ⟨l, h⟩ := h
  obtain ⟨q, e⟩ := h .start
  unfold runSlot
  rw [e]; rfl

/-- A slot that stops on s with reason e, having left t and owing the pushes l, whatever its earlier operands met. -/
def Stops (m : Act α) (s : State) (e : Stop) (t : State) (l : List Nat) : Prop :=
  ∀ w : Operands, ∃ q, (m.run.run s).run w = ((.error e, t), { w with quiet := q, owed := w.owed ++ l })

/-- A part of a slot that delivers x and owes the pushes l (R79). -/
def Owes (m : Act α) (s : State) (x : α) (t : State) (l : List Nat) : Prop :=
  ∀ w : Operands, ∃ q, (m.run.run s).run w = ((.ok x, t), { w with quiet := q, owed := w.owed ++ l })

theorem runSlot_raises {m : Act Unit} {s t : State} {c : Cause} {v : Word} {l : List Nat} (h : Stops m s (.raise c v) t l) :
    runSlot m s = .next ((t.owePushes l).raised c v false) := by
  obtain ⟨q, e⟩ := h .start
  unfold runSlot
  rw [e]; rfl

/-- A slot that owes no push raises on the state as it is. -/
@[simp] theorem State.owePushes_nil (s : State) : s.owePushes [] = s := by
  simp [State.owePushes, State.onBundle]

theorem stops_raise (c : Cause) (v : Word) (s : State) : Stops (raise c v : Act α) s (.raise c v) s [] :=
  fun w => ⟨w.quiet, by simp only [List.append_nil]; rfl⟩

theorem stops_check {ok : Bool} (h : ok = false) (c : Cause) (v : Word) (s : State) : Stops (check ok c v) s (.raise c v) s [] := by
  subst h; exact stops_raise c v s

theorem Stops.bind {m : Act α} {f : α → Act β} {s t : State} {e : Stop} {l : List Nat} (h : Stops m s e t l) : Stops (m >>= f) s e t l := by
  intro w
  obtain ⟨q, k⟩ := h w
  refine ⟨q, ?_⟩
  simp only [ExceptT.run_bind, StateT.run_bind] at *
  show (match (m.run.run s).run w with | p => _) = _
  rw [k]
  rfl

theorem owes_pure (x : α) (s : State) : Owes (pure x) s x s [] := fun w => ⟨w.quiet, by simp only [List.append_nil]; rfl⟩

theorem Owes.gives {m : Act α} {s t : State} {x : α} {l : List Nat} (h : Owes m s x t l) : Gives m s x t := ⟨l, h⟩

theorem Owes.bind {m : Act α} {f : α → Act β} {s t u : State} {x : α} {y : β} {l n : List Nat} (h : Owes m s x t l) (k : Owes (f x) t y u n) :
    Owes (m >>= f) s y u (l ++ n) := by
  intro w
  obtain ⟨q, e⟩ := h w
  obtain ⟨r, g⟩ := k { w with quiet := q, owed := w.owed ++ l }
  refine ⟨r, ?_⟩
  simp only [ExceptT.run_bind, StateT.run_bind] at *
  show (match (m.run.run s).run w with | p => _) = _
  rw [e, ← List.append_assoc]
  exact g

theorem Owes.stops {m : Act α} {f : α → Act β} {s t u : State} {x : α} {e : Stop} {l n : List Nat} (h : Owes m s x t l) (k : Stops (f x) t e u n) :
    Stops (m >>= f) s e u (l ++ n) := by
  intro w
  obtain ⟨q, g⟩ := h w
  obtain ⟨r, j⟩ := k { w with quiet := q, owed := w.owed ++ l }
  refine ⟨r, ?_⟩
  simp only [ExceptT.run_bind, StateT.run_bind] at *
  show (match (m.run.run s).run w with | p => _) = _
  rw [g, ← List.append_assoc]
  exact j

theorem gives_pure (x : α) (s : State) : Gives (pure x) s x s := (owes_pure x s).gives

theorem Gives.bind {m : Act α} {f : α → Act β} {s t u : State} {x : α} {y : β} (h : Gives m s x t) (k : Gives (f x) t y u) :
    Gives (m >>= f) s y u := by
  obtain ⟨l, h⟩ := h
  obtain ⟨n, k⟩ := k
  exact ⟨l ++ n, Owes.bind h k⟩

theorem owes_get (s : State) : Owes (get : Act State) s s s [] := fun w => ⟨w.quiet, by simp only [List.append_nil]; rfl⟩

theorem gives_get (s : State) : Gives (get : Act State) s s s := (owes_get s).gives

/-- What the operands met changes in nothing but the guard's silence. -/
theorem gives_quiet (f : Operands → Bool) (s : State) : Gives (meet fun o => { o with quiet := f o }) s () s :=
  ⟨[], fun w => ⟨f w, by simp only [List.append_nil]; rfl⟩⟩

/-- A step that touches the state alone. -/
theorem gives_of_run {m : Act α} {s t : State} {x : α} (h : ∀ w : Operands, (m.run.run s).run w = ((.ok x, t), w)) : Gives m s x t :=
  ⟨[], fun w => ⟨w.quiet, by simp only [List.append_nil]; exact h w⟩⟩

/-- A step that owes one push and touches the state alone otherwise. -/
theorem gives_owing {m : Act α} {s t : State} {x : α} {q : Nat}
    (h : ∀ w : Operands, (m.run.run s).run w = ((.ok x, t), { w with owed := w.owed ++ [q] })) : Gives m s x t :=
  ⟨[q], fun w => ⟨w.quiet, h w⟩⟩

@[simp] theorem staged_nil (s : State) : s.staged [] = s := by simp [State.staged]

@[simp] theorem staged_staged (s : State) (l m : List Effect) : (s.staged l).staged m = s.staged (l ++ m) := by
  simp [State.staged]

theorem gives_stage (e : Effect) (s : State) : Gives (stage e) s () (s.staged [e]) := gives_of_run fun _ => rfl

theorem gives_modify (f : State → State) (s : State) : Gives (modify f : Act Unit) s () (f s) := gives_of_run fun _ => rfl

theorem gives_draw (s : State) : Gives (modifyGet State.draw : Act Nat) s s.draw.1 s.draw.2 := gives_of_run fun _ => rfl

theorem gives_await {ok : Bool} (h : ok = true) (s : State) : Gives (await ok) s () s := by subst h; exact gives_pure () s

theorem gives_check {ok : Bool} (h : ok = true) (c : Cause) (v : Word) (s : State) : Gives (check ok c v) s () s := by subst h; exact gives_pure () s

theorem gives_hold {ok : Bool} (h : ok = true) (s : State) : Gives (hold ok) s () s := by subst h; exact gives_pure () s

theorem gives_holdWaiting {ok : Bool} (h : ok = true) (w : WaitOn) (s : State) : Gives (holdWaiting ok w) s () s := by subst h; exact gives_pure () s

/-! ## Registers as sources -/

theorem gives_readReg {s : State} {i : Nat} (h : s.ctx.busy (.s i) = false) : Gives (readReg i) s (s.ctx.regs.readS i) s :=
  (gives_get s).bind ((gives_await (by simp [h]) s).bind (gives_pure _ s))

theorem gives_readVReg {s : State} {i : Nat} (h : s.ctx.busy (.v i) = false) : Gives (readVReg i) s (s.ctx.regs.readV i) s :=
  (gives_get s).bind ((gives_await (by simp [h]) s).bind (gives_pure _ s))

theorem gives_readMask {s : State} {i : Nat} (h : s.ctx.busy (.m i) = false) : Gives (readMask i) s (s.ctx.regs.readM i) s :=
  (gives_get s).bind ((gives_await (by simp [h]) s).bind (gives_pure _ s))

theorem gives_readBase {s : State} {i : Nat} (h : s.ctx.busy (.e i) = false) : Gives (readBase i) s (s.ctx.regs.readE i) s :=
  (gives_get s).bind ((gives_await (by simp [h]) s).bind (gives_pure _ s))

theorem gives_readPred {s : State} {g : Nat} (h : g < 2 ∨ s.ctx.busy (.pair (g / 2)) = false) :
    Gives (readPred g) s (s.ctx.regs.readP g) s :=
  (gives_get s).bind ((gives_await (by rcases h with h | h <;> simp [h]) s).bind (gives_pure _ s))

theorem gives_readGuard {s : State} {g : Nat} (h : g < 2 ∨ s.ctx.busy (.pair (g / 2)) = false) :
    Gives (readGuard g) s (s.ctx.regs.readP g) s :=
  (gives_readPred h).bind ((gives_quiet _ s).bind (gives_pure _ s))

theorem gives_readS_reg {s : State} {i : Fin 32} (h : s.ctx.busy (.s i.val) = false) :
    Gives (readS (.reg i)) s (s.ctx.regs.readS i.val) s := by
  have h1 : Gives (do let v ← readReg i.val; pure v.toNat) s (s.ctx.regs.readS i.val).toNat s := (gives_readReg h).bind (gives_pure _ s)
  have h2 : Gives (readS (.reg i)) s (word (s.ctx.regs.readS i.val).toNat) s := h1.bind (gives_pure _ s)
  simpa [word] using h2

theorem gives_readV_reg {s : State} {i : Fin 32} (h : s.ctx.busy (.v i.val) = false) :
    Gives (readV (.reg i)) s (s.ctx.regs.readV i.val) s := by
  have h1 : Gives (do let v ← readVReg i.val; pure v.toNat) s (s.ctx.regs.readV i.val).toNat s := (gives_readVReg h).bind (gives_pure _ s)
  have h2 : Gives (readV (.reg i)) s (BitVec.ofNat 1024 (s.ctx.regs.readV i.val).toNat) s := h1.bind (gives_pure _ s)
  simpa using h2

/-! ## Destinations -/

theorem gives_readyDest {s : State} {d : Dest} (h : s.ctx.busyWrite d = false) : Gives (readyDest d) s () s :=
  (gives_get s).bind (gives_await (by simp [h]) s)

theorem gives_putDest (d : Dest) (lat val flags : Nat) (s : State) :
    Gives (putDest d lat val flags) s () (s.staged [s.resultOf d lat 0 val flags]) := gives_of_run fun _ => rfl

theorem gives_putInter (d : Dest) (lat val kind : Nat) (s : State) :
    Gives (putInter d lat val kind) s () (s.staged [s.resultOf d lat kind val 0]) := gives_of_run fun _ => rfl

theorem gives_putPush (q lat val flags : Nat) (s : State) :
    Gives (putPush q lat val flags) s () (s.staged [s.pushOf q lat val flags]) := gives_of_run fun _ => rfl

theorem gives_putS (d : Dst) (lat : Nat) (v : Word) (s : State) : Gives (putS d lat v) s () (s.staged [s.sOf d lat v]) := by
  cases d <;> exact gives_of_run fun _ => rfl

theorem gives_putV (d : Dst) (lat : Nat) (v : Wide) (flags : Nat) (s : State) :
    Gives (putV d lat v flags) s () (s.staged [s.vOf d lat v flags]) := by
  cases d <;> exact gives_of_run fun _ => rfl

theorem gives_putPair (k lat : Nat) (c : Bool) (s : State) : Gives (putPair k lat c) s () (s.staged [s.pairOf k lat c]) := gives_of_run fun _ => rfl

/-! ## The pushes a slot owes (R79) -/

/-- A part of a slot that leaves the pushes it owes as they were. -/
def Plain (m : Act α) : Prop := ∀ (s : State) (w : Operands), ((m.run.run s).run w).2.owed = w.owed

theorem plain_pure (x : α) : Plain (pure x : Act α) := fun _ _ => rfl

theorem plain_throw (e : Stop) : Plain (throw e : Act α) := fun _ _ => rfl

theorem plain_get : Plain (get : Act State) := fun _ _ => rfl

theorem plain_stage (e : Effect) : Plain (stage e) := fun _ _ => rfl

theorem plain_meet {f : Operands → Operands} (h : ∀ o, (f o).owed = o.owed) : Plain (meet f) := fun _ w => h w

theorem Plain.bind {m : Act α} {f : α → Act β} (h : Plain m) (k : ∀ x, Plain (f x)) : Plain (m >>= f) := by
  intro s w
  have hm := h s w
  simp only [ExceptT.run_bind, StateT.run_bind]
  generalize (m.run.run s).run w = z at hm ⊢
  obtain ⟨⟨r, t⟩, o⟩ := z
  cases r with
  | error e => exact hm
  | ok x => exact (k x t o).trans hm

theorem Gives.owes {m : Act α} {s t : State} {x : α} (h : Gives m s x t) (p : Plain m) : Owes m s x t [] := by
  obtain ⟨l, h⟩ := h
  intro w
  obtain ⟨q, e⟩ := h w
  have := p s w
  rw [e] at this
  have hl : l = [] := by simpa using this
  subst hl
  exact ⟨q, e⟩

theorem plain_check (ok : Bool) (c : Cause) (v : Word) : Plain (check ok c v) := by
  unfold check; cases ok
  · exact plain_throw _
  · exact plain_pure _

theorem plain_await (ok : Bool) : Plain (await ok) := by
  unfold await; cases ok
  · exact plain_meet fun _ => rfl
  · exact plain_pure _

theorem plain_note (c : Cause) (v : Word) : Plain (note c v) := plain_meet fun o => by
  split <;> rfl

theorem plain_noteAny (c : Option (Cause × Word)) : Plain (noteAny c) := by
  rcases c with _ | ⟨c, v⟩
  · exact plain_pure _
  · exact plain_note c v

theorem plain_raiseEarly (c : Cause) (v : Word) : Plain (raiseEarly c v) := 
  Plain.bind (fun _ _ => rfl) fun o => by cases o.quiet; exacts [plain_throw _, plain_pure _]

theorem plain_ringElem (q k field : Nat) (ok : Ring → Bool) : Plain (ringElem q k field ok) :=
  plain_get.bind fun s => by
    simp only []
    split
    · exact (plain_await _).bind fun _ => (plain_noteAny _).bind fun _ => plain_pure _
    · exact (plain_raiseEarly _ _).bind fun _ => plain_pure _

theorem plain_readReg (i : Nat) : Plain (readReg i) := plain_get.bind fun _ => (plain_await _).bind fun _ => plain_pure _

theorem plain_readVReg (i : Nat) : Plain (readVReg i) := plain_get.bind fun _ => (plain_await _).bind fun _ => plain_pure _

theorem plain_readSrc (a : Src) (ok : Ring → Bool) {reg : Nat → Act Nat} (h : ∀ i, Plain (reg i)) : Plain (readSrc a ok reg) := by
  cases a with
  | reg i => exact h i.val
  | pop q =>
    exact plain_get.bind fun _ => (plain_ringElem _ _ _ _).bind fun _ => by
      split
      · exact (plain_stage _).bind fun _ => plain_pure _
      · exact plain_pure _
  | peek q => exact plain_ringElem _ _ _ _

/-- No source of 64 bits owes a push. -/
theorem plain_readS (a : Src) : Plain (readS a) :=
  (plain_readSrc a _ fun i => (plain_readReg i).bind fun _ => plain_pure _).bind fun _ => plain_pure _

/-- No vector source owes a push. -/
theorem plain_readV (a : Src) : Plain (readV a) :=
  (plain_readSrc a _ fun i => (plain_readVReg i).bind fun _ => plain_pure _).bind fun _ => plain_pure _

/-- A destination ready for its result owes exactly the push it makes. -/
theorem owes_readyS {d : Dst} {s t : State} (h : Gives (readyS d) s () t) : Owes (readyS d) s () t (Dst.rings d) := by
  cases d with
  | reg i => exact h.owes (plain_get.bind fun _ => plain_await _)
  | push q =>
    obtain ⟨l, h⟩ := h
    obtain ⟨r, e⟩ := h .start
    have hl : l = [q.val] := by
      have e1 : (((readyPush q.val fun r => r.elem == 0).run.run s).run .start) = ((.ok (), t), { Operands.start with quiet := r, owed := [] ++ l }) := e
      let c := (!((s.ctx.ring q.val).mode == 1 || (s.ctx.ring q.val).mode == 3) || !((s.ctx.ring q.val).elem == 0))
      let m : Act Unit := noteAny (if (s.ctx.ring q.val).mode = 3 then
        (((s.ctx.ring q.val).asWritten s.core ((s.ctx.ring q.val).addrAt (s.bundle.pushes q.val)).toNat).addrCause q.val
          ((s.ctx.ring q.val).addrAt (s.bundle.pushes q.val))) else none)
      change (((if c then raiseEarly .illegalUse (word (32 + q.val)) else
        (await ((s.ctx.ring q.val).hasRoom (s.bundle.pushes q.val)) >>= fun _ => (meet fun o => { o with owed := o.owed ++ [q.val] }) >>= fun _ => m) :
          Act Unit).run.run s).run .start) = _ at e1
      cases hc : c with
      | true => rw [hc] at e1; cases e1
      | false =>
        rw [hc] at e1
        have pm : Plain m := plain_noteAny _
        have e2 : ∃ b, ((m.run.run s).run { Operands.start with missing := b, owed := [q.val] }) = ((.ok (), t), { Operands.start with quiet := r, owed := [] ++ l }) := by
          cases hr : (s.ctx.ring q.val).hasRoom (s.bundle.pushes q.val) <;> rw [hr] at e1
          exacts [⟨true, e1⟩, ⟨false, e1⟩]
        obtain ⟨b, e2⟩ := e2
        have := pm s { Operands.start with missing := b, owed := [q.val] }
        rw [e2] at this
        simpa using this
    intro w; rw [← show l = (Dst.rings (.push q)) from hl]; exact h w

/-- A part that owes nothing, before one that stops. -/
theorem Gives.stops {m : Act α} {f : α → Act β} {s t u : State} {x : α} {e : Stop} {l : List Nat} (h : Gives m s x t) (p : Plain m)
    (k : Stops (f x) t e u l) : Stops (m >>= f) s e u l := by
  simpa using (h.owes p).stops k

/-! ## The shapes of slots -/

theorem scalar2_stages {f : Word → Word → Word} {lat : Nat} {d : Dst} {a b : Src} {s s1 s2 : State} {x y : Word}
    (ha : Gives (readS a) s x s1) (hb : Gives (readS b) s1 y s2) (hd : Gives (readyS d) s2 () s2) :
    scalar2 f lat d a b s = s2.stages [s2.sOf d lat (f x y)] :=
  runSlot_gives (ha.bind (hb.bind (hd.bind (gives_putS d lat (f x y) s2))))

theorem scalar1_stages {f : Word → Word} {lat : Nat} {d : Dst} {a : Src} {s s1 : State} {x : Word}
    (ha : Gives (readS a) s x s1) (hd : Gives (readyS d) s1 () s1) :
    scalar1 f lat d a s = s1.stages [s1.sOf d lat (f x)] :=
  runSlot_gives (ha.bind (hd.bind (gives_putS d lat (f x) s1)))

end Sys2Proof.Machine
end

