-- ==== Sys2Proof/Laws/State.lean ====
section
/-! SUPPORT. State.lean: what each named update of the state leaves in each field, so that no proof unfolds a record update. -/

namespace Sys2Proof.Machine

/-! ## onCtx -/

@[simp] theorem State.onCtx_core (s : State) (f : Ctx → Ctx) : (s.onCtx f).core = s.core := rfl
@[simp] theorem State.onCtx_ctx (s : State) (f : Ctx → Ctx) : (s.onCtx f).ctx = f s.ctx := rfl
@[simp] theorem State.onCtx_partner (s : State) (f : Ctx → Ctx) : (s.onCtx f).partner = s.partner := rfl
@[simp] theorem State.onCtx_second (s : State) (f : Ctx → Ctx) : (s.onCtx f).second = s.second := rfl
@[simp] theorem State.onCtx_coreNo (s : State) (f : Ctx → Ctx) : (s.onCtx f).coreNo = s.coreNo := rfl
@[simp] theorem State.onCtx_others (s : State) (f : Ctx → Ctx) : (s.onCtx f).others = s.others := rfl
@[simp] theorem State.onCtx_dev (s : State) (f : Ctx → Ctx) : (s.onCtx f).dev = s.dev := rfl
@[simp] theorem State.onCtx_fw (s : State) (f : Ctx → Ctx) : (s.onCtx f).fw = s.fw := rfl
@[simp] theorem State.onCtx_bundle (s : State) (f : Ctx → Ctx) : (s.onCtx f).bundle = s.bundle := rfl
@[simp] theorem State.onCtx_agenda (s : State) (f : Ctx → Ctx) : (s.onCtx f).agenda = s.agenda := rfl
@[simp] theorem State.onCtx_ev (s : State) (f : Ctx → Ctx) : (s.onCtx f).ev = s.ev := rfl
@[simp] theorem State.onCtx_delays (s : State) (f : Ctx → Ctx) : (s.onCtx f).delays = s.delays := rfl
@[simp] theorem State.onCtx_free (s : State) (f : Ctx → Ctx) : (s.onCtx f).free = s.free := rfl
@[simp] theorem State.onCtx_slot (s : State) (f : Ctx → Ctx) : (s.onCtx f).slot = s.slot := rfl
@[simp] theorem State.onCtx_phys (s : State) (f : Ctx → Ctx) : (s.onCtx f).phys = s.phys := rfl

/-! ## onCore -/

@[simp] theorem State.onCore_core (s : State) (f : Core → Core) : (s.onCore f).core = f s.core := rfl
@[simp] theorem State.onCore_ctx (s : State) (f : Core → Core) : (s.onCore f).ctx = s.ctx := rfl
@[simp] theorem State.onCore_partner (s : State) (f : Core → Core) : (s.onCore f).partner = s.partner := rfl
@[simp] theorem State.onCore_second (s : State) (f : Core → Core) : (s.onCore f).second = s.second := rfl
@[simp] theorem State.onCore_coreNo (s : State) (f : Core → Core) : (s.onCore f).coreNo = s.coreNo := rfl
@[simp] theorem State.onCore_others (s : State) (f : Core → Core) : (s.onCore f).others = s.others := rfl
@[simp] theorem State.onCore_dev (s : State) (f : Core → Core) : (s.onCore f).dev = s.dev := rfl
@[simp] theorem State.onCore_fw (s : State) (f : Core → Core) : (s.onCore f).fw = s.fw := rfl
@[simp] theorem State.onCore_bundle (s : State) (f : Core → Core) : (s.onCore f).bundle = s.bundle := rfl
@[simp] theorem State.onCore_agenda (s : State) (f : Core → Core) : (s.onCore f).agenda = s.agenda := rfl
@[simp] theorem State.onCore_ev (s : State) (f : Core → Core) : (s.onCore f).ev = s.ev := rfl
@[simp] theorem State.onCore_delays (s : State) (f : Core → Core) : (s.onCore f).delays = s.delays := rfl
@[simp] theorem State.onCore_free (s : State) (f : Core → Core) : (s.onCore f).free = s.free := rfl
@[simp] theorem State.onCore_slot (s : State) (f : Core → Core) : (s.onCore f).slot = s.slot := rfl
@[simp] theorem State.onCore_phys (s : State) (f : Core → Core) : (s.onCore f).phys = s.phys := rfl

/-! ## onDev -/

@[simp] theorem State.onDev_core (s : State) (f : Device → Device) : (s.onDev f).core = s.core := rfl
@[simp] theorem State.onDev_ctx (s : State) (f : Device → Device) : (s.onDev f).ctx = s.ctx := rfl
@[simp] theorem State.onDev_partner (s : State) (f : Device → Device) : (s.onDev f).partner = s.partner := rfl
@[simp] theorem State.onDev_second (s : State) (f : Device → Device) : (s.onDev f).second = s.second := rfl
@[simp] theorem State.onDev_coreNo (s : State) (f : Device → Device) : (s.onDev f).coreNo = s.coreNo := rfl
@[simp] theorem State.onDev_others (s : State) (f : Device → Device) : (s.onDev f).others = s.others := rfl
@[simp] theorem State.onDev_dev (s : State) (f : Device → Device) : (s.onDev f).dev = f s.dev := rfl
@[simp] theorem State.onDev_fw (s : State) (f : Device → Device) : (s.onDev f).fw = s.fw := rfl
@[simp] theorem State.onDev_bundle (s : State) (f : Device → Device) : (s.onDev f).bundle = s.bundle := rfl
@[simp] theorem State.onDev_agenda (s : State) (f : Device → Device) : (s.onDev f).agenda = s.agenda := rfl
@[simp] theorem State.onDev_ev (s : State) (f : Device → Device) : (s.onDev f).ev = s.ev := rfl
@[simp] theorem State.onDev_delays (s : State) (f : Device → Device) : (s.onDev f).delays = s.delays := rfl
@[simp] theorem State.onDev_free (s : State) (f : Device → Device) : (s.onDev f).free = s.free := rfl
@[simp] theorem State.onDev_slot (s : State) (f : Device → Device) : (s.onDev f).slot = s.slot := rfl
@[simp] theorem State.onDev_phys (s : State) (f : Device → Device) : (s.onDev f).phys = s.phys := rfl

/-! ## onBundle -/

@[simp] theorem State.onBundle_core (s : State) (f : Bundle → Bundle) : (s.onBundle f).core = s.core := rfl
@[simp] theorem State.onBundle_ctx (s : State) (f : Bundle → Bundle) : (s.onBundle f).ctx = s.ctx := rfl
@[simp] theorem State.onBundle_partner (s : State) (f : Bundle → Bundle) : (s.onBundle f).partner = s.partner := rfl
@[simp] theorem State.onBundle_second (s : State) (f : Bundle → Bundle) : (s.onBundle f).second = s.second := rfl
@[simp] theorem State.onBundle_coreNo (s : State) (f : Bundle → Bundle) : (s.onBundle f).coreNo = s.coreNo := rfl
@[simp] theorem State.onBundle_others (s : State) (f : Bundle → Bundle) : (s.onBundle f).others = s.others := rfl
@[simp] theorem State.onBundle_dev (s : State) (f : Bundle → Bundle) : (s.onBundle f).dev = s.dev := rfl
@[simp] theorem State.onBundle_fw (s : State) (f : Bundle → Bundle) : (s.onBundle f).fw = s.fw := rfl
@[simp] theorem State.onBundle_bundle (s : State) (f : Bundle → Bundle) : (s.onBundle f).bundle = f s.bundle := rfl
@[simp] theorem State.onBundle_agenda (s : State) (f : Bundle → Bundle) : (s.onBundle f).agenda = s.agenda := rfl
@[simp] theorem State.onBundle_ev (s : State) (f : Bundle → Bundle) : (s.onBundle f).ev = s.ev := rfl
@[simp] theorem State.onBundle_delays (s : State) (f : Bundle → Bundle) : (s.onBundle f).delays = s.delays := rfl
@[simp] theorem State.onBundle_free (s : State) (f : Bundle → Bundle) : (s.onBundle f).free = s.free := rfl
@[simp] theorem State.onBundle_slot (s : State) (f : Bundle → Bundle) : (s.onBundle f).slot = s.slot := rfl
@[simp] theorem State.onBundle_phys (s : State) (f : Bundle → Bundle) : (s.onBundle f).phys = s.phys := rfl

/-! ## onPower -/

@[simp] theorem State.onPower_core (s : State) (f : PowerUnit → PowerUnit) : (s.onPower f).core = s.core := rfl
@[simp] theorem State.onPower_ctx (s : State) (f : PowerUnit → PowerUnit) : (s.onPower f).ctx = s.ctx := rfl
@[simp] theorem State.onPower_partner (s : State) (f : PowerUnit → PowerUnit) : (s.onPower f).partner = s.partner := rfl
@[simp] theorem State.onPower_second (s : State) (f : PowerUnit → PowerUnit) : (s.onPower f).second = s.second := rfl
@[simp] theorem State.onPower_coreNo (s : State) (f : PowerUnit → PowerUnit) : (s.onPower f).coreNo = s.coreNo := rfl
@[simp] theorem State.onPower_others (s : State) (f : PowerUnit → PowerUnit) : (s.onPower f).others = s.others := rfl
@[simp] theorem State.onPower_dev (s : State) (f : PowerUnit → PowerUnit) : (s.onPower f).dev = { s.dev with power := f s.dev.power } := rfl
@[simp] theorem State.onPower_fw (s : State) (f : PowerUnit → PowerUnit) : (s.onPower f).fw = s.fw := rfl
@[simp] theorem State.onPower_bundle (s : State) (f : PowerUnit → PowerUnit) : (s.onPower f).bundle = s.bundle := rfl
@[simp] theorem State.onPower_agenda (s : State) (f : PowerUnit → PowerUnit) : (s.onPower f).agenda = s.agenda := rfl
@[simp] theorem State.onPower_ev (s : State) (f : PowerUnit → PowerUnit) : (s.onPower f).ev = s.ev := rfl
@[simp] theorem State.onPower_delays (s : State) (f : PowerUnit → PowerUnit) : (s.onPower f).delays = s.delays := rfl
@[simp] theorem State.onPower_free (s : State) (f : PowerUnit → PowerUnit) : (s.onPower f).free = s.free := rfl
@[simp] theorem State.onPower_slot (s : State) (f : PowerUnit → PowerUnit) : (s.onPower f).slot = s.slot := rfl
@[simp] theorem State.onPower_phys (s : State) (f : PowerUnit → PowerUnit) : (s.onPower f).phys = s.phys := rfl

/-! ## onBoot -/

@[simp] theorem State.onBoot_core (s : State) (f : Boot → Boot) : (s.onBoot f).core = s.core := rfl
@[simp] theorem State.onBoot_ctx (s : State) (f : Boot → Boot) : (s.onBoot f).ctx = s.ctx := rfl
@[simp] theorem State.onBoot_partner (s : State) (f : Boot → Boot) : (s.onBoot f).partner = s.partner := rfl
@[simp] theorem State.onBoot_second (s : State) (f : Boot → Boot) : (s.onBoot f).second = s.second := rfl
@[simp] theorem State.onBoot_coreNo (s : State) (f : Boot → Boot) : (s.onBoot f).coreNo = s.coreNo := rfl
@[simp] theorem State.onBoot_others (s : State) (f : Boot → Boot) : (s.onBoot f).others = s.others := rfl
@[simp] theorem State.onBoot_dev (s : State) (f : Boot → Boot) : (s.onBoot f).dev = { s.dev with boot := f s.dev.boot } := rfl
@[simp] theorem State.onBoot_fw (s : State) (f : Boot → Boot) : (s.onBoot f).fw = s.fw := rfl
@[simp] theorem State.onBoot_bundle (s : State) (f : Boot → Boot) : (s.onBoot f).bundle = s.bundle := rfl
@[simp] theorem State.onBoot_agenda (s : State) (f : Boot → Boot) : (s.onBoot f).agenda = s.agenda := rfl
@[simp] theorem State.onBoot_ev (s : State) (f : Boot → Boot) : (s.onBoot f).ev = s.ev := rfl
@[simp] theorem State.onBoot_delays (s : State) (f : Boot → Boot) : (s.onBoot f).delays = s.delays := rfl
@[simp] theorem State.onBoot_free (s : State) (f : Boot → Boot) : (s.onBoot f).free = s.free := rfl
@[simp] theorem State.onBoot_slot (s : State) (f : Boot → Boot) : (s.onBoot f).slot = s.slot := rfl
@[simp] theorem State.onBoot_phys (s : State) (f : Boot → Boot) : (s.onBoot f).phys = s.phys := rfl

/-! ## staged -/

@[simp] theorem State.staged_core (s : State) (l : List Effect) : (s.staged l).core = s.core := rfl
@[simp] theorem State.staged_ctx (s : State) (l : List Effect) : (s.staged l).ctx = s.ctx := rfl
@[simp] theorem State.staged_partner (s : State) (l : List Effect) : (s.staged l).partner = s.partner := rfl
@[simp] theorem State.staged_second (s : State) (l : List Effect) : (s.staged l).second = s.second := rfl
@[simp] theorem State.staged_coreNo (s : State) (l : List Effect) : (s.staged l).coreNo = s.coreNo := rfl
@[simp] theorem State.staged_others (s : State) (l : List Effect) : (s.staged l).others = s.others := rfl
@[simp] theorem State.staged_dev (s : State) (l : List Effect) : (s.staged l).dev = s.dev := rfl
@[simp] theorem State.staged_fw (s : State) (l : List Effect) : (s.staged l).fw = s.fw := rfl
@[simp] theorem State.staged_bundle (s : State) (l : List Effect) : (s.staged l).bundle = { s.bundle with effects := s.bundle.effects ++ l } := rfl
@[simp] theorem State.staged_agenda (s : State) (l : List Effect) : (s.staged l).agenda = s.agenda := rfl
@[simp] theorem State.staged_ev (s : State) (l : List Effect) : (s.staged l).ev = s.ev := rfl
@[simp] theorem State.staged_delays (s : State) (l : List Effect) : (s.staged l).delays = s.delays := rfl
@[simp] theorem State.staged_free (s : State) (l : List Effect) : (s.staged l).free = s.free := rfl
@[simp] theorem State.staged_slot (s : State) (l : List Effect) : (s.staged l).slot = s.slot := rfl
@[simp] theorem State.staged_phys (s : State) (l : List Effect) : (s.staged l).phys = s.phys := rfl

/-! ## drawn -/

@[simp] theorem State.drawn_core (s : State) : (s.drawn).core = s.core := rfl
@[simp] theorem State.drawn_ctx (s : State) : (s.drawn).ctx = s.ctx := rfl
@[simp] theorem State.drawn_partner (s : State) : (s.drawn).partner = s.partner := rfl
@[simp] theorem State.drawn_second (s : State) : (s.drawn).second = s.second := rfl
@[simp] theorem State.drawn_coreNo (s : State) : (s.drawn).coreNo = s.coreNo := rfl
@[simp] theorem State.drawn_others (s : State) : (s.drawn).others = s.others := rfl
@[simp] theorem State.drawn_dev (s : State) : (s.drawn).dev = s.dev := rfl
@[simp] theorem State.drawn_fw (s : State) : (s.drawn).fw = s.fw := rfl
@[simp] theorem State.drawn_bundle (s : State) : (s.drawn).bundle = s.bundle := rfl
@[simp] theorem State.drawn_agenda (s : State) : (s.drawn).agenda = s.agenda := rfl
@[simp] theorem State.drawn_ev (s : State) : (s.drawn).ev = s.ev := rfl
@[simp] theorem State.drawn_delays (s : State) : (s.drawn).delays = s.delays.tail := rfl
@[simp] theorem State.drawn_free (s : State) : (s.drawn).free = s.free := rfl
@[simp] theorem State.drawn_slot (s : State) : (s.drawn).slot = s.slot := rfl
@[simp] theorem State.drawn_phys (s : State) : (s.drawn).phys = s.phys := rfl

/-! ## mapOwn -/

@[simp] theorem State.mapOwn_core (s : State) (f : Ctx → Ctx) : (s.mapOwn f).core = s.core := rfl
@[simp] theorem State.mapOwn_ctx (s : State) (f : Ctx → Ctx) : (s.mapOwn f).ctx = f s.ctx := rfl
@[simp] theorem State.mapOwn_partner (s : State) (f : Ctx → Ctx) : (s.mapOwn f).partner = f s.partner := rfl
@[simp] theorem State.mapOwn_second (s : State) (f : Ctx → Ctx) : (s.mapOwn f).second = s.second := rfl
@[simp] theorem State.mapOwn_coreNo (s : State) (f : Ctx → Ctx) : (s.mapOwn f).coreNo = s.coreNo := rfl
@[simp] theorem State.mapOwn_others (s : State) (f : Ctx → Ctx) : (s.mapOwn f).others = s.others := rfl
@[simp] theorem State.mapOwn_dev (s : State) (f : Ctx → Ctx) : (s.mapOwn f).dev = s.dev := rfl
@[simp] theorem State.mapOwn_fw (s : State) (f : Ctx → Ctx) : (s.mapOwn f).fw = s.fw := rfl
@[simp] theorem State.mapOwn_bundle (s : State) (f : Ctx → Ctx) : (s.mapOwn f).bundle = s.bundle := rfl
@[simp] theorem State.mapOwn_agenda (s : State) (f : Ctx → Ctx) : (s.mapOwn f).agenda = s.agenda := rfl
@[simp] theorem State.mapOwn_ev (s : State) (f : Ctx → Ctx) : (s.mapOwn f).ev = s.ev := rfl
@[simp] theorem State.mapOwn_delays (s : State) (f : Ctx → Ctx) : (s.mapOwn f).delays = s.delays := rfl
@[simp] theorem State.mapOwn_free (s : State) (f : Ctx → Ctx) : (s.mapOwn f).free = s.free := rfl
@[simp] theorem State.mapOwn_slot (s : State) (f : Ctx → Ctx) : (s.mapOwn f).slot = s.slot := rfl
@[simp] theorem State.mapOwn_phys (s : State) (f : Ctx → Ctx) : (s.mapOwn f).phys = s.phys := rfl

end Sys2Proof.Machine
end

