-- ==== Sys2Proof/Laws/Context.lean ====
section
/-! SUPPORT. Context.lean: what the shared operations on a context do: parking, faulting, retiring, going on at an address, and landing a result. -/

namespace Sys2Proof.Machine

theorem word_toNat (x : Word) : word x.toNat = x := by simp [word]

/-- An entry set reads back. -/
theorem assoc?_assocSet {α : Type} (l : List (Nat × α)) (k : Nat) (a : α) : assoc? (assocSet l k a) k = some a := by
  induction l with
  | nil => simp [assocSet, assoc?]
  | cons x l ih =>
    obtain ⟨j, b⟩ := x
    simp only [assocSet]
    split
    · simp [assoc?]
    · split
      · simp [assoc?]
      · simp only [assoc?, ih, ite_eq_right_iff]
        intro h; omega

/-- An entry set twice holds the last value. -/
theorem assocSet_assocSet {α : Type} (l : List (Nat × α)) (k : Nat) (a b : α) : assocSet (assocSet l k a) k b = assocSet l k b := by
  induction l with
  | nil => simp [assocSet]
  | cons x l ih =>
    obtain ⟨j, c⟩ := x
    simp only [assocSet]
    split
    · simp [assocSet]
    · split
      · simp [assocSet]
      · simp [assocSet, *]

/-- A kernel replaced is found, and replaced twice is the last one. -/
@[simp] theorem State.kernel?_setKernel (s : State) (k : Nat) (x : Kernel) : (s.setKernel k x).kernel? k = some x := assoc?_assocSet _ _ _
@[simp] theorem State.setKernel_setKernel (s : State) (k : Nat) (x y : Kernel) : (s.setKernel k x).setKernel k y = s.setKernel k y := by
  simp [State.setKernel, State.onDev, assocSet_assocSet]
@[simp] theorem State.setKernel_ref (s : State) (k : Nat) (x : Kernel) : (s.setKernel k x).dev.ref = s.dev.ref := rfl

/-- Answers to a kernel's writes: the last makes it LOADED, one refused aborts it (R355, R356). -/
theorem State.answered_eq (s : State) (k : Nat) (x : Kernel) (n c cause : Nat) :
    s.answered k x n c cause =
      let t := fun (m : Nat) => s.onDev fun d => d.askEnds (fun y => y.kind == 1 && y.n == k) m
      if cause ≠ 0 then (t s.dev.links.asks.length).abort k c cause
      else if x.posts ≤ n then (t n).setKernel k { x with posts := 0, st := .loaded, tick := some (releaseTick s.dev.ref) }
      else (t n).setKernel k { x with posts := x.posts - n } := by
  unfold State.answered State.loadEnds
  split
  · rfl
  · have hr : ∀ (f : Ask → Bool) n, (s.dev.askEnds f n).ref = s.dev.ref := fun _ _ => rfl
    by_cases h : x.posts ≤ n
    · simp [h, Nat.sub_eq_zero_of_le h, hr, State.onDev]
    · have : x.posts - n ≠ 0 := by omega
      simp [h, this]

@[simp] theorem State.dropRequest_ctx (s : State) : s.dropRequest.ctx = s.ctx := rfl
@[simp] theorem State.dropRequest_core (s : State) : s.dropRequest.core = s.core := rfl
@[simp] theorem State.dropRequest_records (s : State) : s.dropRequest.dev.records = s.dev.records := rfl

/-- A lowered level changes the power fields of the context and no others. -/
theorem State.lowerHeld_ctx (s : State) (k : Nat) : (s.lowerHeld k).ctx = { s.ctx with power := (s.lowerHeld k).ctx.power } := by
  unfold State.lowerHeld; split <;> rfl

theorem State.lowerHeld_regs (s : State) (k : Nat) : (s.lowerHeld k).ctx.regs = s.ctx.regs := by
  rw [State.lowerHeld_ctx]

theorem State.lowerHeld_kernel (s : State) (k : Nat) : (s.lowerHeld k).ctx.kernel = s.ctx.kernel := by
  rw [State.lowerHeld_ctx]

/-- Discarding what a ring has read ahead leaves the registers (R211). -/
theorem State.discard_regs (s : State) (q : Nat) : (s.discard q).ctx.regs = s.ctx.regs := by
  unfold State.discard; dsimp only; split <;> rfl

theorem State.discardAll_regs (s : State) : s.discardAll.ctx.regs = s.ctx.regs := by
  unfold State.discardAll
  generalize List.range 16 = l
  induction l generalizing s with
  | nil => rfl
  | cons a l ih =>
    simp only [List.foldl_cons]
    rw [ih]
    split
    · exact State.discard_regs s a
    · rfl

/-- Capturing the late writes leaves the registers (R105). -/
theorem Ctx.capture_regs (c : Ctx) : c.capture.regs = c.regs := rfl

/-- Parking (R115): the state, where it came from, whether it was forced; the registers stay. -/
theorem State.park_ctx (s : State) (f : Bool) :
    (s.park f).ctx.st = .parked ∧ (s.park f).ctx.fromSt = s.ctx.st.code ∧ (s.park f).ctx.forced = f ∧ (s.park f).ctx.regs = s.ctx.regs := by
  refine ⟨rfl, rfl, rfl, ?_⟩
  unfold State.park
  simp only [State.onCtx_ctx]
  split <;> simp [Ctx.clearWait, Ctx.capture_regs, State.discardAll_regs, State.lowerHeld_regs]

/-- A system fault (R112): the fault record; the registers, the PC and the device stay. -/
theorem State.takeFault_ctx (s : State) (c : Cause) (v : Word) (e n : Nat) (b : Bool) :
    (s.takeFault c v e n b).ctx.st = .faulted ∧ (s.takeFault c v e n b).ctx.blk.fcause = c.code ∧ (s.takeFault c v e n b).ctx.blk.esc = b ∧
    (s.takeFault c v e n b).ctx.regs = s.ctx.regs ∧ (s.takeFault c v e n b).ctx.pc = s.ctx.pc ∧ (s.takeFault c v e n b).dev = s.dev :=
  ⟨rfl, rfl, rfl, rfl, rfl, rfl⟩

/-- Going on at an address (R145): the registers stay; the state and the trap registers stay too, or a body no longer framed ends the context with BUNDLE. -/
theorem State.reinstate_ctx (s : State) (pc : Nat) :
    (s.reinstate pc).ctx.pc = word pc ∧ (s.reinstate pc).ctx.regs = s.ctx.regs ∧
    (s.reinstate pc).ctx.fp = s.ctx.fp ∧ (s.reinstate pc).dev.records = s.dev.records ∧
    ((s.reinstate pc).ctx.st = s.ctx.st ∧ (s.reinstate pc).ctx.tr = s.ctx.tr ∨ (s.reinstate pc).ctx.st = .faulted ∧ (s.reinstate pc).ctx.blk.fcause = Cause.bundle.code) := by
  unfold State.reinstate
  dsimp only
  split
  · exact ⟨rfl, rfl, rfl, rfl, .inl ⟨rfl, rfl⟩⟩
  · split
    · exact ⟨rfl, rfl, rfl, rfl, .inl ⟨rfl, rfl⟩⟩
    · exact ⟨rfl, rfl, rfl, rfl, .inr ⟨rfl, rfl⟩⟩

/-- Retiring (R108): no claims and no withdrawn commands stay. -/
theorem State.retireCtx_st (s : State) :
    s.retireCtx.ctx.st = .retired ∧ s.retireCtx.ctx.claims = Claims.none ∧ s.retireCtx.ctx.withdrawn = [] := ⟨rfl, rfl, rfl⟩

theorem State.retireCtx_kernel (s : State) : s.retireCtx.ctx.kernel = s.ctx.kernel := by
  unfold State.retireCtx
  dsimp only [Ctx.clearWait, Ctx.mapHandles, State.onCtx_ctx, State.onDev_ctx]
  repeat' split
  all_goals simp [State.releaseDot, State.lowerHeld_kernel]

/-- A context of no kernel has none to abort. -/
theorem State.abortMine_none {s : State} (h : s.ctx.kernel = none) (c : Nat) : s.abortMine c = s := by
  unfold State.abortMine; rw [h]

/-- Heat is counted in a leaf word: no context changes. -/
@[simp] theorem State.heatLeaf_ctx (s : State) (leaf : Nat) (write : Bool) : (s.heatLeaf leaf write).ctx = s.ctx := by
  unfold State.heatLeaf State.stepLeaf; split <;> rfl

@[simp] theorem State.sample_ctx (s : State) (leaf : Nat) (write : Bool) : (s.sample leaf write).ctx = s.ctx := by
  unfold State.sample; dsimp only; split
  · exact State.heatLeaf_ctx _ _ _
  · rfl

/-- A push that enters its ring leaves the results still on their way. -/
theorem State.enterRing_pend (s : State) (q : Nat) (p : Pending) : (s.enterRing q p).ctx.pend = s.ctx.pend := by
  unfold State.enterRing
  dsimp only
  split
  · rw [State.sample_ctx]; rfl
  · rfl

theorem Ctx.landFlags_pend (c : Ctx) (fl pc : Nat) : (c.landFlags fl pc).pend = c.pend := by
  unfold Ctx.landFlags; dsimp only; repeat' split
  all_goals rfl

/-- A result that lands leaves the results still on their way. -/
theorem State.landResult_pend (s : State) (p : Pending) : (s.landResult p).ctx.pend = s.ctx.pend := by
  have e : (if p.flags = 0 then s else s.onCtx fun c => c.landFlags p.flags p.pc).ctx.pend = s.ctx.pend := by
    split
    · rfl
    · exact Ctx.landFlags_pend _ _ _
  unfold State.landResult
  generalize (if p.flags = 0 then s else s.onCtx fun c => c.landFlags p.flags p.pc) = t at e ⊢
  rw [← e]
  cases p.dest <;> try rfl
  · exact State.enterRing_pend _ _ _
  · dsimp only; split
    · rw [State.sample_ctx]; rfl
    · rfl

/-- Without an enabled interrupt pending a firmware core takes none. -/
theorem State.fwIrq_none (s : State) (c : FwCore) (h : c.irq = none) : s.fwIrq c = none := by
  unfold State.fwIrq; repeat' split
  all_goals first | exact h | rfl

end Sys2Proof.Machine
end

