-- ==== Sys2Proof/Laws/Exact.lean ====
section
/-! SUPPORT. Exact.lean: isqrt is the floor of the square root. -/

namespace Sys2Proof.Machine

/-- The bits still to come close the gap. -/
theorem isqrtFrom_spec (n k r : Nat) (h1 : r * r ≤ n) (h2 : n < (r + 2 ^ k) * (r + 2 ^ k)) : isqrtFrom n k r * isqrtFrom n k r ≤ n ∧ n < (isqrtFrom n k r + 1) * (isqrtFrom n k r + 1) := by
  induction k generalizing r with
  | zero => exact ⟨h1, by simpa [isqrtFrom] using h2⟩
  | succ k ih =>
    simp only [isqrtFrom]
    split
    · refine ih _ ‹_› ?_
      rw [Nat.pow_succ] at h2
      have : r + 2^k + 2^k = r + 2^k * 2 := by omega
      rw [this]; exact h2
    · exact ih _ h1 (by omega)

/-- isqrt n is the greatest number whose square is at most n. -/
theorem isqrt_spec (n : Nat) : isqrt n * isqrt n ≤ n ∧ n < (isqrt n + 1) * (isqrt n + 1) := by
  refine isqrtFrom_spec n _ 0 (by omega) ?_
  rcases Nat.eq_zero_or_pos n with rfl | hn
  · simp
  · have := Nat.lt_log2_self (n := n)
    unfold ilog2
    rw [Nat.zero_add, ← Nat.pow_add]
    refine Nat.lt_of_lt_of_le this (Nat.pow_le_pow_right (by omega) ?_)
    omega

end Sys2Proof.Machine
end

