-- ==== Sys2Proof/Laws/Memory.lean ====
section
/-! SUPPORT. Memory.lean: a byte read after a byte written (R36), and that every operation on a memory keeps its canonical form. -/

namespace Sys2Proof.Machine

/-- Every listed address of m lies above k. -/
def Memory.above (m : Memory) (k : Nat) : Prop := ∀ x ∈ m, k < x.1

theorem Memory.wf_cons {a : Nat} {b : BitVec 8} {t : Memory} :
    Memory.wf ((a, b) :: t) = true ↔ b ≠ 0 ∧ Memory.above t a ∧ Memory.wf t = true := by
  induction t generalizing a b with
  | nil => simp [Memory.wf, Memory.above]
  | cons x t ih =>
    obtain ⟨c, d⟩ := x
    simp only [Memory.wf, Bool.and_eq_true, decide_eq_true_eq, bne_iff_ne, ne_eq]
    constructor
    · rintro ⟨⟨h1, h2⟩, h3⟩
      refine ⟨h2, fun y hy => ?_, h3⟩
      rcases List.mem_cons.mp hy with rfl | hy
      · exact h1
      · exact Nat.lt_trans h1 ((ih.mp h3).2.1 y hy)
    · rintro ⟨h1, h2, h3⟩
      exact ⟨⟨h2 (c, d) (by simp), h1⟩, h3⟩

theorem Memory.wf_nil : Memory.wf [] = true := rfl

/-- A byte below every listed address reads as unlisted. -/
theorem Memory.readByte_above {m : Memory} {k : Nat} (h : Memory.above m k) : m.readByte k = 0 := by
  cases m with
  | nil => rfl
  | cons x t =>
    obtain ⟨a, b⟩ := x
    have : k < a := h (a, b) (by simp)
    simp [Memory.readByte, this, Nat.ne_of_gt this]

/-- A byte written leaves what lies above a bound above it. -/
theorem Memory.writeByte_above {m : Memory} {j k : Nat} (v : BitVec 8) (h : Memory.above m j) (hk : j < k) :
    Memory.above (m.writeByte k v) j := by
  induction m with
  | nil =>
    simp only [Memory.writeByte]
    split
    · exact h
    · intro x hx; simp only [List.mem_singleton] at hx; subst hx; exact hk
  | cons x t ih =>
    obtain ⟨a, b⟩ := x
    have ha : j < a := h (a, b) (by simp)
    have ht : Memory.above t j := fun y hy => h y (by simp [hy])
    simp only [Memory.writeByte]
    split
    · split
      · exact h
      · intro y hy
        rcases List.mem_cons.mp hy with rfl | hy
        · exact hk
        · exact h y hy
    · split
      · split
        · exact ht
        · intro y hy
          rcases List.mem_cons.mp hy with rfl | hy
          · exact hk
          · exact ht y hy
      · intro y hy
        rcases List.mem_cons.mp hy with rfl | hy
        · exact ha
        · exact ih ht y hy

/-- A byte write keeps the canonical form. -/
theorem Memory.writeByte_wf {m : Memory} (k : Nat) (v : BitVec 8) (h : m.wf = true) : (m.writeByte k v).wf = true := by
  induction m with
  | nil =>
    simp only [Memory.writeByte]
    split
    · rfl
    · simpa [Memory.wf] using ‹¬ v = 0›
  | cons x t ih =>
    obtain ⟨a, b⟩ := x
    obtain ⟨h1, h2, h3⟩ := Memory.wf_cons.mp h
    simp only [Memory.writeByte]
    split
    · split
      · exact h
      · refine Memory.wf_cons.mpr ⟨‹_›, fun y hy => ?_, h⟩
        rcases List.mem_cons.mp hy with rfl | hy
        · assumption
        · exact Nat.lt_trans ‹k < a› (h2 y hy)
    · split
      · split
        · exact h3
        · rename_i e _
          exact Memory.wf_cons.mpr ⟨‹_›, e ▸ h2, h3⟩
      · exact Memory.wf_cons.mpr ⟨h1, Memory.writeByte_above v h2 (by omega), ih h3⟩

/-- The byte written reads back. -/
theorem Memory.readByte_writeByte_same {m : Memory} (k : Nat) (v : BitVec 8) (h : m.wf = true) : (m.writeByte k v).readByte k = v := by
  induction m with
  | nil =>
    simp only [Memory.writeByte]
    split
    · simp [Memory.readByte, *]
    · simp [Memory.readByte]
  | cons x t ih =>
    obtain ⟨a, b⟩ := x
    obtain ⟨_, h2, h3⟩ := Memory.wf_cons.mp h
    simp only [Memory.writeByte]
    split
    · rename_i hk
      split
      · rename_i hv
        simp [Memory.readByte, hk, Nat.ne_of_gt hk, hv]
      · simp [Memory.readByte]
    · split
      · rename_i e
        split
        · rename_i hv
          rw [hv]
          exact Memory.readByte_above (e ▸ h2)
        · simp [Memory.readByte]
      · simp only [Memory.readByte]
        rw [if_neg (by omega), if_neg (by omega)]
        exact ih h3

/-- Every other byte reads as before. -/
theorem Memory.readByte_writeByte_other {m : Memory} {j k : Nat} (v : BitVec 8) (h : m.wf = true) (hj : j ≠ k) :
    (m.writeByte k v).readByte j = m.readByte j := by
  induction m with
  | nil =>
    simp only [Memory.writeByte]
    split
    · rfl
    · simp only [Memory.readByte]; rw [if_neg (Ne.symm hj)]; split <;> rfl
  | cons x t ih =>
    obtain ⟨a, b⟩ := x
    obtain ⟨_, h2, h3⟩ := Memory.wf_cons.mp h
    simp only [Memory.writeByte]
    split
    · split
      · rfl
      · simp only [Memory.readByte]
        rw [if_neg (Ne.symm hj)]
        split
        · rename_i hk1 _ hk2
          rw [if_neg (by omega), if_pos (by omega)]
        · rfl
    · split
      · rename_i e
        split
        · simp only [Memory.readByte]
          rw [if_neg (by omega)]
          split
          · exact Memory.readByte_above fun y hy => Nat.lt_trans (by omega) (h2 y hy)
          · rfl
        · simp only [Memory.readByte]
          subst e
          simp [Ne.symm hj]
      · simp only [Memory.readByte]
        split
        · rfl
        · split
          · rfl
          · exact ih h3

/-- Writing n bytes keeps the canonical form. -/
theorem Memory.writeBytes_wf {m : Memory} (n k v : Nat) (h : m.wf = true) : (m.writeBytes k n v).wf = true := by
  induction n generalizing m k v with
  | zero => exact h
  | succ n ih => exact ih _ _ (Memory.writeByte_wf _ _ h)

/-- A byte outside the n bytes written reads as before. -/
theorem Memory.readByte_writeBytes_other {m : Memory} (n : Nat) {j k : Nat} (v : Nat) (h : m.wf = true) (hj : j < k ∨ k + n ≤ j) :
    (m.writeBytes k n v).readByte j = m.readByte j := by
  induction n generalizing m k v with
  | zero => rfl
  | succ n ih =>
    simp only [Memory.writeBytes]
    rw [ih _ (Memory.writeByte_wf _ _ h) (by omega), Memory.readByte_writeByte_other _ h (by omega)]

/-- Byte i of the n bytes written is byte i of the value. -/
theorem Memory.readByte_writeBytes_same {m : Memory} (n : Nat) {i k : Nat} (v : Nat) (h : m.wf = true) (hi : i < n) :
    (m.writeBytes k n v).readByte (k + i) = BitVec.ofNat 8 (v / 256 ^ i) := by
  induction n generalizing m k v i with
  | zero => omega
  | succ n ih =>
    simp only [Memory.writeBytes]
    cases i with
    | zero =>
      rw [Memory.readByte_writeBytes_other _ _ (Memory.writeByte_wf _ _ h) (by omega)]
      simpa using Memory.readByte_writeByte_same k _ h
    | succ i =>
      have := ih (m := m.writeByte k (BitVec.ofNat 8 v)) (k := k + 1) (i := i) (v / 256) (Memory.writeByte_wf _ _ h) (by omega)
      rw [show k + (i + 1) = k + 1 + i by omega, this, Nat.div_div_eq_div_mul, Nat.pow_succ, Nat.mul_comm]

/-- Bytes that read the same make the same number. -/
theorem Memory.readBytes_congr {m m' : Memory} (n : Nat) {k : Nat} (h : ∀ j, k ≤ j → j < k + n → m.readByte j = m'.readByte j) :
    m.readBytes k n = m'.readBytes k n := by
  induction n generalizing k with
  | zero => rfl
  | succ n ih =>
    simp only [Memory.readBytes]
    rw [h k (by omega) (by omega), ih fun j h1 h2 => h j (by omega) (by omega)]

/-- n bytes written read back. -/
theorem Memory.readBytes_writeBytes_same {m : Memory} (n k v : Nat) (h : m.wf = true) :
    (m.writeBytes k n v).readBytes k n = v % 256 ^ n := by
  induction n generalizing m k v with
  | zero => simp [Memory.readBytes, Nat.mod_one]
  | succ n ih =>
    simp only [Memory.writeBytes, Memory.readBytes]
    rw [ih _ _ (Memory.writeByte_wf _ _ h), Memory.readByte_writeBytes_other _ _ (Memory.writeByte_wf _ _ h) (by omega),
      Memory.readByte_writeByte_same k _ h, Nat.pow_succ, Nat.mul_comm (256 ^ n), Nat.mod_mul]
    simp

/-- A bit write keeps the canonical form. -/
theorem Memory.writeBits_wf {m : Memory} (a w v : Nat) (h : m.wf = true) : (m.writeBits a w v).wf = true :=
  Memory.writeBytes_wf _ _ _ h

/-- The writes of one access keep the canonical form. -/
theorem Memory.writeAll_wf {m : Memory} (l : List BitWrite) (h : m.wf = true) : (m.writeAll l).wf = true := by
  induction l generalizing m with
  | nil => exact h
  | cons x t ih => exact ih (Memory.writeBits_wf _ _ _ h)

/-- A byte that holds no bit written reads as before. -/
theorem Memory.readByte_writeBits_other {m : Memory} (a w v : Nat) {k : Nat} (h : m.wf = true)
    (hk : 8 * k + 8 ≤ a ∨ a + w ≤ 8 * k) : (m.writeBits a w v).readByte k = m.readByte k := by
  refine Memory.readByte_writeBytes_other _ _ h ?_
  unfold byteSpan
  split <;> omega

/-- The memories at reset have the canonical form. -/
theorem State.reset_memory_wf :
    State.reset.core.act.wf = true ∧ State.reset.core.stg.wf = true ∧ State.reset.core.imem.wf = true ∧ State.reset.dev.mem.wf = true :=
  ⟨rfl, rfl, rfl, rfl⟩

end Sys2Proof.Machine
end

