-- ==== Sys2Proof/Laws/Wf.lean ====
section
/-! SUPPORT. Wf.lean: the operations of the units over their memories keep the canonical form: the typed spaces of a core, local memory, a half, a migration's copy. -/

namespace Sys2Proof.Machine

theorem Memory.filter_above {m : Memory} {k : Nat} (f : Host.Cell → Bool) (h : Memory.above m k) : Memory.above (m.filter f) k :=
  fun x hx => h x (List.mem_filter.mp hx).1

theorem Memory.filter_wf {m : Memory} (f : Host.Cell → Bool) (h : m.wf = true) : Memory.wf (m.filter f) = true := by
  induction m with
  | nil => rfl
  | cons x t ih =>
    obtain ⟨a, b⟩ := x
    obtain ⟨h1, h2, h3⟩ := Memory.wf_cons.mp h
    simp only [List.filter_cons]
    split
    · exact Memory.wf_cons.mpr ⟨h1, Memory.filter_above f h2, ih h3⟩
    · exact ih h3

theorem Memory.foldl_writeByte_wf {m : Memory} (l : List Host.Cell) (h : m.wf = true) :
    Memory.wf (l.foldl (fun m c => m.writeByte c.1 c.2) m) = true := by
  induction l generalizing m with
  | nil => exact h
  | cons x t ih => exact ih (Memory.writeByte_wf _ _ h)

theorem Memory.copyBytes_wf {m : Memory} (a b n : Nat) (h : m.wf = true) : (m.copyBytes a b n).wf = true :=
  Memory.foldl_writeByte_wf _ (Memory.filter_wf _ h)

/-- A typed space replaced reads back; the other spaces stay. -/
theorem Core.mem_setMem_same (c : Core) {sp : Space} (m : Memory) (h : sp ≠ .glob) : (c.setMem sp m).mem sp = m := by
  cases sp <;> first | rfl | exact absurd rfl h

theorem Core.mem_setMem_other (c : Core) {sp sq : Space} (m : Memory) (h : sq ≠ sp) : (c.setMem sp m).mem sq = c.mem sq := by
  cases sp <;> cases sq <;> first | rfl | exact absurd rfl h

/-- The writes of one access to a typed space: its memory afterwards. -/
theorem Core.mem_putAll_same (c : Core) {sp : Space} (l : List BitWrite) (h : sp ≠ .glob) :
    (c.putAll sp l).mem sp = (c.mem sp).writeAll l := by
  unfold Core.putAll
  dsimp only
  split
  · exact Core.mem_setMem_same c _ h
  · exact (by cases sp <;> rfl : _ = (c.setMem sp ((c.mem sp).writeAll l)).mem sp).trans (Core.mem_setMem_same c _ h)

theorem Core.mem_putAll_other (c : Core) {sp sq : Space} (l : List BitWrite) (h : sq ≠ sp) : (c.putAll sp l).mem sq = c.mem sq := by
  unfold Core.putAll
  dsimp only
  split
  · exact Core.mem_setMem_other c _ h
  · exact (by cases sq <;> rfl : _ = (c.setMem sp ((c.mem sp).writeAll l)).mem sq).trans (Core.mem_setMem_other c _ h)

theorem Core.putAll_wf (c : Core) (sp sq : Space) (l : List BitWrite) (h : (c.mem sq).wf = true) : ((c.putAll sp l).mem sq).wf = true := by
  by_cases e : sq = sp
  · subst e
    cases sq with
    | glob => exact h
    | act => rw [Core.mem_putAll_same c l (by decide)]; exact Memory.writeAll_wf l h
    | stg => rw [Core.mem_putAll_same c l (by decide)]; exact Memory.writeAll_wf l h
    | imem => rw [Core.mem_putAll_same c l (by decide)]; exact Memory.writeAll_wf l h
  · rw [Core.mem_putAll_other c l e]; exact h

/-- What leaves memory alone line by line leaves it alone. -/
theorem Device.foldl_mem {f : Device → Nat → Device} (h : ∀ d l, (f d l).mem = d.mem) (d : Device) (l : List Nat) : (l.foldl f d).mem = d.mem := by
  induction l generalizing d with
  | nil => rfl
  | cons x t ih => exact (ih _).trans (h d x)

theorem Device.backInvalidate_mem (d : Device) (l : Nat) : (d.backInvalidate l).mem = d.mem := by unfold Device.backInvalidate; split <;> rfl

theorem Device.cacheLine_mem (d : Device) (pin : Bool) (l : Nat) : (d.cacheLine pin l).mem = d.mem := by
  unfold Device.cacheLine; exact (apply_ite Device.mem _ _ _).trans (ite_self _)

theorem Device.useLine_mem (d : Device) (l : Nat) : (d.useLine l).mem = d.mem := by unfold Device.useLine; split <;> rfl

/-- A write that performs on local memory: its memory afterwards. -/
theorem Device.merge_mem (d : Device) (a w v : Nat) : (d.merge a w v).mem = if w = 0 then d.mem else d.mem.writeBits a w v := by
  unfold Device.merge
  split
  · rfl
  · exact congrArg (Memory.writeBits · a w v) (Device.foldl_mem (fun d l => Device.cacheLine_mem d false l) d _)

/-- A write on local memory: its memory afterwards. -/
theorem Device.put_mem (d : Device) (a w v : Nat) : (d.put a w v).mem = if w = 0 then d.mem else d.mem.writeBits a w v := by
  unfold Device.put
  rw [Device.merge_mem, Device.foldl_mem fun d l => Device.backInvalidate_mem d l]

theorem Device.put_wf (d : Device) (a w v : Nat) (h : d.mem.wf = true) : (d.put a w v).mem.wf = true := by
  rw [Device.put_mem]; split
  · exact h
  · exact Memory.writeBits_wf _ _ _ h

theorem Device.putAll_wf (d : Device) (l : List BitWrite) (h : d.mem.wf = true) : (d.putAll l).mem.wf = true := by
  induction l generalizing d with
  | nil => exact h
  | cons x t ih => exact ih _ (Device.put_wf _ _ _ _ h)

theorem Device.migrateBits_wf (d : Device) (a b n : Nat) (h : d.mem.wf = true) : (d.migrateBits a b n).mem.wf = true := by
  unfold Device.migrateBits
  dsimp only
  rw [Device.foldl_mem fun d l => Device.cacheLine_mem d false l, Device.foldl_mem fun d l => Device.backInvalidate_mem d l,
    Device.foldl_mem fun d l => Device.useLine_mem d l]
  exact Memory.copyBytes_wf _ _ _ h

theorem Half.writePart_wf (h : Half) (o n v : Nat) (k : h.mem.wf = true) : (h.writePart o n v).mem.wf = true := by
  unfold Half.writePart
  dsimp only
  split
  · split
    · exact k
    · exact Memory.writeBits_wf _ _ _ k
  · exact Memory.writeBits_wf _ _ _ k

theorem Half.write_wf (h : Half) (o w v : Nat) (k : h.mem.wf = true) : (h.write o w v).mem.wf = true := by
  unfold Half.write
  have : ∀ (l : List (Nat × Nat)) (h : Half), h.mem.wf = true →
      (l.foldl (fun (h : Half) p => h.writePart p.1 p.2 (v / 2 ^ (p.1 - o) % 2 ^ p.2)) h).mem.wf = true := by
    intro l
    induction l with
    | nil => exact fun _ k => k
    | cons p t ih => exact fun h k => ih _ (Half.writePart_wf _ _ _ _ k)
  dsimp only
  split
  · exact this _ _ k
  · exact this _ _ k

/-- Every listed address of m lies in [k, e). -/
def Memory.within (m : Memory) (k e : Nat) : Prop := ∀ x ∈ m, k ≤ x.1 ∧ x.1 < e

theorem Memory.append_wf {m n : Memory} {k j e : Nat} (hm : m.wf = true) (hn : n.wf = true) (h1 : Memory.within m k j)
    (h2 : Memory.within n j e) : Memory.wf (m ++ n) = true := by
  induction m with
  | nil => exact hn
  | cons x t ih =>
    obtain ⟨a, b⟩ := x
    obtain ⟨k1, k2, k3⟩ := Memory.wf_cons.mp hm
    refine Memory.wf_cons.mpr ⟨k1, fun y hy => ?_, ih k3 fun y hy => h1 y (by simp [hy])⟩
    rcases List.mem_append.mp hy with hy | hy
    · exact k2 y hy
    · exact Nat.lt_of_lt_of_le (h1 (a, b) (by simp)).2 (h2 y hy).1

theorem bytesFrom_within (k n v : Nat) : Memory.within (bytesFrom k n v) k (k + n) := by
  intro x hx
  simp only [bytesFrom, List.mem_filterMap, List.mem_range] at hx
  obtain ⟨i, h1, h2⟩ := hx
  split at h2
  · cases h2
  · cases h2; exact ⟨by omega, by omega⟩

theorem bytesFrom_succ (k n v : Nat) : bytesFrom k (n + 1) v =
    bytesFrom k n v ++ (if v / 2 ^ (8 * n) % 256 = 0 then [] else [(k + n, BitVec.ofNat 8 (v / 2 ^ (8 * n) % 256))]) := by
  unfold bytesFrom
  rw [List.range_succ, List.filterMap_append]
  congr 1
  simp only [List.filterMap_cons, List.filterMap_nil]
  split <;> simp_all

theorem bytesFrom_wf (k n v : Nat) : (bytesFrom k n v).wf = true := by
  induction n with
  | zero => rfl
  | succ n ih =>
    rw [bytesFrom_succ]
    split
    · simpa using ih
    · rename_i h
      refine Memory.append_wf (j := k + n) (e := k + n + 1) ih ?_ (bytesFrom_within k n v) ?_
      · simp only [Memory.wf, bne_iff_ne, ne_eq]
        intro e
        have := congrArg BitVec.toNat e
        simp at this
        omega
      · intro x hx
        simp only [List.mem_singleton] at hx
        subst hx
        exact ⟨Nat.le_refl _, Nat.lt_succ_self _⟩

/-- The contents a reload writes have the canonical form. -/
theorem Run.rows_wf (r : Run) (tfmt : Nat) : (r.rows tfmt).wf = true := by
  unfold Run.rows
  dsimp only
  have rowsOf : ∀ (f : Nat → Nat) (n : Nat), Memory.wf ((List.range n).flatMap fun j => bytesFrom (64 * j) 50 (f j)) = true ∧
      Memory.within ((List.range n).flatMap fun j => bytesFrom (64 * j) 50 (f j)) 0 (64 * n) := by
    intro f n
    induction n with
    | zero => exact ⟨rfl, fun x hx => by cases hx⟩
    | succ n ih =>
      rw [List.range_succ, List.flatMap_append]
      simp only [List.flatMap_cons, List.flatMap_nil, List.append_nil]
      refine ⟨Memory.append_wf ih.1 (bytesFrom_wf _ _ _) ih.2 (bytesFrom_within _ _ _), fun x hx => ?_⟩
      rcases List.mem_append.mp hx with hx | hx
      · exact ⟨Nat.zero_le _, Nat.lt_of_lt_of_le (ih.2 x hx).2 (by omega)⟩
      · exact ⟨Nat.zero_le _, Nat.lt_of_lt_of_le (bytesFrom_within _ _ _ x hx).2 (by omega)⟩
  exact Memory.append_wf (rowsOf _ 256).1 (bytesFrom_wf _ _ _) (rowsOf _ 256).2 (bytesFrom_within _ _ _)

end Sys2Proof.Machine
end

