-- ==== Sys2Proof/Tests/Slice0.lean ====
section
/-! SUPPORT. Slice0.lean: the tests of the model's author: the checks of WellFormed, words written out from the spec's encodings, one step of each family on a small state, and the states that meet the hypotheses of each obligation. -/

set_option maxRecDepth 4000

namespace Sys2Proof

/-! ## The checks of WellFormed (Instr.wf): a term that each check refuses -/

/-- A slot refused as ill-formed. -/
def ill (i : Instr) : Bool := !i.wf

theorem test_wf_control :
    [Instr.crd 1 0x005, .crd 1 0x018, .cwr 0x013 1, .cwr 0x040 1, .gidx (.reg 1) 6, .lbrk 6, .gspawn 31, .pwracq 0, .ltag 6 1 1, .rdi (.reg 1) 6].all ill = true ∧
    [Instr.crd 1 0x004, .crd 1 0x042, .cwr 0x023 1, .gidx (.reg 1) 5, .lbrk 5, .gspawn 30, .pwracq 15, .ltag 5 1 1, .rdi (.reg 1) 5].any ill = false := by decide

theorem test_wf_bit_fields :
    [Instr.bfx true (.reg 1) (.reg 2) 63 1, .bfi 1 (.reg 2) 32 32, .bfm (.reg 1) 1 63].all ill = true ∧
    [Instr.bfx true (.reg 1) (.reg 2) 63 0, .bfi 1 (.reg 2) 32 31, .bfm (.reg 1) 0 63].any ill = false := by decide

theorem test_wf_predicate_pair_zero :
    [Instr.cmp .eq 0 (.reg 1) (.reg 2), .cmpi .eq 0 (.reg 1) 0, .pand 0 1 2, .por 0 1 2, .pxor 0 1 2, .pandn 0 1 2, .trans 1 (.reg 2) 0,
     .btest 0 (.reg 1) 0].all ill = true := by decide

theorem test_wf_pointer_formats :
    [Instr.padd .mxi4z (.reg 1) (.reg 2) (.reg 3), .pdif .mxi4z (.reg 1) (.reg 2) (.reg 3), .pal .mxi4z (.reg 1) (.reg 2) (.reg 3),
     .pcls .mxi4z (.reg 1) (.reg 2) (.reg 3), .prec .s8 (.reg 1) (.reg 2) (.reg 3), .pscl .mxi4z (.reg 1) (.reg 2), .pscl .fp32 (.reg 1) (.reg 2)].all ill = true ∧
    [Instr.prec .mxi4z (.reg 1) (.reg 2) (.reg 3), .pidx .mxi4z (.reg 1) (.reg 2) (.reg 3), .pscl .mxi3 (.reg 1) (.reg 2)].any ill = false := by decide

theorem test_wf_memory :
    [Instr.ldAct true 0 (.reg 1) (.reg 2) 3, .vldAct 3 true (.reg 1) (.reg 2), .aaddAct 11 0 1 2 0, .aandAct 12 0 1 2 0, .aorAct 13 0 1 2 0, .axorAct 14 0 1 2 0,
     .aminAct 15 0 1 2 0, .amaxAct 11 0 1 2 0, .aswapAct 11 0 1 2 0, .acasAct 11 0 1 2 0, .acasAct 0 0 31 2 0, .aaddG 11 0 0 1 0, .aaddG 0 0 0 31 0,
     .aandG 11 0 0 1 0, .aandG 0 0 0 31 0, .aorG 11 0 0 1 0, .aorG 0 0 0 31 0, .axorG 11 0 0 1 0, .axorG 0 0 0 31 0, .aminG 11 0 0 1 0, .aminG 0 0 0 31 0,
     .amaxG 11 0 0 1 0, .amaxG 0 0 0 31 0, .aswapG 11 0 0 1 0, .aswapG 0 0 0 31 0, .acasG 11 0 0 1 0, .acasG 0 0 0 30 0].all ill = true ∧
    [Instr.acasAct 10 0 30 2 0, .acasG 10 0 0 29 0, .aaddG 10 0 0 30 0].any ill = false := by decide

theorem test_wf_order_codes :
    [Instr.fence 0, .barv 1 (.reg 1) (.reg 2), .barv 5 (.reg 1) (.reg 2), .barv 11 (.reg 1) (.reg 2), .bwait 6 (.reg 1), .btest 1 (.reg 1) 6].all ill = true ∧
    [Instr.fence 15, .barv 0 (.reg 1) (.reg 2), .barv 6 (.reg 1) (.reg 2), .barv 10 (.reg 1) (.reg 2), .bwait 5 (.reg 1), .btest 7 (.reg 1) 5].any ill = false := by decide

theorem test_wf_rounding_sr :
    [Instr.fadd .bf16 .sr (.reg 1) (.reg 2) (.reg 3), .fsub .bf16 .sr (.reg 1) (.reg 2) (.reg 3), .fmul .bf16 .sr (.reg 1) (.reg 2) (.reg 3),
     .fma .bf16 .sr 1 (.reg 2) (.reg 3), .fms .bf16 .sr 1 (.reg 2) (.reg 3), .fnma .bf16 .sr 1 (.reg 2) (.reg 3), .eread .fp32 .sr (.reg 1) 0,
     .fexp .bf16 .sr (.reg 1) (.reg 2), .fexp2 .bf16 .sr (.reg 1) (.reg 2), .fexpm1 .bf16 .sr (.reg 1) (.reg 2), .flog .bf16 .sr (.reg 1) (.reg 2),
     .flog2 .bf16 .sr (.reg 1) (.reg 2), .flog1p .bf16 .sr (.reg 1) (.reg 2), .fsin .bf16 .sr (.reg 1) (.reg 2), .fcos .bf16 .sr (.reg 1) (.reg 2),
     .fsinpi .bf16 .sr (.reg 1) (.reg 2), .fcospi .bf16 .sr (.reg 1) (.reg 2), .ftanh .bf16 .sr (.reg 1) (.reg 2), .flogi .bf16 .sr (.reg 1) (.reg 2),
     .ferf .bf16 .sr (.reg 1) (.reg 2), .frsq .bf16 .sr (.reg 1) (.reg 2), .fsqrt .bf16 .sr (.reg 1) (.reg 2), .frcp .bf16 .sr (.reg 1) (.reg 2),
     .fdiv .bf16 .sr (.reg 1) (.reg 2) (.reg 3)].all ill = true ∧ Instr.wf (.cvt .bf16 .fp32 .sr (.reg 1) (.reg 2)) = true := by decide

theorem test_wf_formats :
    [Instr.cvt .mxi8 .fp32 .rne (.reg 1) (.reg 2), .cvt .fp32 .s64 .rne (.reg 1) (.reg 2), .qnt .fp32 0 .rne 0 (.reg 1) (.reg 2), .qnt .mxi8 3 .rne 0 (.reg 1) (.reg 2),
     .qnt .mxi8 0 .rne 3 (.reg 1) (.reg 2), .qnt .mxf4 1 .rne 0 (.reg 1) (.reg 2), .dqnt .s8 0 .rne 0 (.reg 1) (.reg 2), .dqnt .mxi8 3 .rne 0 (.reg 1) (.reg 2),
     .dqnt .mxi8 0 .rne 3 (.reg 1) (.reg 2), .dqnt .mxf4 2 .rne 0 (.reg 1) (.reg 2), .eacc .n64 0 (.reg 1), .evred .mxi8 1 (.reg 1), .eread .s64 .rne (.reg 1) 0].all ill = true := by decide

theorem test_wf_units :
    [Instr.mpush 1 (.pop 0) (.reg 1), .mpush 1 (.reg 0) (.pop 1), .mpush 1 (.peek 0) (.peek 0), .rld 31 1, .qstr 0 1 6, .qstat 1 0 3, .cpy true 0 1 2 31, .xfer true 0 1 2 31,
     .collAllr true 0 1 2 31, .collBcast true 0 1 2 31, .collAllg true 0 1 2 31, .collRsc true 0 1 2 31].all ill = true ∧
    [Instr.mpush 1 (.pop 0) (.reg 0), .mpush 1 (.reg 5) (.reg 1), .rld 30 1, .qstr 0 1 5, .qstat 1 0 2, .cpy true 0 1 2 30].any ill = false := by decide

/-! ## Words no row assigns (R81, R83) -/

/-- A reserved low field of major 0; an unassigned major; a destination field of 48 or more; rounding code 6; format code 5 of a qnt; cond code 8; p0 as a pair. -/
theorem test_decode_refuses :
    [0x00001234, 0x7E000000, 0x10030000, 0x40000000 + 6 * 2 ^ 18, 0x4E000000 + 5 * 2 ^ 19, 0x1E000000 + 8 * 2 ^ 21 + 2 ^ 18, 0x1E000000].all
      (fun w => (decodeSlot w).isNone) = true ∧ decodeFirmware 0x0000000F = none ∧ decodeFirmware 0x0200000B = none := by decide

/-! ## Words written out from the encodings of the spec: every row of the opcode table that has one -/

theorem test_decode_major00_1 :
    decodeSlot 0x00000000 = some .nop ∧
    decodeSlot 0x00040006 = some (.trap 6) ∧
    decodeSlot 0x00080000 = some .tret ∧
    decodeSlot 0x000C0000 = some .safe ∧
    decodeSlot 0x00107012 = some (.crd 7 18) ∧
    decodeSlot 0x00148016 = some (.cwr 22 8) ∧
    decodeSlot 0x00180000 = some .gfence ∧
    decodeSlot 0x001C0000 = some .exit ∧
    decodeSlot 0x00205004 = some (.gidx (.reg 5) 4) := by decide

theorem test_decode_major00_2 :
    decodeSlot 0x00240003 = some (.lbrk 3) ∧
    decodeSlot 0x002801C0 = some (.gspawn 7) ∧
    decodeSlot 0x002C0006 = some (.pwracq 6) ∧
    decodeSlot 0x00300000 = some .pwrrel := by decide

theorem test_decode_major01 :
    decodeSlot 0x0200006B = some (.br 6 11) := by decide

theorem test_decode_major02 :
    decodeSlot 0x0400006B = some (.call 6 11) := by decide

theorem test_decode_major03 :
    decodeSlot 0x0600080B = some (.bri 2 11) ∧
    decodeSlot 0x06400006 = some (.ret 6) := by decide

theorem test_decode_major04 :
    decodeSlot 0x0820000B = some (.pbr 2 11) := by decide

theorem test_decode_major05 :
    decodeSlot 0x0A8C000B = some (.loop 6 11) ∧
    decodeSlot 0x0A0C0022 = some (.loopReg 6 (.pop 2)) ∧
    decodeSlot 0x0B8C000B = some (.loopSafe 6 11) ∧
    decodeSlot 0x0B0C0035 = some (.loopSafeReg 6 (.peek 5)) := by decide

theorem test_decode_major06 :
    decodeSlot 0x0D400B10 = some (.ltag 5 11 16) := by decide

theorem test_decode_major08_1 :
    decodeSlot 0x10022123 = some (.add (.push 2) (.reg 4) (.pop 3)) ∧
    decodeSlot 0x10062123 = some (.sub (.push 2) (.reg 4) (.pop 3)) ∧
    decodeSlot 0x100A2123 = some (.and (.push 2) (.reg 4) (.pop 3)) ∧
    decodeSlot 0x100C52C5 = some (.or (.reg 5) (.reg 11) (.reg 5)) ∧
    decodeSlot 0x10122123 = some (.xor (.push 2) (.reg 4) (.pop 3)) ∧
    decodeSlot 0x101458B6 = some (.andn (.reg 5) (.pop 2) (.peek 6)) ∧
    decodeSlot 0x101A2123 = some (.min (.push 2) (.reg 4) (.pop 3)) ∧
    decodeSlot 0x101E2123 = some (.max (.push 2) (.reg 4) (.pop 3)) ∧
    decodeSlot 0x102058B6 = some (.minu (.reg 5) (.pop 2) (.peek 6)) := by decide

theorem test_decode_major08_2 :
    decodeSlot 0x102458B6 = some (.maxu (.reg 5) (.pop 2) (.peek 6)) ∧
    decodeSlot 0x102A2123 = some (.shl (.push 2) (.reg 4) (.pop 3)) ∧
    decodeSlot 0x102E2123 = some (.shr (.push 2) (.reg 4) (.pop 3)) ∧
    decodeSlot 0x10322123 = some (.sra (.push 2) (.reg 4) (.pop 3)) ∧
    decodeSlot 0x10362123 = some (.rol (.push 2) (.reg 4) (.pop 3)) ∧
    decodeSlot 0x103A2123 = some (.ror (.push 2) (.reg 4) (.pop 3)) ∧
    decodeSlot 0x10422100 = some (.clz (.push 2) (.reg 4)) ∧
    decodeSlot 0x10462100 = some (.ctz (.push 2) (.reg 4)) ∧
    decodeSlot 0x10485880 = some (.popc (.reg 5) (.pop 2)) := by decide

theorem test_decode_major08_3 :
    decodeSlot 0x104C5880 = some (.brev (.reg 5) (.pop 2)) ∧
    decodeSlot 0x10522100 = some (.abs (.push 2) (.reg 4)) ∧
    decodeSlot 0x108220C0 = some (.rdb (.push 2) 3) ∧
    decodeSlot 0x10842100 = some (.wrb 2 (.reg 4)) ∧
    decodeSlot 0x108A2000 = some (.rdp (.push 2)) ∧
    decodeSlot 0x108C0284 = some (.wrp (.reg 10) (.reg 4)) ∧
    decodeSlot 0x109220C0 = some (.rdm (.push 2) 3) ∧
    decodeSlot 0x10946100 = some (.wrm 6 (.reg 4)) ∧
    decodeSlot 0x109A20C0 = some (.rde (.push 2) 3) := by decide

theorem test_decode_major08_4 :
    decodeSlot 0x109C6100 = some (.wre 6 (.reg 4)) ∧
    decodeSlot 0x10A22140 = some (.rdi (.push 2) 5) := by decide

theorem test_decode_major09 :
    decodeSlot 0x12022123 = some (.mul (.push 2) (.reg 4) (.pop 3)) ∧
    decodeSlot 0x120458B6 = some (.mulh (.reg 5) (.pop 2) (.peek 6)) ∧
    decodeSlot 0x120A2D4C = some (.mulhu (.push 2) (.peek 5) (.reg 12)) ∧
    decodeSlot 0x120C7123 = some (.div 7 (.reg 4) (.pop 3)) ∧
    decodeSlot 0x121078B6 = some (.divu 7 (.pop 2) (.peek 6)) ∧
    decodeSlot 0x12147123 = some (.rem 7 (.reg 4) (.pop 3)) ∧
    decodeSlot 0x121878B6 = some (.remu 7 (.pop 2) (.peek 6)) := by decide

theorem test_decode_major0A :
    decodeSlot 0x14058810 = some (.addi (.reg 5) (.pop 2) 16) ∧
    decodeSlot 0x14458810 = some (.andi (.reg 5) (.pop 2) 16) ∧
    decodeSlot 0x14A21010 = some (.ori (.push 2) (.reg 4) 16) ∧
    decodeSlot 0x14C58810 = some (.xori (.reg 5) (.pop 2) 16) ∧
    decodeSlot 0x15058810 = some (.shli (.reg 5) (.pop 2) 16) ∧
    decodeSlot 0x15458810 = some (.shri (.reg 5) (.pop 2) 16) ∧
    decodeSlot 0x15858810 = some (.srai (.reg 5) (.pop 2) 16) := by decide

theorem test_decode_major0B :
    decodeSlot 0x1605000B = some (.li (.reg 5) 11) ∧
    decodeSlot 0x1647000B = some (.lih1 7 11) ∧
    decodeSlot 0x1687000B = some (.lih2 7 11) ∧
    decodeSlot 0x16C7000B = some (.lih3 7 11) := by decide

theorem test_decode_major0C :
    decodeSlot 0x198E350B = some (.bfx true (.push 3) (.pop 3) 20 11) := by decide

theorem test_decode_major0D :
    decodeSlot 0x1A1C425E = some (.bfi 7 (.reg 4) 9 30) := by decide

theorem test_decode_major0E :
    decodeSlot 0x1C880A15 = some (.bfm (.push 2) 40 21) := by decide

theorem test_decode_major0F :
    decodeSlot 0x1ECE3DC0 = some (.cmp .tst 3 (.pop 3) (.peek 7)) := by decide

theorem test_decode_major10 :
    decodeSlot 0x20CF6015 = some (.cmpi .tst 3 (.peek 6) 21) := by decide

theorem test_decode_major11 :
    decodeSlot 0x22358000 = some (.pand 6 11 0) ∧
    decodeSlot 0x22758000 = some (.por 6 11 0) ∧
    decodeSlot 0x22B58000 = some (.pxor 6 11 0) ∧
    decodeSlot 0x22F58000 = some (.pandn 6 11 0) := by decide

theorem test_decode_major12 :
    decodeSlot 0x24221235 = some (.sel (.push 2) (.reg 4) (.pop 3) 5) := by decide

theorem test_decode_major13 :
    decodeSlot 0x26286D8D = some (.padd .mxi4 (.reg 6) (.peek 6) (.reg 13)) ∧
    decodeSlot 0x26A86D8D = some (.pdif .mxi4 (.reg 6) (.peek 6) (.reg 13)) ∧
    decodeSlot 0x27286D8D = some (.pidx .mxi4 (.reg 6) (.peek 6) (.reg 13)) ∧
    decodeSlot 0x27A86D8D = some (.prec .mxi4 (.reg 6) (.peek 6) (.reg 13)) := by decide

theorem test_decode_major14 :
    decodeSlot 0x28186164 = some (.paddB 6 (.reg 6) (.reg 5) (.pop 4)) ∧
    decodeSlot 0x29186164 = some (.pdifB 6 (.reg 6) (.reg 5) (.pop 4)) := by decide

theorem test_decode_major15 :
    decodeSlot 0x2A286D80 = some (.pscl .mxi4 (.reg 6) (.peek 6)) ∧
    decodeSlot 0x2AAA38F7 = some (.pal .mxi4 (.push 3) (.pop 3) (.peek 7)) ∧
    decodeSlot 0x2B286D8D = some (.pcls .mxi4 (.reg 6) (.peek 6) (.reg 13)) := by decide

theorem test_decode_major18 :
    decodeSlot 0x308B1E42 = some (.ldAct true 11 (.reg 7) (.pop 4) 2) ∧
    decodeSlot 0x30CB1E40 = some (.ldStg true 11 (.reg 7) (.pop 4)) ∧
    decodeSlot 0x318B164A = some (.stAct true 11 (.reg 5) (.pop 4) 10) ∧
    decodeSlot 0x31462C55 = some (.stStg 6 (.reg 11) (.reg 5) 5) := by decide

theorem test_decode_major19 :
    decodeSlot 0x32964AAC = some (.ldG true 11 (.reg 9) 5 11) ∧
    decodeSlot 0x331900AA = some (.stG 6 8 0 10 10) := by decide

theorem test_decode_major1A :
    decodeSlot 0x341A4DC0 = some (.vldAct 1 true (.push 4) (.peek 7)) ∧
    decodeSlot 0x344A38F7 = some (.vldActStr true (.push 3) (.pop 3) (.peek 7)) ∧
    decodeSlot 0x348A38C0 = some (.vldActCol true (.push 3) (.pop 3)) ∧
    decodeSlot 0x34CA38C0 = some (.vldStg true (.push 3) (.pop 3)) ∧
    decodeSlot 0x350A3006 = some (.vldG true (.push 3) 0 (.reg 6)) := by decide

theorem test_decode_major1B :
    decodeSlot 0x3782121A = some (.vstAct 6 8 9 true 10) ∧
    decodeSlot 0x378A12AA = some (.vstActStr16 6 8 9 10 10) ∧
    decodeSlot 0x3792121A = some (.vstActCol 6 8 9 true 10) ∧
    decodeSlot 0x379A121A = some (.vstStg 6 8 9 true 10) ∧
    decodeSlot 0x37A22ABF = some (.vstG 6 8 true 5 11 15) ∧
    decodeSlot 0x37AA121A = some (.vstActFill 6 8 9 true 10) ∧
    decodeSlot 0x37B212AA = some (.vstActStr32 6 8 9 10 10) := by decide

theorem test_decode_major1C :
    decodeSlot 0x381ED2AA = some (.aaddAct 7 11 9 10 10) ∧
    decodeSlot 0x385ED2AA = some (.aandAct 7 11 9 10 10) ∧
    decodeSlot 0x389ED2AA = some (.aorAct 7 11 9 10 10) ∧
    decodeSlot 0x38DED2AA = some (.axorAct 7 11 9 10 10) ∧
    decodeSlot 0x391ED2AA = some (.aminAct 7 11 9 10 10) ∧
    decodeSlot 0x395ED2AA = some (.amaxAct 7 11 9 10 10) ∧
    decodeSlot 0x399ED2AA = some (.aswapAct 7 11 9 10 10) ∧
    decodeSlot 0x39DED2AA = some (.acasAct 7 11 9 10 10) := by decide

theorem test_decode_major1D :
    decodeSlot 0x3A1EC14A = some (.aaddG 7 11 0 10 10) ∧
    decodeSlot 0x3A5EC14A = some (.aandG 7 11 0 10 10) ∧
    decodeSlot 0x3A9EC14A = some (.aorG 7 11 0 10 10) ∧
    decodeSlot 0x3ADEC14A = some (.axorG 7 11 0 10 10) ∧
    decodeSlot 0x3B1EC14A = some (.aminG 7 11 0 10 10) ∧
    decodeSlot 0x3B5EC14A = some (.amaxG 7 11 0 10 10) ∧
    decodeSlot 0x3B9EC14A = some (.aswapG 7 11 0 10 10) ∧
    decodeSlot 0x3BDEC14A = some (.acasG 7 11 0 10 10) := by decide

theorem test_decode_major1E_1 :
    decodeSlot 0x3C000000 = some .mark ∧
    decodeSlot 0x3C040006 = some (.fence 6) ∧
    decodeSlot 0x3C080000 = some .fenceSc ∧
    decodeSlot 0x3C0C6100 = some (.fmt 6 (.reg 4)) ∧
    decodeSlot 0x3C106D4C = some (.clean 6 (.peek 5) (.reg 12)) ∧
    decodeSlot 0x3C146123 = some (.inv 6 (.reg 4) (.pop 3)) ∧
    decodeSlot 0x3C186D43 = some (.trans 6 (.peek 5) 3) ∧
    decodeSlot 0x3C1C0875 = some (.probe (.pop 1) (.peek 5)) ∧
    decodeSlot 0x3C206000 = some (.hrev 6) := by decide

theorem test_decode_major1E_2 :
    decodeSlot 0x3C2622C0 = some (.hinfo (.push 2) 11) ∧
    decodeSlot 0x3C2862C0 = some (.hmov 6 11) := by decide

theorem test_decode_major1F :
    decodeSlot 0x3E000875 = some (.binit (.pop 1) (.peek 5)) ∧
    decodeSlot 0x3E0488B6 = some (.barv 8 (.pop 2) (.peek 6)) ∧
    decodeSlot 0x3E083D40 = some (.bwait 3 (.peek 5)) ∧
    decodeSlot 0x3E0C6D44 = some (.btest 6 (.peek 5) 4) ∧
    decodeSlot 0x3E100D00 = some (.hbwait (.peek 4)) ∧
    decodeSlot 0x3E140840 = some (.waitt (.pop 1)) := by decide

theorem test_decode_major20_1 :
    decodeSlot 0x481C7347 = some (.fadd .fp8e5 .dyn (.reg 7) (.reg 13) (.reg 7)) ∧
    decodeSlot 0x483C7347 = some (.fsub .fp8e5 .dyn (.reg 7) (.reg 13) (.reg 7)) ∧
    decodeSlot 0x485C7347 = some (.fmul .fp8e5 .dyn (.reg 7) (.reg 13) (.reg 7)) ∧
    decodeSlot 0x46709DCE = some (.fma .fp8e4 .rdn 9 (.peek 7) (.reg 14)) ∧
    decodeSlot 0x46909DCE = some (.fms .fp8e4 .rdn 9 (.peek 7) (.reg 14)) ∧
    decodeSlot 0x48BC9347 = some (.fnma .fp8e5 .dyn 9 (.reg 13) (.reg 7)) ∧
    decodeSlot 0x48C06D8D = some (.fmin .fp8e5 (.reg 6) (.peek 6) (.reg 13)) ∧
    decodeSlot 0x48E06D8D = some (.fmax .fp8e5 (.reg 6) (.peek 6) (.reg 13)) ∧
    decodeSlot 0x49006D80 = some (.fabs .fp8e5 (.reg 6) (.peek 6)) := by decide

theorem test_decode_major20_2 :
    decodeSlot 0x49206D80 = some (.fneg .fp8e5 (.reg 6) (.peek 6)) ∧
    decodeSlot 0x454038F7 = some (.fcmpEq .fp32 3 (.pop 3) (.peek 7)) ∧
    decodeSlot 0x456038F7 = some (.fcmpLt .fp32 3 (.pop 3) (.peek 7)) ∧
    decodeSlot 0x458038F7 = some (.fcmpLe .fp32 3 (.pop 3) (.peek 7)) ∧
    decodeSlot 0x45A038F7 = some (.fcmpUn .fp32 3 (.pop 3) (.peek 7)) := by decide

theorem test_decode_major25_1 :
    decodeSlot 0x4B006D8D = some (.vadd true (.reg 6) (.peek 6) (.reg 13)) ∧
    decodeSlot 0x4B046D8D = some (.vsub true (.reg 6) (.peek 6) (.reg 13)) ∧
    decodeSlot 0x4B086D8D = some (.vmul true (.reg 6) (.peek 6) (.reg 13)) ∧
    decodeSlot 0x4B0E3306 = some (.vadds true (.push 3) (.reg 12) (.reg 6)) ∧
    decodeSlot 0x4B106164 = some (.vaddus true (.reg 6) (.reg 5) (.pop 4)) ∧
    decodeSlot 0x4B163306 = some (.vsubs true (.push 3) (.reg 12) (.reg 6)) ∧
    decodeSlot 0x4B186164 = some (.vsubus true (.reg 6) (.reg 5) (.pop 4)) ∧
    decodeSlot 0x4B1C6D8D = some (.vmin true (.reg 6) (.peek 6) (.reg 13)) ∧
    decodeSlot 0x4B206D8D = some (.vmax true (.reg 6) (.peek 6) (.reg 13)) := by decide

theorem test_decode_major25_2 :
    decodeSlot 0x4B263306 = some (.vminu true (.push 3) (.reg 12) (.reg 6)) ∧
    decodeSlot 0x4B2A3306 = some (.vmaxu true (.push 3) (.reg 12) (.reg 6)) ∧
    decodeSlot 0x4B2C6D8D = some (.vand true (.reg 6) (.peek 6) (.reg 13)) ∧
    decodeSlot 0x4B3238F7 = some (.vor true (.push 3) (.pop 3) (.peek 7)) ∧
    decodeSlot 0x4B346D8D = some (.vxor true (.reg 6) (.peek 6) (.reg 13)) ∧
    decodeSlot 0x4B386D8D = some (.vshl true (.reg 6) (.peek 6) (.reg 13)) ∧
    decodeSlot 0x4B3C6D8D = some (.vshr true (.reg 6) (.peek 6) (.reg 13)) ∧
    decodeSlot 0x4B406D8D = some (.vsra true (.reg 6) (.peek 6) (.reg 13)) ∧
    decodeSlot 0x4B446D80 = some (.vabs true (.reg 6) (.peek 6)) := by decide

theorem test_decode_major25_3 :
    decodeSlot 0x4B4838F7 = some (.vcmpEq true 3 (.pop 3) (.peek 7)) ∧
    decodeSlot 0x4B4C38F7 = some (.vcmpLt true 3 (.pop 3) (.peek 7)) ∧
    decodeSlot 0x4B503D8D = some (.vcmpLtu true 3 (.peek 6) (.reg 13)) := by decide

theorem test_decode_major26 :
    decodeSlot 0x4C38494E = some (.cvt .fp8e4 .s8 .rdn (.push 5) (.reg 14)) := by decide

theorem test_decode_major27 :
    decodeSlot 0x4E551988 = some (.qnt .mxi4 2 .rdn 1 (.push 6) (.reg 8)) ∧
    decodeSlot 0x4F53D266 = some (.dqnt .mxi4 1 .dyn 1 (.reg 9) (.pop 6)) := by decide

theorem test_decode_major28 :
    decodeSlot 0x51A07347 = some (.vsel 6 true (.reg 7) (.reg 13) (.reg 7)) := by decide

theorem test_decode_major29 :
    decodeSlot 0x52423306 = some (.vperm true (.push 3) (.reg 12) (.reg 6)) ∧
    decodeSlot 0x52C06140 = some (.vbcast true (.reg 6) (.reg 5)) ∧
    decodeSlot 0x53408D8D = some (.vins true 8 (.peek 6) (.reg 13)) ∧
    decodeSlot 0x53C06D8D = some (.vext true (.reg 6) (.peek 6) (.reg 13)) := by decide

theorem test_decode_major2A :
    decodeSlot 0x540060C0 = some (.mand 6 3 0) ∧
    decodeSlot 0x540460C0 = some (.mor 6 3 0) ∧
    decodeSlot 0x540860C0 = some (.mxor 6 3 0) ∧
    decodeSlot 0x540C60C0 = some (.mandn 6 3 0) ∧
    decodeSlot 0x541060C0 = some (.mnot 6 3) ∧
    decodeSlot 0x541620C0 = some (.mpopc (.push 2) 3) := by decide

theorem test_decode_major2B :
    decodeSlot 0x562000F6 = some (.eacc .s8 3 (.peek 6)) ∧
    decodeSlot 0x5642020C = some (.evred .bf16 8 (.reg 12)) ∧
    decodeSlot 0x56824905 = some (.eread .bf16 .rna (.push 4) 5) ∧
    decodeSlot 0x56C00183 = some (.eclr 6 3) ∧
    decodeSlot 0x57000188 = some (.eanc 6 8) ∧
    decodeSlot 0x57400143 = some (.eflg (.reg 5) 3) := by decide

theorem test_decode_major30_1 :
    decodeSlot 0x6009C1CD = some (.fexp .fp8e5 .dyn (.reg 7) (.reg 13)) ∧
    decodeSlot 0x60124906 = some (.fexp2 .bf16 .rna (.push 4) (.reg 6)) ∧
    decodeSlot 0x602481E4 = some (.fexpm1 .fp16 .rtz (.reg 7) (.pop 4)) ∧
    decodeSlot 0x6039C1CD = some (.flog .fp8e5 .dyn (.reg 7) (.reg 13)) ∧
    decodeSlot 0x60424906 = some (.flog2 .bf16 .rna (.push 4) (.reg 6)) ∧
    decodeSlot 0x605481E4 = some (.flog1p .fp16 .rtz (.reg 7) (.pop 4)) ∧
    decodeSlot 0x6069C1CD = some (.fsin .fp8e5 .dyn (.reg 7) (.reg 13)) ∧
    decodeSlot 0x6079C1CD = some (.fcos .fp8e5 .dyn (.reg 7) (.reg 13)) ∧
    decodeSlot 0x608481E4 = some (.fsinpi .fp16 .rtz (.reg 7) (.pop 4)) := by decide

theorem test_decode_major30_2 :
    decodeSlot 0x609481E4 = some (.fcospi .fp16 .rtz (.reg 7) (.pop 4)) ∧
    decodeSlot 0x60A24906 = some (.ftanh .bf16 .rna (.push 4) (.reg 6)) ∧
    decodeSlot 0x60B24906 = some (.flogi .bf16 .rna (.push 4) (.reg 6)) ∧
    decodeSlot 0x60C9C1CD = some (.ferf .fp8e5 .dyn (.reg 7) (.reg 13)) ∧
    decodeSlot 0x60D9C1CD = some (.frsq .fp8e5 .dyn (.reg 7) (.reg 13)) ∧
    decodeSlot 0x60E24906 = some (.fsqrt .bf16 .rna (.push 4) (.reg 6)) ∧
    decodeSlot 0x60F9C1CD = some (.frcp .fp8e5 .dyn (.reg 7) (.reg 13)) := by decide

theorem test_decode_major31 :
    decodeSlot 0x629C7347 = some (.fdiv .fp8e5 .dyn (.reg 7) (.reg 13) (.reg 7)) := by decide

theorem test_decode_major32 :
    decodeSlot 0x640408CC = some (.xexp2 .bf16 (.push 3) (.reg 12)) ∧
    decodeSlot 0x642408CC = some (.xlog2 .bf16 (.push 3) (.reg 12)) ∧
    decodeSlot 0x645001B6 = some (.xrsq .fp8e5 (.reg 6) (.peek 6)) ∧
    decodeSlot 0x647001B6 = some (.xrcp .fp8e5 (.reg 6) (.peek 6)) ∧
    decodeSlot 0x648408CC = some (.xtanh .bf16 (.push 3) (.reg 12)) ∧
    decodeSlot 0x64A408CC = some (.xlogi .bf16 (.push 3) (.reg 12)) ∧
    decodeSlot 0x64D001B6 = some (.xsin .fp8e5 (.reg 6) (.peek 6)) ∧
    decodeSlot 0x64F001B6 = some (.xerf .fp8e5 (.reg 6) (.peek 6)) := by decide

theorem test_decode_major34 :
    decodeSlot 0x680181CC = some (.mpush 6 (.reg 7) (.reg 12)) ∧
    decodeSlot 0x6841A000 = some (.mshift 6 true) ∧
    decodeSlot 0x68818000 = some (.macc 6) ∧
    decodeSlot 0x68C18000 = some (.mdrain 6) ∧
    decodeSlot 0x69018000 = some (.maccD 6) := by decide

theorem test_decode_major35 :
    decodeSlot 0x6A0001C8 = some (.mset 7 8) ∧
    decodeSlot 0x6A0401C8 = some (.mmode 7 8) ∧
    decodeSlot 0x6A0801C0 = some (.mglaze 7) ∧
    decodeSlot 0x6A0C01C0 = some (.mchk 7) ∧
    decodeSlot 0x6A107200 = some (.mstat 7 8) := by decide

theorem test_decode_major36 :
    decodeSlot 0x6C0001C8 = some (.rld 7 8) ∧
    decodeSlot 0x6C0401C8 = some (.xpcfg 7 8) := by decide

theorem test_decode_major38 :
    decodeSlot 0x70006209 = some (.qbind 6 8 9) ∧
    decodeSlot 0x70046000 = some (.qunb 6) ∧
    decodeSlot 0x70086200 = some (.qadv 6 8) ∧
    decodeSlot 0x700C6200 = some (.qwait 6 8) ∧
    decodeSlot 0x70106200 = some (.qstr 6 8 0) ∧
    decodeSlot 0x701472C0 = some (.qstat 7 11 0) ∧
    decodeSlot 0x70187003 = some (.sqrd 7 3) := by decide

theorem test_decode_major39 :
    decodeSlot 0x72D8928B = some (.cpy true 11 9 10 11) ∧
    decodeSlot 0x73D8928B = some (.xfer true 11 9 10 11) := by decide

theorem test_decode_major3A :
    decodeSlot 0x746C928B = some (.collAllr true 11 9 10 11) ∧
    decodeSlot 0x74EC928B = some (.collBcast true 11 9 10 11) ∧
    decodeSlot 0x756C928B = some (.collAllg true 11 9 10 11) ∧
    decodeSlot 0x75EC928B = some (.collRsc true 11 9 10 11) := by decide

theorem test_decode_firmware :
    decodeFirmware 0x0094038B = some (.rfetch 7 8 9) ∧
    decodeFirmware 0x0094138B = some (.bfext 7 8 9) ∧
    decodeFirmware 0x0094238B = some (.swait 7 8 9) ∧
    decodeFirmware 0x0094338B = some (.disp 7 8 9) := by decide


end Sys2Proof

namespace Sys2Proof.Machine

/-! ## A small state, and what a slot does on it -/

/-- A handle VALID on the 64 KiB page at local address 2^32, with every right. -/
def tHandle : HandleBits := BitVec.ofNat 256 (2 ^ 254 + 7 * 2 ^ 250 + 2 ^ 32 * 2 ^ 136)

/-- A READ ring of 64-bit elements on the activation scratch that has read 7 and 9 ahead. -/
def tRead : Ring := { Ring.unbound with cfg := BitVec.ofNat 64 (2 * 2 ^ 61 + 63 * 2 ^ 51 + 64 * 2 ^ 20), window := [{ val := 7, addr := 0, cause := none }, { val := 9, addr := 64, cause := none }] }

/-- s1 = 7, s2 = 3, s3 = -1, s4 = -2^63, s5 = 128, s6 = 10; p2 set; m1 = 5; e1 = 128; b1 = 64; h1 a handle. -/
def tRegs : Regs := { Regs.reset with
  s := [0, 7, 3, -1, 0x8000000000000000, 128, 10] ++ List.replicate 25 0
  p := [true, false, true] ++ List.replicate 13 false, m := [0, 5] ++ List.replicate 6 0, e := [0, 128] ++ List.replicate 6 0
  b := [0, 64, 0, 96], h := [0, tHandle] ++ List.replicate 14 0 }

/-- A RUNNING context at slot address 32, in a level-0 loop of two iterations from 0 to 128, with a claim of 64 bundles of loop buffer. -/
def tCtx : Ctx := { Ctx.reset with
  st := .running, pc := 32, regs := tRegs, claims := { Claims.none with loopBuf := 64, imem := 32 }
  loops := { LoopStack.empty with levels := [{ start := 0, stop := 128, count := 2, index := 0, safe := false }] }
  rings := [tRead] ++ List.replicate 15 .unbound }

/-- That context on core 0, its bundle at 32, the next at 64. -/
def tState : State := { State.reset with ctx := tCtx, bundle := { Bundle.empty with pc := 32, next := 64 } }

/-- The same with other registers. -/
def tWith (f : Regs → Regs) : State := { tState with ctx := { tCtx with regs := f tRegs } }

/-- TVEC 0x400 with EN, and a bundle of four NOPs at 0: the trap saves cause, value, PC and slots, and goes on at 0x400. -/
def tTrap : State := { tState with
  core := { Core.reset with imem := Memory.writeBits [] 96 32 (2 ^ 31) }, ctx := { tCtx with tr := { tCtx.tr with tvec := 0x401 } } }
def tEntry : Entry := { cause := .illegalUse, val := 9, epc := 32, slots := 3, defer := false }

/-- The effects a slot stages. -/
def staged (o : Host.Outcome State Fault Refusal) : List Effect := match o with | .next t => t.bundle.effects | _ => []
/-- The mark a slot leaves. -/
def markOf (o : Host.Outcome State Fault Refusal) : Option Mark := match o with | .next t => some t.bundle.mark | _ => none
/-- The values of the results a slot stages. -/
def valsOf (o : Host.Outcome State Fault Refusal) : List Nat :=
  (staged o).filterMap fun e => match e with | .result p => some p.val | .push _ p => some p.val | _ => none
/-- The clk after which they land. -/
def latsOf (o : Host.Outcome State Fault Refusal) : List Nat :=
  (staged o).filterMap fun e => match e with | .result p => some p.left | .push _ p => some p.left | _ => none
/-- The flags they raise. -/
def flagsOf (o : Host.Outcome State Fault Refusal) : List Nat :=
  (staged o).filterMap fun e => match e with | .result p => some p.flags | .push _ p => some p.flags | _ => none

/-! ## Scalar slots (Table 7.2, Table 7.3, R151 to R153): 7, 3, -1, -2^63 -/

theorem test_scalar_add_sub : [exec (.add (.reg 8) (.reg 1) (.reg 3)) tState, exec (.sub (.reg 8) (.reg 2) (.reg 1)) tState].map valsOf =
    [[6], [2 ^ 64 - 4]] := by decide
theorem test_scalar_logic : [exec (.and (.reg 8) (.reg 1) (.reg 2)) tState, exec (.or (.reg 8) (.reg 1) (.reg 6)) tState, exec (.xor (.reg 8) (.reg 1) (.reg 2)) tState,
    exec (.andn (.reg 8) (.reg 1) (.reg 2)) tState].map valsOf = [[3], [15], [4], [4]] := by decide
theorem test_scalar_min_max : [exec (.min (.reg 8) (.reg 3) (.reg 1)) tState, exec (.max (.reg 8) (.reg 3) (.reg 1)) tState, exec (.minu (.reg 8) (.reg 3) (.reg 1)) tState,
    exec (.maxu (.reg 8) (.reg 3) (.reg 1)) tState].map valsOf = [[2 ^ 64 - 1], [7], [7], [2 ^ 64 - 1]] := by decide
/-- The amount is taken modulo 64: 128 + 3 counts as 3. -/
theorem test_scalar_shifts : [exec (.shl (.reg 8) (.reg 1) (.reg 2)) tState, exec (.shr (.reg 8) (.reg 4) (.reg 2)) tState, exec (.sra (.reg 8) (.reg 4) (.reg 2)) tState,
    exec (.rol (.reg 8) (.reg 4) (.reg 2)) tState, exec (.ror (.reg 8) (.reg 1) (.reg 2)) tState, exec (.shl (.reg 8) (.reg 1) (.reg 5)) tState].map valsOf =
    [[56], [2 ^ 60], [2 ^ 64 - 2 ^ 60], [4], [7 * 2 ^ 61], [7]] := by decide
theorem test_scalar_counts : [exec (.clz (.reg 8) (.reg 1)) tState, exec (.clz (.reg 8) (.reg 0)) tState, exec (.ctz (.reg 8) (.reg 4)) tState,
    exec (.popc (.reg 8) (.reg 3)) tState, exec (.brev (.reg 8) (.reg 1)) tState, exec (.abs (.reg 8) (.reg 4)) tState, exec (.abs (.reg 8) (.reg 3)) tState].map valsOf =
    [[61], [64], [63], [64], [7 * 2 ^ 61], [2 ^ 63], [1]] := by decide
theorem test_scalar_multiply : [exec (.mul (.reg 8) (.reg 1) (.reg 3)) tState, exec (.mulh (.reg 8) (.reg 1) (.reg 3)) tState, exec (.mulhu (.reg 8) (.reg 1) (.reg 3)) tState].map
    (fun o => (valsOf o, latsOf o)) = [([2 ^ 64 - 7], [3]), ([2 ^ 64 - 1], [3]), ([6], [3])] := by decide
/-- R150: -1 by zero, the signed overflow, -7 by 3 truncated. -/
theorem test_scalar_divide :
    [exec (.div 8 (.reg 1) (.reg 0)) tState, exec (.div 8 (.reg 4) (.reg 3)) tState, exec (.divu 8 (.reg 1) (.reg 2)) tState, exec (.rem 8 (.reg 4) (.reg 2)) tState,
     exec (.rem 8 (.reg 4) (.reg 3)) tState, exec (.remu 8 (.reg 1) (.reg 0)) tState].map valsOf =
    [[2 ^ 64 - 1], [2 ^ 63], [2], [2 ^ 64 - 2], [0], [7]] := by decide
theorem test_scalar_immediates :
    [exec (.addi (.reg 8) (.reg 1) (-8)) tState, exec (.andi (.reg 8) (.reg 3) (-2)) tState, exec (.ori (.reg 8) (.reg 1) 8) tState, exec (.xori (.reg 8) (.reg 1) (-1)) tState,
     exec (.shli (.reg 8) (.reg 1) 63) tState, exec (.shri (.reg 8) (.reg 4) 63) tState, exec (.srai (.reg 8) (.reg 4) 63) tState].map valsOf =
    [[2 ^ 64 - 1], [2 ^ 64 - 2], [15], [2 ^ 64 - 8], [2 ^ 63], [1], [2 ^ 64 - 1]] := by decide
/-- The examples of R151: li s1, -12817 and lih.1 s1, 0x89AB on 7. -/
theorem test_scalar_literals :
    [exec (.li (.reg 1) (-12817)) tState, exec (.lih1 1 0x89AB) tState, exec (.lih2 1 0xFFFF) tState, exec (.lih3 1 1) tState].map valsOf =
    [[2 ^ 64 - 12817], [0x89AB0007], [0xFFFF00000007], [2 ^ 48 + 7]] := by decide
theorem test_scalar_fields :
    [exec (.bfx false (.reg 8) (.reg 3) 61 2) tState, exec (.bfx true (.reg 8) (.reg 4) 61 2) tState, exec (.bfi 3 (.reg 2) 62 1) tState, exec (.bfi 0 (.reg 1) 62 0) tState,
     exec (.bfm (.reg 8) 4 3) tState].map valsOf = [[7], [2 ^ 64 - 4], [2 ^ 64 - 1], [2 ^ 62], [0xF0]] := by decide
theorem test_register_moves :
    [exec (.rdb (.reg 8) 1) tState, exec (.rdm (.reg 8) 1) tState, exec (.rde (.reg 8) 1) tState, exec (.rdi (.reg 8) 0) tState, exec (.rdi (.reg 8) 5) tState,
     exec (.rdp (.reg 8)) tState, exec (.wrb 2 (.reg 1)) tState, exec (.wrm 2 (.reg 3)) tState, exec (.wre 2 (.reg 5)) tState].map valsOf =
    [[64], [5], [128], [0], [0], [5], [7], [2 ^ 64 - 1], [128]] := by decide
/-- wrp with A = 7 under B = 10 writes p3 from bit 3 and leaves p2; p0 and p1 keep their constants. -/
theorem test_wrp_lands :
    ((tRegs.land .preds (8 + 10 * 2 ^ 16)).readP 3, (tRegs.land .preds (8 + 10 * 2 ^ 16)).readP 1, (tRegs.land .preds (8 + 10 * 2 ^ 16)).readP 2) = (true, false, true) := by decide
theorem test_wre_refuses : markOf (exec (.wre 2 (.reg 1)) tState) = some (.raised .illegalUse 7 false) := by decide
/-- Table 6.2 on 7 and -1, and the immediate -1. -/
theorem test_compares :
    [exec (.cmp .lt 1 (.reg 3) (.reg 1)) tState, exec (.cmp .ltu 1 (.reg 3) (.reg 1)) tState, exec (.cmp .ge 1 (.reg 1) (.reg 1)) tState, exec (.cmp .tst 1 (.reg 1) (.reg 5)) tState,
     exec (.cmpi .eq 1 (.reg 3) (-1)) tState, exec (.cmpi .geu 1 (.reg 1) (-1)) tState].map valsOf = [[1], [0], [1], [0], [1], [0]] := by decide
theorem test_predicate_logic :
    [exec (.pand 1 2 0) tState, exec (.por 1 1 3) tState, exec (.pxor 1 2 0) tState, exec (.pandn 1 2 3) tState, exec (.sel (.reg 8) (.reg 1) (.reg 2) 2) tState,
     exec (.sel (.reg 8) (.reg 1) (.reg 2) 3) tState].map valsOf = [[1], [0], [0], [1], [7], [3]] := by decide
theorem test_pair_lands_complement : ((tRegs.land (.pair 1) 0).readP 2, (tRegs.land (.pair 1) 0).readP 3) = (false, true) := by decide
/-- A pop delivers the head of the ring and stages the pop; a peek stages nothing (R79). -/
theorem test_ring_operands :
    valsOf (exec (.add (.reg 8) (.pop 0) (.pop 0)) tState) = [16] ∧ valsOf (exec (.add (.reg 8) (.peek 0) (.peek 0)) tState) = [14] ∧
    (staged (exec (.add (.reg 8) (.pop 0) (.pop 0)) tState)).length = 3 := by decide
/-- A register a division is pending for stalls its reader (R84). -/
theorem test_pending_stalls :
    markOf (exec (.add (.reg 8) (.reg 1) (.reg 2)) { tState with ctx := { tCtx with pend := [{ dest := .s 1, val := 0, addr := 0, left := 5, inter := 2, flags := 0, pc := 0 }] } }) =
      some .stalled := by decide

/-! ## Pointers (R155 to R163) -/

/-- padd of a plain 16-bit pointer by 3; pdif of 128 and 0 in elements of 16 bits; a pdif that is no whole number of elements raises. -/
theorem test_pointers_plain :
    [exec (.padd .bf16 (.reg 8) (.reg 5) (.reg 2)) tState, exec (.pdif .bf16 (.reg 8) (.reg 5) (.reg 0)) tState, exec (.paddB 6 (.reg 8) (.reg 5) (.reg 2)) tState,
     exec (.pidx .s32 (.reg 8) (.reg 5) (.reg 2)) tState].map valsOf = [[176], [8], [149], [224]] ∧
    (markOf (exec (.pdif .bf16 (.reg 8) (.reg 1) (.reg 0)) tState)).isSome = true := by decide
/-- A cursor on record 128, element 0 of MXI4 moves 33 elements: element 1 of the record 138 bits on (R157, R158). -/
theorem test_pointer_cursor :
    valsOf (exec (.padd .mxi4 (.reg 8) (.reg 5) (.reg 9)) (tWith fun r => { r with s := r.s.set 9 33 })) = [266 + 2 ^ 59] := by decide
/-- pscl takes the record of a cursor; pal rounds up to an element; pcls classes an element at the bounds of words and lines (R32). -/
theorem test_pointer_align_class :
    [exec (.pscl .mxi4 (.reg 8) (.reg 9)) (tWith fun r => { r with s := r.s.set 9 (BitVec.ofNat 64 (138 + 5 * 2 ^ 59)) }),
     exec (.pcls .bf16 (.reg 8) (.reg 5) (.reg 2)) tState].map valsOf = [[138], [0]] := by decide

/-! ## Control (R123 to R143) -/

theorem test_control_slots :
    [exec .nop tState, exec (.trap 5) tState, exec .safe tState, exec .mark tState, exec (.hrev 1) tState, exec .pwrrel tState, exec (.qunb 3) tState, exec .exit tState].map staged =
    [[], [.trap 5], [.safePoint], [.mark], [.hrev 1], [.power 1], [.qunb 3], [.exit]] := by decide
theorem test_ltag_gates : (match exec (.ltag 0 3 1) tState with | .next t => t.bundle.gate | _ => none) = some (0, 3, 1) := by decide
theorem test_tret_outside_handler : markOf (exec .tret tState) = some (.raised .illegalUse 0 false) := by decide
/-- A taken br from 32 by -1 slot: target 0, two bubbles (R134); one on p3, which is clear, does nothing. -/
theorem test_branches :
    [exec (.br (-1) 0) tState, exec (.br (-1) 3) tState, exec (.bri 1 2) tState, exec (.ret 0) tState].map staged =
    [[.bubble 2, .branch 0], [], [.bubble 2, .branch 64], [.bubble 2, .branch 96]] ∧
    valsOf (exec (.call 4 0) tState) = [64] ∧ valsOf (exec (.pbr 2 4) tState) = [160] := by decide
/-- lbrk of the one active level, and of one that is not. -/
theorem test_lbrk : staged (exec (.lbrk 0) tState) = [.lbrk 0] ∧ markOf (exec (.lbrk 1) tState) = some (.raised .illegalUse 1 false) := by decide
/-- gidx reads a coordinate; gspawn needs an index of an earlier group. -/
theorem test_gidx : valsOf (exec (.gidx (.reg 8) 2) { tState with ctx := { tCtx with group := { tCtx.group with coords := [4, 5, 6, 7, 8, 9] } } }) = [6] := by decide
theorem test_pwracq_within_level : staged (exec (.pwracq 1) tState) = [.power 1] ∧ markOf (exec (.pwracq 2) tState) = some (.waits .grant) := by decide
/-- cwr of FMASK keeps its five bits and of TVEC its own (Table 5.3); a crd reads them back. -/
theorem test_cwr_crd :
    (tState.applyEffect (.cwr 0x001 (-1))).readCreg 0x001 = 0x1F ∧ (tState.applyEffect (.cwr 0x010 (-1))).readCreg 0x010 = 0x1FFFE1 ∧
    staged (exec (.cwr 1 3) tState) = [.cwr 1 (-1)] ∧ valsOf (exec (.crd 8 0x020) tState) = [0] ∧
    markOf (exec (.cwr 2 1) tState) = some (.raised .illegalUse 7 false) := by decide
theorem test_gfence : staged (exec .gfence tState) = [.gfence] ∧ (tState.applyEffect .gfence).ctx.gen = 1 := by decide

/-! ## Local memory (R167 to R180) -/

/-- Bits 128 to 191 of the activation scratch hold 0x1122334455667788. -/
def tMem : Memory := Memory.writeBits [] 128 64 0x1122334455667788
def tMemState : State := { tState with core := { Core.reset with act := tMem, stg := tMem } }

theorem test_memory_bits : tMem.readBits 132 12 = 0x778 ∧ (tMem.writeBits 130 3 0).readBits 128 64 = 0x1122334455667780 + 0 ∧ tMem.readBits 0 128 = 0 := by decide
/-- Writing zeros to every bit lists nothing. -/
theorem test_memory_canonical : tMem.writeBits 128 64 0 = [] ∧ tMem.wf = true := by decide
theorem test_scalar_loads :
    [exec (.ldAct false 7 (.reg 8) (.reg 5) 0) tMemState, exec (.ldAct true 7 (.reg 8) (.reg 5) 0) tMemState, exec (.ldStg false 63 (.reg 8) (.reg 5)) tMemState].map
      (fun o => (valsOf o, latsOf o)) = [([0x88], [6]), ([2 ^ 64 - 0x78], [6]), ([0x1122334455667788], [6])] ∧
    markOf (exec (.ldAct false 0 (.reg 8) (.reg 3) 0) tMemState) = some (.raised .illegalUse (-1) false) := by decide
/-- Lane 0 of 16 bits is 0x7788, lane 3 is 0x1122; lane 1 of 32 bits is 0x11223344. -/
theorem test_vector_loads :
    [exec (.vldAct 0 false (.reg 8) (.reg 5)) tMemState, exec (.vldAct 0 true (.reg 8) (.reg 5)) tMemState, exec (.vldStg false (.reg 8) (.reg 5)) tMemState].map valsOf =
      [[0x1122334455667788], [0x1122334455667788], [0x1122334455667788]] ∧
    valsOf (exec (.vldActStr false (.reg 8) (.reg 5) (.reg 9)) (({ tMemState with ctx := { tCtx with regs := { tRegs with s := tRegs.s.set 9 0 } } }) : State)) =
      [unchunks 16 (List.replicate 64 0x7788)] ∧
    valsOf (exec (.vldActCol true (.reg 8) (.reg 5)) tMemState) = [0x55667788] := by decide
/-- A store of 8 bits at 128 is a merge of its word and takes 2 clk (R168, R40); one of 64 bits takes 1; s(3) on p3 does nothing. -/
theorem test_scalar_stores :
    ((staged (exec (.stAct false 7 (.reg 1) (.reg 5) 0) tState)).filterMap fun e => match e with | .store a => some (a.left, a.writes) | _ => none) =
      [(2, [{ addr := 128, width := 8, val := 7 }])] ∧
    ((staged (exec (.stStg 63 (.reg 1) (.reg 5) 2) tState)).filterMap fun e => match e with | .store a => some (a.left, a.writes) | _ => none) =
      [(1, [{ addr := 128, width := 64, val := 7 }])] ∧
    staged (exec (.stAct false 7 (.reg 1) (.reg 5) 3) tState) = [] := by decide
/-- Lanes 0 and 2 under m1 = 5. -/
theorem test_vector_stores :
    ([exec (.vstAct 1 2 5 false 0) tState, exec (.vstActCol 1 2 5 true 0) tState, exec (.vstStg 1 2 5 true 0) tState, exec (.vstActStr16 1 2 5 5 0) tState].map fun o =>
      (staged o).filterMap fun e => match e with | .store a => some (a.writes.map BitWrite.addr) | _ => none) =
      [[[128, 160]], [[128, 2176]], [[128, 192]], [[128, 384]]] := by decide
/-- An aadd stages one atomic that performs 2 clk on; amax over two lines is refused. -/
theorem test_local_atomics :
    ((staged (exec (.aaddAct 10 0 1 5 0) tState)).filterMap fun e => match e with | .store a => some (a.left, a.atomic) | _ => none) = [(2, some (0, 7, 0))] ∧
    ((staged (exec (.acasAct 10 0 1 5 0) tState)).filterMap fun e => match e with | .store a => some (a.left, a.atomic) | _ => none) = [(2, some (7, 7, 3))] ∧
    markOf (exec (.amaxAct 10 0 1 1 0) tState) = some (.raised .illegalUse 7 false) := by decide
/-- At the bank: 0x88 + 7 in 8 bits, and the old value lands. -/
theorem test_atomic_performs :
    let x : LocalAcc := { slot := 0, left := 0, slow := true, space := .act, writes := [{ addr := 128, width := 8, val := 0 }], setFull := false, atomic := some (0, 0x79, 0),
                          dest := .s 8, order := 0, bno := 0, pc := 0 }
    ((tMemState.performLocal x).core.act.readBits 128 16, (tMemState.performLocal x).ctx.pend.map Pending.val) = (0x7701, [0x88]) := by decide

/-! ## Global memory (R176 to R181), through h1, a page at 2^32 -/

theorem test_global_load :
    ((staged (exec (.ldG true 15 (.reg 8) 1 5) tState)).filterMap fun e => match e with | .glob a => some (a.addr, a.width, a.dest) | _ => none) = [(2 ^ 32 + 128, 16, .s 8)] ∧
    markOf (exec (.ldG true 15 (.reg 8) 2 5) tState) = some (.raised .invhandle 2 false) ∧
    markOf (exec (.ldG true 0 (.reg 8) 1 3) tState) = some (.raised .bounds (-1) false) := by decide
theorem test_global_stores :
    ([exec (.stG 63 1 1 5 0) tState, exec (.vstG 1 2 true 1 5 0) tState, exec (.vldG true (.reg 8) 1 (.reg 5)) tState, exec (.aaddG 10 0 1 5 0)
        (tWith fun r => { r with s := r.s.set 6 64 })].map fun o =>
      (staged o).filterMap fun e => match e with | .glob a => some (a.addr, a.writes.map BitWrite.addr) | _ => none) =
      [[(2 ^ 32 + 128, [2 ^ 32 + 128])], [(2 ^ 32 + 128, [2 ^ 32 + 128, 2 ^ 32 + 192])], [(2 ^ 32 + 128, [])], [(2 ^ 32 + 64, [2 ^ 32 + 64])]] := by decide
theorem test_maintenance :
    ([exec (.clean 1 (.reg 5) (.reg 6)) tState, exec (.inv 1 (.reg 5) (.reg 6)) tState].map fun o =>
      (staged o).filterMap fun e => match e with | .glob a => some (a.kind, a.width) | _ => none) = [[(.maintain false, 10)], [(.maintain true, 10)]] := by decide
theorem test_handles :
    valsOf (exec (.hmov 2 1) tState) = [tHandle.toNat] ∧ staged (exec (.hmov 1 1) tState) = [] ∧
    markOf (exec (.probe (.reg 1) (.reg 2)) tState) = some (.raised .illegalUse 7 false) ∧ valsOf (exec (.trans 2 (.reg 5) 1) tState) = [0, 0] ∧
    valsOf (exec (.hinfo (.reg 8) 2) tState) = [0] := by decide

/-! ## Order, barriers, time (chapters 11 and 12) -/

theorem test_order_slots :
    staged (exec (.fence 6) tState) = [.fence 6] ∧ staged (exec (.fence 1) tState) = [] ∧ staged (exec (.fmt 2 (.reg 9)) tState) = [.fmt 2 0] ∧
    markOf (exec .fenceSc tState) = some .held ∧
    markOf (exec .fenceSc { tState with ctx := { tCtx with order := { tCtx.order with scPassed := true } } }) = some .none := by decide

/-- Core barrier 4 ARMED with target 2, count 1, in phase 0. -/
def tBar : State := { tState with core := { Core.reset with bars := [(4, { Barrier.uninit with state := 1, target := 2, count := 1 })] } }

theorem test_barrier_slots :
    (staged (exec (.barv 0 (.reg 9) (.reg 2)) { tBar with ctx := { tCtx with regs := { tRegs with s := tRegs.s.set 9 4 } } })).map
      (fun e => match e with | .barOp o => (o.bar, o.n, o.init) | _ => (0, 0, true)) = [(4, 3, false)] ∧
    (staged (exec (.binit (.reg 1) (.reg 2)) tState)).map (fun e => match e with | .barOp o => (o.bar, o.n, o.init) | _ => (0, 0, true)) = [(7, 3, true)] ∧
    markOf (exec (.barv 0 (.reg 1) (.reg 2)) tState) = some (.raised .illegalUse 7 false) ∧
    markOf (exec (.bwait 0 (.reg 9)) { tBar with ctx := { tCtx with regs := { tRegs with s := tRegs.s.set 9 4 } } }) = some (.waits .barrier) ∧
    valsOf (exec (.btest 1 (.reg 9) 0) { tBar with ctx := { tCtx with regs := { tRegs with s := tRegs.s.set 9 (4 + 2 ^ 16) } } }) = [1] := by decide
/-- Count 1 of target 2: an arrival of 3 completes two phases and leaves count 0 (R244). -/
theorem test_barrier_arrives :
    ({ Barrier.uninit with state := 1, target := 2, count := 1 }).arrive 3 = ({ Barrier.uninit with state := 1, target := 2, epoch := 2 }, 2) := by decide
theorem test_time_slots :
    markOf (exec (.hbwait (.reg 0)) tState) = some .none ∧ markOf (exec (.hbwait (.reg 1)) tState) = some (.waits .tick) ∧
    markOf (exec (.waitt (.reg 0)) tState) = some .none ∧ markOf (exec (.waitt (.reg 1)) tState) = some (.waits .time) := by decide

/-! ## Vectors (chapters 14 and 3); a vector has one value in every lane -/

/-- Every 16-bit lane x. -/
def lanes16 (x : Nat) : Wide := BitVec.ofNat 1024 (unchunks 16 (List.replicate 64 x))
/-- v1, v2 and v3 with the same value in every 16-bit lane. -/
def tVec (a b c : Nat) : State := tWith fun r => { r with v := [0, lanes16 a, lanes16 b, lanes16 c] ++ List.replicate 28 0 }
/-- Lane 0 of the result, its latency and its flags. -/
def lane0 (o : Host.Outcome State Fault Refusal) : List (Nat × Nat × Nat) :=
  (staged o).filterMap fun e => match e with | .result p => some (p.val % 2 ^ 16, p.left, p.flags % 32) | _ => none

/-- BF16: 1.0 = 0x3F80, 2.0 = 0x4000, 3.0 = 0x4040, 0.5 = 0x3F00. -/
theorem test_float_arithmetic :
    [exec (.fadd .bf16 .rne (.reg 8) (.reg 1) (.reg 2)) (tVec 0x3F80 0x4000 0x4040), exec (.fsub .bf16 .rne (.reg 8) (.reg 1) (.reg 2)) (tVec 0x3F80 0x4000 0x4040),
     exec (.fmul .bf16 .rne (.reg 8) (.reg 2) (.reg 3)) (tVec 0x3F80 0x4000 0x4040), exec (.fma .bf16 .rne 3 (.reg 1) (.reg 2)) (tVec 0x3F80 0x4000 0x4040),
     exec (.fms .bf16 .rne 3 (.reg 1) (.reg 2)) (tVec 0x3F80 0x4000 0x4040), exec (.fnma .bf16 .rne 3 (.reg 1) (.reg 2)) (tVec 0x3F80 0x4000 0x4040)].map lane0 =
    [[(0x4040, 4, 0)], [(0xBF80, 4, 0)], [(0x40C0, 4, 0)], [(0x40A0, 4, 0)], [(0xBF80, 4, 0)], [(0x3F80, 4, 0)]] := by decide
/-- Infinity minus infinity is invalid and gives the NaN; 1 + 2^-9 rounds to 1, inexact. -/
theorem test_float_flags :
    [exec (.fsub .bf16 .rne (.reg 8) (.reg 1) (.reg 1)) (tVec 0x7F80 0 0), exec (.fadd .bf16 .rne (.reg 8) (.reg 1) (.reg 2)) (tVec 0x3F80 0x3B00 0)].map
      (fun o => (lane0 o).map fun x => (x.1, x.2.2)) = [[(0x7FC0, 16)], [(0x3F80, 1)]] := by decide
theorem test_float_select_compare :
    [exec (.fmin .bf16 (.reg 8) (.reg 1) (.reg 2)) (tVec 0x8000 0 0), exec (.fmax .bf16 (.reg 8) (.reg 1) (.reg 2)) (tVec 0x8000 0 0),
     exec (.fabs .bf16 (.reg 8) (.reg 1)) (tVec 0xBF80 0 0), exec (.fneg .bf16 (.reg 8) (.reg 1)) (tVec 0x3F80 0 0)].map (fun o => (lane0 o).map fun x => x.1) =
      [[0x8000], [0], [0x3F80], [0xBF80]] ∧
    [exec (.fcmpEq .bf16 1 (.reg 1) (.reg 2)) (tVec 0x8000 0 0), exec (.fcmpLt .bf16 1 (.reg 1) (.reg 2)) (tVec 0xBF80 0 0), exec (.fcmpLe .bf16 1 (.reg 1) (.reg 2)) (tVec 0x7FC0 0 0),
     exec (.fcmpUn .bf16 1 (.reg 1) (.reg 2)) (tVec 0x7FC0 0 0)].map valsOf = [[2 ^ 64 - 1], [2 ^ 64 - 1], [0], [2 ^ 64 - 1]] := by decide
/-- 0x7FFF and 1 in 16-bit lanes; 3 in the amount register. -/
theorem test_integer_lanes :
    [exec (.vadd false (.reg 8) (.reg 1) (.reg 2)) (tVec 0x7FFF 1 3), exec (.vadds false (.reg 8) (.reg 1) (.reg 2)) (tVec 0x7FFF 1 3),
     exec (.vsub false (.reg 8) (.reg 2) (.reg 1)) (tVec 0x7FFF 1 3), exec (.vsubus false (.reg 8) (.reg 2) (.reg 1)) (tVec 0x7FFF 1 3),
     exec (.vaddus false (.reg 8) (.reg 1) (.reg 1)) (tVec 0xFFFF 1 3), exec (.vsubs false (.reg 8) (.reg 1) (.reg 2)) (tVec 0x8000 1 3),
     exec (.vmul false (.reg 8) (.reg 1) (.reg 3)) (tVec 0x7FFF 1 3), exec (.vmin false (.reg 8) (.reg 1) (.reg 2)) (tVec 0x8000 1 3),
     exec (.vmax false (.reg 8) (.reg 1) (.reg 2)) (tVec 0x8000 1 3), exec (.vminu false (.reg 8) (.reg 1) (.reg 2)) (tVec 0x8000 1 3),
     exec (.vmaxu false (.reg 8) (.reg 1) (.reg 2)) (tVec 0x8000 1 3), exec (.vabs false (.reg 8) (.reg 1)) (tVec 0x8000 1 3)].map (fun o => (lane0 o).map fun x => x.1) =
    [[0x8000], [0x7FFF], [0x8002], [0], [0xFFFF], [0x8000], [0x7FFD], [0x8000], [1], [1], [0x8000], [0x8000]] := by decide
theorem test_integer_bit_lanes :
    [exec (.vand false (.reg 8) (.reg 1) (.reg 2)) (tVec 0x8005 0x8003 3), exec (.vor false (.reg 8) (.reg 1) (.reg 2)) (tVec 0x8005 0x8003 3),
     exec (.vxor false (.reg 8) (.reg 1) (.reg 2)) (tVec 0x8005 0x8003 3), exec (.vshl false (.reg 8) (.reg 1) (.reg 3)) (tVec 0x8005 0 0x13),
     exec (.vshr false (.reg 8) (.reg 1) (.reg 3)) (tVec 0x8005 0 0x13), exec (.vsra false (.reg 8) (.reg 1) (.reg 3)) (tVec 0x8005 0 0x13)].map (fun o => (lane0 o).map fun x => x.1) =
    [[0x8001], [0x8007], [6], [0x28], [0x1000], [0xF000]] := by decide
theorem test_lane_compares_and_masks :
    [exec (.vcmpEq false 1 (.reg 1) (.reg 1)) (tVec 0x8000 1 0), exec (.vcmpLt true 1 (.reg 1) (.reg 2)) (tVec 0x8000 1 0), exec (.vcmpLtu false 1 (.reg 1) (.reg 2)) (tVec 0x8000 1 0),
     exec (.mand 2 1 1) tState, exec (.mor 2 1 0) tState, exec (.mxor 2 1 1) tState, exec (.mandn 2 1 0) tState, exec (.mnot 2 0) tState, exec (.mpopc (.reg 8) 1) tState].map valsOf =
    [[2 ^ 64 - 1], [2 ^ 32 - 1], [0], [5], [5], [0], [5], [2 ^ 64 - 1], [2]] := by decide
/-- m1 = 5 selects lanes 0 and 2; vins and vext at lane 3; a lane past the last raises. -/
theorem test_permutes :
    valsOf (exec (.vsel 1 false (.reg 8) (.reg 1) (.reg 2)) (tVec 0xAAAA 0x5555 0)) = [unchunks 16 ([0xAAAA, 0x5555, 0xAAAA] ++ List.replicate 61 0x5555)] ∧
    (lane0 (exec (.vperm false (.reg 8) (.reg 1) (.reg 2)) (tVec 0xAAAA 0x47 0))).map (fun x => x.1) = [0xAAAA] ∧
    valsOf (exec (.vbcast true (.reg 8) (.reg 1)) tState) = [unchunks 32 (List.replicate 32 7)] ∧
    valsOf (exec (.vins false 0 (.reg 1) (.reg 2)) tState) = [7 * 2 ^ 48] ∧
    valsOf (exec (.vext false (.reg 8) (.reg 1) (.reg 2)) (tVec 0xAAAA 0 0)) = [0xAAAA] ∧
    markOf (exec (.vext true (.reg 8) (.reg 1) (.reg 9)) (tWith fun r => { r with s := r.s.set 9 32 })) = some (.raised .illegalUse 32 false) := by decide
/-- cvt of BF16 1.5 to s8 rounds to even; of 300 to s8 saturates (R53). -/
theorem test_cvt :
    [exec (.cvt .s8 .bf16 .rne (.reg 8) (.reg 1)) (tVec 0x3FC0 0 0), exec (.cvt .s8 .bf16 .rtz (.reg 8) (.reg 1)) (tVec 0x4396 0 0)].map (fun o => (lane0 o).map fun x => x.1 % 256) =
      [[2], [127]] := by decide
/-- The example of R62: 3.0, -0.75 and 2^-7 in MXI8, RNE, SYM give scale 0x1FF and codes 0x6E, 0xE5 and 0, with NX and UF; 110 × 2^-6 × 1.75 reads back in FP32 as 3.0078125. -/
theorem test_quantise_example :
    (staged (exec (.qnt .mxi8 1 .rne 0 (.reg 8) (.reg 1)) (tWith fun r => { r with v := r.v.set 1 0x3C00BF404040 }))).map
      (fun e => match e with | .result p => (p.val % 2 ^ 266, p.flags % 32, p.left) | _ => (0, 0, 0)) = [(0x395B9FF, 3, 3)] ∧
    ((valsOf (exec (.dqnt .mxi8 1 .rne 2 (.reg 8) (.reg 1)) (tWith fun r => { r with v := r.v.set 1 0x395B9FF }))).map fun v => (v % 2 ^ 32, v / 2 ^ 32 % 2 ^ 32)) =
      [(0x40408000, 0xBF3D0000)] := by decide
theorem test_sum_file_slots :
    staged (exec (.eclr 1 1) tState) = [.laneAct { slot := 0, left := 3, op := .clear 128 5, tag := 0 }] ∧
    staged (exec (.eanc 1 1) tState) = [.laneAct { slot := 0, left := 3, op := .anchor 128 7, tag := 0 }] ∧
    staged (exec (.eacc .bf16 1 (.reg 1)) (tVec 1 0 0)) = [.laneAct { slot := 0, left := 3, op := .add 128 .bf16 (List.replicate 64 1), tag := 0 }] ∧
    markOf (exec (.eanc 1 4) tState) = some (.raised .illegalUse 0x8000000000000000 false) ∧
    markOf (exec (.evred .bf16 3 (.reg 1)) tState) = some (.raised .illegalUse (-1) false) ∧
    latsOf (exec (.eread .fp32 .rne (.reg 8) 1) tState) = [8] ∧ latsOf (exec (.eflg (.reg 8) 1) tState) = [8] := by decide

/-! ## The function unit (chapter 15) and the dot unit (chapter 13) -/

/-- rcp of 2.0 is 0.5 and sqrt of 4.0 is 2.0, 12 clk, with one entry of the function queue (R338). -/
theorem test_function_slots :
    [exec (.frcp .bf16 .rne (.reg 8) (.reg 1)) (tVec 0x4000 0 0), exec (.fsqrt .bf16 .rne (.reg 8) (.reg 1)) (tVec 0x4080 0 0),
     exec (.fdiv .bf16 .rne (.reg 8) (.reg 1) (.reg 2)) (tVec 0x4040 0x4000 0)].map lane0 = [[(0x3F00, 12, 0)], [(0x4000, 12, 0)], [(0x3FC0, 12, 0)]] := by decide
/-- exp2 of 3 is 8; the logarithm of 1 is 0; rsq of 4 is 0.5. -/
theorem test_function_exact_lanes :
    ((Fn.lane .exp2 .bf16 0 0x4040).val, (Fn.lane .log .bf16 0 0x3F80).val, (Fn.lane .rsq .bf16 0 0x4080).val, (Fn.lane .exp .bf16 0 0).val, (Fn.lane .cos .bf16 0 0).val) =
      (0x4100, 0, 0x3F00, 0x3F80, 0x3F80) := by decide
theorem test_beats_need_the_dot_set :
    [exec (.mshift 1 false) tState, exec (.macc 1) tState, exec (.mdrain 1) tState, exec (.maccD 1) tState, exec (.mpush 1 (.reg 1) (.reg 2)) tState].map markOf =
    List.replicate 5 (some (.raised .illegalUse 1 false)) := by decide
/-- Shaft 0 takes MXI4 half-vectors from registers and holds one; the dot set is the context's. -/
def tDot : State := { tState with core := { Core.reset with dot := { DotSet.none with owner := some 0, shafts := { Shaft.off with byte := 3, back := some { codes := List.replicate 256 1, scales := List.replicate 8 0 } } :: List.replicate 7 .off } } }
theorem test_beats :
    ((staged (exec (.mshift 1 false) tDot)).filterMap fun e => match e with | .beat k m ps sh => some (k, m, ps, (sh.headD .off).planes, (sh.headD .off).st) | _ => none) =
      [(1, 1, [(0, 0)], 1, 1)] ∧
    ((staged (exec (.mpush 1 (.reg 1) (.reg 2)) { tDot with core := { tDot.core with dot := { tDot.core.dot with shafts := { Shaft.off with byte := 3 } :: List.replicate 7 .off } } })).filterMap
      fun e => match e with | .beat k m _ sh => some (k, m, (sh.headD .off).back.isSome) | _ => none) = [(0, 1, true)] ∧
    staged (exec (.macc 0) tDot) = [.charge 0, .beat 2 0 [] tDot.core.dot.shafts] ∧ staged (exec (.mdrain 0) tDot) = [.charge 0, .beat 3 0 [] tDot.core.dot.shafts] ∧
    staged (exec (.maccD 0) tDot) = [.charge 0, .beat 4 0 [] tDot.core.dot.shafts] := by decide
theorem test_macro_slots :
    staged (exec (.mset 1 0) tState) = [.mrelease] ∧ staged (exec (.mmode 1 2) tState) = [.mmode 7 3 0 false] ∧ staged (exec (.mchk 1) tState) = [.mchk 7] ∧
    ((staged (exec (.mglaze 2) tState)).map fun e => match e with | .mglaze n => n | _ => 0) = [0, 3] ∧
    markOf (exec (.mglaze 3) tState) = some (.raised .illegalUse (-1) false) ∧ (valsOf (exec (.mstat 8 1) tState)).length = 1 := by decide

/-! ## Rings and engines (chapter 10) -/

/-- An unbound ring given a READ binding of 64-bit elements; mode 0 is refused; qstat reads the configuration back. -/
theorem test_ring_slots :
    staged (exec (.qbind 5 5 9) (tWith fun r => { r with s := r.s.set 9 tRead.cfg })) = [.qbind 5 128 tRead.cfg 0] ∧ markOf (exec (.qbind 5 1 0) tState) = some (.raised .format 0 false) ∧
    staged (exec (.qadv 0 2) tState) = [.qadv 0 3] ∧ markOf (exec (.qadv 1 2) tState) = some (.raised .illegalUse 1 false) ∧ staged (exec (.qstr 1 1 0) tState) = [.qstr 1 0 7] ∧
    valsOf (exec (.qstat 8 0 0) tState) = [tRead.cfg.toNat] ∧ valsOf (exec (.qstat 8 0 2) tState) = [2 * 2 ^ 32] ∧ valsOf (exec (.sqrd 8 1) tState) = [0] ∧
    markOf (exec (.qwait 0 2) tState) = some (.waits .ring) ∧ markOf (exec (.qwait 0 0) tState) = some .none := by decide
/-- A copy of 64 bits from weight staging (s9 = 0) to the activation scratch at 128, without conversion (R228); then the codes of the other engine commands. -/
def tCopy : State := tWith fun r => { r with s := (r.s.set 10 (BitVec.ofNat 64 (1 * 2 ^ 60 + 64))).set 11 0 }
theorem test_engine_commands :
    ((staged (exec (.cpy false 0 5 0 10) tCopy)).map fun e => match e with | .command c => (c.queue, c.op, c.d, c.a, c.b) | _ => (9, 9, 0, 0, 0)) = [(0, 0, 128, 0, 2 ^ 60 + 64)] ∧
    ((staged (exec (.xfer false 0 5 0 10) tCopy)).map fun e => match e with | .command c => (c.queue, c.op) | _ => (9, 9)) = [(1, 1)] ∧
    ((staged (exec (.xpcfg 1 2) tState)).map fun e => match e with | .command c => (c.queue, c.op) | _ => (9, 9)) = [(2, 3)] ∧
    (markOf (exec (.collAllr false 0 0 0 0) tState)).map (fun m => match m with | .raised c _ _ => some c | _ => none) = some (some .format) ∧
    (markOf (exec (.rld 1 0) tState)).map (fun m => match m with | .raised c _ _ => some c | _ => none) = some (some .format) := by decide

/-! ## The firmware cores (R405) -/

/-- Core 1: x1 = 0xABCD, x2 = 0x1C4 (8 bits from bit 4), x3 = 0x1000, x4 = 70. -/
def tFw : State := { State.reset with
  fw := [.reset, { FwCore.reset with run := true, pc := 64, x := [0, 0xABCD, 0x1C4, 0x1000, 70] ++ List.replicate 27 0, mtvec := 256 }, .reset, .reset]
  ev := { Event.none with who := 1 } }
/-- Core 1 after the instruction: x5, the pc and mcause. -/
def fwOf (o : Host.Outcome State Fault Refusal) : Option (Nat × Nat × Nat) :=
  match o with | .next t => (t.fw[1]?).map fun c => ((c.x.getD 5 0).toNat, c.pc.toNat, c.mcause.toNat) | _ => none
theorem test_firmware_instructions :
    fwOf (exec (.bfext 5 1 2) tFw) = some (0xBC, 68, 0) ∧ fwOf (exec (.bfext 5 1 3) tFw) = some (0, 256, 25) ∧ fwOf (exec (.rfetch 5 4 0) tFw) = some (0, 256, 24) ∧
    fwOf (exec (.rfetch 5 0 0) tFw) = some (0, 68, 0) ∧ fwOf (exec (.disp 5 4 0) tFw) = some (0, 256, 27) ∧ fwOf (exec (.disp 5 0 0) tFw) = some (0, 256, 27) ∧
    fwOf (exec (.swait 5 1 0) tFw) = some (0, 256, 26) ∧ fwOf (exec (.swait 5 0 0) tFw) = some (0, 68, 0) := by decide

/-! ## Traps and faults (chapter 5) -/

theorem test_take_trap :
    let t := tTrap.ctx.takeTrap tEntry
    (t.st, t.inh, t.pc.toNat, t.tr.tcause.toNat, t.tr.tval, t.tr.tepc.toNat) = (.trapped, true, 0x400, Cause.illegalUse.code, 9, 32) ∧
    (t.tr.tslot.toNat, t.held.levels.length, t.loops.levels.length) = (3, 1, 0) := by decide
theorem test_trap_escalates :
    let t := tState.takePrecise .illegalUse 9 32 3
    (t.ctx.st, t.ctx.blk.fcause, t.ctx.blk.fval, t.ctx.blk.esc, t.ctx.blk.fpc) = (.faulted, Cause.illegalUse.code, 9, true, 32) := by decide
theorem test_trap_in_handler :
    let t := ({ tTrap with ctx := { tTrap.ctx with inh := true } } : State).takePrecise .illegalUse 9 32 3
    (t.ctx.st, t.ctx.blk.fcause, t.ctx.blk.fval.toNat) = (.faulted, Cause.double.code, Cause.illegalUse.code) := by decide
/-- tret after the trap: back at TEPC, the loops held in force again. -/
theorem test_tret_returns :
    let t := ({ tTrap with ctx := tTrap.ctx.takeTrap tEntry } : State).commitTret
    (t.ctx.st, t.ctx.inh, t.ctx.pc, t.ctx.loops.levels.length) = (.running, false, 32, 1) := by decide
/-- The end of the body of level 0 goes back to its start with index 1 (R138). -/
theorem test_end_of_body :
    let t := ({ tState with bundle := { tState.bundle with next := 128 } } : State).sequence
    (t.ctx.pc, t.ctx.loops.levels.map Level.index) = (0, [1]) := by decide
/-- A branch out of the body ends the level (R143). -/
theorem test_branch_leaves_loop :
    let t := ({ tState with bundle := { tState.bundle with effects := [.branch 160] } } : State).sequence
    (t.ctx.pc, t.ctx.loops.levels.length) = (160, 0) := by decide

/-! ## Steps: the word placed where the machine fetches it is the one that runs -/

/-- li s1, -12817 as the first instruction after reset: one step, and after it the result is on its way or has landed. -/
theorem test_step_runs_li :
    (match step (State.reset.withFetchWord 32 0x1601CDEF) with
     | .next t => (t.ctx.pc.toNat, (t.ctx.regs.readS 1).toNat, t.ctx.commits) | _ => (0, 0, 0)) = (128, 2 ^ 64 - 12817, 1) := by decide
/-- bfext x5, x0, x0 on firmware core 0: its pc goes on by 4. -/
theorem test_step_runs_bfext :
    (match step (State.reset.withFetchWord 32 0x0000128B) with | .next t => (t.fw.map fun c => c.mcause) | _ => []) = [0, 0, 0, 0] := by decide
theorem test_table_word : decodeTableWord 32 0x1601CDEF = some (.li (.reg 1) (-12817)) ∧ decodeTableWord 32 0x0000128B = some (.bfext 5 0 0) ∧ decodeTableWord 16 0 = none := by decide

/-- Words written out from the RV64IMAC encodings: addi x5, x0, 5; sub x3, x1, x2; ld x7, 8(x6); c.li x5, 5; c.addi x5, -1. -/
theorem test_base_decoding :
    rvDecode 0x00500293 = some (.alu .add false 5 0 (.imm 5)) ∧ rvDecode 0x402081B3 = some (.alu .sub false 3 1 (.reg 2)) ∧ rvDecode 0x00833383 = some (.load 64 true 7 6 8) ∧
    rvDecodeShort 0x4295 = some (.const 5 5) ∧ rvDecodeShort 0x12FD = some (.alu .add false 5 5 (.imm (-1))) := by decide
/-- addi x5, x0, 5 and jal x1, 16 as the first instruction of firmware core 0. -/
theorem test_step_runs_base :
    (match step (State.reset.placeFirmware 0x00500293) with | .next t => (t.fw.map fun c => ((c.get 5).toNat, c.pc.toNat, c.minstret.toNat)).head? | _ => none) = some (5, 4, 1) ∧
    (match step (State.reset.placeFirmware 0x010000EF) with | .next t => (t.fw.map fun c => ((c.get 1).toNat, c.pc.toNat, c.minstret.toNat)).head? | _ => none) = some (4, 16, 1) := by decide

theorem test_swait_interrupted :
    (match step ((State.reset.placeFirmware 0x0020A00B).onFw 0 fun c => { c with ie := true, mie := 8, mip := 8, asked := some none }) with
      | .next t => (t.fw.map fun c => (c.mcause.toNat, c.mepc.toNat, c.ie, c.asked.isSome)).head? | _ => none) = some (9223372036854775811, 0, false, false) := by decide

/-! ## Events of the part: one of each family on a small state -/

/-- The state with an event of these operands. -/
def tEv (who sub addr val len : Nat) (data : List Nat) (s : State) : State := { s with ev := { who := who, sub := sub, addr := addr, val := val, len := len, data := data } }
/-- A projection of the next state. -/
def nextOf {α : Type} (o : Host.Outcome State Fault Refusal) (f : State → α) : Option α := match o with | .next t => some (f t) | _ => none

theorem test_context_events :
    nextOf (exec .park (tEv 0 0 0 0 0 [] tState)) (fun t => (t.ctx.st, t.ctx.blk.preq)) = some (.running, true) ∧
    nextOf (exec .force (tEv 0 0 0 0 0 [] tState)) (fun t => (t.ctx.st, t.ctx.forced, t.ctx.fromSt)) = some (.parked, true, 3) ∧
    nextOf (exec .kill (tEv 0 0 0 0 0 [] tState)) (fun t => t.ctx.st) = some .retired ∧
    nextOf (exec .free (tEv 0 0 0 0 0 [] State.reset)) (fun t => t.ctx.blk.ign) = some true ∧
    nextOf (exec .sliceExpiry (tEv 0 0 0 0 0 [] { tState with ctx := { tCtx with blk := { tCtx.blk with slice := 10, sliced := 7167 } } })) (fun t => (t.ctx.blk.preq, t.ctx.sliceUp)) = some (true, true) ∧
    (match exec .park (tEv 512 0 0 0 0 [] tState) with | .fault f => some f | _ => none) = some (.noSuchAgent 512) := by decide
theorem test_landing_events :
    nextOf (exec .resultLand (tEv 0 0 0 0 0 [] { tState with ctx := { tCtx with pend := [{ dest := .s 9, val := 5, addr := 0, left := 0, inter := 0, flags := 1, pc := 0 }] } }))
      (fun t => ((t.ctx.regs.readS 9).toNat, t.ctx.fp.fflags.toNat, t.ctx.pend.length)) = some (5, 1, 0) := by decide
/-- BAR 4 of the core: two arrivals perform on it. -/
theorem test_barrier_event :
    nextOf (exec .barrierArrival (tEv 0 0 0 0 0 [] { tBar with core := { tBar.core with barOps := [{ bar := 4, init := false, n := 3, left := 0, order := 0, ctx := 0, bno := 0 }] } }))
      (fun t => ((t.barrier 4).count, (t.barrier 4).epoch, t.core.barOps.length)) = some (0, 2, 0) := by decide
theorem test_unit_events :
    nextOf (exec .eqlimWrite (tEv 0 1 0 (300 * 2 ^ 16 + 100) 0 [] tState)) (fun t => (t.core.pool.caps, t.core.pool.mins, t.core.pool.err)) = some ([512, 300, 512, 512], [64, 100, 64, 64], false) ∧
    nextOf (exec .scrubLate (tEv 0 0 0 0 0 [] { tState with dev := { Device.reset with ref := 1200000000, halves := [(0, { Half.empty with st := 3 })] } })) (fun t => t.core.mcnt.late) = some 1 ∧
    nextOf (exec .statisticsDrain (tEv 0 0 0 0 0 [] { tState with core := { Core.reset with stats := { Stats.reset with recs := [9] } } })) (fun t => (t.core.stats.recs, t.core.stats.drop)) = some ([], 1) := by decide
theorem test_power_events :
    nextOf (exec .pcmdIdle (tEv 0 0 0 0 0 [] State.reset)) (fun t => t.dev.power.pclErr) = some true ∧
    nextOf (exec .pcmdActive (tEv 0 0 0 0 0 [] { State.reset with dev := { Device.reset with power := { PowerUnit.reset with st := .idle } } })) (fun t => t.dev.power.st) = some .active ∧
    nextOf (exec .pcapWrite (tEv 0 0 0 5000 0 [] State.reset)) (fun t => t.dev.power.cap) = some 4800 ∧
    nextOf (exec .pclusWrite (tEv 3 0 0 3 0 [] State.reset)) (fun t => t.dev.power.pclErr) = some true ∧
    nextOf (exec .tempLimit (tEv 1 0 0 95 0 [] State.reset)) (fun t => t.dev.power.towers.map Tower.hot) = some [false, true, false, false] ∧
    nextOf (exec .firmwareUpdate (tEv 0 0 0 0 0 [7, 5, 4, 3] State.reset)) (fun t => t.dev.boot.staged.map FwImage.ver) = some ((FwImage.ofData [7, 5, 4, 3]).ver) := by decide
theorem test_bus_events :
    nextOf (exec .tset (tEv 0 0 0 600 0 [] State.reset)) (fun t => (t.dev.ref, t.dev.refSet)) = some (600, true) ∧
    nextOf (exec .fpctlEn (tEv 2 0 0 1 0 [] State.reset)) (fun t => t.dev.links.ports.map Port.st) = some [0, 0, 1, 0, 0, 0, 0, 0] ∧
    nextOf (exec .trainingEnd (tEv 2 0 0 8 5 [] { State.reset with dev := { Device.reset with links := { Links.reset with ports := Links.reset.ports.map fun p => { p with st := 1 } } } }))
      (fun t => (t.dev.links.ports.map fun p => (p.st, p.lanes, p.lat)).getD 2 (0, 0, 0)) = some (2, 8, 5) := by decide
theorem test_launch_events :
    nextOf (exec .nopPacket (tEv 3 0 0 0 0 [] State.reset)) (fun t => (t.dev.queue 3).rd) = some 0 ∧
    (match exec .nopPacket (tEv 70 0 0 0 0 [] State.reset) with | .fault f => some f | _ => none) = some (.noSuchAgent 70) := by decide

/-! ## Witnesses: states and operands that meet the hypotheses of each obligation -/

/-- A WRITE ring and a FIFO of four 64-bit elements on the activation scratch. -/
def tWrite : Ring := { Ring.unbound with cfg := BitVec.ofNat 64 (3 * 2 ^ 61 + 63 * 2 ^ 51 + 64 * 2 ^ 20) }
def tFifo : Ring := { Ring.unbound with cfg := BitVec.ofNat 64 (1 * 2 ^ 61 + 63 * 2 ^ 51 + 4 * 2 ^ 20), count := 2 }
/-- A WRITE ring and a READ ring of 1,024-bit vectors. -/
def tWriteV : Ring := { Ring.unbound with cfg := BitVec.ofNat 64 (3 * 2 ^ 61 + 2 * 2 ^ 57 + 1024 * 2 ^ 20) }
def tReadV : Ring := { Ring.unbound with cfg := BitVec.ofNat 64 (2 * 2 ^ 61 + 2 * 2 ^ 57 + 1024 * 2 ^ 20), window := [{ val := 5, addr := 0, cause := none }] }
/-- q0 READ, q1 WRITE, q2 FIFO, q3 WRITE of vectors, q4 READ of vectors. -/
def tRing : State := { tState with ctx := { tCtx with rings := [tRead, tWrite, tFifo, tWriteV, tReadV] ++ List.replicate 11 .unbound } }

/-- ScalarTwoSources, ScalarOneSource: a register, a pop and a peek deliver; a register and a push accept. -/
theorem witness_scalar_sources :
    Gives (readS (.reg 1)) tRing 7 tRing ∧ Gives (readS (.pop 0)) tRing 7 (tRing.staged [.pop 0]) ∧ Gives (readS (.peek 0)) tRing 7 tRing ∧
    Gives (readyS (.reg 8)) tRing () tRing ∧ Gives (readyS (.push 1)) tRing () tRing ∧ Gives (readyS (.push 2)) tRing () tRing ∧
    Gives (readyS (.reg 8)) (tRing.staged [.pop 0]) () (tRing.staged [.pop 0]) := by and_intros <;> first | rfl | decide | exact gives_of_run fun _ => rfl | exact gives_owing fun _ => rfl
/-- ScalarImmediates, at pos 63 with one bit and pos 0 with 64. -/
theorem witness_scalar_immediates :
    (63 : Fin 64).val + (0 : Fin 64).val < 64 ∧ (0 : Fin 64).val + (63 : Fin 64).val < 64 ∧ Gives (readS (.reg 1)) tState 7 tState ∧ Gives (readyS (.reg 8)) tState () tState ∧
    Gives (readReg 3) tState (-1) tState ∧ Gives (readyDest (.s 3)) tState () tState := by and_intros <;> first | rfl | decide | exact gives_of_run fun _ => rfl | exact gives_owing fun _ => rfl
/-- RegisterMoves: nothing pending; bases 0 and 4,032 for wre. -/
theorem witness_register_moves :
    Gives (readyS (.reg 8)) tState () tState ∧ tState.ctx.busy (.b 1 false) = false ∧ tState.ctx.busy (.m 1) = false ∧ tState.ctx.busy (.e 1) = false ∧
    (∀ j < 8, tState.ctx.busy (.pair j) = false) ∧ (∀ j < 8, tState.ctx.busyWrite (.pair j) = false) ∧ Gives (readS (.reg 0)) tState 0 tState ∧
    Gives (readS (.reg 9)) (tWith fun r => { r with s := r.s.set 9 4032 }) 4032 (tWith fun r => { r with s := r.s.set 9 4032 }) ∧
    tState.ctx.busyWrite (.b 1 false) = false ∧ tState.ctx.busyWrite (.m 1) = false ∧ tState.ctx.busyWrite (.e 1) = false := by and_intros <;> first | rfl | decide | exact gives_of_run fun _ => rfl | exact gives_owing fun _ => rfl
/-- DivisionsComplete: a zero divisor, the signed overflow, an ordinary division. -/
theorem witness_divisions :
    Gives (readS (.reg 4)) tState (-2 ^ 63) tState ∧ Gives (readS (.reg 3)) tState (-1) tState ∧ Gives (readS (.reg 0)) tState 0 tState ∧ Gives (readS (.reg 1)) tState 7 tState ∧
    tState.ctx.busyWrite (.s 8) = false := by and_intros <;> first | rfl | decide | exact gives_of_run fun _ => rfl | exact gives_owing fun _ => rfl
/-- ComparesAndPredicateLogic. -/
theorem witness_compares :
    Gives (readS (.reg 1)) tState 7 tState ∧ tState.ctx.busyWrite (.pair 1) = false ∧ tState.guardReady 0 ∧ tState.guardReady 15 ∧ Gives (readyS (.reg 8)) tState () tState ∧
    (-1 : Word) = (-1 : BitVec 12).signExtend 64 := by and_intros <;> first | decide | rfl | exact gives_of_run fun _ => rfl | exact gives_owing fun _ => rfl | exact .inl (by decide) | exact .inr rfl
/-- SlotsRaiseInOrder, first part: each check failed. -/
theorem witness_slots_raise :
    Gives (readS (.reg 1)) tState 7 tState ∧ tState.ctx.busyWrite (.e 1) = false ∧ ¬ ((7 : Word).toNat % 64 = 0 ∧ (7 : Word).toNat < 4096) ∧
    ¬ ((4096 : Word).toNat % 64 = 0 ∧ (4096 : Word).toNat < 4096) ∧
    ptrAdd (Fmt.stride .bf16) (-2 ^ 63) (-1) = .error (-1) ∧ ptrAdd { w := 8, l := 0 } (-2 ^ 63) (-1) = .error (-1) ∧
    (∃ v, ptrDif (Fmt.stride .bf16) 7 0 = .error v) ∧ (∃ v, ptrDif { w := 8, l := 0 } 7 0 = .error v) ∧
    ptrIdx (Fmt.stride .bf16) 0 (-2 ^ 63) = .error (-2 ^ 63) ∧ ptrRec (Fmt.stride .mxi8) 0 (2 ^ 63 - 1) = .error (2 ^ 63 - 1) ∧
    ptrAlign (Fmt.stride .bf16) (2 ^ 63 - 1) 0 = .error (2 ^ 63 - 1) ∧ ptrAlign (Fmt.stride .mxi8) (-1) 0 = .error (-1) ∧ ptrClass (Fmt.stride .bf16) 0 0 = .error 0 ∧
    2 ^ 63 ≤ (2 ^ 63 - 1 : Word).toInt + 42 ∧ 2 ^ 37 ≤ (2 ^ 37 : Word).toNat ∧ 2 ^ 32 ≤ (2 ^ 32 : Word).toNat ∧
    tState.ctx.inh = false ∧ tState.ctx.loops.levels.length ≤ (1 : Fin 8).val ∧ (tState.ctx.regs.readS 1).toNat % 8 ∈ [6, 7] :=
  by and_intros <;> first | exact ⟨_, rfl⟩ | exact gives_of_run fun _ => rfl | exact gives_owing fun _ => rfl | decide

/-- Bundles of four NOPs at 0, 128, 256 and 384, the first at issue, with these levels active and this claim of loop buffer. -/
def tLoop (levels : List Level) (claim : Nat) : State := { tState with
  core := { Core.reset with imem := (((Memory.writeBits [] 96 32 (2 ^ 31)).writeBits 224 32 (2 ^ 31)).writeBits 352 32 (2 ^ 31)).writeBits 480 32 (2 ^ 31) }
  ctx := { tCtx with claims := { tCtx.claims with loopBuf := claim }, loops := { LoopStack.empty with levels := levels } }
  bundle := { Bundle.empty with pc := 0, next := 128 } }
/-- A level around everything, one that ends at 256. -/
def tOuter : Level := { start := 0, stop := 512, count := 2, index := 0, safe := false }
def tInner : Level := { start := 128, stop := 256, count := 2, index := 1, safe := false }

/-- SlotsRaiseInOrder, second part, at the borders of its clauses: a malformed body; a count of 2^32; six levels; a body past the innermost one; a body past the claim. -/
theorem witness_loop_raises :
    frameBody tState.core.imem tState.ctx.code tState.bundle.next 1 = none ∧
    frameBody (tLoop [tOuter] 64).core.imem (tLoop [tOuter] 64).ctx.code 128 2 = some 384 ∧
    Gives (readS (.reg 9)) (tWith fun r => { r with s := r.s.set 9 (2 ^ 32) }) (2 ^ 32) (tWith fun r => { r with s := r.s.set 9 (2 ^ 32) }) ∧ (7 : Word).toNat < 2 ^ 32 ∧
    6 ≤ (tLoop (List.replicate 6 tOuter) 64).ctx.loops.levels.length ∧ (tLoop [tOuter, tInner] 64).ctx.loops.levels.getLast? = some tInner ∧ tInner.stop < 384 ∧
    384 ≤ tOuter.stop ∧ (tLoop [tOuter] 1).ctx.claims.loopBuf < 2 := by and_intros <;> first | rfl | decide | exact gives_of_run fun _ => rfl | exact gives_owing fun _ => rfl
/-- The same for one handle register: unusable, past its page, without the right, usable. -/
theorem witness_handle_raises :
    Gives (readReg 5) tState 128 tState ∧ tState.ctx.busy (.h 1) = false ∧ hUsable (tState.ctx.regs.readH 2) = false ∧
    hUsable tHandle = true ∧ hSize tHandle = 2 ^ 19 ∧ hRd tHandle = true ∧ hWr tHandle = true ∧ hRd (hSetState 0 1) = false ∧ hWr (hSetState 0 1) = false ∧ hUsable (hSetState 0 1) = true ∧
    Gives (readyS (.reg 8)) tState () tState ∧ Gives (readReg 1) tState 7 tState ∧ tState.guardReady 2 ∧ tState.ctx.regs.readP 2 = true ∧
    (∃ c, tState.ctxCause (0x80000000000) 64 = some c) :=
  by and_intros <;> first | rfl | decide | exact gives_of_run fun _ => rfl | exact gives_owing fun _ => rfl | exact .inr rfl | exact ⟨_, rfl⟩
/-- PointersComplete. -/
theorem witness_pointers :
    ptrAdd (Fmt.stride .bf16) 128 3 = .ok 176 ∧ ptrDif (Fmt.stride .bf16) 128 0 = .ok 8 ∧ ptrAdd { w := 1, l := 0 } 128 3 = .ok 131 ∧ ptrAdd { w := 64, l := 0 } 128 (-2) = .ok 0 ∧
    ptrDif { w := 64, l := 0 } 128 0 = .ok 2 ∧ ptrIdx (Fmt.stride .bf16) 128 3 = .ok 176 ∧ ptrRec (Fmt.stride .mxi8) 0 2 = .ok 532 ∧ ptrAlign (Fmt.stride .bf16) 7 0 = .ok 16 ∧
    ptrClass (Fmt.stride .bf16) 0 64 = .ok 2 ∧ (2 ^ 37 - 1 : Word).toNat < 2 ^ 37 ∧ (2 ^ 32 - 1 : Word).toNat < 2 ^ 32 ∧ Fmt.recLen .mxi8 ≠ 0 ∧ (128 : Word).toInt + 42 + 4 * 32 < 2 ^ 63 ∧
    ptrAdd (Fmt.stride .mxi8) 0 33 = .ok (BitVec.ofNat 64 (266 + 2 ^ 59)) ∧ ptrDif (Fmt.stride .mxi8) (BitVec.ofNat 64 (266 + 2 ^ 59)) 0 = .ok 33 := by decide
/-- OperandFreeSlots: a handler and a context outside one; a coordinate; a spawn of an earlier group, and of none; levels 1 and 15. -/
theorem witness_operand_free :
    ({ tTrap with ctx := tTrap.ctx.takeTrap tEntry } : State).ctx.inh = true ∧ tState.ctx.inh = false ∧ Gives (readyS (.reg 8)) tState () tState ∧
    Gives (readReg 9) tState 0 tState ∧ Gives (readReg 10) tState 0 tState ∧ (0 : Word).toNat < 2 ^ 41 ∧ (0 : Word).toNat % 2 ^ 40 ≤ tState.ctx.group.index ∧
    (2 ^ 40 : Word).getLsbD 40 = true ∧ tState.spawnIndex < 2 ^ 40 - 1 ∧ tState.myKernel = none ∧ (1 : Fin 16).val ≤ tState.ctx.power.level ∧
    tState.ctx.power.level < (15 : Fin 16).val ∧ tState.ctx.power.held < (15 : Fin 16).val ∧ tState.bundle.mark = .none ∧ tState.ctx.busyWrite (.h 15) = false := by and_intros <;> first | rfl | decide | exact gives_of_run fun _ => rfl | exact gives_owing fun _ => rfl
/-- BranchesComplete: a guard that is 0 and one that is 1; a b register of a pbr three clk old. -/
theorem witness_branches :
    tState.guardReady 3 ∧ tState.ctx.regs.readP 3 = false ∧ tState.guardReady 0 ∧ tState.ctx.regs.readP 0 = true ∧ tState.ctx.busyWrite (.b 3 false) = false ∧
    tState.ctx.busy (.b 1 false) = false ∧ tState.ctx.busyWrite (.b 1 true) = false ∧
    (∃ s : State, s.ctx.regs.bPbr.getD 1 false = true ∧ 3 ≤ s.ctx.regs.bAge.getD 1 0 ∧ s.ctx.busy (.b 1 false) = false) :=
  ⟨.inr rfl, rfl, .inl (by decide), rfl, rfl, rfl, rfl, ⟨tWith fun r => { r with bPbr := [false, true, false, false], bAge := [0, 3, 0, 0] }, rfl, by decide, rfl⟩⟩
/-- LoopsComplete: two bundles within the innermost body and the claim. -/
theorem witness_loops :
    frameBody (tLoop [tOuter] 2).core.imem (tLoop [tOuter] 2).ctx.code (tLoop [tOuter] 2).bundle.next 2 = some 384 ∧ (tLoop [tOuter] 2).ctx.loops.levels.length < 6 ∧
    (∀ l, (tLoop [tOuter] 2).ctx.loops.levels.getLast? = some l → 384 ≤ l.stop) ∧ 2 ≤ (tLoop [tOuter] 2).ctx.claims.loopBuf ∧
    Gives (readS (.reg 1)) (tLoop [tOuter] 2) 7 (tLoop [tOuter] 2) ∧ (7 : Word).toNat < 2 ^ 32 ∧ 0 < (tLoop [tOuter] 2).ctx.loops.levels.length :=
  by and_intros <;> first | decide | exact gives_of_run fun _ => rfl | exact gives_owing fun _ => rfl
/-- ControlRegistersReadAndWrite. -/
theorem witness_control_registers :
    tState.ctx.busyWrite (.s 8) = false ∧ tState.ctx.flagsPending = false ∧ tState.ctx.busy (.s 5) = false ∧ (tState.ctx.regs.readS 5).toNat % 8 < 6 := by decide
/-- GfenceAdvancesGeneration: no command, and one whose tag would no longer be older. -/
def tCmd (tag : Nat) : Command := { (tState.commandOf 0 0 0 false 0 0 0 0) with tag := tag }
theorem witness_gfence :
    (∀ c ∈ tState.core.pool.cmds, c.ctx = tState.phys → tagOlder c.tag ((tState.ctx.gen + 1) % 2 ^ 16) = true) ∧ tagOlder (tCmd 0).tag 1 = true ∧
    (∃ s : State, tCmd 1 ∈ s.core.pool.cmds ∧ (tCmd 1).ctx = s.phys ∧ tagOlder (tCmd 1).tag ((s.ctx.gen + 1) % 2 ^ 16) = false) :=
  ⟨by decide, by decide, ⟨{ tState with core := { Core.reset with pool := { Pool.reset with cmds := [tCmd 1] } } }, by decide, by decide, by decide⟩⟩

/-- ScalarLocalLoads, ScalarLocalStores: the last 64 bits of each space, and the first address that no longer fits; a clean word; a full granule. -/
theorem witness_scalar_local :
    (63 : Fin 64).val + 1 = 64 ∧ 2 ^ 24 - 64 + 64 ≤ Space.act.size ∧ 2 ^ 22 - 64 + 64 ≤ Space.stg.size ∧ Space.act.size < 2 ^ 24 - 63 + 64 ∧ Space.stg.size < 2 ^ 22 - 63 + 64 ∧
    Gives (readS (.reg 5)) tMemState 128 tMemState ∧ Gives (readyS (.reg 8)) tMemState () tMemState ∧ tMemState.loadReady .act 0 128 64 ∧ tMemState.loadReady .stg 0 (2 ^ 22 - 64) 64 ∧
    ({ tMemState with core := { tMemState.core with full := [1] } } : State).loadReady .act 2 128 64 ∧ tMemState.guardReady 2 ∧ tMemState.ctx.regs.readP 2 = true ∧
    tMemState.ctx.regs.readP 3 = false :=
  by and_intros <;> first | rfl | decide | exact gives_of_run fun _ => rfl | exact gives_owing fun _ => rfl | exact ⟨rfl, rfl, .inl rfl⟩ | exact ⟨rfl, rfl, .inr rfl⟩ | exact .inr rfl
/-- VectorLocalLoads: the last vector of each space and stride; bank 0 typed S8 widens. -/
def tWiden : State := { tMemState with core := { tMemState.core with bfmt := BitVec.ofNat 64 (2 ^ 32 + 0x10) :: List.replicate 15 0 } }
theorem witness_vector_local_loads :
    2 ^ 24 - 1024 + lanesIn false * 16 ≤ Space.act.size ∧ 2 ^ 24 - 1024 * 63 - 16 + 1024 * (lanesIn false - 1) + 16 ≤ Space.act.size ∧ 2 ^ 22 - 1024 + lanesIn true * bitsIn true ≤ Space.stg.size ∧
    Gives (readyV (.reg 8)) tMemState () tMemState ∧ tMemState.loadReady .act 0 (2 ^ 24 - 1024) 1024 ∧ (∀ i < 64, tMemState.loadReady .act 0 (128 + i * 1024) 16) ∧
    tMemState.loadReady .stg 0 (2 ^ 22 - 1024) 1024 ∧ tMemState.elemBits false 128 = 16 ∧ tWiden.elemBits false 128 = 8 ∧
    (∀ i < 64, 0 ≤ (1024 : Int) + (-16) * (i : Nat) ∧ (1024 : Int) + (-16) * (i : Nat) + 16 ≤ Space.act.size ∧ tMemState.loadReady .act 0 ((1024 : Int) + (-16) * (i : Nat)).toNat 16) :=
  by and_intros <;> first | rfl | decide | exact gives_of_run fun _ => rfl | exact gives_owing fun _ => rfl | exact ⟨rfl, rfl, .inl rfl⟩ | exact fun _ _ => ⟨rfl, rfl, .inl rfl⟩ | exact fun i h => ⟨by omega, by simp [Space.size]; omega, rfl, rfl, .inl rfl⟩
/-- VectorLocalStores: lanes 0 and 2 at the end of the space, no lane, a lane past it. -/
theorem witness_vector_local_stores :
    Gives (readReg 5) tState 128 tState ∧ Gives (readMask 1) tState (tState.ctx.regs.readM 1) tState ∧ Gives (readVReg 2) tState (tState.ctx.regs.readV 2) tState ∧ tState.guardReady 2 ∧
    tState.ctx.regs.readP 2 = true ∧ tState.ctx.regs.readP 3 = false ∧ (List.range 64).filter (fun i => (tState.ctx.regs.readM 1).getLsbD i) = [0, 2] ∧
    (List.range 64).filter (fun i => (tState.ctx.regs.readM 2).getLsbD i) = [] ∧ (∀ i ∈ [0, 2], 0 ≤ (2 ^ 24 - 48 : Int) + 16 * (i : Nat) ∧ (2 ^ 24 - 48 : Int) + 16 * (i : Nat) + 16 ≤ Space.act.size) ∧
    ([0, 2] : List Nat).find? (fun i => decide ((2 ^ 24 - 32 : Int) + 16 * (i : Nat) < 0 ∨ (Space.act.size : Int) < (2 ^ 24 - 32 : Int) + 16 * (i : Nat) + 16)) = some 2 :=
  by and_intros <;> first | rfl | decide | exact gives_of_run fun _ => rfl | exact gives_owing fun _ => rfl | exact .inr rfl
/-- LocalAtomics: the last word of the scratch; across a word; past the end. -/
theorem witness_local_atomics :
    (10 : Fin 16).val < 11 ∧ atomWidth 10 = 64 ∧ Gives (readReg 1) tState 7 tState ∧ Gives (readReg 2) tState 3 tState ∧ tState.guardReady 2 ∧ tState.ctx.busyWrite (.s 1) = false ∧
    2 ^ 24 - 64 + 64 ≤ 2 ^ 24 ∧ alignClass (2 ^ 24 - 64) 64 = .w ∧ alignClass 7 64 ≠ .w ∧ 2 ^ 24 < 2 ^ 24 - 63 + 64 := by and_intros <;> first | rfl | decide | exact gives_of_run fun _ => rfl | exact gives_owing fun _ => rfl | exact .inr rfl
/-- AtomicsPerformAtTheirBank, StoresPerformAtTheirBank: accesses of the context in focus on memory in canonical form. -/
theorem witness_bank_accesses :
    tMemState.core.poison = [] ∧ tMemState.core.act.wf = true ∧ (tMemState.core.mem .stg).wf = true ∧ (0 : Nat) = tMemState.slot ∧ 0 < 64 ∧ (2 ^ 64 - 1 : Nat) < 2 ^ 64 ∧ Space.stg ≠ .glob := by decide
/-- GlobalLoadsAndStores, GlobalAtomicsAndMaintenance: the last bits of the page of h1, with and without the guard; a masked store of two lanes; a class other than W. -/
theorem witness_global :
    Gives (readReg 5) tState 128 tState ∧ tState.handleOk 1 128 64 hRd ∧ tState.handleOk 1 (2 ^ 19 - 64) 64 hWr ∧ tState.handleOk 1 (2 ^ 19 - 1024) 1024 hRd ∧ tState.handleOk 1 128 64 hAt ∧
    Gives (readyS (.push 1)) tRing () tRing ∧ Gives (readyV (.push 3)) tRing () tRing ∧ Gives (readyV (.reg 8)) tState () tState ∧ tState.guardReady 2 ∧
    (∀ i ∈ [0, 2], (128 : Word).toNat + i * 16 + 16 ≤ hSize (tState.ctx.regs.readH 1) ∧ tState.ctxCause (tState.handleAddr 1 128 + i * 16) 16 = none) ∧
    alignClass (tState.handleAddr 1 128) 64 = .w ∧ alignClass (tState.handleAddr 1 (2 ^ 19 - 96)) 64 ≠ .w ∧ tState.handleOk 1 (2 ^ 19 - 96) 64 hAt ∧ Gives (readS (.reg 6)) tState 10 tState :=
  by and_intros <;> first | rfl | decide | exact gives_of_run fun _ => rfl | exact gives_owing fun _ => rfl | exact ⟨rfl, rfl, by decide, rfl, rfl⟩ | exact .inr rfl
/-- HandleSlots: a cached leaf of page 0, one that migrates, none; an address that is not canonical; a probe of nothing beside a safe slot. -/
def tLeaf (mig : Nat) : TcEntry := { asid := 0, vpn := 0, big := false, addr := 0x1000, leaf := BitVec.ofNat 64 (2 ^ 63 + mig * 2 ^ 56) }
def tCached (mig : Nat) : State := { tState with core := { Core.reset with tcache := [tLeaf mig] }, bundle := { tState.bundle with slots := [.probe (.reg 5) (.reg 0), .safe] } }
theorem witness_handles :
    Gives (readS (.reg 5)) (tCached 1) 128 (tCached 1) ∧ (tCached 1).ctx.handlePending 2 = false ∧ (tCached 1).ctx.busyWrite (.h 2) = false ∧ (tCached 1).ctx.busyWrite (.pair 1) = false ∧
    isCanonical 128 = true ∧ isCanonical (2 ^ 63) = false ∧ tcFind (tCached 1).core.tcache 0 128 = some (tLeaf 1) ∧ pteMig (tLeaf 1).leaf.toNat < 2 ∧ pteMig (tLeaf 2).leaf.toNat = 2 ∧
    tcFind tState.core.tcache 0 128 = none ∧ Gives (readS (.reg 0)) (tCached 1) 0 (tCached 1) ∧ Instr.safe ∈ (tCached 1).bundle.slots ∧ (tCached 1).ctx.pend = [] ∧ (tCached 1).ctx.awaits = [] ∧
    (tCached 1).ctx.gq = [] ∧ (tCached 1).probePages 128 128 [] 64 = .done [] ∧ (∃ c v l, (tCached 1).probePages (2 ^ 63) (2 ^ 63 + 1) [] 64 = .fault c v l) ∧
    Gives (readyS (.push 1)) tRing () tRing ∧ hState (tState.ctx.regs.readH 2) = 0 :=
  by and_intros <;> first | rfl | decide | exact gives_of_run fun _ => rfl | exact gives_owing fun _ => rfl | exact ⟨_, _, _, rfl⟩
/-- OrderBarrierAndTimeSlots: fences with nothing pending; descriptors of barriers 4, 255, 0x8000 and 0x83FF; REF 0 against deadlines 0 and 7. -/
theorem witness_order_slots :
    tState.readsDone tState.ctx.commits = true ∧ tState.scDrained = true ∧ tState.ctx.order.scPassed = false ∧ ({ tState with ctx := { tCtx with order := { tCtx.order with scPassed := true } } } : State).ctx.order.scPassed = true ∧
    bfmtOk 0 = true ∧ bfmtOk (-1) = false ∧ descOkWait 4 = true ∧ descOkWait 255 = true ∧ descOkWait 0x8000 = true ∧ descOkWait 0x83FF = true ∧ descOkArrive 4 = true ∧ (tBar.barrier 4).armed = true ∧
    (tBar.barrier 5).armed = false ∧ (tBar.barrier 4).passed 4 = false ∧ (tBar.barrier 4).passed (BitVec.ofNat 64 (4 + 2 ^ 16)) = true ∧ (4 : Word) ∉ tBar.ctx.released ∧ tBar.bundle.mark = .none ∧
    tBar.ctx.busyWrite (.pair 1) = false ∧ (0 : Word).toNat ≤ tState.dev.ref / 1024 ∧ tState.dev.ref / 1024 < (1 : Word).toNat ∧ (0 : Word).toNat ≤ tState.dev.ref * 5 / 6 ∧
    tState.dev.ref * 5 / 6 < (1 : Word).toNat ∧ 0 < (1 : Word).toNat ∧ (2 ^ 40 - 1 : Word).toNat < 2 ^ 40 ∧ Gives (readS (.reg 1)) tBar 7 tBar := by
  and_intros <;> first | rfl | decide | exact gives_of_run fun _ => rfl | exact gives_owing fun _ => rfl
/-- BarrierTransitions: ARMED with count target - 1; not ARMED; phase and epoch descriptors. -/
theorem witness_barriers :
    (tBar.barrier 4).state = 1 ∧ 0 < (tBar.barrier 4).target ∧ (tBar.barrier 4).count < (tBar.barrier 4).target ∧ (tBar.barrier 5).state ≠ 1 ∧ (4 : Word).getLsbD 17 = false ∧
    (BitVec.ofNat 64 (4 + 2 ^ 17) : Word).getLsbD 17 = true ∧ (tBar.barrier 4).epoch < 2 ^ 16 ∧ (255 < 256 ∨ 0x8000 ≤ 255) ∧ (0x8000 < 256 ∨ 0x8000 ≤ 0x8000) ∧
    (∃ k, 1 ≤ k ∧ k ≤ 2 ^ 15 - 1 ∧ (3 : Nat) = (0xFFFF + k) % 2 ^ 16) := by and_intros <;> first | rfl | decide | exact gives_of_run fun _ => rfl | exact gives_owing fun _ => rfl | exact ⟨4, by decide⟩

/-- FloatArithmeticLanes to ConversionSlots: vectors from a register, a pop and a peek; a vector and a mask destination; a push of a vector; lane indices N - 1 and N. -/
theorem witness_vectors :
    Gives (readV (.reg 1)) tState 0 tState ∧ Gives (readV (.pop 4)) tRing 5 (tRing.staged [.pop 4]) ∧ Gives (readV (.peek 4)) tRing 5 tRing ∧ Gives (readyV (.reg 8)) tState () tState ∧
    Gives (readyV (.push 3)) tRing () tRing ∧ Gives (readVReg 3) tState 0 tState ∧ Gives (readyDest (.v 3)) tState () tState ∧ tState.ctx.busyWrite (.m 1) = false ∧ tState.ctx.busy (.m 1) = false ∧
    tState.ctx.busy (.m 2) = false ∧ Gives (readyS (.reg 8)) tState () tState ∧ Gives (readS (.reg 1)) tState 7 tState ∧ (63 : Word).toNat < lanesIn false ∧ lanesIn false ≤ (64 : Word).toNat ∧
    (31 : Word).toNat < lanesIn true ∧ lanesIn true ≤ (32 : Word).toNat ∧ Exact.isNan (.nan true) = true := by and_intros <;> first | rfl | decide | exact gives_of_run fun _ => rfl | exact gives_owing fun _ => rfl
/-- SumFileSlots: lanes 4,095 and 4,096; anchors at both ends and past them; a readout whose clk collides with a staged one. -/
theorem witness_sum_file :
    Gives (readV (.reg 1)) tState 0 tState ∧ tState.ctx.busy (.e 1) = false ∧ tState.ctx.busy (.s 1) = false ∧ (4095 : Word).toNat < 4096 ∧ 4096 ≤ (4096 : Word).toNat ∧ tState.drainsPast = true ∧
    tState.ctx.busyWrite (.v 8) = false ∧ Gives (readyV (.push 3)) tRing () tRing ∧ tState.ctx.busy (.m 1) = false ∧ (-2048 ≤ (2047 : Word).toInt ∧ (2047 : Word).toInt ≤ 2047) ∧
    (-2048 ≤ (-2048 : Word).toInt ∧ (-2048 : Word).toInt ≤ 2047) ∧ ¬ (-2048 ≤ (2048 : Word).toInt ∧ (2048 : Word).toInt ≤ 2047) := by and_intros <;> first | rfl | decide | exact gives_of_run fun _ => rfl | exact gives_owing fun _ => rfl
/-- FunctionSlots: 15 entries of the function queue, and 16. -/
def tFnEntry : FnEntry := { slot := 0, tag := 1, wait := 12, work := 0, second := false, pc := 0, info := 0, val := 0 }
theorem witness_function_queue :
    Gives (readV (.reg 1)) tState 0 tState ∧ Gives (readyV (.reg 8)) tState () tState ∧ (List.replicate 15 tFnEntry).length < 16 ∧ 16 ≤ (List.replicate 16 tFnEntry).length ∧
    tState.core.fnQueue.length < 16 ∧ tState.bundle.mark = .none ∧
    (∃ s : State, ¬ s.core.fnQueue.length < 16 ∧ Gives (readyV (.reg 8)) s () s ∧ s.bundle.mark = .none) :=
  by and_intros <;> first | rfl | decide | exact gives_of_run fun _ => rfl | exact gives_owing fun _ => rfl | exact ⟨{ tState with core := { Core.reset with fnQueue := List.replicate 16 tFnEntry } }, by decide, gives_of_run fun _ => rfl, rfl⟩
/-- BeatSlots, ShiftingAShaft: the owner and another; a shaft that waits for planes, one IN with planes left, one DONE, one OFF. -/
def tShaft (st planes : Nat) (back : Option HalfVec) : Shaft := { Shaft.off with byte := 3, st := st, planes := planes, back := back }
def tHv : HalfVec := { codes := List.replicate 256 1, scales := List.replicate 8 0 }
def tDotWith (h : Shaft) : State := { tState with core := { Core.reset with dot := { DotSet.none with owner := some 0, shafts := h :: List.replicate 7 .off } } }
theorem witness_beats :
    tState.core.dot.owner ≠ some tState.slot ∧ (tDotWith (tShaft 0 0 none)).core.dot.owner = some tState.slot ∧ (1 : Fin 256).val ≠ 0 ∧
    (∀ k ∈ maskShafts 1, ((tDotWith (tShaft 0 0 none)).shaft k).af = 3 ∧ ((tDotWith (tShaft 0 0 none)).shaft k).rb = false ∧ ((tDotWith (tShaft 0 0 none)).shaft k).back = none) ∧
    (tDotWith (tShaft 0 0 none)).ctx.busy (.v 1) = false ∧ (tDotWith (tShaft 2 4 none)).splitGroup 1 = none ∧ (∀ k ∈ maskShafts 1, ((tDotWith (tShaft 2 4 none)).shaft k).st = 2) ∧
    (∀ e ∈ (tDotWith (tShaft 2 4 none)).groupHalves 1, e.held = false) ∧ (tDotWith (tShaft 2 4 none)).core.busLeft = 0 ∧
    Gives (shiftAll 1 false (maskShafts 1) (tDotWith (tShaft 0 0 (some tHv))).core.dot.shafts []) (tDotWith (tShaft 0 0 (some tHv)))
      ({ tShaft 1 1 none with front := tHv } :: List.replicate 7 .off, [(0, 0)]) ((tDotWith (tShaft 0 0 (some tHv))).staged [.charge 0]) ∧
    (tShaft 2 4 none).st = 2 ∧ ((tShaft 0 0 none).st ≠ 1 ∧ (tShaft 0 0 none).st ≠ 2 ∧ (tShaft 0 0 none).back = none ∧ (tShaft 0 0 none).rb = false) ∧ (tShaft 1 3 none).st = 1 ∧
    (tShaft 1 3 none).planes ≤ afPlanes (tShaft 1 3 none).af ∧ (tShaft 1 3 none).planeZero 3 = true := by and_intros <;> first | rfl | decide | exact gives_of_run fun _ => rfl | exact gives_owing fun _ => rfl
theorem witness_settled : (tDotWith (tShaft 2 4 none)).settled 1 := fun _ h => by cases h
/-- MacroSlots: a set of one MXI4 half on shaft 0 described at 128 in the scratch; 128 halves and 129; F 8,191 and 8,192; a word with a reserved bit. -/
def tSetMem : State := { tState with
  core := { Core.reset with act := Memory.writeBits [] 128 64 (2 ^ 63) }
  dev := { Device.reset with halves := [(Device.reset.place 0 0, { Half.empty with st := 3, fmt := 0x0A })] } }
theorem witness_macros :
    tState.core.dot.owner = none ∧ (∀ h ∈ tState.core.dot.shafts, h.st ≠ 1 ∧ h.st ≠ 2) ∧ (∀ e ∈ tState.core.dot.entries, e.held = false) ∧ tState.ctx.busy (.s 1) = false ∧
    shaftByteOk 3 = true ∧ (128 : Word).toNat % 64 = 0 ∧ (128 : Word).toNat + 8192 ≤ 2 ^ 24 ∧ tSetMem.loadReady .act 0 128 8192 ∧ tSetMem.badEntry 3 [] [2 ^ 63] = none ∧ descV (2 ^ 63) = true ∧
    (tSetMem.halfAt (descF (2 ^ 63))).nameable = true ∧ (7 : Word).toNat < 2 ^ 19 ∧ 2 ^ 19 ≤ (2 ^ 19 : Word).toNat ∧ (∀ k < 128, tState.mmodeOk (8064 + k) 0 false = true) ∧ 8064 + 128 ≤ 8192 ∧
    (128 : Word).toNat ≤ 128 ∧ 128 < (129 : Word).toNat ∧ (8191 : Word).toNat < 8192 ∧ (tState.halfAt 8191).storage = true ∧ (tSetMem.halfAt 0).st = 3 ∧ (tSetMem.halfAt 0).chk = false ∧
    8192 ≤ (8192 : Word).toNat ∧ (2 ^ 14 : Word).toNat / 8192 ≤ 2 ∧ (2 ^ 14 : Word).toNat % 8192 = 0 ∧ tState.ctx.busyWrite (.s 8) = false :=
  by and_intros <;> decide
/-- RingSlots: bindings of each mode; counts up to the capacity and past what is held; strides at both ends. -/
theorem witness_rings :
    ringCfgOk tRead.cfg 0 = true ∧ ringCfgOk tWrite.cfg 0 = true ∧ ringCfgOk tFifo.cfg 0 = true ∧ ringCfgOk 0 0 = false ∧ (tState.bindRing 128 tFifo.cfg).mode = 1 ∧
    128 + (tState.bindRing 128 tFifo.cfg).capacity * (tState.bindRing 128 tFifo.cfg).size ≤ (spaceOf (tState.bindRing 128 tFifo.cfg).spaceNo).size ∧
    (∃ w, ringCfgOk w 0 = true ∧ (tState.bindRing 128 w).spaceNo = 2 ∧ tState.ctx.busy (.h (w.toNat / 2 ^ 44 % 16)) = false ∧ hUsable (tState.ctx.regs.readH (w.toNat / 2 ^ 44 % 16)) = true) ∧
    tFifo.mode ≠ 0 ∧ 2 ≤ tFifo.capacity ∧ 2 ≤ tFifo.count ∧ tFifo.count < 4 ∧ 4 ≤ tFifo.capacity ∧ Ring.unbound.mode = 0 ∧ 8 ≤ tRead.depth ∧ 2 ≤ tRead.window.length ∧ tRead.window.length < 8 ∧
    tWrite.pending = 0 ∧ ({ tWrite with alloc := 1 } : Ring).pending ≠ 0 ∧ -2 ^ 23 ≤ (-2 ^ 23 : Word).toInt ∧ (2 ^ 23 - 1 : Word).toInt < 2 ^ 23 ∧ tState.core.stats.recs = [] ∧
    tState.core.stats.fresh = [] ∧ tState.bundle.mark = .none :=
  by and_intros <;> first | exact ⟨BitVec.ofNat 64 (2 * 2 ^ 61 + 2 * 2 ^ 59 + 63 * 2 ^ 51 + 2 ^ 44 + 64 * 2 ^ 20), by decide⟩ | rfl | decide

/-- EngineCommandSlots: a copy, a transfer to the last core of the kernel, both with room and without; a group of one member, the context itself; a reload from staging. -/
def tGroup : State := { tCopy with
  dev := { Device.reset with links := { Links.reset with groups := { n := 0, base := 2 ^ 20, digest := 0 } :: Links.reset.groups.tail } } }
def tRld : Word := BitVec.ofNat 64 (2 ^ 62 + 8 * 2 ^ 53 + 8 * 2 ^ 48 + 5)
theorem witness_collectives :
    collOk 1 64 0 (tGroup.dev.group (kwGRP 64)) = true ∧ collOk 0 (BitVec.ofNat 64 (2 * 2 ^ 40 + 64)) 0 (tGroup.dev.group 0) = true ∧
    (tGroup.dev.memberList (tGroup.dev.group 0)).contains (tGroup.dev.memberEntry tGroup.phys) = true ∧ collOffence 1 64 1 (2 ^ 24 - 64) (2 ^ 24 - 64) = none ∧
    collOffence 0 (BitVec.ofNat 64 (2 * 2 ^ 40 + 64)) 1 0 (4096 - 64) = none ∧ tGroup.core.anchorsAre (4096 - 64) 64 0 = true ∧ tGroup.poolRoom 3 := by
  and_intros <;> first | decide | (unfold State.poolRoom; decide)
theorem witness_engine_commands :
    tCopy.ctx.busy (.s 5) = false ∧ tCopy.ctx.busy (.s 11) = false ∧ tCopy.copyFormatOk 0 (BitVec.ofNat 64 (2 ^ 60 + 64)) 0 0 128 = true ∧ cwBarsOk 0 = true ∧
    localOffence 0 1 128 64 0 64 true = none ∧ tCopy.poolRoom 0 ∧ tCopy.poolRoom 3 ∧ ccTCORE (BitVec.ofNat 64 (2 ^ 60 + 64)) < 1 ∧ reloadFormatOk tRld 0 = true ∧
    (tCopy.halfAt (rcF tRld)).st ≠ 3 ∧ rcSSP tRld ≠ 2 ∧
    (0 : Word).toNat + reloadSpan tRld ≤ (spaceOf (rcSSP tRld)).size ∧
    (∃ s : State, ¬ s.poolRoom 0 ∧ s.bundle.mark = .none) := by
  and_intros <;> first | rfl | decide | (unfold State.poolRoom; decide) |
    exact ⟨{ tCopy with core := { Core.reset with pool := { Core.reset.pool with caps := [0, 0, 0, 0], mins := [0, 0, 0, 0] } } }, by unfold State.poolRoom; decide, rfl⟩
/-- A device whose memory holds a profile-4 image of one core at 2^20, a page table at 0 that maps address 0 on a big page at 2^28, a descriptor of one group there, and a LAUNCH of them at the head of queue 0 (2^23). -/
def tImage : Memory :=
  [(0, 64, 2 ^ 63 + 2 ^ 7), (2 ^ 22, 64, 2 ^ 63 + 2 ^ 62 + 2 ^ 13), (2 ^ 28, 128, 2 ^ 61 + 2 ^ 64), (2 ^ 20, 192, 0x5051344B * 2 ^ 32 + 2 ^ 24 + 2 ^ 18 + 2 ^ 103 + 2 ^ 156),
   (2 ^ 20 + 1024, 128, 2048 * 2 ^ 96 + 128 * 2 ^ 75), (2 ^ 23, 128, 2 ^ 56 + 2 ^ 84)].foldl (fun m x => m.writeBits x.1 x.2.1 x.2.2) []
def tLaunch : State := { tFw with
  dev := { Device.reset with mem := tImage, queues := { Device.reset.queue 0 with base := 2 ^ 14, en := true, wr := 1, log2n := 4 } :: Device.reset.queues.tail }
  ev := { Event.none with who := 1 } }
theorem witness_launch_image : (tLaunch.imageGood (2 ^ 20), tLaunch.loadStatus (2 ^ 20) 0 0 none) = (true, 0) := by decide

/-- FirmwareInstructions: who 1; a field of 8 bits and a control of 2^12; queues 69 and 70; an empty queue, a LAUNCH that passes, one of no image, a head that is no LAUNCH; addresses aligned and not, met, not met, refused. -/
def tBadHead (w : Nat) : State := { tLaunch with dev := { tLaunch.dev with mem := Memory.writeBits [] (2 ^ 23) 64 w } }
theorem witness_firmware :
    tLaunch.ev.who < 4 ∧ (0x1C4 : Word).toNat < 4096 ∧ (0x1C4 : Word).toNat % 64 + ((0x1C4 : Word).toNat / 64 + 1) ≤ 64 ∧ 4096 ≤ (0x1000 : Word).toNat ∧ 69 < (70 : Word).toNat ∧
    (69 : Word).toNat ≤ 69 ∧ (tLaunch.dev.queue 69).rd = (tLaunch.dev.queue 69).wr ∧ (tLaunch.dev.queue 0).rd ≠ (tLaunch.dev.queue 0).wr ∧ tLaunch.physCause .firmware (2 ^ 23) 512 = none ∧
    tLaunch.poisoned (physLocal (2 ^ 23)) 512 = none ∧ physDev (2 ^ 23) = tLaunch.dev.devId ∧ packetType (tLaunch.packet 0) = 1 ∧ tLaunch.packet 0 = [2 ^ 56, 2 ^ 20, 0, 0, 0, 0, 0, 0] ∧
    packetType ((tBadHead 0).packet 0) ≠ 1 ∧ packetType ((tBadHead (2 ^ 56)).packet 0) = 1 ∧ (tBadHead (2 ^ 56)).loadStatus 0 0 0 none ≠ 0 ∧ (63 : Word).toNat % 64 ≠ 0 ∧
    (∃ r t, tLaunch.fwRead 1 0 64 0 0 = .ok (r, t) ∧ (2 ^ 63 : Word).toNat ≤ r ∧ r < (-1 : Word).toNat) ∧ (∃ k, tLaunch.fwRead 1 (2 ^ 60) 64 0 0 = .error k) :=
  by and_intros <;> first | rfl | decide | exact gives_of_run fun _ => rfl | exact gives_owing fun _ => rfl | exact ⟨2 ^ 63 + 2 ^ 7, tLaunch, rfl, by decide⟩ | exact ⟨.unmapped, rfl⟩
/-- OperandsDeliver: s0, s1 idle and busy; rings of every mode and kind, with an element and without, refused, full. -/
def tBusy : State := { tState with ctx := { tCtx with pend := [{ dest := .s 1, val := 0, addr := 0, left := 2, inter := 1, flags := 0, pc := 0 }] } }
def tPastRing : Ring := { tRead with cur := BitVec.ofNat 64 (2 ^ 24 - 63) }
def tPoisonRing : Ring := { tRead with window := [{ val := 0, addr := 64, cause := some .poison }] }
/-- A function result on its way to the FIFO. -/
def tPushed : State := { tRing with ctx := { tRing.ctx with pend := [{ dest := .ring 2, val := 0, addr := 0, left := 2, inter := 2, flags := 0, pc := 0, tag := 1 }] } }
theorem witness_operands :
    tState.ctx.busy (.s 0) = false ∧ tState.ctx.busy (.s 31) = false ∧ tBusy.ctx.busy (.s 1) = true ∧ tState.ctx.busy (.v 31) = false ∧ tRead.mode = 2 ∧ tRead.elem = 0 ∧
    tRead.addrCause 0 (tRead.addrAt 0) = none ∧ tRead.window[0]?.map WinElem.cause = some none ∧ tRead.addrCause 0 (tRead.addrAt 2) = none ∧ tRead.window.length ≤ 2 ∧
    tPoisonRing.window[0]?.map WinElem.cause = some (some .poison) ∧ tPastRing.addrCause 0 (tPastRing.addrAt 0) = some (.illegalUse, BitVec.ofNat 64 (2 ^ 24 - 63)) ∧
    tFifo.mode = 1 ∧ tFifo.elem = 0 ∧ 1 < tFifo.count ∧ tFifo.count ≤ 2 ∧ tRing.core.poisoned (spaceOf tFifo.spaceNo) (tFifo.fifoAddr 1) tFifo.size = none ∧ tRing.ctx.busy (.ring 2) = false ∧ tPushed.ctx.busy (.ring 2) = true ∧ Ring.unbound.mode = 0 ∧ tReadV.elem = 2 ∧
    tReadV.addrCause 4 (tReadV.addrAt 0) = none ∧ tFifo.hasRoom 1 = true ∧ tFifo.hasRoom 2 = false ∧ tWriteV.mode = 3 ∧ tWriteV.elem ≠ 0 := by decide
/-- ResultsLandInTheirRegisters: a result without flags, one with; registers 0 and 31; a handle VALID, revoked and not. -/
def tPend (d : Dest) (v flags : Nat) : Pending := { dest := d, val := v, addr := 0, left := 0, inter := 0, flags := flags, pc := 0 }
def tRevoked : State := { tState with dev := { Device.reset with migs := [{ leaf := 0, asid := 0, vpn := 0, old := hBase tHandle, new := 0, big := false, toHbm := false, phase := 2, since := 0, dirty := [] }] } }
theorem witness_results :
    (tPend (.s 0) 5 0).flags = 0 ∧ (31 ≠ 0) ∧ (tPend (.s 31) 5 3).dest = .s 31 ∧ hState (0 : HandleBits) ≠ 1 ∧ hState (hSetState tHandle 1) = 1 ∧
    tState.dev.revoked (hSetState tHandle 1) = false ∧ tRevoked.dev.revoked (hSetState tHandle 1) = true := by decide
/-- SlotsChangeNothingButTheirBundle, RaisingBundlesDoNotCommit: a slot that ends well, one that raises; a bundle whose two slots raise in stage 1, and one in stage 2. -/
theorem witness_slots :
    IsSlot (.add (.reg 8) (.reg 1) (.reg 2)) ∧ tState.bundle.mark = .none ∧ (∃ t, exec (.add (.reg 8) (.reg 1) (.reg 2)) tState = .next t ∧ t.bundle.mark = .none) ∧
    (∃ t, exec (.qbind 5 1 0) tState = .next t ∧ t.bundle.mark = .raised .format 0 false) ∧
    earlyCauses [{ pos := 7, mark := .raised .illegal 0 true, bar := none, val := 0 }] ≠ [] ∧ earlyCauses [{ pos := 0, mark := .raised .format 9 false, bar := none, val := 0 }] = [] ∧
    checkCauses [{ pos := 0, mark := .raised .format 9 false, bar := none, val := 0 }] = [(.format, 9, 0)] ∧ tState.ctx.overdrawn (tState.bundleCharge [0, 0, 0, 0]) = false ∧ tState.bundle.kept = [] :=
  by and_intros <;> first | decide | rfl | exact gives_of_run fun _ => rfl | exact gives_owing fun _ => rfl | exact ⟨_, rfl, rfl⟩
/-- CommitAppliesEffects, CommitSequencesTheContext: the effects of each kind; the ends of a body with an iteration left and with none, an address before it; a branch into the body and out of it. -/
theorem witness_commit :
    tFifo.mode = 1 ∧ tRead.mode ≠ 1 ∧ (tPend (.s 1) 0 0).left = 0 ∧ ({ tPend (.s 1) 0 0 with left := 2 } : Pending).left ≠ 0 ∧ (∀ e ∈ tState.bundle.effects, e ≠ .tret) ∧
    State.reset.ctx.loops.levels = [] ∧ tState.ctx.loops.levels = [] ++ [{ start := 0, stop := 128, count := 2, index := 0, safe := false }] ∧ tState.bundle.next ≠ 128 ∧
    (0 + 1 < 2 ∧ 0 ≠ 128) ∧ (2 ≤ 1 + 1) ∧ ([] : List Level).getLast?.map Level.stop ≠ some 128 ∧
    ({ tState with bundle := { tState.bundle with effects := [.branch 96, .endStep 0] } } : State).bundle.effects = [] ++ .branch 96 :: [.endStep 0] := by decide
/-- TakingATrap, ProgramTrapsEscalate, SystemFaultsStopTheContext: nothing on its way, an interlocked result, a function result; TVEC with EN and without, a handler; a program cause and a system cause; slots 255 and the last pc. -/
def tFnBusy : State := { tState with ctx := { tCtx with pend := [{ dest := .v 1, val := 0, addr := 0, left := 2, inter := 3, flags := 0, pc := 0, tag := 1 }] } }
theorem witness_traps :
    tTrap.ctx.pend.filter Pending.isInter = [] ∧ tTrap.ctx.awaits = [] ∧ tTrap.ctx.gq = [] ∧ tTrap.ctx.safeHold = false ∧ tBusy.ctx.safeHold = false ∧ ({ tCtx with safeHold := true } : Ctx).safeHold = true ∧
    (tBusy.ctx.pend.any Pending.isInter) = true ∧ Cause.isProgram .illegalUse = true ∧ tState.ctx.fnPending = false ∧ tFnBusy.ctx.fnPending = true ∧ tState.ctx.inh = false ∧ tState.ctx.tr.tvec.getLsbD 0 = false ∧ tTrap.ctx.tr.tvec.getLsbD 0 = true ∧
    ({ tTrap with ctx := { tTrap.ctx with inh := true } } : State).ctx.inh = true ∧ Cause.isProgram .pagefault = false ∧ 2 ^ 21 - 32 < 2 ^ 21 ∧ 255 < 256 := by decide
/-- ReturnsAndTrapInstructions: a return to 32, outside the held loop and into its body; a result kept until it; trap 4,095 with a handler, without, and in one. -/
theorem witness_returns :
    let t : State := { tTrap with ctx := tTrap.ctx.takeTrap tEntry }
    let u : State := { t with ctx := { t.ctx with tr := { t.ctx.tr with tepc := 256 } } }
    (u.ctx.held.branchTo (u.ctx.tr.tepc.toNat / 2 ^ 5 % 2 ^ 16 * 32)).levels = [] ∧ t.commitTret.ctx.st = .running ∧ (t.ctx.held.branchTo 32).levels.length = 1 ∧
    ({ tBusy.ctx with replay := true } : Ctx).replay = true ∧ tBusy.ctx.inh = false ∧ ({ t.ctx with replay := true } : Ctx).replay = true ∧ tTrap.ctx.inh = false ∧ tTrap.ctx.tr.tvec.getLsbD 0 = true ∧ t.ctx.inh = true ∧ 4095 < 4096 := by decide
/-- WritesChangeOnlyTheirBits: memories in canonical form, ranges that touch at their ends. -/
theorem witness_writes : tMem.wf = true ∧ Memory.wf [] = true ∧ (∀ k, Memory.readByte [] k = Memory.readByte (tMem.writeBits 128 64 0) k) ∧ (64 + 64 ≤ 128 ∨ 128 + 64 ≤ 64) ∧ (8 * 15 + 8 ≤ 128 ∨ 128 + 64 ≤ 8 * 15) :=
  by and_intros <;> first | rfl | decide | exact gives_of_run fun _ => rfl | exact gives_owing fun _ => rfl | exact fun _ => rfl
/-- StepRunsTheDecodedInstruction: an agenda that is due, alone and before an event of a higher row, and one that is not; a bundle of four words; a slot that runs; a firmware core at a word of R405, at one of the base set, at a half word and at words that are neither. -/
def tFwAt (w : Nat) : State := State.reset.placeFirmware w
theorem witness_steps :
    (∃ s : State, s.agenda = [(0, .park, Event.none)]) ∧ Device.reset.goesBefore .force Event.none .park Event.none = true ∧ Device.reset.goesBefore .park Event.none .force Event.none = false ∧
    (∀ x, ({ tState with agenda := [(1, .park, Event.none)] } : State).agenda.head? = some x → x.1 ≠ 0) ∧
    (∃ ws b, ({ tTrap with ctx := { tTrap.ctx with pc := 0 } } : State).fetch = .ok (ws, b) ∧ ws = [0, 0, 0, 2 ^ 31]) ∧ tState.executes 7 = true ∧ (∃ t, tState.runAt 0 .nop = .next t) ∧
    (tFwAt 0).fw[0]?.map FwCore.run = some true ∧ FwCore.reset.irq = none ∧ (((tFwAt 0x128B).onFw 0 FwCore.counted).fwFetch 0) = .ok (0x128B, 4) ∧ (decodeFirmware 0x128B).isSome = true ∧
    decodeFirmware 0x00500293 = none ∧ (rvDecode 0x00500293).isSome = true ∧ decodeFirmware 0xFE00000B = none ∧ rvDecode 0xFE00000B = none ∧
    (((tFwAt 0x4295).onFw 0 FwCore.counted).fwFetch 0) = .ok (0x4295, 2) ∧ (rvDecodeShort 0x4295).isSome = true ∧ rvDecodeShort 0 = none :=
  by and_intros <;> first | exact ⟨{ tState with agenda := [(0, .park, Event.none)] }, rfl⟩ | exact ⟨_, _, rfl, rfl⟩ | exact ⟨_, rfl⟩ | decide | exact fun x h => by cases h; decide
/-- DecodeAndEncodeAgree: an instruction with a word, a word with an instruction, of both machines. -/
theorem witness_encodings :
    encodeSlot (.add (.push 3) (.pop 15) (.peek 0)) = some 0x10023BF0 ∧ (Instr.add (.push 3) (.pop 15) (.peek 0)).wf = true ∧ decodeSlot (2 ^ 31) = some .nop ∧
    encodeFirmware (.swait 31 31 31) = some 0x01FFAF8B ∧ decodeFirmware 0x0000128B = some (.bfext 5 0 0) := by decide

/-- ContextCommandsComplete: who 511 and 512; a context in each state, with an interlocked result and without; a record of an area; a slice of 1; a deferred cause. -/
def tIn (st : CtxState) : State := { tState with ctx := { tCtx with st := st, wait := .barrier } }
def tRecord : State :=
  { tIn .saved with
    ctx := { tCtx with st := .saved, blk := { tCtx.blk with save := 1 } }
    dev := { Device.reset with mem := Memory.writeBits [] (2 ^ 21) 8 3, records := [(({ tCtx.blk with save := 1 } : CtxBlock).area, { core := 0, rseq := 0, ctx := { tCtx with fromSt := 3 } })] } }
theorem witness_context_commands :
    511 < 512 ∧ 512 ≤ (tEv 512 0 0 0 0 [] tState).ev.who ∧ (tIn .waiting).ctx.interPending = false ∧ tBusy.ctx.interPending = true ∧ tBusy.ctx.st = .running ∧ tState.ctx.entry = none ∧
    tState.ctx.safeHold = false ∧ tState.ctx.kernel = none ∧ (tIn .faulted).ctx.kernel = none ∧ (tIn .retired).ctx.st = .retired ∧ tRecord.ctx.st = .saved ∧
    (assoc? tRecord.dev.records tRecord.ctx.blk.area).isSome = true ∧ tRecord.ctx.blk.save ≠ 0 ∧ tRecord.core.detached.length < 8 ∧
    ({ tRecord.core with detached := [tRecord.ctx.blk.area] } : Core).detached.contains tRecord.ctx.blk.area = true ∧ (tRecord.dev.mem.readBits (2 ^ 21) 512 % 16, tRecord.dev.mem.readBits (2 ^ 21) 512 / 2 ^ 66 % 2 ^ 8) = (3, 0) ∧
    tRecord.poisonedRecord = none ∧ ({ tRecord with dev := { tRecord.dev with poison := [2 ^ 15] } } : State).poisonedRecord = some (2 ^ 21) ∧ Memory.wf tRecord.dev.mem = true ∧
    ({ (tIn .faulted).ctx.blk with fcause := Cause.pagefault.code } : CtxBlock).fcause = Cause.pagefault.code ∧ ({ tCtx with blk := { tCtx.blk with slice := 1, sliced := 7167 } } : Ctx).sliceDue = true ∧ tCtx.sliceDue = false ∧
    ({ tCtx.tr with tena := 2 ^ Cause.fpe.code, tpend := 2 ^ Cause.fpe.code } : TrapRegs).lowest = some .fpe ∧ tTrap.ctx.tr.tvec.getLsbD 0 = true ∧ State.reset.ctx.st = .free ∧
    ({ (tIn .parked).ctx with saveLeft := some 0 } : Ctx).saveLeft = some 0 := by decide
/-- LandingAndPerforming: cores 255 and 256, barrier 1,023; one result, access, operation, request, read and push that is due. -/
def tGlob (k : GlobKind) (d : Dest) (l : List BitWrite) (sent : Bool) : GlobAcc :=
  { id := 3, kind := k, addr := 2 ^ 32, width := 64, got := 0, gotBits := 0, writes := l, dest := d, order := 0, bno := 0, pc := 0, slots := 1, left := 0, sent := sent }
def tOp (init : Bool) : BarOp := { bar := 4, init := init, n := 3, left := 0, order := 0, ctx := 0, bno := 0 }
theorem witness_landing :
    255 < 256 ∧ 256 ≤ 256 ∧ 1023 < 1024 ∧ [tPend (.s 9) 5 1].filter (fun p => p.left == 0) = [tPend (.s 9) 5 1] ∧ (tOp true).init = true ∧ (tOp false).init = false ∧ (tOp true).left = 0 ∧
    physDev (2 ^ 32) = tState.dev.devId ∧ (tGlob (.load false) (.s 9) [] false).sent = false ∧ 64 ≤ 512 - 2 ^ 32 % 512 ∧ tState.ctxCause (2 ^ 32) 64 = none ∧ tState.dev.poison = [] ∧
    (tGlob .store .none [{ addr := 2 ^ 32, width := 64, val := 9 }] false).writes = [{ addr := 2 ^ 32, width := 64, val := 9 }] ∧ (tGlob (.load false) (.s 9) [] true).sent = true ∧
    tState.ctx.gfault = none ∧ Memory.wf tState.dev.mem = true ∧ tRead.mode = 2 ∧ tRead.window.length + tRing.ctx.readsOf 0 < tRead.depth ∧ tRead.addrCause 0 (tRead.addrAt (2 + 0)) = none ∧
    tRead.spaceNo < 2 ∧ tRead.fe = 0 ∧ tWrite.elem = 0 ∧ 0 < tWrite.size ∧ 1 < tRing.ctx.rings.length ∧ (tRing.core.mem (spaceOf tWrite.spaceNo)).wf = true := by decide
/-- UnitEventsComplete: collective 63, half 2^22 - 1; one command, one check pass, one record; a limit that fits and one that does not; a failing row of a half that nothing holds. -/
def tFail : State := { tState with dev := { Device.reset with halves := [(2 ^ 22 - 1, { Half.empty with st := 1, mem := Memory.writeBits [] 0 8 1 })] } }
def tMoves (phase : Nat) : Migration := { leaf := 0, asid := 0, vpn := 0, old := 0, new := 2 ^ 19, big := false, toHbm := true, phase := phase, since := 0, dirty := [] }
theorem witness_unit_events :
    (63 < 64) ∧ (2 ^ 22 - 1 < 2 ^ 22) ∧ (2 ^ 20 - 1 < 2 ^ 20) ∧ (tFail.dev.half (2 ^ 22 - 1)).storage = true ∧ (tFail.dev.half (2 ^ 22 - 1)).firstFail.isSome = true ∧
    tFail.dev.holder (2 ^ 22 - 1) = none ∧ (tFail.dev.half 0).storage = false ∨ (tFail.dev.half 0).firstFail = none := by decide
theorem witness_unit_clauses :
    (tMoves 1).phase = 1 ∧ tState.maySwitch (tMoves 2) = true ∧ (tMoves 2).phase = 2 ∧ ((Core.reset.pool.mins.set 1 320).sum ≤ 512 ∧ 320 ≤ 320 ∧ 320 ≤ 512) ∧
    512 < (Core.reset.pool.mins.set 1 321).sum ∧ ({ Stats.reset with recs := [9] } : Stats).recs = 9 :: [] ∧ Stats.reset.len = 0 ∧ ({ Stats.reset with len := 1 } : Stats).len ≠ 0 ∧
    Device.reset.everLoaded = false ∧ (33791 : Nat) % 2 ^ 16 < 33792 ∧ (∀ r ∈ Device.reset.remap, r.1 / 32768 = 0) ∧ (∀ h < 2, (Device.reset.half (macroHalf 0 33791 h)).st ≠ 5) ∧
    ({ Device.reset with everLoaded := true } : Device).everLoaded = true ∧ ({ MigRegs.reset with busy := true } : MigRegs).busy = true := by decide
/-- LaunchEventsComplete: queues 69 and 70, 63 and 64; heads of each TYPE, good and not; a kernel in each state with a group left, from the walker and from a spawn. -/
def tHead (q w0 w4 : Nat) : State :=
  { State.reset with
    dev := { Device.reset with
      mem := ((Memory.writeBits [] (2 ^ 23) 64 w0).writeBits (2 ^ 23 + 256) 64 w4)
      queues := Device.reset.queues.set q { Device.reset.queue 0 with base := 2 ^ 14, en := true, wr := 1, log2n := 4 } } }
def tKernel (st : KernelState) (table : List Spawn) (dealt : Nat) : Kernel :=
  { queue := 0, index := 0, tag := 0, st := st, image := 2 ^ 20, arg := 0, root := 0, sig := 0, sigVal := 0, p := 1, shape := [1, 1, 1], chunk := 1, perm := [0], trip := [1], towers := [0],
    place := [0], tick := some 0, oldest := 0, done := [], dealt := [dealt], spawns := 0, table := table, why := (0, 0) }
def tGroups (k : Kernel) : State := { tIn .waiting with ctx := { (tIn .waiting).ctx with wait := .group, kernel := some 0 }, dev := { tLaunch.dev with kernels := [(0, k)] } }
theorem witness_launch_heads :
    (tHead 69 0 0).headReady 69 = true ∧ (tHead 69 0 0).headGood 69 = true ∧ packetType ((tHead 69 0 0).packet 69) = 0 ∧ (tHead 0 1 0).headGood 0 = true ∧
    (tHead 0 (2 ^ 40) 0).headGood 0 = false ∧ tLaunch.headReady 0 = true ∧ tLaunch.headGood 0 = true ∧ packetType (tLaunch.packet 0) = 1 ∧
    (tHead 63 (2 * 2 ^ 56) 0).headGood 63 = true ∧ packetType ((tHead 63 (2 * 2 ^ 56) 0).packet 63) = 2 ∧ (tHead 64 (3 * 2 ^ 56) 0).headGood 64 = true ∧
    (tHead 64 (16 * 2 ^ 56) 0).headReady 64 = true ∧ packetType ((tHead 64 (16 * 2 ^ 56) 0).packet 64) = 0x10 := by decide
theorem witness_launch_kernels :
    tLaunch.placement (tLaunch.placedHead (2 ^ 20)) = some [0] ∧ (tKernel .loaded [] 0).st = .loaded ∧
    (tGroups (tKernel .running [] 0)).myKernel = some (0, tKernel .running [] 0) ∧ (tGroups (tKernel .running [] 0)).ctx.group.active = false ∧
    (tKernel .running [] 0).nextGroup 0 = some (0, none) ∧ (tKernel .running [{ index := 1, lcore := 0, payload := 7, dep := none }] 1).nextGroup 0 = some (1, some 7) ∧
    (∃ t, tState.writeWord 0 0 0 5 = (none, t)) ∧ (∃ t c, tState.writeWord 0 0 (2 ^ 60) 5 = (some c, t)) ∧ (∃ v, tState.watchWord 0 = .ok v) :=
  by and_intros <;> first | rfl | decide | exact gives_of_run fun _ => rfl | exact gives_owing fun _ => rfl | exact ⟨_, rfl⟩ | exact ⟨_, _, rfl⟩
/-- BusEventsComplete: ports 7 and 8; training with 8, 7, 4 and 3 lanes; a register and none; an address of no BAR; streams in order and not; time before and after REF. -/
theorem witness_bus_events :
    (tState.regStore (0x70B00000000) 64 0).isSome = true ∧ tState.regStore 0 64 0 = none ∧ tState.dev.away = false ∧ (tEv 1 0 0 0 0 [] tState).ev.data.headD 0 = (assoc? tState.dev.links.streams 1).getD 0 ∧
    (tEv 1 0 0 0 0 [5] tState).ev.data.headD 0 ≠ (assoc? tState.dev.links.streams 1).getD 0 ∧ barLocal 0x1000 = none ∧
    tState.physCause .host (tState.dev.devId * 2 ^ 47 + hdmLocal 0) 64 = none ∧ tState.poisoned (hdmLocal 0) 64 = none ∧ tState.dev.lockedMode = false ∧
    ({ Device.reset with locked := true, power := { PowerUnit.reset with plock := true } } : Device).lockedMode = true ∧ Links.reset.ports[7]?.isSome = true ∧ Links.reset.ports[8]? = none ∧
    (8 ≤ 8) ∧ (4 ≤ 7 ∧ 7 < 8) ∧ (4 ≤ 4 ∧ 4 < 8) ∧ (3 < 4) ∧ tState.dev.refRuns = true ∧ (tIn .waiting).ctx.st = .waiting ∧ ({ (tIn .waiting).ctx with wait := .time } : Ctx).wait = .time ∧
    tState.dev.ref ≤ 0 ∧ 0 < ({ Device.reset with ref := 1 } : Device).ref ∧ Links.reset.ptpEn = false ∧ ({ Links.reset with ptpEn := true } : Links).ptpPort = 0 ∧ tState.dev.power.st ≠ .off ∧
    tState.inDram 0 64 = true ∧ (5 < 6) := by decide
/-- PowerEventsComplete: every state of the unit; clusters 31 and 32, towers 3 and 4; limits and refusals. -/
def tPower (st : PowerState) (step : Nat) (held : Bool) : State := { State.reset with dev := { Device.reset with power := { PowerUnit.reset with st := st, retStep := step, heldIdle := held } } }
theorem witness_power_events :
    (tPower .active 0 false).dev.power.st = .active ∧ (tPower .active 0 false).allFree = true ∧ ({ tPower .active 0 true with ctx := tCtx } : State).allFree = false ∧
    (tPower .active 0 true).dev.power.heldIdle = true ∧ (tPower .idle 0 false).dev.power.st ≠ .active ∧ (tPower .boot 1 false).dev.power.retStep = 1 ∧
    (tPower .retain 2 false).entryDone = true ∧ (tPower .off 0 false).dev.power.st = .off ∧ (255 ≠ 0 ∧ 255 < 256) ∧ (tPower .retain 5 false).dev.power.retStep = 5 ∧
    (tPower .boot 0 false).dev.boot.halted = false ∧ (tPower .boot 0 false).dev.power.retStep ≠ 1 ∧ (31 < 32 ∧ 32 ≤ 32) ∧ (3 < 4 ∧ 4 ≤ 4) ∧ 3 % 4 = 3 ∧ 2 % 4 ≠ 3 ∧ (tPower .boot 0 false).dev.lockedMode = false ∧
    ((tPower .boot 0 false).dev.power.counter 0xB00).isSome = true ∧ (2 ^ 24 - 1) % 2 = 1 := by decide
/-- R388, R401 and R355: launches may start only in ACTIVE with no IDLE held and no retention entry begun; a kernel that is LOADING becomes LOADED with the last answer, and a refused write aborts it. -/
theorem test_launching :
    (tPower .active 0 false).dev.launching = true ∧ (tPower .active 0 true).dev.launching = false ∧ (tPower .active 1 false).dev.launching = false ∧
    (tPower .retain 1 false).dev.launching = false ∧ (tPower .active 0 false).dev.mayLaunch = true ∧
    (let s := fun (n v : Nat) => { (tPower .active 0 false).setKernel 0 { tKernel .loading [] 0 with posts := 2 } with ev := { Event.none with len := n, val := v } }
     nextOf (exec .pendingPlacement (s 1 0)) (fun t => (t.kernel? 0).map Kernel.st) = some (some .loading) ∧
     nextOf (exec .pendingPlacement (s 2 0)) (fun t => (t.kernel? 0).map Kernel.tick) = some (some (some 1024)) ∧
     (nextOf (exec .pendingPlacement (s 1 7)) (fun t => (t.kernel? 0).map Kernel.st) == some (some .loading)) = false) := by decide

/-! ## Witnesses of the clauses on holds, refusals and moved layouts -/

/-- SumFileSlots: no drain on its way, one whose addends arrive in time, one that holds the bundle. -/
def tDrain (n : Nat) : State := { tState with core := { Core.reset with dot := { DotSet.none with owner := some 0 }, drains := [{ slot := 0, left := n, adds := [] }] } }
/-- A state with its bundle held. -/
def tHeld (s : State) : State := { s with bundle := { s.bundle with mark := .held } }
theorem witness_sum_holds :
    HeldUnless tState (tState.drainsPast = true) tState ∧ HeldUnless (tDrain 3) ((tDrain 3).drainsPast = true) (tDrain 3) ∧
    HeldUnless (tDrain 4) ((tDrain 4).drainsPast = true) (tHeld (tDrain 4)) :=
  ⟨.inl ⟨by decide, rfl⟩, .inl ⟨by decide, rfl⟩, .inr ⟨by decide, rfl, rfl⟩⟩
/-- FunctionSlots: 15 entries of the function queue, and 16. -/
def tFnQueue (n : Nat) : State := { tState with core := { Core.reset with fnQueue := List.replicate n tFnEntry } }
theorem witness_function_holds :
    HeldUnless (tFnQueue 15) ((tFnQueue 15).core.fnQueue.length < 16) (tFnQueue 15) ∧ HeldUnless (tFnQueue 16) ((tFnQueue 16).core.fnQueue.length < 16) (tHeld (tFnQueue 16)) :=
  ⟨.inl ⟨by decide, rfl⟩, .inr ⟨by decide, rfl, rfl⟩⟩
/-- EngineCommandSlots: room in the queue and none. -/
def tNoRoom : State := { tCopy with core := { Core.reset with pool := { Core.reset.pool with caps := [0, 0, 0, 0], mins := [0, 0, 0, 0] } } }
theorem witness_engine_holds :
    HeldUnless tCopy (tCopy.poolRoom 0) tCopy ∧ HeldUnless tNoRoom (tNoRoom.poolRoom 0) (tHeld tNoRoom) ∧ HeldUnless tNoRoom (tNoRoom.poolRoom 3) (tHeld tNoRoom) :=
  ⟨.inl ⟨by unfold State.poolRoom; decide, rfl⟩, .inr ⟨by unfold State.poolRoom; decide, rfl, rfl⟩, .inr ⟨by unfold State.poolRoom; decide, rfl, rfl⟩⟩
/-- MacroSlots, the refusals of mset: another owner, a shaft with planes loaded, an output held; a bad shaft byte, a shaft of a ring that does not feed it; a descriptor across the end; a bad entry; a half not in DOT. -/
def tSet (h : Shaft) (l : List DotEntry) (o : Option Nat) : State := { tState with core := { Core.reset with dot := { DotSet.none with owner := o, shafts := h :: List.replicate 7 .off, entries := l } } }
theorem witness_mset_refused :
    ((tSet .off [] (some 1)).core.dot.owner ≠ none ∧ (tSet .off [] (some 1)).core.dot.owner ≠ some (tSet .off [] (some 1)).slot) ∧
    (∃ h ∈ (tSet (tShaft 1 0 none) [] none).core.dot.shafts, h.st = 1 ∨ h.st = 2) ∧
    (∃ e ∈ (tSet .off [{ tSetMem.newEntry 0 (2 ^ 63) with held := true }] (some 0)).core.dot.entries, e.held = true) ∧
    shaftByteOk 5 = false ∧ ({ Shaft.off with byte := 0x83 } : Shaft).rb = true ∧ (tState.ctx.ring ({ Shaft.off with byte := 0x83 } : Shaft).ringNo).feeds ({ Shaft.off with byte := 0x83 } : Shaft).af = false ∧
    (63 : Word).toNat % 64 ≠ 0 ∧ 2 ^ 24 < (2 ^ 24 - 8128 : Word).toNat + 8192 ∧ (tSetMem.badEntry 3 [] [2 ^ 63 + 2 ^ 62] = some (2 ^ 63 + 2 ^ 62)) ∧ tState.badEntry 3 [] [2 ^ 63] = none ∧
    [2 ^ 63].find? (fun e => descV e && !(tState.halfAt (descF e)).nameable) = some (2 ^ 63) := by
  refine ⟨by decide, by decide, by decide, ?_⟩; decide
/-- MacroSlots, the refusals of mmode, mchk and mstat: reserved bits, no DOT format, a format without DOT; counts of 0 and 129, past half 8,191; a half of the set; a half in DOT whose pass runs; selectors past 2. -/
def tInSet : State := tSet .off [tSetMem.newEntry 0 (2 ^ 63)] (some 0)
def tPassing : State := { tState with dev := { Device.reset with halves := [(Device.reset.place 0 0, { Half.empty with st := 3, chk := true })] } }
theorem witness_macro_refused :
    2 ^ 19 ≤ (2 ^ 19 : Word).toNat ∧ ¬ (8 ≤ 7 ∧ 7 ≤ 11) ∧ (1 : Nat) ≠ 0 ∧ 128 < (129 : Word).toNat ∧ 8192 < 8191 + 2 ∧ tInSet.mmodeOk 0 0 false = false ∧ (∀ j < 0, tInSet.mmodeOk (0 + j) 0 false = true) ∧
    (tPassing.halfAt 0).storage = false ∧ ¬ ((tPassing.halfAt 0).st = 3 ∧ (tPassing.halfAt 0).chk = false) ∧ 2 ^ 16 ≤ (2 ^ 16 : Word).toNat ∧ 2 < (3 * 8192 : Word).toNat / 8192 ∧
    ((8193 : Word).toNat / 8192 ≠ 0 ∧ (8193 : Word).toNat % 8192 ≠ 0) := by decide
/-- RingSlots, the refusals of qbind: a FIFO one element past the scratch; a ring of a handle that is not usable; of one without WR; a WRITE ring with a push of an earlier binding on its way. -/
def tGlobRing (mode h : Nat) : Word := BitVec.ofNat 64 (mode * 2 ^ 61 + 2 * 2 ^ 59 + 63 * 2 ^ 51 + h * 2 ^ 44 + 64 * 2 ^ 20)
def tNoWrite : State := tWith fun r => { r with h := r.h.set 3 (BitVec.ofNat 256 (2 ^ 254 + 2 ^ 252 + 2 ^ 32 * 2 ^ 136)) }
def tOldPush : State := { tState with ctx := { tCtx with pend := [tPend (.bits 1 0 64 0 0 false false) 0 0] } }
theorem witness_ring_refused :
    (tState.bindRing (2 ^ 24 - 192) tFifo.cfg).mode = 1 ∧ (spaceOf (tState.bindRing (2 ^ 24 - 192) tFifo.cfg).spaceNo).size <
      (2 ^ 24 - 192 : Word).toNat + (tState.bindRing (2 ^ 24 - 192) tFifo.cfg).capacity * (tState.bindRing (2 ^ 24 - 192) tFifo.cfg).size ∧
    ringCfgOk (tGlobRing 2 2) 0 = true ∧ (tState.bindRing 0 (tGlobRing 2 2)).spaceNo = 2 ∧ (tGlobRing 2 2).toNat / 2 ^ 44 % 16 = 2 ∧ hUsable (tState.ctx.regs.readH 2) = false ∧
    ringCfgOk (tGlobRing 3 3) 0 = true ∧ (tNoWrite.bindRing 0 (tGlobRing 3 3)).mode = 3 ∧ hUsable (tNoWrite.ctx.regs.readH 3) = true ∧ hWr (tNoWrite.ctx.regs.readH 3) = false ∧ tNoWrite.ctx.busy (.h 3) = false ∧
    tState.oldPushes 1 = false ∧ tOldPush.oldPushes 1 = true := by and_intros <;> decide
/-- OperandsDeliver: a WRITE ring with room and a good address, one whose address is past the scratch, one without room; a FIFO with a head and an empty one. -/
theorem witness_ring_operands :
    tWrite.mode = 3 ∧ tWrite.elem = 0 ∧ tWrite.hasRoom 0 = true ∧ tWrite.addrCause 1 (tWrite.addrAt 0) = none ∧
    ({ tWrite with cur := 2 ^ 24 } : Ring).addrCause 1 (({ tWrite with cur := 2 ^ 24 } : Ring).addrAt 0) = some (.illegalUse, 2 ^ 24) ∧
    tWrite.hasRoom tWrite.depth = false ∧ 0 < tFifo.count ∧ tRing.core.poisoned (spaceOf tFifo.spaceNo) (tFifo.fifoAddr 0) tFifo.size = none ∧ ({ tFifo with count := 0 } : Ring).count = 0 := by decide
/-- CommitSequencesTheContext: a body that ends with the bundle, at the end a LOOP of count 0 gives, and at the end of a level that lbrk names; inner levels over, and an outer one with an iteration left, without one, and not ending there. -/
def tLevel (start stop count index : Nat) : Level := { start := start, stop := stop, count := count, index := index, safe := true }
theorem witness_sequence :
    [tLevel 0 256 2 0, tLevel 64 128 2 1] = [] ++ tLevel 0 256 2 0 :: [tLevel 64 128 2 1] ∧ (∀ x ∈ [tLevel 64 128 2 1], x.stop = 128 ∧ x.count ≤ x.index + 1) ∧ (tLevel 0 256 2 0).stop ≠ 128 ∧
    ((tLevel 0 128 2 0).stop = 128 ∧ (tLevel 0 128 2 0).index + 1 < (tLevel 0 128 2 0).count ∧ (tLevel 0 128 2 0).start ≠ (tLevel 0 128 2 0).stop) ∧
    (∀ x ∈ [tLevel 0 128 2 1, tLevel 64 128 2 1], x.stop = 128 ∧ x.count ≤ x.index + 1) ∧
    ([.pop 0] ++ .endStep 128 :: [] : List Effect) = [.pop 0, .endStep 128] ∧ ([] ++ .lbrk 1 :: [] : List Effect) = [.lbrk 1] ∧
    [tLevel 0 256 2 0, tLevel 64 128 2 0][1]? = some (tLevel 64 128 2 0) ∧ [tLevel 0 256 2 0, tLevel 64 128 2 0].take 1 = [tLevel 0 256 2 0] ∧
    (List.replicate 6 (tLevel 0 256 2 0)).length ≤ 6 := by decide
/-- StoresPerformAtTheirBank, AtomicsPerformAtTheirBank: an access issued under another layout of bank 0, and under the same. -/
theorem witness_moved_layout :
    (1 :: List.replicate 15 0) ≠ [] ∧ (1 :: List.replicate 15 0) ≠ tMemState.core.turns ∧ 16 ≤ 16 - 128 % 16 ∧ List.replicate 16 0 = tMemState.core.turns := by decide

/-! ## Witnesses of the clauses on events -/

/-- ContextCommandsComplete, ATTACH: a FREE context whose area holds a record of this core in state 3; the limits of the counted parts of a record. -/
def tAttach : State := { tRecord with ctx := { tRecord.ctx with st := .free }, core := { tRecord.core with detached := [tRecord.ctx.blk.area] } }
theorem witness_attach :
    tAttach.ctx.st = .free ∧ (assoc? tAttach.dev.records tAttach.ctx.blk.area).isSome = true ∧ tAttach.poisoned (physLocal tAttach.ctx.blk.area) 512 = none ∧
    tAttach.dev.mem.readBits (physLocal (tAttach.ctx.blk.save * 2 ^ 21)) 512 / 2 ^ 66 % 2 ^ 8 = tAttach.coreNo ∧ tAttach.core.detached.contains tAttach.ctx.blk.area = true ∧
    (2 ≤ tAttach.dev.mem.readBits (physLocal (tAttach.ctx.blk.save * 2 ^ 21)) 512 % 16 ∧ tAttach.dev.mem.readBits (physLocal (tAttach.ctx.blk.save * 2 ^ 21)) 512 % 16 ≤ 5) ∧
    tRecord.ctx.late.length ≤ 64 ∧ tRecord.ctx.withdrawn.length ≤ 256 ∧ (∀ e ∈ tRecord.core.dot.entries, e.index < 128 ∧ e.vals.length ≤ 96) ∧ tRecord.ctx.blk.save ≠ 0 := by decide
/-- LandingAndPerforming: a lone access and a lone operation that are due; a lone load and store of the own device that nothing older holds; a sent load, of the context and of one that has left its slot. -/
def tLocal : LocalAcc := { slot := 0, left := 0, slow := false, space := .act, writes := [{ addr := 128, width := 64, val := 9 }], setFull := false, atomic := none, dest := .none, order := 0, bno := 0, pc := 0 }
def tGq (a : GlobAcc) : State := { tState with ctx := { tCtx with gq := [a] } }
theorem witness_performing :
    ({ tMemState with core := { tMemState.core with locals := [tLocal] } } : State).core.locals = [tLocal] ∧ tLocal.left = 0 ∧ tLocal.push = none ∧ tMemState.releaseWaits tLocal = false ∧
    (tOp true).order = 0 ∧ (tGq (tGlob .store .none [] false)).ctx.marked 0 = false ∧ (tGq (tGlob (.load false) (.s 9) [] false)).olderLocal 0 = false ∧
    (tGlob (.load false) (.s 9) [] false).got = 0 ∧ (tGlob (.load false) (.s 9) [] true).fwd = [] ∧ (tGlob (.load false) (.s 9) [] true).orphan = false ∧
    ({ tGlob (.load false) (.s 9) [] true with orphan := true } : GlobAcc).orphan = true ∧ (tEv 0 0 0 0 0 [] tState).ev.data = [] ∧ (tEv 0 0 0 0 0 [] tState).ev.val ≠ 2 := by decide
/-- UnitEventsComplete: a check pass of half 7 alone; a reload and a copy whose data are held; an interval, a half in storage mode that nothing uses, whose row 0 fails, from row 0 and from row 1; a sweep that is due, one made, none for INT 0; an interval of the hatch that is due; a migration past its limit and one within it. -/
def tPass : CheckPass := { f := 7, left := 3, ctx := 0, pc := 0 }
def tRuns (q : Nat) : Command := { tState.commandOf q 0 0 false 0 0 0 0 with started := true, run := { (tState.commandOf q 0 0 false 0 0 0 0).run with held := true, idx := 768 } }
def tRunning (q : Nat) : State := { tState with core := { Core.reset with passes := [tPass], pool := { Pool.reset with cmds := [tRuns q] } } }
def tSweep (int swept : Nat) : State := { tState with dev := { Device.reset with ref := 1200, mig := { MigRegs.reset with int := int, swept := swept } } }
theorem witness_units_due :
    (tRunning 2).core.passes = [tPass] ∧ tPass.f = 8199 % 8192 ∧ (tRunning 2).core.running 2 = [tRuns 2] ∧ (tRuns 2).run.wait = false ∧ (tRuns 2).run.held = true ∧
    8 * halfK (rcTFMT (tRuns 2).a) ≤ (tRuns 2).run.idx ∧ (tRunning 1).core.running 1 = [tRuns 1] ∧ tFail.dev.scrubInt ≠ 0 ∧ tFail.halfBusy (2 ^ 22 - 1) = false ∧
    tFail.dev.scrubRow (2 ^ 22 - 1) = 0 ∧ (tFail.dev.half (2 ^ 22 - 1)).rowFails 0 = true ∧ (tSweep 1 0).sweepDue = true ∧ (tSweep 1 2).sweepDue = false ∧ (tSweep 0 0).sweepDue = false ∧
    ({ Device.reset.hatch with due := some 5 } : Hatch).due = some 5 ∧ Device.reset.hatch.due = none ∧ (tSweep 1 0).overLimit { tMoves 2 with since := 0 } = decide ((tSweep 1 0).dev.mig.limit * 1200 ≤ 1200) ∧
    (tSweep 1 0).maySwitch (tMoves 1) = false := by decide
theorem witness_rows_pass : ∀ j < 256, 1 ≤ j → (tFail.dev.half (2 ^ 22 - 1)).rowFails j = false := by decide
/-- LaunchEventsComplete: a queue the arbiter serves, one it does not since its head has no placement, a device where no launch may start; a LOADING kernel with two answers to come; a LOADED one whose tick has come, has not, and has none. -/
def tPending : State := { tLaunch with dev := { tLaunch.dev with power := { PowerUnit.reset with st := .active } } }
theorem witness_arbiter :
    tPending.choice = some 0 ∧ tPending.startable 0 = true ∧ tPending.pendingOf 0 = none ∧ tPending.headStatus 0 = 0 ∧ tPending.dev.launching = true ∧ tLaunch.dev.launching = false ∧
    (tPending.launch 0).pendingOf 0 = some 0 ∧ tPending.argWaits 0 = false ∧ tPending.startable 1 = false ∧ tPending.choice ≠ some 1 ∧ tPending.kernel? 0 = none ∧
    ((tKernel .loaded [] 0).tick = some 0 ∧ 0 ≤ tPending.dev.ref) ∧ tPending.dev.power.retStep = 0 ∧ ({ tKernel .loaded [] 0 with tick := some 1024 } : Kernel).tick = some 1024 ∧
    tPending.dev.ref < 1024 ∧ ({ tKernel .loading [] 0 with posts := 2 } : Kernel).posts = 2 := by decide
/-- BusEventsComplete: a host link that is up with CXL and one that is down; slot 3 of locked mode at its first period, begun and not. -/
def tLinked (st : Nat) : State := { tState with dev := { Device.reset with links := { Links.reset with cxl := { st := st, rate := 64, lanes := 8 } } } }
def tSlots (begun : Nat) : State := { tState with
  dev := { Device.reset with ref := 192, locked := true, power := { PowerUnit.reset with plock := true }, links := { Links.reset with ports := Links.reset.ports.map fun p => { p with slot := begun } } } }
theorem witness_links :
    (tLinked 2).dev.hostReaches = true ∧ (tLinked 1).dev.hostReaches = false ∧ (tLinked 0).dev.links.cxl.st = 0 ∧ (tLinked 2).viewWaits false [(hdmLocal 0, 512)] = false ∧
    [(hdmLocal 0, 512)].any (tLinked 2).mergesRow = false ∧ (barLocal 0x32000).isSome = true ∧ barLocal 1048576 = none ∧ (tSlots 0).dev.lockedMode = true ∧ (tSlots 0).dev.ref / 64 % 16 = 3 % 16 ∧
    (tSlots 0).dev.ref % 64 = 0 ∧ ((tSlots 0).dev.port 2).slot ≠ 3 + 1 ∧ ((tSlots 4).dev.port 2).slot = 3 + 1 ∧ (tLinked 2).dev.away = false ∧
    (tLinked 2).viewWaits false (fabricRanges (tEv 0 0 0 0 64 [0] (tLinked 2)).ev) = false ∧ (fabricRanges (tEv 0 1 0 0 64 [0] (tLinked 2)).ev).any (tLinked 2).mergesRow = false ∧
    (32 ≤ 64 ∧ 4 ≤ 8) ∧ (16 < 32) ∧ (tState.dev.port 0).usable = false := by decide
/-- PowerEventsComplete: the first step of a cold boot, its steps done, those of a warm boot; an empty record; a ramp step due and one made; a cluster in the last period of its stop. -/
theorem witness_boot :
    State.reset.dev.coldStart = true ∧ (BootRecord.ofData []).remap = [] ∧ State.reset.dev.rmErr = false ∧ State.reset.dev.bootSteps = false ∧
    ({ Device.reset with boot := { Boot.reset with stage := 4 } } : Device).bootSteps = true ∧ (tPower .boot 5 false).dev.bootSteps = false ∧
    ({ (tPower .boot 6 false).dev with boot := { Boot.reset with stage := 1 } } : Device).bootSteps = true ∧ State.reset.dev.ref % 1200 = 0 ∧ State.reset.dev.power.ramped ≠ State.reset.dev.ref / 1200 + 1 ∧
    ({ PowerUnit.reset with ramped := 1 } : PowerUnit).ramped = 0 / 1200 + 1 ∧ (tPower .retain 5 false).dev.power.st = .retain ∧ State.reset.clusterBusy 0 = false := by decide
/-- SelectAndPermute: words written out from R317 and R318, and words that they make ILLEGAL. -/
theorem test_select_words :
    decodeSlot 0x50E08042 = some (.vsel 3 true (.reg 8) (.reg 1) (.reg 2)) ∧ decodeSlot 0x52408042 = some (.vperm true (.reg 8) (.reg 1) (.reg 2)) ∧
    decodeSlot 0x52C08040 = some (.vbcast true (.reg 8) (.reg 1)) ∧ decodeSlot 0x53008042 = some (.vins false 8 (.reg 1) (.reg 2)) ∧
    decodeSlot 0x53808042 = some (.vext false (.reg 8) (.reg 1) (.reg 2)) := by decide
theorem witness_select_illegal :
    (0x50040000 / 2 ^ 25 % 2 ^ 6 = 0x28 ∧ 0x50040000 / 2 ^ 18 % 2 ^ 3 ≠ 0 ∧ decodeSlot 0x50040000 = none) ∧
    (0x52040000 / 2 ^ 25 % 2 ^ 6 = 0x29 ∧ 0x52040000 / 2 ^ 18 % 2 ^ 4 ≠ 0 ∧ decodeSlot 0x52040000 = none) ∧
    (0x52800001 / 2 ^ 23 % 2 ^ 2 = 1 ∧ 0x52800001 % 2 ^ 6 ≠ 0 ∧ decodeSlot 0x52800001 = none) := by decide

end Sys2Proof.Machine
end

/-! O49: a memory bit by bit; what a write of bits gives and leaves (R36), and that memories in canonical form are equal where they read the same. -/

namespace Sys2Proof.Machine

/-- Bit b of a memory: bit b mod 8 of byte b / 8 (R1, R2). -/
def Memory.bit (m : Memory) (b : Nat) : Bool := (m.readByte (b / 8)).toNat.testBit (b % 8)

/-- The n bits from lo up come from v, every other bit from x. -/
theorem testBit_setBits (x lo n v i : Nat) :
    (setBits x lo n v).testBit i = if lo ≤ i ∧ i < lo + n then v.testBit (i - lo) else x.testBit i := by
  have split : ∀ y, y = 2 ^ lo * (2 ^ n * (y / 2 ^ lo / 2 ^ n) + y / 2 ^ lo % 2 ^ n) + y % 2 ^ lo := fun y => by
    rw [Nat.div_add_mod, Nat.div_add_mod]
  have low : x % 2 ^ lo < 2 ^ lo := Nat.mod_lt _ (by positivity)
  have mid : ∀ y, y % 2 ^ n < 2 ^ n := fun y => Nat.mod_lt _ (by positivity)
  have new : setBits x lo n v = 2 ^ lo * (2 ^ n * (x / 2 ^ lo / 2 ^ n) + v % 2 ^ n) + x % 2 ^ lo := by
    unfold setBits bits
    have := split x
    rw [Nat.mul_comm _ (2 ^ lo), Nat.mul_comm _ (2 ^ lo)]
    rw [Nat.mul_add] at this ⊢
    omega
  rw [new]
  conv_rhs => rw [split x]
  rw [Nat.testBit_two_pow_mul_add _ low, Nat.testBit_two_pow_mul_add _ low, Nat.testBit_two_pow_mul_add _ (mid _),
    Nat.testBit_two_pow_mul_add _ (mid _), Nat.testBit_mod_two_pow]
  by_cases h : i < lo
  · simp [h, Nat.not_le.mpr h]
  · by_cases k : i - lo < n
    · simp [h, k, show lo ≤ i ∧ i < lo + n by omega]
    · simp [h, k, show ¬ (lo ≤ i ∧ i < lo + n) by omega]

/-- Bit i of n bytes is bit i from their first bit up. -/
theorem Memory.testBit_readBytes (m : Memory) (k n i : Nat) :
    (m.readBytes k n).testBit i = (decide (i < 8 * n) && m.bit (8 * k + i)) := by
  induction n generalizing k i with
  | zero => simp [Memory.readBytes]
  | succ n ih =>
    have byte : (m.readByte k).toNat < 2 ^ 8 := (m.readByte k).isLt
    rw [Memory.readBytes, Nat.add_comm, show 256 = 2 ^ 8 from rfl, Nat.testBit_two_pow_mul_add _ byte]
    by_cases h : i < 8
    · simp [h, Memory.bit, show (8 * k + i) / 8 = k by omega, Nat.mod_eq_of_lt h, show i < 8 * (n + 1) by omega]
    · rw [if_neg h, ih, show 8 * (k + 1) + (i - 8) = 8 * k + i by omega]
      congr 1
      simp only [decide_eq_decide]
      omega

/-- The bytes of a span hold every bit of it. -/
theorem lt_byteSpan {a w i : Nat} (h : i < w) : a % 8 + i < 8 * byteSpan a w := by
  unfold byteSpan
  split <;> omega

/-- Bit i of the w bits at a is bit a + i (R2). -/
theorem Memory.testBit_readBits (m : Memory) (a w i : Nat) :
    (m.readBits a w).testBit i = (decide (i < w) && m.bit (a + i)) := by
  rw [Memory.readBits, Nat.testBit_mod_two_pow, Nat.testBit_div_two_pow, Memory.testBit_readBytes]
  by_cases h : i < w
  · have := lt_byteSpan (a := a) h
    simp [h, show i + a % 8 < 8 * byteSpan a w by omega, show 8 * (a / 8) + (i + a % 8) = a + i by omega]
  · simp [h]

/-- A bit write sets the w bits at a to those of v and no other bit (R36). -/
theorem Memory.bit_writeBits {m : Memory} (a w v b : Nat) (h : m.wf = true) :
    (m.writeBits a w v).bit b = if a ≤ b ∧ b < a + w then v.testBit (b - a) else m.bit b := by
  by_cases inside : a / 8 ≤ b / 8 ∧ b / 8 < a / 8 + byteSpan a w
  · obtain ⟨lo, hi⟩ := inside
    obtain ⟨j, hj⟩ := Nat.exists_eq_add_of_le lo
    have byte := Memory.readByte_writeBytes_same (m := m) (byteSpan a w) (i := j) (k := a / 8)
      (setBits (m.readBytes (a / 8) (byteSpan a w)) (a % 8) w v) h (by omega)
    rw [Memory.bit, Memory.writeBits, hj, byte, BitVec.toNat_ofNat, Nat.testBit_mod_two_pow, show 256 ^ j = 2 ^ (8 * j) by
      rw [Nat.pow_mul], Nat.testBit_div_two_pow, testBit_setBits, Memory.testBit_readBytes,
      show 8 * (a / 8) + (b % 8 + 8 * j) = b by omega, show b % 8 + 8 * j - a % 8 = b - a by omega]
    simp only [show b % 8 < 8 by omega, show b % 8 + 8 * j < 8 * byteSpan a w by omega, decide_true, Bool.true_and]
    refine if_congr ?_ rfl rfl
    omega
  · have apart : ¬ (a ≤ b ∧ b < a + w) := fun ⟨h1, h2⟩ => by
      have := lt_byteSpan (a := a) (show b - a < w by omega)
      omega
    rw [if_neg apart, Memory.bit, Memory.writeBits, Memory.readByte_writeBytes_other _ _ h (by omega)]
    rfl

/-- The bits written read back. -/
theorem Memory.readBits_writeBits_same {m : Memory} (a w v : Nat) (h : m.wf = true) :
    (m.writeBits a w v).readBits a w = v % 2 ^ w := by
  refine Nat.eq_of_testBit_eq fun i => ?_
  rw [Memory.testBit_readBits, Memory.bit_writeBits _ _ _ _ h, Nat.testBit_mod_two_pow, Nat.add_sub_cancel_left]
  by_cases hi : i < w <;> simp [hi]

/-- Bits apart from those written read as before. -/
theorem Memory.readBits_writeBits_other {m : Memory} (a w v : Nat) {b n : Nat} (h : m.wf = true) (apart : b + n ≤ a ∨ a + w ≤ b) :
    (m.writeBits a w v).readBits b n = m.readBits b n := by
  refine Nat.eq_of_testBit_eq fun i => ?_
  rw [Memory.testBit_readBits, Memory.testBit_readBits, Memory.bit_writeBits _ _ _ _ h]
  by_cases hi : i < n
  · rw [if_neg (by omega)]
  · simp [hi]

/-- A bit apart from every write of an access reads as before. -/
theorem Memory.readBits_writeAll_other {m : Memory} (l : List BitWrite) {b : Nat} (h : m.wf = true)
    (apart : ∀ x ∈ l, b + 1 ≤ x.addr ∨ x.addr + x.width ≤ b) : (m.writeAll l).readBits b 1 = m.readBits b 1 := by
  induction l generalizing m with
  | nil => rfl
  | cons x t ih =>
    rw [Memory.writeAll, ih (Memory.writeBits_wf _ _ _ h) fun y hy => apart y (by simp [hy]),
      Memory.readBits_writeBits_other _ _ _ h (apart x (by simp))]

/-- The lowest listed byte reads as listed. -/
theorem Memory.readByte_head (a : Nat) (b : BitVec 8) (t : Memory) : Memory.readByte ((a, b) :: t) a = b := by
  simp [Memory.readByte]

/-- Below its lowest listed byte a memory reads 0. -/
theorem Memory.readByte_below_head {a k : Nat} (b : BitVec 8) {t : Memory} (h : Memory.above t a) (hk : k < a) :
    Memory.readByte ((a, b) :: t) k = 0 :=
  Memory.readByte_above fun x hx => (List.mem_cons.mp hx).elim (fun e => e ▸ hk) fun hx => Nat.lt_trans hk (h x hx)

/-- Without its lowest listed byte a memory reads the same everywhere else, and 0 there. -/
theorem Memory.readByte_tail {a : Nat} (b : BitVec 8) {t : Memory} (h : Memory.above t a) (k : Nat) :
    Memory.readByte t k = if k = a then 0 else Memory.readByte ((a, b) :: t) k := by
  split
  · subst k; exact Memory.readByte_above h
  · rename_i hk
    rcases Nat.lt_or_ge k a with lt | ge
    · rw [Memory.readByte_below_head b h lt]
      exact Memory.readByte_above fun x hx => Nat.lt_trans lt (h x hx)
    · simp [Memory.readByte, Ne.symm hk, Nat.not_lt.mpr ge]

/-- Two memories in canonical form that read the same at every byte are the same list. -/
theorem Memory.eq_of_readByte {m n : Memory} (hm : m.wf = true) (hn : n.wf = true) (same : ∀ k, m.readByte k = n.readByte k) : m = n := by
  induction m generalizing n with
  | nil =>
    cases n with
    | nil => rfl
    | cons y u =>
      obtain ⟨c, d⟩ := y
      exact absurd ((same c).trans (Memory.readByte_head c d u)).symm (Memory.wf_cons.mp hn).1
  | cons x t ih =>
    obtain ⟨a, b⟩ := x
    obtain ⟨hb, ht, htw⟩ := Memory.wf_cons.mp hm
    cases n with
    | nil => exact absurd ((Memory.readByte_head a b t).symm.trans (same a)) hb
    | cons y u =>
      obtain ⟨c, d⟩ := y
      obtain ⟨hd, hu, huw⟩ := Memory.wf_cons.mp hn
      have first : a = c := by
        rcases Nat.lt_trichotomy a c with lt | e | gt
        · exact absurd ((Memory.readByte_head a b t).symm.trans ((same a).trans (Memory.readByte_below_head d hu lt))) hb
        · exact e
        · exact absurd ((Memory.readByte_head c d u).symm.trans ((same c).symm.trans (Memory.readByte_below_head b ht gt))) hd
      subst c
      have byte : b = d := (Memory.readByte_head a b t).symm.trans ((same a).trans (Memory.readByte_head a d u))
      rw [byte, ih htw huw fun k => by rw [Memory.readByte_tail b ht, Memory.readByte_tail d hu, same]]

/-- Settles O49, bit by bit: a bit of memory after a write is a bit of the value or the bit before. -/
theorem writesChangeOnlyTheirBits : Obligations.WritesChangeOnlyTheirBits :=
  ⟨fun _ _ _ _ h => ⟨Memory.writeBits_wf _ _ _ h, Memory.readBits_writeBits_same _ _ _ h,
      fun _ _ apart => Memory.readBits_writeBits_other _ _ _ h apart, fun _ apart => Memory.readByte_writeBits_other _ _ _ h apart⟩,
    fun _ l h => ⟨Memory.writeAll_wf l h, fun _ apart => Memory.readBits_writeAll_other l h apart⟩,
    fun _ _ => Memory.eq_of_readByte, State.reset_memory_wf⟩

end Sys2Proof.Machine

/-! O52: which event of the agenda runs, what a fetched bundle holds, and what a slot and a firmware core execute. -/

namespace Sys2Proof.Machine

/-! ## The event that runs first (R10) -/

/-- One event goes before another exactly where both meet one object and its row is the higher one. -/
theorem Device.goesBefore_iff (d : Device) (i : Instr) (e : Event) (j : Instr) (f : Event) :
    d.goesBefore i e j f = true ↔ ∃ o n r q, d.eventRow i e = some (o, n, r) ∧ d.eventRow j f = some (o, n, q) ∧ r < q := by
  unfold Device.goesBefore
  split
  · rename_i o n r o' n' q hi hj
    simp only [Bool.and_eq_true, beq_iff_eq, decide_eq_true_eq, hi, hj, Option.some.injEq, Prod.mk.injEq]
    constructor
    · rintro ⟨⟨rfl, rfl⟩, lt⟩
      exact ⟨_, _, _, _, ⟨rfl, rfl, rfl⟩, ⟨rfl, rfl, rfl⟩, lt⟩
    · rintro ⟨_, _, _, _, ⟨rfl, rfl, rfl⟩, ⟨rfl, rfl, rfl⟩, lt⟩
      exact ⟨⟨rfl, rfl⟩, lt⟩
  · rename_i none_or
    refine iff_of_false (by simp) ?_
    rintro ⟨o, n, r, q, hi, hj, -⟩
    exact none_or _ _ _ _ _ _ hi hj

theorem Device.goesBefore_irrefl (d : Device) (i : Instr) (e : Event) : d.goesBefore i e i e = false := by
  rw [← Bool.not_eq_true, d.goesBefore_iff]
  rintro ⟨o, n, r, q, hr, hq, lt⟩
  rw [hr] at hq
  simp only [Option.some.injEq, Prod.mk.injEq] at hq
  omega

theorem Device.goesBefore_trans (d : Device) {i j k : Instr} {e f g : Event} (hij : d.goesBefore i e j f = true)
    (hjk : d.goesBefore j f k g = true) : d.goesBefore i e k g = true := by
  obtain ⟨o, n, r, q, hr, hq, lt⟩ := (d.goesBefore_iff _ _ _ _).mp hij
  obtain ⟨o', n', q', p, hq', hp, lt'⟩ := (d.goesBefore_iff _ _ _ _).mp hjk
  rw [hq] at hq'
  simp only [Option.some.injEq, Prod.mk.injEq] at hq'
  obtain ⟨rfl, rfl, rfl⟩ := hq'
  exact (d.goesBefore_iff _ _ _ _).mpr ⟨o, n, r, p, hr, hp, lt.trans lt'⟩

/-- The choice of firstOf between the event m chosen so far and the event x, the k-th of the agenda's tail. -/
def Device.betterOf (d : Device) (m : Nat × Instr × Event) (x : (Nat × Instr × Event) × Nat) : Nat × Instr × Event :=
  if d.goesBefore x.1.2.1 x.1.2.2 m.2.1 m.2.2 then (x.2 + 1, x.1.2) else m

theorem Device.firstOf_eq (d : Device) (i : Instr) (e : Event) (n : Nat) (l : List (Nat × Instr × Event)) :
    d.firstOf i e n l = (l.take n).zipIdx.foldl d.betterOf (0, i, e) := rfl

/-- Where no event goes before the one chosen, the choice stays. -/
theorem Device.foldl_betterOf_eq (d : Device) {m : Nat × Instr × Event} {l : List (Nat × Instr × Event)} (k : Nat)
    (least : ∀ x ∈ l, d.goesBefore x.2.1 x.2.2 m.2.1 m.2.2 = false) : (l.zipIdx k).foldl d.betterOf m = m := by
  induction l generalizing k with
  | nil => rfl
  | cons x t ih =>
    rw [List.zipIdx_cons, List.foldl_cons, Device.betterOf, least x (by simp)]
    exact ih (k + 1) fun y hy => least y (by simp [hy])

/-- What goes before the choice after one more event went before the choice until then. -/
theorem Device.goesBefore_of_betterOf (d : Device) {m : Nat × Instr × Event} {x : (Nat × Instr × Event) × Nat} {i : Instr} {e : Event}
    (h : d.goesBefore i e (d.betterOf m x).2.1 (d.betterOf m x).2.2 = true) : d.goesBefore i e m.2.1 m.2.2 = true := by
  unfold Device.betterOf at h
  split at h
  · exact d.goesBefore_trans h ‹_›
  · exact h

/-- No event goes before the choice made after it. -/
theorem Device.not_goesBefore_betterOf (d : Device) (m : Nat × Instr × Event) (x : (Nat × Instr × Event) × Nat) :
    d.goesBefore x.1.2.1 x.1.2.2 (d.betterOf m x).2.1 (d.betterOf m x).2.2 = false := by
  unfold Device.betterOf
  split
  · exact d.goesBefore_irrefl _ _
  · rename_i stays
    simpa using stays

/-- What goes before the last choice went before the first. -/
theorem Device.goesBefore_of_foldl (d : Device) {l : List ((Nat × Instr × Event) × Nat)} {m : Nat × Instr × Event} {i : Instr} {e : Event}
    (h : d.goesBefore i e (l.foldl d.betterOf m).2.1 (l.foldl d.betterOf m).2.2 = true) : d.goesBefore i e m.2.1 m.2.2 = true := by
  induction l generalizing m with
  | nil => exact h
  | cons x t ih => exact d.goesBefore_of_betterOf (ih h)

/-- No event goes before the one chosen among all. -/
theorem Device.not_goesBefore_foldl (d : Device) {l : List ((Nat × Instr × Event) × Nat)} (m : Nat × Instr × Event)
    {x : (Nat × Instr × Event) × Nat} (hx : x ∈ l) :
    d.goesBefore x.1.2.1 x.1.2.2 (l.foldl d.betterOf m).2.1 (l.foldl d.betterOf m).2.2 = false := by
  induction l generalizing m with
  | nil => simp at hx
  | cons y t ih =>
    rcases List.mem_cons.mp hx with rfl | hx
    · exact Bool.eq_false_iff.mpr fun h => Bool.eq_false_iff.mp (d.not_goesBefore_betterOf m x) (d.goesBefore_of_foldl h)
    · exact ih _ hx

/-- The choice is the one before, or an event of the list with its place. -/
theorem Device.foldl_betterOf_mem (d : Device) (l : List ((Nat × Instr × Event) × Nat)) (m : Nat × Instr × Event) :
    l.foldl d.betterOf m = m ∨ ∃ x ∈ l, l.foldl d.betterOf m = (x.2 + 1, x.1.2) := by
  induction l generalizing m with
  | nil => exact .inl rfl
  | cons x t ih =>
    rcases ih (d.betterOf m x) with h | ⟨y, hy, h⟩
    · rw [List.foldl_cons, h, Device.betterOf]
      split
      · exact .inr ⟨x, by simp, rfl⟩
      · exact .inl rfl
    · exact .inr ⟨y, by simp [hy], h⟩

/-- The due events at the head of an agenda are those it begins with that wait for nothing. -/
theorem take_dueEvents (l : List (Nat × Instr × Event)) : l.take (dueEvents l) = l.takeWhile (fun z => z.1 == 0) := by
  induction l with
  | nil => rfl
  | cons x t ih =>
    obtain ⟨n, i, e⟩ := x
    cases n with
    | zero => simp [dueEvents, ih]
    | succ n => simp [dueEvents]

/-- With no due event before it, the first event of the agenda runs and the rest stays. -/
theorem Device.firstDue_eq (d : Device) {i : Instr} {e : Event} {l : List (Nat × Instr × Event)}
    (least : ∀ x ∈ l.takeWhile (fun z => z.1 == 0), d.goesBefore x.2.1 x.2.2 i e = false) : d.firstDue i e l = (i, e, l) := by
  have first : d.firstOf i e (dueEvents l) l = (0, i, e) := by
    rw [d.firstOf_eq, take_dueEvents]
    exact d.foldl_betterOf_eq (m := (0, i, e)) 0 least
  simp [Device.firstDue, first]

/-- The event that runs first is one that is due, none due goes before it, and the others are the agenda that stays. -/
theorem Device.firstDue_spec (d : Device) (i : Instr) (e : Event) (l : List (Nat × Instr × Event)) :
    ((0, (d.firstDue i e l).1, (d.firstDue i e l).2.1) :: (d.firstDue i e l).2.2).Perm ((0, i, e) :: l) ∧
    ∀ y ∈ l.takeWhile (fun z => z.1 == 0), d.goesBefore y.2.1 y.2.2 (d.firstDue i e l).1 (d.firstDue i e l).2.1 = false := by
  have chosen : d.firstOf i e (dueEvents l) l = (l.takeWhile (fun z => z.1 == 0)).zipIdx.foldl d.betterOf (0, i, e) := by
    rw [d.firstOf_eq, take_dueEvents]
  constructor
  · rcases d.foldl_betterOf_mem (l.takeWhile (fun z => z.1 == 0)).zipIdx (0, i, e) with h | ⟨⟨⟨n, i', e'⟩, j⟩, hx, h⟩
    · simp [Device.firstDue, chosen, h]
    · have at_j := List.mem_zipIdx_iff_getElem?.mp hx
      obtain rfl : n = 0 := by simpa using List.mem_takeWhile_imp (List.mem_of_getElem? at_j)
      obtain ⟨lt, at_lt⟩ := List.getElem?_eq_some_iff.mp at_j
      obtain ⟨hj, lj⟩ := List.getElem?_eq_some_iff.mp (at_lt ▸ List.prefix_iff_getElem?.mp (List.takeWhile_prefix _) j lt)
      have rest := lj ▸ List.getElem_cons_eraseIdx_perm hj
      simp only [Device.firstDue, chosen, h, Nat.succ_ne_zero, if_false, Nat.add_sub_cancel]
      exact (List.Perm.swap _ _ _).trans (rest.cons _)
  · intro y hy
    obtain ⟨j, hj⟩ := List.mem_iff_getElem?.mp hy
    simp only [Device.firstDue, chosen]
    exact d.not_goesBefore_foldl (0, i, e) (x := (y, j)) (List.mem_zipIdx_iff_getElem?.mpr hj)

/-- A step with a due event at the head of the agenda executes the event that runs first (log 1). -/
theorem step_of_due {s : State} {i : Instr} {e : Event} {rest : List (Nat × Instr × Event)} (h : s.agenda = (0, i, e) :: rest) :
    step s = exec (s.dev.firstDue i e rest).1 { s with agenda := (s.dev.firstDue i e rest).2.2, ev := (s.dev.firstDue i e rest).2.1 } := by
  unfold step
  rw [h]
  rfl

/-- A step with no due event at the head of the agenda is one reference period (log 1). -/
theorem step_of_not_due {s : State} (h : ∀ x, s.agenda.head? = some x → x.1 ≠ 0) : step s = s.clk := by
  unfold step
  split
  · rename_i agenda
    exact absurd rfl (h _ (by rw [agenda]; rfl))
  · rfl

/-! ## The bundle fetched (R71, R74) -/

/-- A decoded slot is well-formed. -/
theorem decodeSlot_wf {w : Nat} {i : Instr} (h : decodeSlot w = some i) : i.wf = true := by
  unfold decodeSlot at h
  split at h
  · split at h
    · cases h; assumption
    · cases h
  · cases h

/-- A slot that its encoding does not refuse decodes. -/
theorem isSome_decodeSlot {n j w : Nat} (h : slotIllegal n j w = false) : (decodeSlot w).isSome = true := by
  unfold slotIllegal at h
  split at h <;> simp_all

/-- Words that all decode make one instruction each, in order. -/
theorem map_some_filterMap {α β : Type} {f : α → Option β} {l : List α} (h : ∀ x ∈ l, (f x).isSome = true) :
    (l.filterMap f).map some = l.map f := by
  induction l with
  | nil => rfl
  | cons x t ih =>
    obtain ⟨y, hy⟩ := Option.isSome_iff_exists.mp (h x (by simp))
    simp [hy, ih fun z hz => h z (by simp [hz])]

/-- A bundle fetched: its words all decode, to its slots in order, and it stands at the PC. -/
theorem State.fetch_ok {s : State} {ws : List Nat} {b : Bundle} (h : s.fetch = .ok (ws, b)) :
    (∀ w ∈ ws, (decodeSlot w).isSome = true) ∧ b.slots = ws.filterMap decodeSlot ∧ b.pc = s.ctx.pc.toNat ∧
      b.next = s.ctx.pc.toNat + 32 * ws.length := by
  unfold State.fetch at h
  split at h
  · cases h
  · rename_i l _
    dsimp only at h
    split at h
    · cases h
    · rename_i legal
      split at h
      · cases h
      · cases h
        refine ⟨fun w hw => ?_, rfl, rfl, rfl⟩
        obtain ⟨j, hj, rfl⟩ := List.getElem_of_mem hw
        refine isSome_decodeSlot (n := ws.length) (j := j) ?_
        have := List.filter_eq_nil_iff.mp (not_not.mp legal) j (List.mem_range.mpr hj)
        simpa [List.getD_eq_getElem?_getD, hj] using this

/-! ## A slot at work (R415) -/

/-- Of a slot that runs on the bundle at its position, the bundle and the draws remain. -/
theorem State.runAt_next {s t : State} {j : Nat} {i : Instr}
    (h : exec i (s.onBundle fun b => { b with pos := j, mark := .none, waitBar := none, waitVal := 0 }) = .next t) :
    s.runAt j i = .next { s with bundle := t.bundle, delays := t.delays, free := t.free } := by
  unfold State.runAt
  rw [h]

/-! ## The firmware cores (R405) -/

/-- A running firmware core that takes no interrupt counts its clk and meets the instruction it fetches. -/
theorem State.fwStep_of_fetch {s : State} {k w n : Nat} {c : FwCore} (hc : s.fw[k]? = some c) (run : c.run = true) (irq : c.irq = none)
    (fetched : (s.onFw k FwCore.counted).fwFetch c.pc = .ok (w, n)) : s.fwStep k = (s.onFw k FwCore.counted).fwInstr k w n := by
  simp [State.fwStep, hc, run, State.fwIrq_none _ _ irq, fetched]

/-- Settles O52: the agenda by the choice of firstDue, the bundle by what a fetch leaves, the slots and the firmware cores by one case of their step each. -/
theorem stepRunsTheDecodedInstruction : Obligations.StepRunsTheDecodedInstruction := by
  refine ⟨fun s i e rest agenda => ⟨fun least => ?alone, ?highest⟩, fun s => step_of_not_due, fun s ws b fetched => ?bundle,
    fun s t j i ran => ?slot, fun s t j i l ends executes ran => ?slots, fun s t k w c hc run irq ht => ⟨fun fetched => ?word, fun fetched => ?half⟩,
    fun c => ⟨rfl, rfl, rfl, rfl, rfl, rfl⟩⟩
  case alone =>
    have first := s.dev.firstDue_eq (i := i) (e := e) (l := rest) fun x hx =>
      least x ((List.takeWhile_sublist _).mem hx) (by simpa using List.mem_takeWhile_imp hx)
    rw [step_of_due agenda, first]
  case highest =>
    obtain ⟨perm, least⟩ := s.dev.firstDue_spec i e rest
    exact ⟨_, perm.subset (List.mem_cons_self ..), _, rfl, perm.symm, least, step_of_due agenda⟩
  case bundle =>
    obtain ⟨decodes, slots, pc, next⟩ := s.fetch_ok fetched
    refine ⟨by rw [slots, map_some_filterMap decodes], pc, next, fun i hi => ?_⟩
    obtain ⟨w, -, hw⟩ := List.mem_filterMap.mp (slots ▸ hi)
    exact decodeSlot_wf hw
  case slot => exact s.runAt_next ran
  case slots => simp [State.runSlots, executes, ran]
  case word =>
    rw [s.fwStep_of_fetch hc run irq (ht ▸ fetched), ← ht]
    exact ⟨fun i custom => by simp [State.fwInstr, custom], fun op custom base => by simp [State.fwInstr, custom, base],
      fun custom base => by simp [State.fwInstr, custom, base]⟩
  case half =>
    rw [s.fwStep_of_fetch hc run irq (ht ▸ fetched), ← ht]
    exact ⟨fun op base => by simp [State.fwInstr, base], fun base => by simp [State.fwInstr, base]⟩

end Sys2Proof.Machine

/-! O59: the events of the bus, the host, the links, the timer and the firmware cores' accesses, each by the operation of its unit; and what leaves REF and the links alone. -/

namespace Sys2Proof.Machine

/-! ## What leaves the device, its REF (R256) and its links alone -/

/-- What no step of a fold changes the fold leaves. -/
theorem foldl_keeps {α β γ : Type} (g : α → γ) {f : α → β → α} (keeps : ∀ a b, g (f a b) = g a) (l : List β) (a : α) :
    g (l.foldl f a) = g a := by
  induction l generalizing a with
  | nil => rfl
  | cons b t ih => exact (ih _).trans (keeps a b)

@[simp] theorem State.focusCore_dev (s : State) (n : Nat) : (s.focusCore n).dev = s.dev := by
  unfold State.focusCore; split <;> rfl

@[simp] theorem State.focusSlot_dev (s : State) (k : Nat) : (s.focusSlot k).dev = s.dev := by
  unfold State.focusSlot; split <;> rfl

@[simp] theorem State.focus_dev (s : State) (c : Nat) : (s.focus c).dev = s.dev := by simp [State.focus]

@[simp] theorem State.atCore_dev (s : State) (n : Nat) (f : State → State) : (s.atCore n f).dev = (f (s.focusCore n)).dev :=
  State.focus_dev _ _

@[simp] theorem State.atCtx_dev (s : State) (c : Nat) (f : State → State) : (s.atCtx c f).dev = (f (s.focus c)).dev :=
  State.focus_dev _ _

/-- A change of contexts or cores that leaves REF leaves it at every slot of the core. -/
theorem State.eachSlot_ref {f : State → State} (keeps : ∀ s, (f s).dev.ref = s.dev.ref) (s : State) : (s.eachSlot f).dev.ref = s.dev.ref :=
  foldl_keeps (fun s : State => s.dev.ref) (fun s k => by simp [keeps]) _ s

/-- REF and the links: of the device what a write of its memory leaves alone. -/
def Device.refAndLinks (d : Device) : Nat × Links := (d.ref, d.links)

theorem Device.cacheLine_refAndLinks (d : Device) (pin : Bool) (l : Nat) : (d.cacheLine pin l).refAndLinks = d.refAndLinks := by
  unfold Device.cacheLine; exact (apply_ite Device.refAndLinks _ _ _).trans (ite_self _)

theorem Device.useLine_refAndLinks (d : Device) (l : Nat) : (d.useLine l).refAndLinks = d.refAndLinks := by
  unfold Device.useLine; split <;> rfl

theorem Device.backInvalidate_refAndLinks (d : Device) (l : Nat) : (d.backInvalidate l).refAndLinks = d.refAndLinks := by
  unfold Device.backInvalidate; split <;> rfl

theorem Device.merge_refAndLinks (d : Device) (a w v : Nat) : (d.merge a w v).refAndLinks = d.refAndLinks := by
  unfold Device.merge
  split
  · rfl
  · exact foldl_keeps Device.refAndLinks (fun d l => d.cacheLine_refAndLinks false l) (linesOf a w) d

theorem Device.put_refAndLinks (d : Device) (a w v : Nat) : (d.put a w v).refAndLinks = d.refAndLinks := by
  unfold Device.put
  rw [Device.merge_refAndLinks, foldl_keeps Device.refAndLinks Device.backInvalidate_refAndLinks]

theorem Device.putLog_refAndLinks (d : Device) (r : Nat) : (d.putLog r).refAndLinks = d.refAndLinks := by
  unfold Device.putLog
  split
  · rfl
  · exact d.put_refAndLinks _ _ _

theorem Device.logError_refAndLinks (d : Device) (event cause source addr info : Nat) :
    (d.logError event cause source addr info).refAndLinks = d.refAndLinks := by
  unfold Device.logError
  dsimp only
  split
  · split <;> rfl
  · exact d.putLog_refAndLinks _

@[simp] theorem Device.put_ref (d : Device) (a w v : Nat) : (d.put a w v).ref = d.ref := congrArg Prod.fst (d.put_refAndLinks a w v)

@[simp] theorem Device.logError_ref (d : Device) (event cause source addr info : Nat) : (d.logError event cause source addr info).ref = d.ref :=
  congrArg Prod.fst (d.logError_refAndLinks event cause source addr info)

@[simp] theorem Device.logError_links (d : Device) (event cause source addr info : Nat) :
    (d.logError event cause source addr info).links = d.links :=
  congrArg Prod.snd (d.logError_refAndLinks event cause source addr info)

@[simp] theorem Device.setHalf_ref (d : Device) (k : Nat) (h : Half) : (d.setHalf k h).ref = d.ref := rfl

/-! ### The scrubber (R305) -/

@[simp] theorem State.scrubFails_ref (s : State) (k row : Nat) : (s.scrubFails k row).dev.ref = s.dev.ref := by
  unfold State.scrubFails; dsimp only; split <;> simp

@[simp] theorem State.scrubMissed_ref (s : State) (k : Nat) : (s.scrubMissed k).dev.ref = s.dev.ref := by
  unfold State.scrubMissed; dsimp only; split <;> simp

theorem State.scrubHalf_ref (s : State) (k : Nat) : (s.scrubHalf k).dev.ref = s.dev.ref := by
  unfold State.scrubHalf; dsimp only
  split
  · rfl
  · split
    · rfl
    · split
      · simp
      · rfl

theorem State.scrubStep_ref (s : State) (x : Nat × Nat) : (s.scrubStep x).dev.ref = s.dev.ref := by
  unfold State.scrubStep; dsimp only
  repeat' split
  all_goals simp [Device.scrubbed]

@[simp] theorem State.scrubClk_ref (s : State) : s.scrubClk.dev.ref = s.dev.ref := by
  have steps := foldl_keeps (fun s : State => s.dev.ref) State.scrubStep_ref s.dev.scrubs s
  unfold State.scrubClk; dsimp only
  split
  · exact (foldl_keeps (fun s : State => s.dev.ref) State.scrubHalf_ref _ _).trans steps
  · exact steps

/-! ### Releases, with the interval of the hatch tree that is due (R205, R356) -/

@[simp] theorem State.readsLines_ref (s : State) (a w : Nat) : (s.readsLines a w).dev.ref = s.dev.ref := by
  unfold State.readsLines
  split
  · rfl
  · exact congrArg Prod.fst (foldl_keeps Device.refAndLinks Device.useLine_refAndLinks (linesOf a w) s.dev)

@[simp] theorem State.physWrite_ref (s : State) (a w v : Nat) : (s.physWrite a w v).dev.ref = s.dev.ref := by
  unfold State.physWrite
  cases regionOf s.dev.lpddr a
  case window => dsimp only; rw [State.atCore_dev, State.onCore_dev, State.focusCore_dev]
  case macros | physMacros => dsimp only; split <;> rfl
  all_goals exact s.dev.put_ref a w v

@[simp] theorem State.hatchPut_ref (s : State) (a w v : Nat) : (s.hatchPut a w v).dev.ref = s.dev.ref := by
  unfold State.hatchPut; split <;> simp

@[simp] theorem State.hatchClose_ref (s : State) (root : Nat) : (s.hatchClose root).dev.ref = s.dev.ref := by
  have reads := fun l : List (Nat × Nat) => foldl_keeps (fun s : State => s.dev.ref)
    (f := fun t p => t.readsLines (physLocal p.2) (2 ^ 19)) (fun t p => t.readsLines_ref _ _) l s
  unfold State.hatchClose; dsimp only
  split
  · rfl
  · simp only [State.onDev_dev]
    split <;> simp only [State.hatchPut_ref, reads]

@[simp] theorem State.hatchClk_ref (s : State) : s.hatchClk.dev.ref = s.dev.ref := by
  unfold State.hatchClk; split <;> simp

@[simp] theorem State.release_ref (s : State) (k : Nat) (x : Kernel) : (s.release k x).dev.ref = s.dev.ref :=
  (foldl_keeps (fun s : State => s.dev.ref) (fun s c => by simp) _ _).trans s.hatchClk_ref

@[simp] theorem State.releasesClk_ref (s : State) : s.releasesClk.dev.ref = s.dev.ref := by
  unfold State.releasesClk
  split
  · rfl
  · refine foldl_keeps (fun s : State => s.dev.ref) (fun s x => ?_) _ s
    split <;> simp

/-! ### The end of a wait (R253) -/

@[simp] theorem State.stopFault_dev (s : State) (c : Cause) (v : Word) (epc slots : Nat) (esc : Bool) :
    (s.stopFault c v epc slots esc).dev = s.dev := by
  unfold State.stopFault; split <;> rfl

@[simp] theorem State.takeLate_ref (s : State) (f : Cause × Word × Nat × Nat) : (s.takeLate f).dev.ref = s.dev.ref := by
  simp [State.takeLate, State.dropRequest]

@[simp] theorem State.lowerHeld_ref (s : State) (k : Nat) : (s.lowerHeld k).dev.ref = s.dev.ref := by
  unfold State.lowerHeld; split <;> rfl

theorem State.discard_dev (s : State) (q : Nat) : (s.discard q).dev = s.dev := by
  unfold State.discard; dsimp only; split <;> rfl

@[simp] theorem State.discardAll_dev (s : State) : s.discardAll.dev = s.dev := by
  refine foldl_keeps State.dev (fun s q => ?_) _ s
  split
  · exact s.discard_dev q
  · rfl

@[simp] theorem State.park_ref (s : State) (forced : Bool) : (s.park forced).dev.ref = s.dev.ref := by
  simp [State.park, State.dropRequest]

@[simp] theorem State.stopPark_ref (s : State) : s.stopPark.dev.ref = s.dev.ref := by
  unfold State.stopPark; split <;> simp

@[simp] theorem State.reissue_dev (s : State) (n : Nat) : (s.reissue n).dev = s.dev := by
  induction n generalizing s with
  | zero => rfl
  | succ n ih =>
    unfold State.reissue
    split
    · rfl
    · split
      · rw [ih]; rfl
      · rfl

@[simp] theorem State.waitClk_ref (s : State) : s.waitClk.dev.ref = s.dev.ref := by
  unfold State.waitClk
  repeat' split
  all_goals simp

@[simp] theorem State.timedClk_ref (s : State) : s.timedClk.dev.ref = s.dev.ref := by
  unfold State.timedClk; split <;> simp

/-- REF moves to n, never backwards; what its ticks and deadlines bring leaves it (R254, R255). -/
theorem State.refTo_ref (s : State) (n : Nat) : (s.refTo n).dev.ref = max s.dev.ref n := by
  refine (foldl_keeps (fun s : State => s.dev.ref) (fun s k => ?_) _ _).trans ?_
  · simp [State.eachSlot_ref State.timedClk_ref]
  · split <;> simp [State.mapCtx]

/-! ## Ports (R375, Table 17.3) -/

@[simp] theorem State.accepted_dev (s : State) (l : List Event) : (s.accepted l).dev = s.dev := by
  refine foldl_keeps State.dev (fun s e => ?_) l s
  split <;> simp

/-- What is sent again moves between the outbox and the slots; no port changes. -/
@[simp] theorem State.resend_ports (s : State) (k : Nat) : (s.resend k).dev.links.ports = s.dev.links.ports := by
  unfold State.resend; dsimp only; split <;> simp

theorem Device.onPort_ports {d : Device} {k : Nat} {p : Port} (h : d.links.ports[k]? = some p) (f : Port → Port) :
    (d.onPort k f).links.ports[k]? = some (f p) := by
  simp [Device.onPort, h]

theorem State.movePort_ports {s : State} {k : Nat} {p : Port} (h : s.dev.links.ports[k]? = some p) (f : Port → Port) :
    (s.movePort k f).dev.links.ports[k]? = some (f p) := by
  have moved : (s.movePort k f).dev.links.ports = (s.dev.onPort k f).links.ports := by
    unfold State.movePort; dsimp only
    repeat' split
    all_goals simp
  rw [moved]
  exact s.dev.onPort_ports h f

theorem Device.port_eq {d : Device} {k : Nat} {p : Port} (h : d.links.ports[k]? = some p) : d.port k = p := by
  simp [Device.port, h]

/-- Training gives 8 lanes, 4 or none (rows 3 to 5). -/
theorem State.portTrained_ports {s : State} {k : Nat} {p : Port} (h : s.dev.links.ports[k]? = some p) (training : p.st = 1) (good lat : Nat) :
    (8 ≤ good → (s.portTrained k good lat).dev.links.ports[k]? = some { p with st := 2, lanes := 8, lat := lat % 2 ^ 8 }) ∧
    (4 ≤ good → good < 8 → (s.portTrained k good lat).dev.links.ports[k]? = some { p with st := 3, lanes := 4, lat := lat % 2 ^ 8 }) ∧
    (good < 4 → (s.portTrained k good lat).dev.links.ports[k]? = some { p with st := 4, lanes := 0 }) := by
  unfold State.portTrained
  rw [if_neg (by rw [Device.port_eq h, training]; decide)]
  refine ⟨fun full => ?_, fun some notAll => ?_, fun few => ?_⟩
  · rw [if_pos full, State.movePort_ports h]
  · rw [if_neg (by omega), if_pos some, State.movePort_ports h]
  · rw [if_neg (by omega), if_neg (by omega), State.onDev_dev, Device.logError_links, State.movePort_ports h]

theorem State.onPortEvent_of_lt {s : State} (h : s.ev.who < 8) (f : State → State) : s.onPortEvent f = .next (f s) :=
  if_neg (by omega)

/-- A fault on a port that carries traffic counts its replayed flits, and trains it again unless they passed on the replay (row 2). -/
theorem exec_portFault {s : State} (h : s.ev.who < 8) :
    exec .portFault s = .next (s.movePort s.ev.who fun p => if p.usable = false then p
      else if s.ev.sub = 1 then { p with retry := (p.retry + s.ev.val) % 2 ^ 16 } else { p with st := 1, lanes := 0, retry := (p.retry + s.ev.val) % 2 ^ 16 }) := by
  change execPortFault s = _
  rw [execPortFault, State.onPortEvent_of_lt h]
  congr 2
  funext p
  cases p.usable
  · rfl
  · by_cases passed : s.ev.sub = 1 <;> simp [passed]

/-- An event of a port that the part does not have names no agent. -/
theorem exec_portEvent_of_le {s : State} (h : 8 ≤ s.ev.who) (i : Instr) (hi : i ∈ [Instr.fpctlEn, .fpctlTrain, .portFault, .lockedSlot]) :
    exec i s = .fault (.noSuchAgent s.ev.who) := by
  simp only [List.mem_cons, List.not_mem_nil, or_false] at hi
  rcases hi with rfl | rfl | rfl | rfl
  all_goals exact if_pos h

theorem exec_trainingEnd_of_ne {s : State} (h : s.ev.who ≠ 8) :
    exec .trainingEnd s = s.onPortEvent fun s => s.portTrained s.ev.who s.ev.val s.ev.len := if_neg h

/-- The CXL link trains with the rails on: it carries CXL down to 32 GT/s and four lanes (R368). -/
theorem State.hostTrained_eq {s : State} (on : s.dev.away = false) (flit : Bool) (rate lanes : Nat) :
    s.hostTrained flit rate lanes = { s with dev := { s.dev with links := { s.dev.links with cxl :=
      if rate < 32 ∨ lanes < 4 then { st := 0, rate := 0, lanes := 0 } else { st := if flit then 2 else 1, rate := min rate 64, lanes := min lanes 8 } } } } := by
  have up : s.dev.power.st ≠ .off := by
    intro off
    simp [Device.away, off] at on
  exact if_neg (by simp [up, on])

/-- Training of the CXL link ends, with the link down or up (R368). -/
theorem exec_trainingEnd_cxl {s : State} (cxl : s.ev.who = 8) (on : s.dev.away = false) (l : HostLink)
    (down : s.ev.len < 32 ∨ s.ev.val < 4 → l = { st := 0, rate := 0, lanes := 0 })
    (up : 32 ≤ s.ev.len → 4 ≤ s.ev.val → l = { st := if s.ev.sub = 1 then 2 else 1, rate := min s.ev.len 64, lanes := min s.ev.val 8 }) :
    exec .trainingEnd s = .next { s with dev := { s.dev with links := { s.dev.links with cxl := l } } } := by
  have trained : exec .trainingEnd s = .next (s.hostTrained (s.ev.sub == 1) s.ev.len s.ev.val) := if_pos cxl
  rw [trained, State.hostTrained_eq on]
  by_cases h : s.ev.len < 32 ∨ s.ev.val < 4
  · rw [if_pos h, down h]
  · rw [if_neg h, up (by omega) (by omega)]
    simp only [beq_iff_eq]

/-- The slot of locked mode of a port, at its first period and after. -/
theorem State.slotBegins_eq (s : State) (k n j : Nat) (hj : j = s.dev.ref / 64) :
    (s.dev.ref % 64 ≠ 0 ∨ (s.dev.port k).slot = j + 1 → s.slotBegins k n = s) ∧
    (s.dev.ref % 64 = 0 → (s.dev.port k).slot ≠ j + 1 → ∀ u, u = ({ s with dev := s.dev.onPort k fun p => { p with slot := j + 1 } } : State) →
      s.slotBegins k n = u.carry k j (if bits (s.dev.port k).cls (2 * (j % 16)) 2 = 1 then 32 else n)) := by
  subst hj
  refine ⟨fun passed => if_pos passed, fun first fresh u hu => ?_⟩
  subst hu
  exact if_neg (by rintro (h | h) <;> contradiction)

/-- The slot of locked mode that REF has come to begins (R376). -/
theorem exec_lockedSlot {s : State} (port : s.ev.who < 8) (locked : s.dev.lockedMode = true) (now : s.dev.ref / 64 % 16 = s.ev.sub % 16)
    (fits : s.ev.len ≠ 0) : exec .lockedSlot s = .next (s.slotBegins s.ev.who s.ev.len) := by
  change execLockedSlot s = _
  rw [execLockedSlot, State.onPortEvent_of_lt port, if_pos ⟨locked, now⟩, if_neg fits]

/-- Another slot, or one outside locked mode, does not begin (R376). -/
theorem exec_lockedSlot_of_other {s : State} (port : s.ev.who < 8) (h : s.dev.lockedMode = false ∨ s.dev.ref / 64 % 16 ≠ s.ev.sub % 16) :
    exec .lockedSlot s = .next s := by
  change execLockedSlot s = _
  rw [execLockedSlot, State.onPortEvent_of_lt port, if_neg]
  rintro ⟨locked, now⟩
  simp [locked, now] at h

/-! ## Accesses of other agents in their turn (R276, R303, R369, R370, R372) -/

/-- An access that nothing holds back and that merges no row has its effect at once. -/
theorem State.inTurn_now {s : State} {write : Bool} {l : List (Nat × Nat)} (free : s.viewWaits write l = false)
    (whole : write = true → l.any s.mergesRow = false) (i : Instr) (e : Nat → Event) (f : State → State) : s.inTurn write 0 l i e f = f s := by
  unfold State.inTurn
  cases write
  · simp [free]
  · simp [free, whole rfl]

theorem exec_registerWrite (s : State) : exec .registerWrite s = .next ((s.regStore s.ev.addr s.ev.len s.ev.val).getD s) := rfl

/-- The next request of its stream, nothing in its way, performs and is answered (R372, R373). -/
theorem exec_fabricRequest {s u : State} {n : Nat} (fresh : s.ev.val = 0) (on : s.dev.away = false) (hn : n = s.ev.data.headD 0)
    (next : n = (assoc? s.dev.links.streams s.ev.who).getD 0)
    (hu : u = { s with dev := { s.dev with links := { s.dev.links with streams := assocSet s.dev.links.streams s.ev.who (n + 1) } } })
    (free : u.viewWaits (s.ev.sub != 0) (fabricRanges s.ev) = false) (whole : s.ev.sub ≠ 0 → (fabricRanges s.ev).any u.mergesRow = false)
    (r : Nat × Nat × State) (hr : r = u.fabricPerform s.ev.sub s.ev.addr s.ev.len s.ev.data.tail) :
    exec .fabricRequest s = .next { r.2.2 with dev := r.2.2.dev.respond s.ev.who n r.1 r.2.1 } := by
  have turn : exec .fabricRequest s = .next (u.fabricTurn s.ev) := by
    change execFabricRequest s = _
    subst hu hn
    simp [execFabricRequest, fresh, on, ← next, State.onDev]
  rw [turn, State.fabricTurn, fresh, State.inTurn_now free (fun write => whole (by simpa using write))]
  subst hr hn
  rfl

/-- A request of another number than its stream's next is discarded (R373). -/
theorem exec_fabricRequest_of_ne {s : State} (fresh : s.ev.val = 0) (h : s.ev.data.headD 0 ≠ (assoc? s.dev.links.streams s.ev.who).getD 0) :
    exec .fabricRequest s = .next s := by
  change execFabricRequest s = _
  simp only [execFabricRequest, fresh, ne_eq, not_true_eq_false, if_false]
  exact if_pos (.inr h)

/-- A host access over CXL.mem that reaches the part, nothing in its way, performs (R369). -/
theorem exec_hostCxlMemAccess {s : State} (reaches : s.dev.hostReaches = true) (fresh : s.ev.data.getD 1 0 = 0) (l : List (Nat × Nat))
    (hl : l = (if s.ev.sub = 1 then rangesOf (hostWrites (hdmLocal s.ev.addr) s.ev.len s.ev.val (s.ev.data.headD (2 ^ s.ev.len - 1)))
      else [(hdmLocal s.ev.addr, 8 * s.ev.len)]))
    (free : s.viewWaits (s.ev.sub == 1) l = false) (whole : s.ev.sub = 1 → l.any s.mergesRow = false) :
    exec .hostCxlMemAccess s =
      .next (s.hostAccess (s.ev.sub == 1) (s.ev.who == 1) s.ev.addr s.ev.len s.ev.val (s.ev.data.headD (2 ^ s.ev.len - 1))) := by
  subst hl
  change execHostCxlMemAccess s = _
  rw [execHostCxlMemAccess, if_neg (by simp [reaches]), State.hostTurn, fresh,
    State.inTurn_now free (fun write => whole (by simpa using write))]

/-- Without a CXL link a host access completes with no data (R369). -/
theorem exec_hostCxlMemAccess_of_not_reaches {s : State} (reaches : s.dev.hostReaches = false) (fresh : s.ev.data.getD 1 0 = 0) :
    exec .hostCxlMemAccess s = .next { s with dev := s.dev.toHost 13 2 s.ev.addr 0 } := by
  change execHostCxlMemAccess s = _
  rw [execHostCxlMemAccess, if_pos ⟨by simp [reaches], fresh⟩]
  rfl

theorem Device.hostReaches_iff (d : Device) : d.hostReaches = true ↔ d.away = false ∧ d.links.cxl.st = 2 := by
  simp [Device.hostReaches]

/-- A read of the host that no rule refuses answers with the bits (R369). The operation is unfolded before it has its operands, so that the kernel compares it as a function and does not evaluate the address. -/
theorem State.hostAccess_read {s : State} {o n : Nat} (allowed : s.physCause .host (s.dev.devId * 2 ^ 47 + hdmLocal o) (8 * n) = none)
    (clean : s.poisoned (hdmLocal o) (8 * n) = none) (v en : Nat) (u : State) (hu : u = s.readsLines (hdmLocal o) (8 * n)) :
    s.hostAccess false false o n v en = { u with dev := u.dev.toHost 13 0 o (s.physRead (hdmLocal o) (8 * n)) } := by
  obtain ⟨access, unfolded⟩ : ∃ f, f = State.hostAccess := ⟨_, rfl⟩
  rw [← unfolded]
  delta State.hostAccess at unfolded
  subst unfolded hu
  beta_reduce
  generalize hdmLocal o = a at *
  simp [allowed, clean, State.onDev, -Nat.reducePow]

/-- An address that no row of BAR0 holds is refused (R370). -/
theorem State.barAccess_unmapped (s : State) {b : Nat} (h : barLocal b = none) (write : Bool) (w v : Nat) :
    s.barAccess write b w v = { s with dev := s.dev.toHost 12 1 b 0 } := by
  simp [State.barAccess, h, State.onDev]

/-- With the link down an access of BAR0 completes without data (R370). -/
theorem State.barAccess_link_down {s : State} {b a : Nat} (h : barLocal b = some a) (down : s.dev.links.cxl.st = 0) (write : Bool) (w v : Nat) :
    s.barAccess write b w v = { s with dev := s.dev.toHost 12 2 b 0 } := by
  simp [State.barAccess, h, down, State.onDev]

/-- A frame for memory of the device, without a signal, is written, and its peer told so (R383). -/
theorem exec_transportReceive {s : State} (port : s.ev.who < 6) (on : s.dev.away = false)
    (inside : s.ev.len ≠ 0 → s.inDram s.ev.addr s.ev.len = true) (noSignal : s.ev.data.headD 0 = 0) :
    exec .transportReceive s = .next ((s.physWrite (physLocal s.ev.addr) s.ev.len s.ev.val).onDev fun d =>
      { d with outbox := d.outbox ++ [{ who := 16, sub := 0, addr := s.ev.addr, val := s.ev.who, len := s.ev.len, data := [] }] }) := by
  change execTransportReceive s = _
  unfold execTransportReceive
  rw [if_neg (by omega)]
  dsimp only
  rw [on, noSignal, if_neg (by simp), if_neg (by simpa using inside), if_pos rfl]

/-- An access of a firmware core that nothing holds back performs (R29). -/
theorem exec_firmwareCoreAccess {s : State} {write : Bool} (core : s.ev.who < 4) (data : s.ev.data = if write then [1] else [])
    (free : s.viewWaits write (if physDev s.ev.addr = s.dev.devId then [(physLocal s.ev.addr, s.ev.len)] else []) = false)
    (whole : write = true → (if physDev s.ev.addr = s.dev.devId then [(physLocal s.ev.addr, s.ev.len)] else []).any s.mergesRow = false) :
    exec .firmwareCoreAccess s = .next (s.fwAccess s.ev) := by
  change execFirmwareCoreAccess s = _
  rw [execFirmwareCoreAccess, State.onFwCore, if_neg (by omega)]
  have turn := State.inTurn_now free whole
  cases write <;> simp [data, turn]

/-- A load of a firmware core puts the bits in its register (R29). -/
theorem State.fwAccess_load {s t : State} {v : Nat} (data : s.ev.data = []) (read : s.fwRead s.ev.who s.ev.addr s.ev.len s.ev.val 1 = .ok (v, t)) :
    s.fwAccess s.ev = t.onFw s.ev.who fun c => c.put (s.ev.sub % 32) (word v) := by
  simp [State.fwAccess, data, read]

/-- A store of a firmware core does its write (R29). -/
theorem State.fwAccess_store {s t : State} (data : s.ev.data = [1]) (written : s.fwWrite s.ev.who s.ev.addr s.ev.len s.ev.val = .ok t) :
    s.fwAccess s.ev = t := by
  simp [State.fwAccess, data, written]

/-! ## Events of the timer and the management bus (R253 to R257, R407) -/

/-- REF at a deadline is the first period at which TNOW has reached it (R254). -/
theorem refAt_spec (v : Nat) : v ≤ refAt v * 5 / 6 ∧ (0 < refAt v → (refAt v - 1) * 5 / 6 < v) := by
  unfold refAt; omega

/-- The offset of a PTP message is a word of 32 bits in two's complement. -/
theorem sext_word32 (v : Nat) : sext (v % 2 ^ 32) 32 = (BitVec.ofNat 32 v).toInt := by
  unfold sext
  rw [BitVec.toInt_eq_toNat_cond, BitVec.toNat_ofNat]
  simp only [Nat.mod_mod]
  split <;> split <;> omega

theorem exec_heartbeatTick {s : State} (runs : s.dev.refRuns = true) : exec .heartbeatTick s = .next (s.refTo ((s.dev.ref / 1024 + 1) * 1024)) :=
  congrArg Host.Outcome.next (if_pos runs)

/-- The deadline of a context in waitt takes REF to the first period at which TNOW has reached it (R253). -/
theorem exec_waittDeadline {s : State} (ctx : s.ev.who < 512) (runs : s.dev.refRuns = true) (waiting : (s.ctxAt s.ev.who).st = .waiting)
    (time : (s.ctxAt s.ev.who).wait = .time) : exec .waittDeadline s = .next (s.refTo (refAt (s.ctxAt s.ev.who).waitVal.toNat)) := by
  change execWaittDeadline s = _
  rw [execWaittDeadline, if_neg (by omega)]
  exact congrArg Host.Outcome.next (if_pos ⟨runs, waiting, time⟩)

/-- A message that is not of the selected port, or with PTP off, does nothing (R384). -/
theorem exec_ptpMessage_of_other {s : State} (h : s.dev.links.ptpEn = false ∨ s.dev.links.ptpPort ≠ s.ev.who) : exec .ptpMessage s = .next s := by
  change execPtpMessage s = _
  exact if_pos (by simpa using h)

/-- A message of the selected port that measures keeps its offset and whether it is within 40 ns (R257). -/
theorem exec_ptpMessage {s : State} (en : s.dev.links.ptpEn = true) (port : s.dev.links.ptpPort = s.ev.who) (measures : s.ev.sub = 0) :
    exec .ptpMessage s = .next { s with dev := { s.dev with links := { s.dev.links with
      ptpOffset := s.ev.val % 2 ^ 32, ptpSync := decide ((BitVec.ofNat 32 s.ev.val).toInt.natAbs ≤ 40) } } } := by
  change execPtpMessage s = _
  simp [execPtpMessage, en, port, measures, sext_word32, State.onDev, -Nat.reducePow]

/-- REF is set forward, or the write is an error (R255). -/
theorem exec_tset (s : State) (v : Nat) (hv : v = s.ev.val % 2 ^ 64) :
    (s.dev.ref ≤ v → exec .tset s = .next (({ s with dev := { s.dev with refSet := true } } : State).refTo v)) ∧
    (v < s.dev.ref → exec .tset s = .next { s with dev := { s.dev with setErr := true } }) := by
  have write : exec .tset s = .next (s.writeTset v) := hv ▸ rfl
  rw [write]
  exact ⟨fun forward => congrArg Host.Outcome.next (if_pos forward), fun back => congrArg Host.Outcome.next (if_neg (by omega))⟩

/-- A quote is answered while the rails are on (R407). -/
theorem exec_quote {s : State} (on : s.dev.away = false) (l : List Nat)
    (hl : l = [s.ev.val % 2 ^ 256, s.dev.boot.romver, s.dev.boot.image.sha, s.dev.boot.configSha, s.dev.boot.fwver]) :
    exec .quote s = .next { s with
      free := s.free + 1
      dev := s.dev.answer 10 (Config.signature (Config.attestationKey Config.identitySeed) (quoteDigest l) (s.freshBits 512).1) l } := by
  subst hl
  exact if_neg (by simp [on])

/-- Settles O59: each event by the lemma about its unit's operation, in the order of the statement. -/
theorem busEventsComplete : Obligations.BusEventsComplete := by
  intro s
  refine ⟨fun t h => by rw [exec_registerWrite, h]; rfl,
    fun h => by rw [exec_registerWrite, h]; rfl,
    fun n u fresh on hn next hu free whole r hr => ⟨exec_fabricRequest fresh on hn next hu free whole r hr, ?stream⟩,
    fun _ _ _ _ _ => rfl,
    exec_fabricRequest_of_ne,
    s.dev.hostReaches_iff,
    exec_hostCxlMemAccess_of_not_reaches,
    fun a en l ha hen reaches fresh hl free whole => ?host,
    rfl,
    fun b v w unmapped => s.barAccess_unmapped unmapped w 64 v,
    fun b a v w mapped down => State.barAccess_link_down mapped down w 64 v,
    fun o n v en allowed clean => State.hostAccess_read allowed clean v en,
    fun port => ?ports,
    fun k n j => s.slotBegins_eq k n j,
    exec_portEvent_of_le,
    fun beyond => ?beyond,
    exec_trainingEnd_cxl,
    fun k p => State.movePort_ports,
    fun k good lat p h training t ht => ht ▸ State.portTrained_ports h training good lat,
    exec_heartbeatTick,
    s.refTo_ref,
    fun ctx runs waiting time => ⟨_, exec_waittDeadline ctx runs waiting time, refAt_spec _⟩,
    exec_tset s,
    exec_ptpMessage_of_other,
    exec_ptpMessage,
    rfl,
    fun on => congrArg Host.Outcome.next (if_neg on),
    fun on l hl => ⟨_, exec_quote on l hl⟩,
    fun away => if_pos away,
    fun port on inside noSignal => ⟨_, exec_transportReceive port on inside noSignal, rfl, rfl⟩,
    fun l hl => ⟨fun core data free v t read => ?load, fun t core data free whole written => ?store⟩⟩
  case stream =>
    subst hu
    exact assoc?_assocSet ..
  case host =>
    subst ha hen
    exact exec_hostCxlMemAccess reaches fresh l hl free whole
  case ports =>
    exact ⟨if_neg (by omega), if_neg (by omega), (exec_trainingEnd_of_ne (by omega)).trans (State.onPortEvent_of_lt port _), exec_portFault port,
      exec_lockedSlot port, exec_lockedSlot_of_other port⟩
  case beyond =>
    rw [exec_trainingEnd_of_ne (by omega)]
    exact if_pos (by omega)
  case load =>
    subst hl
    rw [exec_firmwareCoreAccess (write := false) core data free (by simp), State.fwAccess_load data read]
    rfl
  case store =>
    subst hl
    rw [exec_firmwareCoreAccess (write := true) core data free (fun _ => whole), State.fwAccess_store data written]

end Sys2Proof.Machine

/-! O14, O16, O17, O18: the loads, stores and atomics of the typed spaces, over laws of the parts they share with other slots. -/

namespace Sys2Proof.Machine

/-! ## Parts of a slot -/

/-- A slot that refuses after operands that owe no push raises on the state they left. -/
theorem runSlot_refuses {m : Act Unit} {s t : State} {c : Cause} {v : Word} (h : Stops m s (.raise c v) t []) :
    runSlot m s = .next (t.raised c v false) := by
  simpa using runSlot_raises h

/-- r is the outcome of a slot that goes on with m on s, having owed no push. -/
def Runs (r : Host.Outcome State Fault Refusal) (m : Act Unit) (s : State) : Prop :=
  (∀ t, Gives m s () t → r = .next t) ∧ ∀ c v t, Stops m s (.raise c v) t [] → r = .next (t.raised c v false)

theorem runs_runSlot (m : Act Unit) (s : State) : Runs (runSlot m s) m s :=
  ⟨fun _ => runSlot_gives, fun _ _ _ => runSlot_refuses⟩

/-- The slot goes on after a part that delivers and owes no push. -/
theorem Runs.after {α : Type} {r : Host.Outcome State Fault Refusal} {m : Act α} {f : α → Act Unit} {s t : State} {x : α}
    (run : Runs r (m >>= f) s) (h : Gives m s x t) (p : Plain m) : Runs r (f x) t :=
  ⟨fun u k => run.1 u (h.bind k), fun c v u k => run.2 c v u (h.stops p k)⟩

theorem Gives.of_true {α : Type} {m n : Act α} {s t : State} {x : α} {p : Prop} [Decidable p] (hp : p) (h : Gives m s x t) :
    Gives (if p then m else n) s x t := by rwa [if_pos hp]

theorem Gives.of_false {α : Type} {m n : Act α} {s t : State} {x : α} {p : Prop} [Decidable p] (hp : ¬ p) (h : Gives n s x t) :
    Gives (if p then m else n) s x t := by rwa [if_neg hp]

theorem Stops.of_true {α : Type} {m n : Act α} {s t : State} {e : Stop} {l : List Nat} {p : Prop} [Decidable p] (hp : p)
    (h : Stops m s e t l) : Stops (if p then m else n) s e t l := by rwa [if_pos hp]

/-- The slot goes on after an operand that only a compare and swap reads; for the others it is 0 (R179). -/
theorem Runs.afterCasOperand {op : Nat} {r : Host.Outcome State Fault Refusal} {m : Act Word} {f : Word → Act Unit} {s : State} {x : Word}
    (run : Runs r (if op = 7 then m >>= f else pure 0 >>= f) s) (h : Gives m s x s) (p : Plain m) :
    Runs r (f (if op = 7 then x else 0)) s := by
  by_cases cas : op = 7
  · rw [if_pos cas] at run ⊢
    exact run.after h p
  · rw [if_neg cas] at run ⊢
    exact run.after (gives_pure 0 s) (plain_pure 0)

theorem plain_readMask (i : Nat) : Plain (readMask i) := plain_get.bind fun _ => (plain_await _).bind fun _ => plain_pure _

theorem plain_readPred (g : Nat) : Plain (readPred g) := plain_get.bind fun _ => (plain_await _).bind fun _ => plain_pure _

theorem plain_readGuard (g : Nat) : Plain (readGuard g) :=
  (plain_readPred g).bind fun p => (plain_meet (f := fun o => { o with quiet := o.missing || !p }) fun _ => rfl).bind fun _ => plain_pure p

theorem plain_readyDest (d : Dest) : Plain (readyDest d) := plain_get.bind fun _ => plain_await _

/-- An effect staged before those of the rest of a slot. -/
theorem Gives.after_stage {α : Type} {e : Effect} {f : Unit → Act α} {s : State} {x : α} {l : List Effect}
    (h : Gives (f ()) (s.staged [e]) x ((s.staged [e]).staged l)) : Gives (stage e >>= f) s x (s.staged (e :: l)) := by
  rw [staged_staged] at h
  exact (gives_stage e s).bind h

/-- Effects staged one for each of some items. -/
theorem gives_forM_stage {ι : Type} (f : ι → Effect) (l : List ι) (s : State) :
    Gives (l.forM fun r => stage (f r)) s () (s.staged (l.map f)) := by
  induction l generalizing s with
  | nil =>
    rw [List.map_nil, staged_nil]
    exact gives_pure () s
  | cons x t ih => exact Gives.after_stage (ih _)

/-! ## Loads of a typed space (R168, R173, R175) -/

/-- A load whose ranges are ready names its cells and, with fe 2, empties its granules. -/
theorem gives_loadWaits {s : State} {sp : Space} {fe : Nat} {rs : List (Nat × Nat)} (ready : ∀ r ∈ rs, s.loadReady sp fe r.1 r.2) :
    Gives (loadWaits sp fe rs) s () (s.staged (.cells sp rs :: if fe = 2 then rs.map fun r => .clearFull r.1 r.2 else [])) := by
  have waits : (rs.all fun r => !s.mergePending sp r.1 r.2 && (fe == 0 || s.core.allFull r.1 r.2)) = true :=
    List.all_eq_true.mpr fun r hr => by
      obtain ⟨-, merge, full⟩ := ready r hr
      simpa [merge] using full
  have clean : (rs.findSome? fun r => s.core.poisoned sp r.1 r.2) = none :=
    List.findSome?_eq_none_iff.mpr fun r hr => (ready r hr).1
  have full : ¬ (fe ≠ 0 ∧ (!rs.all fun r => s.core.allFull r.1 r.2) = true) := by
    rintro ⟨used, empty⟩
    have all : (rs.all fun r => s.core.allFull r.1 r.2) = true :=
      List.all_eq_true.mpr fun r hr => (ready r hr).2.2.resolve_left used
    simp [all] at empty
  refine (gives_get s).bind ?_
  simp only [waits, clean, if_true]
  refine (gives_hold rfl s).bind ?_
  rw [if_neg full]
  refine Gives.after_stage ?_
  by_cases two : fe = 2
  · simp only [if_pos two]
    exact gives_forM_stage (fun r : Nat × Nat => .clearFull r.1 r.2) rs _
  · simpa only [if_neg two, staged_nil] using gives_pure () _

/-- Sign extension of a field as two's complement (R6). -/
theorem sext_eq_toInt (v n : Nat) : sext v n = (BitVec.ofNat n v).toInt := by
  unfold sext
  rw [BitVec.toInt_eq_toNat_cond, BitVec.toNat_ofNat]
  cases n with
  | zero => simp [Nat.mod_one]
  | succ n =>
    have half : 2 ^ (n + 1) = 2 * 2 ^ n := by rw [Nat.pow_succ, Nat.mul_comm]
    simp only [Nat.succ_ne_zero, if_false, Nat.add_sub_cancel]
    by_cases h : v % 2 ^ (n + 1) < 2 ^ n
    · rw [if_pos h, if_pos (by omega)]
    · rw [if_neg h, if_neg (by omega)]
      push_cast; rfl

theorem wordI_sext (v n : Nat) : wordI (sext v n) = (BitVec.ofNat n v).signExtend 64 := by
  rw [sext_eq_toInt]; rfl

/-- A scalar load that is ready delivers the bits at its address, extended (R175). -/
theorem loadLocal_stages {sp : Space} {signed : Bool} {wid : Fin 64} {d : Dst} {a : Src} {fe n : Nat} {s t u : State} {x v : Word}
    (hn : n = wid.val + 1) (ha : Gives (readS a) s x t) (hd : Gives (readyS d) t () t) (fits : x.toNat + n ≤ sp.size)
    (ready : t.loadReady sp fe x.toNat n) (hu : u = t.staged (.cells sp [(x.toNat, n)] :: if fe = 2 then [.clearFull x.toNat n] else []))
    (hv : v = if signed then (BitVec.ofNat n ((t.core.mem sp).readBits x.toNat n)).signExtend 64
      else BitVec.ofNat 64 ((t.core.mem sp).readBits x.toNat n)) :
    loadLocal sp signed wid d a fe s = u.stages [u.sOf d 6 v] := by
  have waits : Gives (loadWaits sp fe [(x.toNat, n)]) t () u := by
    rw [hu]
    exact gives_loadWaits (by simpa using ready)
  have core : u.core = t.core := hu ▸ rfl
  subst hn
  rw [← core, ← wordI_sext] at hv
  subst hv
  exact runSlot_gives (ha.bind (hd.bind ((gives_check (by simpa using fits) _ _ t).bind (waits.bind
    ((gives_get u).bind (gives_putS d 6 _ u))))))

/-- Settles O14: both loads are loadLocal, of the space and the fe that they name. -/
theorem scalarLocalLoads : Obligations.ScalarLocalLoads := by
  intro signed wid d a fe s t u x sp n v hn _ ha hd space fits ready hu hv
  constructor
  · rintro rfl
    exact loadLocal_stages hn ha hd fits ready hu hv
  · rintro rfl
    have noFe : fe.val = 0 := by simpa using space
    rw [noFe] at ready hu
    exact loadLocal_stages hn ha hd fits ready hu hv

/-! ## Stores to a typed space (R168, R175, R178) -/

/-- An access to a typed space of the slot at work, as a store of some bits. -/
def State.storeOf (s : State) (sp : Space) (writes : List BitWrite) (slow fill : Bool) : LocalAcc :=
  { slot := s.slot, left := if slow then 2 else 1, slow := slow, space := sp, writes := writes, setFull := fill, atomic := none,
    dest := .none, order := 0, bno := s.accNo, pc := s.bundle.pc }

/-- A store names the cells of its writes and is staged. -/
theorem gives_stageStore {writes : List BitWrite} (some : writes ≠ []) (sp : Space) (slow fill : Bool) (s : State) :
    Gives (stageStore sp writes slow fill) s ()
      (s.staged [.cells sp (writes.map fun x => (x.addr, x.width)), .store (s.storeOf sp writes slow fill)]) :=
  (gives_get s).bind (Gives.of_true some (Gives.after_stage (gives_stage _ _)))

/-- Without a write nothing is staged. -/
theorem gives_stageStore_nil (sp : Space) (slow fill : Bool) (s : State) : Gives (stageStore sp [] slow fill) s () s :=
  (gives_get s).bind (Gives.of_false (by simp) (gives_pure () s))

section
variable {fill : Bool} {wid : Fin 64} {v a : Src} {g : Fin 16} {s t u : State} {val x : Word} {sp : Space}
variable (hv : Gives (readS v) s val t) (ha : Gives (readS a) t x u) (hg : s.guardReady g.val)
include hv ha hg

/-- A scalar store under a false guard stages nothing beyond the pops of its operands (R80). -/
theorem storeLocal_of_false (off : s.ctx.regs.readP g.val = false) : storeLocal sp fill wid v a g s = u.stages [] := by
  rw [State.stages, staged_nil]
  exact runSlot_gives ((gives_readGuard hg).bind (hv.bind (ha.bind (Gives.of_false (by simp [off]) (gives_pure () u)))))

/-- A scalar store under a true guard, within its space, stages its bits (R175). -/
theorem storeLocal_stages (on : s.ctx.regs.readP g.val = true) (fits : x.toNat + (wid.val + 1) ≤ sp.size) {w : BitWrite}
    (hw : w = { addr := x.toNat, width := wid.val + 1, val := val.toNat }) :
    storeLocal sp fill wid v a g s = u.stages [.cells sp [(x.toNat, wid.val + 1)], .store (u.storeOf sp [w] (partialWords [w]) fill)] := by
  subst hw
  exact runSlot_gives ((gives_readGuard hg).bind (hv.bind (ha.bind (Gives.of_true on
    ((gives_check (by simpa using fits) _ _ u).bind (gives_stageStore (by simp) sp _ fill u))))))

/-- A scalar store under a true guard, out of its space, raises ILLEGAL-USE with its address (R175). -/
theorem storeLocal_refuses (on : s.ctx.regs.readP g.val = true) (out : sp.size < x.toNat + (wid.val + 1)) :
    storeLocal sp fill wid v a g s = .next (u.raised .illegalUse x false) :=
  runSlot_refuses ((gives_readGuard hg).stops (plain_readGuard _) (hv.stops (plain_readS v) (ha.stops (plain_readS a)
    (Stops.of_true on (stops_check (by simpa using out) _ _ u).bind))))

end

/-- Settles O16: both stores are storeLocal, by its guard and its range. -/
theorem scalarLocalStores : Obligations.ScalarLocalStores := by
  intro fill wid v a g s t u val x sp f r hv ha hg which
  obtain rfl : r = storeLocal sp f wid v a g s := by
    rcases which with ⟨rfl, rfl, rfl⟩ | ⟨rfl, rfl, rfl⟩
    · rfl
    · rfl
  exact ⟨storeLocal_of_false hv ha hg, fun on fits => ⟨_, rfl, storeLocal_stages hv ha hg on fits rfl⟩, storeLocal_refuses hv ha hg⟩

/-- The writes of some lanes, staged where there are any. -/
theorem gives_stageStore_map (lanes : List Nat) (f : Nat → BitWrite) (sp : Space) (contig fill : Bool) (s : State) :
    Gives (stageStore sp (lanes.map f) (if contig = true then partialWords (lanes.map f) else lanes.map f != []) fill) s ()
      (if lanes = [] then s else s.staged [.cells sp ((lanes.map f).map fun x => (x.addr, x.width)),
        .store (s.storeOf sp (lanes.map f) (!contig || partialWords (lanes.map f)) fill)]) := by
  by_cases empty : lanes = []
  · subst empty
    exact gives_stageStore_nil sp _ fill s
  · have some : lanes.map f ≠ [] := by simpa using empty
    have slow : (if contig = true then partialWords (lanes.map f) else lanes.map f != []) = (!contig || partialWords (lanes.map f)) := by
      cases contig <;> simp [empty]
    rw [if_neg empty, slow]
    exact gives_stageStore some sp _ fill s

/-- The width of an element of a vector store (R172, log 74). -/
def State.storeBits (s : State) (sp : Space) (e : Bool) (x : Word) : Nat :=
  if sp = .act ∧ x.toNat < Space.act.size then s.elemBits e x else bitsIn e

/-- The width as vstoreLocal chooses it. -/
theorem State.storeBits_eq (s : State) (sp : Space) (e : Bool) (x : Word) : s.storeBits sp e x =
    if (if sp = .act ∧ (!e) = true ∧ x.toNat < sp.size then s.core.widening x.toNat else 0) = 0 then laneBits e else 8 := by
  unfold State.storeBits State.elemBits
  by_cases act : sp = .act
  · subst act
    by_cases inside : x.toNat < Space.act.size
    · cases e
      · by_cases wide : s.core.widening x.toNat = 0 <;> simp [inside, wide, bitsIn, laneBits]
      · simp [inside, bitsIn, laneBits]
    · simp [inside, bitsIn, laneBits]
  · simp [act, bitsIn, laneBits]

/-- The write of lane i of a vector store: w bits at its address, from the low end of the lane. -/
def laneWrite (e : Bool) (v : Wide) (w : Nat) (addr : Nat → Int) (i : Nat) : BitWrite :=
  { addr := (addr i).toNat, width := w, val := v.toNat / 2 ^ (bitsIn e * i) % 2 ^ w }

section
variable {m : Fin 8} {v : Fin 32} {g : Fin 16} {s : State} {sp : Space} {e contig fill : Bool} {stride : Nat → Int} {x : Word}
variable {w : Nat} {lanes : List Nat} {addr : Nat → Int}
variable (hm : Gives (readMask m.val) s (s.ctx.regs.readM m.val) s) (hv : Gives (readVReg v.val) s (s.ctx.regs.readV v.val) s)
  (hg : s.guardReady g.val)
include hm hv hg

/-- A vector store under a false guard stages nothing (R80). -/
theorem gives_vstoreLocal_of_false (off : s.ctx.regs.readP g.val = false) :
    Gives (vstoreLocal sp e contig fill stride m v g x) s () s :=
  hm.bind (hv.bind ((gives_readGuard hg).bind ((gives_get s).bind (Gives.of_false (by simp [off]) (gives_pure () s)))))

variable (on : s.ctx.regs.readP g.val = true) (hw : s.storeBits sp e x = w)
  (hl : lanes = enabledLanes e (s.ctx.regs.readM m.val)) (ha : ∀ i, addr i = laneAddr x (stride w) i)
include on hw hl ha

/-- A vector store under a true guard with every enabled lane in range stages their writes, or nothing without one (R178). -/
theorem gives_vstoreLocal (fits : ∀ i ∈ lanes, 0 ≤ addr i ∧ addr i + w ≤ sp.size) {writes : List BitWrite}
    (hwr : writes = lanes.map (laneWrite e (s.ctx.regs.readV v.val) w addr)) :
    Gives (vstoreLocal sp e contig fill stride m v g x) s () (if lanes = [] then s else s.staged
      [.cells sp (writes.map fun x => (x.addr, x.width)), .store (s.storeOf sp writes (!contig || partialWords writes) fill)]) := by
  refine hm.bind (hv.bind ((gives_readGuard hg).bind ((gives_get s).bind (Gives.of_true on ?_))))
  have good : firstBadLane sp x (stride w) w lanes = none := by
    refine List.find?_eq_none.mpr fun i hi => ?_
    obtain ⟨low, high⟩ := fits i hi
    rw [ha] at low high
    simp [low, high]
  simp only [← State.storeBits_eq, hw, ← hl, good]
  obtain rfl : addr = laneAddr x (stride w) := funext ha
  subst hwr
  exact gives_stageStore_map lanes _ sp contig fill s

/-- A vector store under a true guard refuses with the address of its lowest enabled lane out of range (R178). -/
theorem stops_vstoreLocal {i : Nat} (bad : lanes.find? (fun i => decide (addr i < 0 ∨ (sp.size : Int) < addr i + w)) = some i) :
    Stops (vstoreLocal sp e contig fill stride m v g x) s (.raise .illegalUse (BitVec.ofInt 64 (addr i))) s [] := by
  refine hm.stops (plain_readMask _) (hv.stops (plain_readVReg _) ((gives_readGuard hg).stops (plain_readGuard _)
    ((gives_get s).stops plain_get (Stops.of_true on ?_))))
  have first : firstBadLane sp x (stride w) w lanes = some i := by
    simpa only [firstBadLane, ha, Bool.decide_or] using bad
  simp only [← State.storeBits_eq, hw, ← hl, first]
  rw [ha]
  exact stops_raise _ _ s

end

/-- Settles O17: the six stores are vstoreLocal after their address operands, each with its stride. -/
theorem vectorLocalStores : Obligations.VectorLocalStores := by
  intro m v a b e32 e g s x y sp fill contig w step r lanes addr writes ha hb hm hv hg which hw hl haddr hwr
  obtain ⟨stride, rfl, run⟩ : ∃ stride : Nat → Int, stride w = step ∧ Runs r (vstoreLocal sp e contig fill stride m v g x) s := by
    have first : ∀ f : Word → Act Unit, Runs (runSlot (readReg a.val >>= f) s) (f x) s :=
      fun f => (runs_runSlot _ s).after ha (plain_readReg _)
    have second : ∀ f : Word → Word → Act Unit, Runs (runSlot (readReg a.val >>= fun x => readReg b.val >>= f x) s) (f x y) s :=
      fun f => (first _).after hb (plain_readReg _)
    rcases which with ⟨rfl, rfl, rfl, rfl, rfl, rfl⟩ | ⟨rfl, rfl, rfl, rfl, rfl, rfl⟩ | ⟨rfl, rfl, rfl, rfl, rfl, rfl⟩ |
      ⟨rfl, rfl, rfl, rfl, rfl, rfl⟩ | ⟨rfl, rfl, rfl, rfl, rfl, rfl⟩ | ⟨rfl, rfl, rfl, rfl, rfl, rfl⟩
    · exact ⟨fun w => w, rfl, first _⟩
    · exact ⟨fun _ => y.toInt, rfl, second _⟩
    · exact ⟨fun _ => 1024, rfl, first _⟩
    · exact ⟨fun w => w, rfl, first _⟩
    · exact ⟨fun w => w, rfl, first _⟩
    · exact ⟨fun _ => y.toInt, rfl, second _⟩
  refine ⟨fun off => ?off, fun on fits => ?on, fun on i bad => ?out⟩
  case off => rw [State.stages, staged_nil]; exact run.1 _ (gives_vstoreLocal_of_false hm hv hg off)
  case on =>
    rw [run.1 _ (gives_vstoreLocal hm hv hg on hw.symm hl haddr fits hwr)]
    have left : (if (!contig || partialWords writes) = true then 2 else 1) = if contig = false ∨ partialWords writes = true then 2 else 1 :=
      if_congr (by simp) rfl rfl
    rw [State.storeOf, left, apply_ite Host.Outcome.next, State.stages, staged_nil]
    rfl
  case out => exact run.2 _ _ _ (stops_vstoreLocal hm hv hg on hw.symm hl haddr bad)

/-! ## Atomics on the activation scratch (R179) -/

theorem exec_localAtomic {op : Nat} (h : op < 8) (w ord : Fin 16) (d a : Fin 32) (g : Fin 16) (s : State) :
    exec (localAtomic w ord d a g op) s = atomicLocal op w ord d a g s := by
  interval_cases op <;> rfl

/-- The new value of a compare and swap, in w bits; 0 for the other atomics. -/
theorem casOperand_mod (op : Nat) (n : Word) (w : Nat) : (if op = 7 then n else 0).toNat % 2 ^ w = if op = 7 then n.toNat % 2 ^ w else 0 := by
  split <;> simp

/-- Settles O18: each of the eight is atomicLocal of its op, by its guard and its checks. -/
theorem localAtomics : Obligations.LocalAtomics := by
  rintro w ord d a g s op x addr n width - rfl hx ha hn hg hd hop i rfl
  rw [exec_localAtomic hop, ← casOperand_mod]
  have run := (((runs_runSlot _ s : Runs (atomicLocal op w ord d a g s) _ s).after hx (plain_readReg _)).after ha (plain_readReg _)).afterCasOperand
    hn (plain_readReg _)
  refine ⟨fun off => ?off, fun on => ⟨fun fits word => ?staged, fun bad => ?refused⟩⟩
  case off =>
    rw [State.stages, staged_nil]
    exact run.1 s ((gives_readGuard hg).bind ((gives_readyDest hd).bind (Gives.of_false (by simp [off]) (gives_pure () s))))
  case staged =>
    exact run.1 _ ((gives_readGuard hg).bind ((gives_readyDest hd).bind (Gives.of_true on ((gives_check (decide_eq_true fits) _ _ s).bind
      ((gives_check (beq_iff_eq.mpr word) _ _ s).bind ((gives_get s).bind (Gives.after_stage (gives_stage _ _))))))))
  case refused =>
    refine run.2 _ _ _ ((gives_readGuard hg).stops (plain_readGuard _) ((gives_readyDest hd).stops (plain_readyDest _) (Stops.of_true on ?_)))
    by_cases fits : addr.toNat + atomWidth w.val ≤ 2 ^ 24
    · exact (gives_check (decide_eq_true fits) _ _ s).stops (plain_check _ _ _)
        (stops_check (beq_eq_false_iff_ne.mpr (bad.resolve_left (by omega))) _ _ s).bind
    · exact (stops_check (decide_eq_false fits) _ _ s).bind

end Sys2Proof.Machine

/-! O20, O21: the accesses through handles, over laws of the address of a handle and of the global queues' entries. -/

namespace Sys2Proof.Machine

/-! ## The address of a handle (R176, R187) -/

/-- An access that passes the checks of its handle has its physical address. -/
theorem gives_gaddr {s : State} {h w : Nat} {off : Word} {right : HandleBits → Bool} (ok : s.handleOk h off w right) :
    Gives (gaddr h off w right) s (s.handleAddr h off) s := by
  obtain ⟨ready, usable, fits, may, allowed⟩ := ok
  refine (gives_get s).bind ((gives_await (by simp [ready]) s).bind ((gives_check usable _ _ s).bind
    ((gives_check (decide_eq_true fits) _ _ s).bind ((gives_check may _ _ s).bind ?_))))
  simp only [allowed]
  exact gives_pure _ s

theorem plain_gaddr (h : Nat) (off : Word) (w : Nat) (right : HandleBits → Bool) : Plain (gaddr h off w right) :=
  plain_get.bind fun s => (plain_await _).bind fun _ => (plain_check _ _ _).bind fun _ => (plain_check _ _ _).bind fun _ =>
    (plain_check _ _ _).bind fun _ => by
      dsimp only
      split
      · exact plain_throw _
      · exact plain_pure _

section
variable {s : State} {h w : Nat} {off : Word} {right : HandleBits → Bool} (ready : s.ctx.busy (.h h) = false)
include ready

/-- An unusable handle refuses with its number. -/
theorem stops_gaddr_unusable (bad : hUsable (s.ctx.regs.readH h) = false) :
    Stops (gaddr h off w right) s (.raise .invhandle (word h)) s [] :=
  (gives_get s).stops plain_get ((gives_await (by simp [ready]) s).stops (plain_await _) (stops_check bad _ _ s).bind)

variable (usable : hUsable (s.ctx.regs.readH h) = true)
include usable

/-- An access beyond the page refuses with the offset. -/
theorem stops_gaddr_bounds (beyond : hSize (s.ctx.regs.readH h) < off.toNat + w) :
    Stops (gaddr h off w right) s (.raise .bounds off) s [] :=
  (gives_get s).stops plain_get ((gives_await (by simp [ready]) s).stops (plain_await _)
    ((gives_check usable _ _ s).stops (plain_check _ _ _) (stops_check (decide_eq_false (by omega)) _ _ s).bind))

variable (fits : off.toNat + w ≤ hSize (s.ctx.regs.readH h))
include fits

/-- A handle without the right refuses with its number. -/
theorem stops_gaddr_right (may : right (s.ctx.regs.readH h) = false) :
    Stops (gaddr h off w right) s (.raise .invhandle (word h)) s [] :=
  (gives_get s).stops plain_get ((gives_await (by simp [ready]) s).stops (plain_await _) ((gives_check usable _ _ s).stops (plain_check _ _ _)
    ((gives_check (decide_eq_true fits) _ _ s).stops (plain_check _ _ _) (stops_check may _ _ s).bind)))

/-- A physical address that refuses a context refuses with itself. -/
theorem stops_gaddr_cause (may : right (s.ctx.regs.readH h) = true) {c : Cause} (refused : s.ctxCause (s.handleAddr h off) w = some c) :
    Stops (gaddr h off w right) s (.raise c (word (s.handleAddr h off))) s [] := by
  refine (gives_get s).stops plain_get ((gives_await (by simp [ready]) s).stops (plain_await _) ((gives_check usable _ _ s).stops (plain_check _ _ _)
    ((gives_check (decide_eq_true fits) _ _ s).stops (plain_check _ _ _) ((gives_check may _ _ s).stops (plain_check _ _ _) ?_))))
  simp only [State.handleAddr] at refused ⊢
  simp only [refused]
  exact stops_raise _ _ s

end

/-! ## An entry of the global queues (R261, R262, R413) -/

/-- The clks before an entry staged now may perform. -/
def State.reach (s : State) (a : Nat) : Nat := s.dev.reachCap s.coreNo a (3 + s.draw.1)

theorem six_le_clockOf (ratio step : Nat) : 6 ≤ clockOf ratio step := by
  unfold clockOf
  split <;> rcases step with _ | _ | _ | _ | n <;> simp

theorem Device.le_reachCap (d : Device) (n a : Nat) {left k : Nat} (hk : k ≤ 12) (h : k ≤ left) : k ≤ d.reachCap n a left := by
  have := six_le_clockOf (d.clusterOf n).ratio (d.clusterOf n).step
  unfold Device.reachCap
  split <;> omega

theorem State.three_le_reach (s : State) (a : Nat) : 3 ≤ s.reach a := s.dev.le_reachCap _ _ (by omega) (by omega)

/-- The kinds of entry that the sampler counts as writes (R198). -/
def GlobKind.samplesWrite : GlobKind → Bool
  | .load _ | .vload _ | .ringRead .. => false
  | _ => true

/-- A draw passes by the effects staged. -/
theorem drawn_staged (s : State) (l : List Effect) : (s.staged l).drawn = s.drawn.staged l := rfl

/-- A global access draws its delay and stages its entry and its sample. -/
theorem gives_stageGlob (kind : GlobKind) (a w : Nat) (writes : List BitWrite) (dest : Dest) (order h : Nat) (s : State) :
    Gives (stageGlob kind a w writes dest order h) s ()
      (s.drawn.staged (s.globOf kind a w writes dest order h (s.reach a) kind.samplesWrite)) := by
  have samples : (match kind with | .load _ | .vload _ | .ringRead .. => false | _ => true) = kind.samplesWrite := by cases kind <;> rfl
  rw [← samples]
  exact (gives_draw s).bind ((gives_get _).bind (Gives.after_stage (gives_stage _ _)))

/-- A load that is to push its value stages the push it fills, and then its entry. -/
theorem gives_pushGlob (kind : GlobKind) (a w h q : Nat) (s : State) :
    Gives (do
      let s ← get
      putPush q 0 0 0
      stageGlob kind a w [] (.ringAt q ((s.ctx.ring q).pushAddr (s.bundle.pushes q))) 0 h) s ()
      (s.drawn.staged (s.pushOf q 0 0 0 ::
        s.globOf kind a w [] (.ringAt q ((s.ctx.ring q).pushAddr (s.bundle.pushes q))) 0 h (s.reach a) kind.samplesWrite)) := by
  rw [← List.singleton_append, ← staged_staged, ← drawn_staged]
  exact (gives_get s).bind ((gives_putPush q 0 0 0 s).bind (gives_stageGlob kind a w [] _ 0 h _))

/-! ## Loads (R176, R177) -/

section
variable {signed : Bool} {wid : Fin 64} {h : Fin 16} {o : Fin 32} {s : State} {off : Word} (ho : Gives (readReg o.val) s off s)
include ho

theorem ldG_reg_stages {i : Fin 32} (ok : s.handleOk h.val off (wid.val + 1) hRd) (hd : Gives (readyS (.reg i)) s () s) :
    exec (.ldG signed wid (.reg i) h o) s = s.drawn.stages (s.globOf (.load signed) (s.handleAddr h.val off) (wid.val + 1) [] (.s i.val) 0
      h.val (s.reach (s.handleAddr h.val off)) false) :=
  runSlot_gives (ho.bind (hd.bind ((gives_gaddr ok).bind (gives_stageGlob _ _ _ _ _ _ _ s))))

theorem ldG_push_stages {q : Fin 16} (ok : s.handleOk h.val off (wid.val + 1) hRd) (hd : Gives (readyS (.push q)) s () s) :
    exec (.ldG signed wid (.push q) h o) s = s.drawn.stages (s.pushOf q.val 0 0 0 :: s.globOf (.load signed) (s.handleAddr h.val off)
      (wid.val + 1) [] (.ringAt q.val ((s.ctx.ring q.val).pushAddr (s.bundle.pushes q.val))) 0 h.val (s.reach (s.handleAddr h.val off)) false) :=
  runSlot_gives (ho.bind (hd.bind ((gives_gaddr ok).bind (gives_pushGlob _ _ _ _ _ s))))

end

section
variable {e32 : Bool} {h : Fin 16} {o : Src} {s t : State} {off : Word} (ho : Gives (readS o) s off t)
include ho

theorem vldG_reg_stages {i : Fin 32} (ok : t.handleOk h.val off 1024 hRd) (hd : Gives (readyV (.reg i)) t () t) :
    exec (.vldG e32 (.reg i) h o) s = t.drawn.stages (t.globOf (.vload e32) (t.handleAddr h.val off) 1024 [] (.v i.val) 0
      h.val (t.reach (t.handleAddr h.val off)) false) :=
  runSlot_gives (ho.bind (hd.bind ((gives_gaddr ok).bind (gives_stageGlob _ _ _ _ _ _ _ t))))

theorem vldG_push_stages {q : Fin 16} (ok : t.handleOk h.val off 1024 hRd) (hd : Gives (readyV (.push q)) t () t) :
    exec (.vldG e32 (.push q) h o) s = t.drawn.stages (t.pushOf q.val 0 0 0 :: t.globOf (.vload e32) (t.handleAddr h.val off)
      1024 [] (.ringAt q.val ((t.ctx.ring q.val).pushAddr (t.bundle.pushes q.val))) 0 h.val (t.reach (t.handleAddr h.val off)) false) :=
  runSlot_gives (ho.bind (hd.bind ((gives_gaddr ok).bind (gives_pushGlob _ _ _ _ _ t))))

end

/-! ## Stores (R176, R178) -/

section
variable {wid : Fin 64} {v o : Fin 32} {h g : Fin 16} {s : State} {off val : Word}
variable (hv : Gives (readReg v.val) s val s) (ho : Gives (readReg o.val) s off s) (hg : s.guardReady g.val)
include hv ho hg

theorem stG_of_false (no : s.ctx.regs.readP g.val = false) : exec (.stG wid v h o g) s = s.stages [] := by
  rw [State.stages, staged_nil]
  exact runSlot_gives (hv.bind (ho.bind ((gives_readGuard hg).bind (Gives.of_false (by simp [no]) (gives_pure () s)))))

theorem stG_stages (on : s.ctx.regs.readP g.val = true) (ok : s.handleOk h.val off (wid.val + 1) hWr) :
    exec (.stG wid v h o g) s = s.drawn.stages (s.globOf .store (s.handleAddr h.val off) (wid.val + 1)
      (splitLines [{ addr := s.handleAddr h.val off, width := wid.val + 1, val := val.toNat % 2 ^ (wid.val + 1) }]) .none 0 h.val
      (s.reach (s.handleAddr h.val off)) true) :=
  runSlot_gives (hv.bind (ho.bind ((gives_readGuard hg).bind (Gives.of_true on ((gives_gaddr ok).bind (gives_stageGlob _ _ _ _ _ _ _ s))))))

end

section
variable {m : Fin 8} {v o : Fin 32} {e32 : Bool} {h g : Fin 16} {s : State} {off mask : Word} {vec : Wide}
variable (ho : Gives (readReg o.val) s off s) (hm : Gives (readMask m.val) s mask s) (hv : Gives (readVReg v.val) s vec s)
  (hg : s.guardReady g.val) (ready : s.ctx.busy (.h h.val) = false)
include ho hm hv hg ready

theorem vstG_of_false (no : s.ctx.regs.readP g.val = false) : exec (.vstG m v e32 h o g) s = s.stages [] := by
  rw [State.stages, staged_nil]
  exact runSlot_gives (ho.bind (hm.bind (hv.bind ((gives_readGuard hg).bind ((gives_get s).bind ((gives_await (by simp [ready]) s).bind
    (Gives.of_false (by simp [no]) (gives_pure () s))))))))

/-- A vector store whose handle and enabled lanes pass their checks enters the store queue, unless no lane is enabled (R178). -/
theorem vstG_stages (on : s.ctx.regs.readP g.val = true) (usable : hUsable (s.ctx.regs.readH h.val) = true)
    (may : hWr (s.ctx.regs.readH h.val) = true) {lanes : List Nat} (hl : lanes = enabledLanes e32 mask)
    (ok : ∀ i ∈ lanes, off.toNat + i * bitsIn e32 + bitsIn e32 ≤ hSize (s.ctx.regs.readH h.val) ∧
      s.ctxCause (s.handleAddr h.val off + i * bitsIn e32) (bitsIn e32) = none) :
    exec (.vstG m v e32 h o g) s = if lanes = [] then s.stages [] else
      s.drawn.stages (s.globOf .store (s.handleAddr h.val off) 1024 (splitLines (lanes.map fun i =>
        { addr := s.handleAddr h.val off + i * bitsIn e32, width := bitsIn e32, val := vec.toNat / 2 ^ (bitsIn e32 * i) % 2 ^ bitsIn e32 }))
        .none 0 h.val (s.reach (s.handleAddr h.val off)) true) := by
  have inside : (lanes.find? fun i => decide (off.toNat + i * laneBits e32 + laneBits e32 > hSize (s.ctx.regs.readH h.val))) = none :=
    List.find?_eq_none.mpr fun i hi bad => Nat.not_lt.mpr (ok i hi).1 (of_decide_eq_true bad)
  have allowed : (lanes.findSome? fun i => (s.ctxCause (hBase (s.ctx.regs.readH h.val) + off.toNat + i * laneBits e32) (laneBits e32)).map
      fun c => (c, hBase (s.ctx.regs.readH h.val) + off.toNat + i * laneBits e32)) = none :=
    List.findSome?_eq_none_iff.mpr fun i hi => Option.map_eq_none_iff.mpr (ok i hi).2
  have run := (((((runs_runSlot _ s : Runs (exec (.vstG m v e32 h o g) s) _ s).after ho (plain_readReg _)).after hm (plain_readMask _)).after
    hv (plain_readVReg _)).after (gives_readGuard hg) (plain_readGuard _)).after (gives_get s) plain_get
  replace run := run.after (gives_await (by simp [ready]) s) (plain_await _)
  simp only [on, if_true] at run
  replace run := run.after (gives_check (by simp [usable, may]) _ _ s) (plain_check _ _ _)
  simp only [← hl, inside, allowed] at run
  by_cases empty : lanes = []
  · rw [if_pos empty, State.stages, staged_nil]
    exact run.1 s (Gives.of_false (by simp [empty]) (gives_pure () s))
  · rw [if_neg empty]
    exact run.1 _ (Gives.of_true empty (gives_stageGlob _ _ _ _ _ _ _ s))

end

/-- Settles O20: each access by its own lemma, with one delay for the address of the handle. -/
theorem globalLoadsAndStores : Obligations.GlobalLoadsAndStores := by
  intro signed e32 wid i q h o v ov m g s t off val mask vec
  refine ⟨s.reach (s.handleAddr h.val off), s.three_le_reach _, fun ho ok => ?load, fun ho => ?vectorLoad, fun hv ho hg => ?store,
    fun ho hm hv hg ready => ?vectorStore⟩
  case load => exact ⟨ldG_reg_stages ho ok, fun hd => ⟨_, rfl, ldG_push_stages ho ok hd⟩⟩
  case vectorLoad =>
    exact ⟨t.reach (t.handleAddr h.val off), t.three_le_reach _, fun ok =>
      ⟨vldG_reg_stages ho ok, fun hd => ⟨_, rfl, vldG_push_stages ho ok hd⟩⟩⟩
  case store => exact ⟨stG_of_false hv ho hg, stG_stages hv ho hg⟩
  case vectorStore =>
    exact ⟨vstG_of_false ho hm hv hg ready, fun on usable may lanes hl ok => vstG_stages ho hm hv hg ready on usable may hl ok⟩

/-! ## Atomics and cache maintenance (R179, R181) -/

theorem exec_globalAtomic {op : Nat} (hop : op < 8) (w ord h : Fin 16) (d : Fin 32) (g : Fin 16) (s : State) :
    exec (globalAtomic w ord h d g op) s = atomicGlobal op w ord h d g s := by
  interval_cases op <;> rfl

theorem exec_maintain (evict : Bool) (h : Fin 16) (a b : Src) (s : State) :
    exec (if evict then .inv h a b else .clean h a b) s = maintain evict h a b s := by
  cases evict <;> rfl

/-- Settles O21: each atomic is atomicGlobal of its op, clean and inv are maintain, by their checks. -/
theorem globalAtomicsAndMaintenance : Obligations.GlobalAtomicsAndMaintenance := by
  intro w ord h d g a b s t u op x off n len width
  refine ⟨?atomic, fun ha hb ready usable fits => ?maintenance⟩
  case atomic =>
    rintro - rfl hx ho hn hg hd hop i rfl
    rw [exec_globalAtomic hop, ← casOperand_mod]
    have run := (((runs_runSlot _ s : Runs (atomicGlobal op w ord h d g s) _ s).after hx (plain_readReg _)).after ho (plain_readReg _)).afterCasOperand
      hn (plain_readReg _)
    replace run := (run.after (gives_readGuard hg) (plain_readGuard _)).after (gives_readyDest hd) (plain_readyDest _)
    refine ⟨fun off => ?_, fun on ok => ⟨fun word => ⟨_, s.three_le_reach (s.handleAddr h.val off), ?_⟩, fun crosses => ?_⟩⟩
    · rw [State.stages, staged_nil]
      exact run.1 s (Gives.of_false (by simp [off]) (gives_pure () s))
    · exact run.1 _ (Gives.of_true on ((gives_gaddr ok).bind ((gives_check (beq_iff_eq.mpr word) _ _ s).bind (gives_stageGlob _ _ _ _ _ _ _ s))))
    · exact run.2 _ _ _ (Stops.of_true on ((gives_gaddr ok).stops (plain_gaddr _ _ _ _) (stops_check (beq_eq_false_iff_ne.mpr crosses) _ _ s).bind))
  case maintenance =>
    refine ⟨3 + u.draw.1, by omega, ?_⟩
    rintro evict acc rfl
    rw [exec_maintain]
    exact runSlot_gives (ha.bind (hb.bind ((gives_get u).bind ((gives_await (by simp [ready]) u).bind ((gives_check usable _ _ u).bind
      ((gives_check (decide_eq_true fits) _ _ u).bind ((gives_draw u).bind (gives_stage _ _))))))))

end Sys2Proof.Machine

/-! O19, O50: a store and an atomic at their bank, over the focus on the context at work, the cells a write names and the full bits it sets. -/

namespace Sys2Proof.Machine

/-! ## The context at work (R14) -/

theorem State.slot_lt (s : State) : s.slot < 2 := by unfold State.slot; split <;> omega

@[simp] theorem State.focusCore_self (s : State) : s.focusCore s.coreNo = s := if_pos rfl

@[simp] theorem State.focusSlot_self (s : State) : s.focusSlot s.slot = s := if_pos rfl

/-- To bring the context at work into focus changes nothing. -/
@[simp] theorem State.focus_self (s : State) : s.focus s.phys = s := by
  have := s.slot_lt
  rw [State.focus, State.phys, show (2 * s.coreNo + s.slot) / 2 = s.coreNo by omega, show (2 * s.coreNo + s.slot) % 2 = s.slot by omega,
    State.focusCore_self, State.focusSlot_self]

/-- A change of the context at work, made with it in focus. -/
theorem State.atCtx_onCtx (s : State) (f : Ctx → Ctx) : s.atCtx s.phys (fun t => t.onCtx f) = s.onCtx f := by
  rw [State.atCtx, State.focus_self]
  exact (s.onCtx f).focus_self

/-! ## Writes of a typed space (R36, R43, R171, R172) -/

theorem Core.poisoned_of_clean {c : Core} (clean : c.poison = []) (sp : Space) (a w : Nat) : c.poisoned sp a w = none := by
  simp [Core.poisoned, clean]

theorem Core.putAll_of_clean {c : Core} (clean : c.poison = []) (sp : Space) (l : List BitWrite) :
    c.putAll sp l = c.setMem sp ((c.mem sp).writeAll l) := by
  have : (c.setMem sp ((c.mem sp).writeAll l)).poison = [] := by cases sp <;> exact clean
  simp [Core.putAll, this]

/-- Under the turns that stand a write keeps its address. -/
theorem Core.placed_of_turns {c : Core} {turns : List Nat} (same : turns = [] ∨ turns = c.turns) (x : BitWrite) : c.placed turns x = [x] :=
  if_pos same

/-- A write within one unit of 16 bits goes to the cells that its address named under other turns (R172). -/
theorem Core.placed_of_unit {c : Core} {turns : List Nat} (some : turns ≠ []) (other : turns ≠ c.turns) {a w v : Nat} (pos : 0 < w)
    (unit : w ≤ 16 - a % 16) : c.placed turns { addr := a, width := w, val := v } =
      [{ addr := 8 * turnByte (turns.getD (a / 2 ^ 20) 0) (c.turns.getD (a / 2 ^ 20) 0) (a / 8) + a % 8, width := w, val := v % 2 ^ w }] := by
  have parts : unitParts (w / 16 + 2) a w v = [{ addr := a, width := w, val := v % 2 ^ w }] := by
    simp [unitParts, Nat.min_eq_left unit, Nat.ne_of_gt pos]
  rw [Core.placed, if_neg (not_or.mpr ⟨some, other⟩), parts]
  rfl

/-! ## Full bits (R173) -/

theorem mem_setAdd (l : List Nat) (k g : Nat) : g ∈ setAdd l k ↔ g = k ∨ g ∈ l := by
  induction l with
  | nil => simp [setAdd]
  | cons j t ih =>
    rw [setAdd]
    split
    · simp
    · split
      · rename_i same
        simp [same]
      · simp [ih, or_left_comm]

theorem mem_foldl_setAdd (f : Nat → Nat) (ks l : List Nat) (g : Nat) :
    g ∈ ks.foldl (fun l k => setAdd l (f k)) l ↔ g ∈ l ∨ ∃ k ∈ ks, g = f k := by
  induction ks generalizing l with
  | nil => simp
  | cons k t ih =>
    rw [List.foldl_cons, ih, mem_setAdd]
    simp only [List.mem_cons, exists_eq_or_imp]
    tauto

/-- The full bits set are those of the granules that hold a bit of the range. -/
theorem Core.mem_fill (c : Core) {a w : Nat} (pos : 0 < w) (g : Nat) :
    g ∈ (c.fill a w).full ↔ g ∈ c.full ∨ a / 128 ≤ g ∧ g ≤ (a + w - 1) / 128 := by
  rw [Core.fill, if_neg (by omega)]
  simp only [mem_foldl_setAdd, List.mem_range, granules]
  refine or_congr_right ⟨?_, fun ⟨low, high⟩ => ⟨g - a / 128, by omega, by omega⟩⟩
  rintro ⟨k, hk, rfl⟩
  omega

/-- Setting full bits changes nothing else. -/
theorem Core.fill_eq (c : Core) (a w : Nat) : c.fill a w = { c with full := (c.fill a w).full } := by
  unfold Core.fill; split <;> rfl

theorem Core.mem_of_fill (c : Core) (a w : Nat) (sp : Space) : (c.fill a w).mem sp = c.mem sp := by
  rw [Core.fill_eq]; cases sp <;> rfl

/-! ## A store of one write (R168) -/

section
variable {s : State} {x : LocalAcc} {b p : BitWrite} (store : x.atomic = none) (one : x.writes = [b]) (clean : s.core.poison = [])
  (cells : s.core.placed x.turns b = [p])
include store one clean cells

/-- A store performs: the bits of its write at the cells that it names, and with fill the full bits of its address. -/
theorem State.performLocal_store {k : Core} (hk : k = s.core.setMem x.space ((s.core.mem x.space).writeBits p.addr p.width p.val)) :
    s.performLocal x = { s with core := if x.setFull = true ∧ x.space = .act then k.fill b.addr b.width else k } := by
  simp [State.performLocal, store, one, cells, Core.putAll_of_clean clean, Memory.writeAll, State.onCore, hk]

/-- The space of a store holds its write. -/
theorem State.mem_performLocal_same (typed : x.space ≠ .glob) :
    (s.performLocal x).core.mem x.space = (s.core.mem x.space).writeBits p.addr p.width p.val := by
  rw [State.performLocal_store store one clean cells rfl]
  dsimp only
  split
  · rw [Core.mem_of_fill, Core.mem_setMem_same _ _ typed]
  · exact Core.mem_setMem_same _ _ typed

/-- A store leaves the other spaces. -/
theorem State.mem_performLocal_other {sp : Space} (h : sp ≠ x.space) : (s.performLocal x).core.mem sp = s.core.mem sp := by
  rw [State.performLocal_store store one clean cells rfl]
  dsimp only
  split
  · rw [Core.mem_of_fill, Core.mem_setMem_other _ _ h]
  · exact Core.mem_setMem_other _ _ h

/-- A store changes nothing but typed spaces and full bits. -/
theorem State.performLocal_frame {t : State} (ht : t = s.performLocal x) :
    t = { s with core := { s.core with act := t.core.act, stg := t.core.stg, imem := t.core.imem, full := t.core.full } } := by
  subst ht
  rw [State.performLocal_store store one clean cells rfl]
  split
  · rw [Core.fill_eq]
    cases x.space <;> rfl
  · cases x.space <;> rfl

/-- A store sets full bits only with fill, in the scratch. -/
theorem State.full_performLocal (h : x.setFull = false ∨ x.space ≠ .act) : (s.performLocal x).core.full = s.core.full := by
  rw [State.performLocal_store store one clean cells rfl, if_neg (by rintro ⟨fill, act⟩; simp_all)]
  cases x.space <;> rfl

/-- With fill a store in the scratch sets the full bits of the granules it touches (R173). -/
theorem State.mem_full_performLocal (fill : x.setFull = true) (act : x.space = .act) (pos : 0 < b.width) (g : Nat) :
    g ∈ (s.performLocal x).core.full ↔ g ∈ s.core.full ∨ b.addr / 128 ≤ g ∧ g ≤ (b.addr + b.width - 1) / 128 := by
  rw [State.performLocal_store store one clean cells rfl, if_pos ⟨fill, act⟩, Core.mem_fill _ pos, act]
  rfl

end

/-- Settles O50: the store writes the cells that its address names, and the memory's laws give what they hold. -/
theorem storesPerformAtTheirBank : Obligations.StoresPerformAtTheirBank := by
  rintro s t x a w v store one typed clean wf pos rfl
  refine ⟨fun some act other unit => ?turned, fun same => ?standing⟩
  case turned =>
    have written := State.mem_performLocal_same store one clean (Core.placed_of_unit some other pos unit) typed
    rw [act] at written wf
    rw [show (s.performLocal x).core.act = _ from written, Memory.readBits_writeBits_same _ _ _ wf, Nat.mod_mod]
  case standing =>
    have cells := Core.placed_of_turns same { addr := a, width := w, val := v }
    have written := State.mem_performLocal_same store one clean cells typed
    exact ⟨by rw [written, Memory.readBits_writeBits_same _ _ _ wf],
      fun b n apart => by rw [written, Memory.readBits_writeBits_other _ _ _ wf apart],
      fun sp other => State.mem_performLocal_other store one clean cells other,
      State.performLocal_frame store one clean cells rfl,
      State.full_performLocal store one clean cells,
      fun fill act => State.mem_full_performLocal store one clean cells fill act pos⟩

/-! ## An atomic (R42, R179) -/

theorem atomNew_lt {op w old v n z : Nat} (h : atomNew op w old v n = some z) (ho : old < 2 ^ w) (hv : v < 2 ^ w) (hn : n < 2 ^ w) : z < 2 ^ w := by
  unfold atomNew at h
  split at h
  case h_1 => cases h; exact Nat.mod_lt _ (by positivity)
  case h_2 => cases h; exact Nat.and_lt_two_pow _ hv
  case h_3 => cases h; exact Nat.or_lt_two_pow ho hv
  case h_4 => cases h; exact Nat.xor_lt_two_pow ho hv
  case h_5 => cases h; exact lt_of_le_of_lt (Nat.min_le_left ..) ho
  case h_6 => cases h; exact max_lt ho hv
  case h_7 => cases h; exact hv
  case h_8 => split at h <;> cases h; exact hn

/-- An atomic on one word of the scratch writes the new value, if there is one, and gives the old value. -/
theorem Core.atomicAt_eq {c : Core} {x : LocalAcc} {b : BitWrite} (act : x.space = .act) (clean : c.poison = []) (cells : c.placed x.turns b = [b])
    (op v n : Nat) : c.atomicAt x b op v n =
      ({ c with act := (atomNew op b.width (c.act.readBits b.addr b.width) v n).elim c.act fun z => c.act.writeBits b.addr b.width (z % 2 ^ b.width) },
        c.act.readBits b.addr b.width) := by
  have old : (c.mem .act).gather [b] = c.act.readBits b.addr b.width := by simp [Memory.gather, Core.mem]
  unfold Core.atomicAt
  rw [act, cells]
  dsimp only
  rw [old]
  cases atomNew op b.width (c.act.readBits b.addr b.width) v n with
  | none => rfl
  | some z =>
    change (c.putAll .act (scatter z [b]), c.act.readBits b.addr b.width) = _
    rw [Core.putAll_of_clean clean]
    rfl

section
variable {c : Core} {x : LocalAcc} {b : BitWrite} {op v n : Nat} (act : x.space = .act) (clean : c.poison = []) (cells : c.placed x.turns b = [b])
  (wf : c.act.wf = true)
include act clean cells wf

/-- The word of an atomic holds the new value, or the old one where there is none. -/
theorem Core.readBits_atomicAt (hv : v < 2 ^ b.width) (hn : n < 2 ^ b.width) : (c.atomicAt x b op v n).1.act.readBits b.addr b.width =
    (atomNew op b.width (c.act.readBits b.addr b.width) v n).getD (c.act.readBits b.addr b.width) := by
  rw [Core.atomicAt_eq act clean cells]
  cases new : atomNew op b.width (c.act.readBits b.addr b.width) v n with
  | none => rfl
  | some z =>
    have := atomNew_lt new (Nat.mod_lt _ (by positivity)) hv hn
    simp [Memory.readBits_writeBits_same _ _ _ wf, Nat.mod_eq_of_lt this]

/-- An atomic changes no bit apart from its word. -/
theorem Core.readBits_atomicAt_other {k : Nat} (apart : k + 1 ≤ b.addr ∨ b.addr + b.width ≤ k) :
    (c.atomicAt x b op v n).1.act.readBits k 1 = c.act.readBits k 1 := by
  rw [Core.atomicAt_eq act clean cells]
  cases atomNew op b.width (c.act.readBits b.addr b.width) v n with
  | none => rfl
  | some z => exact Memory.readBits_writeBits_other _ _ _ wf apart

end

/-- An atomic of the context at work performs: its word changes, and the old value is on its way to its destination. -/
theorem State.performLocal_atomic {s : State} {x : LocalAcc} {b : BitWrite} {op v n : Nat} (atomic : x.atomic = some (op, v, n)) (one : x.writes = [b])
    (own : x.slot = s.slot) (clean : s.core.poison = []) :
    s.performLocal x = { s with
      core := (s.core.atomicAt x b op v n).1
      ctx := { s.ctx with
        awaits := s.ctx.awaits.erase x.dest
        pend := s.ctx.pend ++ [{ dest := x.dest, val := (s.core.atomicAt x b op v n).2, addr := 0, left := 1, inter := 1, flags := 0,
                                 pc := x.pc, bno := x.bno }] } } := by
  have good : ((s.core.placed x.turns b).findSome? fun p => s.core.poisoned x.space p.addr p.width) = none :=
    List.findSome?_eq_none_iff.mpr fun p _ => Core.poisoned_of_clean clean ..
  unfold State.performLocal
  simp only [atomic, one, good, own]
  exact State.atCtx_onCtx { s with core := (s.core.atomicAt x b op v n).1 } _

/-- Settles O19: performLocal_atomic, with the value of atomNew in the word. -/
theorem atomicsPerformAtTheirBank : Obligations.AtomicsPerformAtTheirBank := by
  rintro s t x op v n a w old atomic one act own clean wf pos hv hn hop same rfl rfl
  have cells := Core.placed_of_turns same { addr := a, width := w, val := 0 }
  rw [State.performLocal_atomic atomic one own clean]
  refine ⟨(Core.readBits_atomicAt act clean cells wf hv hn).trans ?value, fun b apart => Core.readBits_atomicAt_other act clean cells wf apart, ?_, ?_⟩
  case value =>
    obtain rfl | other : op = 7 ∨ op < 7 := by omega
    · change (if _ = v then some n else none).getD _ = if _ = v then n else _
      split <;> rfl
    · interval_cases op <;> rfl
  all_goals rw [Core.atomicAt_eq act clean cells]

end Sys2Proof.Machine

/-! O56: the events of landing and performing, each by the operation of its unit, and what those operations do with one result, one access or one response. -/

namespace Sys2Proof.Machine

/-! ## Events -/

/-- A merge that finds no ECC error is that of the stores which may perform (R41). -/
theorem exec_globalWriteMerge {s : State} (who : s.ev.who < 512) (clean : s.ev.val = 0) :
    exec .globalWriteMerge s = .next (s.atCtx s.ev.who fun t => t.globSome fun a => !a.isLoad) := by
  change execGlobalWriteMerge s = _
  rw [execGlobalWriteMerge, if_neg (by omega), clean]
  rfl

/-- A read that corrects no ECC error is that of the loads which may perform (R259). -/
theorem exec_globalLoadPerform {s : State} (who : s.ev.who < 512) (clean : s.ev.val ≠ 2) :
    exec .globalLoadPerform s = .next (s.atCtx s.ev.who fun t => t.globSome GlobAcc.isLoad) := by
  change execGlobalLoadPerform s = _
  rw [execGlobalLoadPerform, if_neg (by omega), if_neg clean]
  rfl

theorem exec_fabricResponse_of_nil {s : State} (who : s.ev.who < 512) (answer : s.ev.data = []) :
    exec .fabricResponse s = .next (s.atCtx s.ev.who fun t => t.globResponse s.ev.sub s.ev.len s.ev.val) := by
  change execFabricResponse s = _
  unfold execFabricResponse
  rw [answer]
  exact if_neg (by omega)

theorem exec_remoteRequestTimeout_of_nil {s : State} (who : s.ev.who < 512) (request : s.ev.data = []) :
    exec .remoteRequestTimeout s = .next (s.atCtx s.ev.who fun t => t.globResponse s.ev.sub Cause.unmapped.code 0) := by
  change execRemoteRequestTimeout s = _
  unfold execRemoteRequestTimeout
  rw [request]
  exact if_neg (by omega)

theorem exec_localAccessPerform {s : State} (who : s.ev.who < 256) (clean : s.ev.val = 0) :
    exec .localAccessPerform s = .next (s.atCore s.ev.who fun t => t.core.bankOrder.foldl State.localsOf t) := by
  change execLocalAccessPerform s = _
  rw [execLocalAccessPerform, if_neg (by omega), clean]
  congr 2
  funext t
  exact ite_self _

/-- An event of a context that the part does not have names no agent. -/
theorem exec_ctxEvent_of_le {s : State} (h : 512 ≤ s.ev.who) (i : Instr)
    (hi : i ∈ [Instr.resultLand, .lateWriteLand, .globalWriteMerge, .globalLoadPerform, .ringReadAhead]) : exec i s = .fault (.noSuchAgent s.ev.who) := by
  simp only [List.mem_cons, List.not_mem_nil, or_false] at hi
  rcases hi with rfl | rfl | rfl | rfl | rfl
  all_goals exact if_pos h

/-- An event of a core that the part does not have names no agent. -/
theorem exec_coreEvent_of_le {s : State} (h : 256 ≤ s.ev.who) (i : Instr)
    (hi : i ∈ [Instr.localAccessPerform, .pushPerform, .binitPerform, .barrierArrival, .backgroundWalk]) : exec i s = .fault (.noSuchAgent s.ev.who) := by
  simp only [List.mem_cons, List.not_mem_nil, or_false] at hi
  rcases hi with rfl | rfl | rfl | rfl | rfl
  all_goals exact if_pos h

/-! ## Results (R84) -/

theorem foldl_landResult_pend (l : List Pending) (s : State) : (l.foldl State.landResult s).ctx.pend = s.ctx.pend :=
  foldl_keeps (fun s : State => s.ctx.pend) State.landResult_pend l s

/-- Landing leaves exactly the results whose clk has not come. -/
theorem State.landDue_pend (s : State) : s.landDue.ctx.pend = s.ctx.pend.filter (fun p => p.left != 0) :=
  foldl_landResult_pend _ _

/-- The one result that is due lands. -/
theorem State.landDue_one {s : State} {p : Pending} (due : s.ctx.pend.filter (fun p => p.left == 0) = [p]) :
    s.landDue = ({ s with ctx := { s.ctx with pend := s.ctx.pend.filter fun p => p.left != 0 } } : State).landResult p := by
  rw [State.landDue, due]
  rfl

/-! ## Local accesses and barriers (R168, R244, R249) -/

/-- A lone local access that is due performs. -/
theorem State.localsOf_one {s : State} {x : LocalAcc} (one : s.core.locals = [x]) (due : x.left = 0) (store : x.push = none)
    (free : s.releaseWaits x = false) :
    s.localsOf x.slot = ({ s with core := { s.core with locals := [] } } : State).performLocal x := by
  simp [State.localsOf, State.localsIn, one, due, store, free, State.onCore]

/-- A lone barrier operation that is due performs. -/
theorem State.barEach_one {s : State} {o : BarOp} {sel : BarOp → Bool} (chosen : sel o = true) (due : o.left = 0) (order : o.order = 0) :
    s.barEach sel [] [o] = (s.barPerform o).onCore fun c => { c with barOps := [] } := by
  have may : s.barMay [] o = true := by simp [State.barMay, due, order, ordRelease]
  simp [State.barEach, chosen, may]

/-! ## Global memory (R41, R259) -/

/-- A lone entry whose clk has come, for memory of the device and behind no mark or older local access, performs. -/
theorem State.globSome_one {s : State} {a : GlobAcc} {sel : GlobAcc → Bool} (one : s.ctx.gq = [a]) (due : a.left = 0) (here : a.sent = false)
    (unmarked : s.ctx.marked a.bno = false) (first : s.olderLocal a.bno = false) (atomic : a.isAtomic = false) (chosen : sel a = true) :
    s.globSome sel = s.globPerform [] a := by
  have may : s.mayPerform [] a = true := by simp [State.mayPerform, one, due, here, unmarked, first, atomic]
  simp [State.globSome, State.globEach, one, chosen, may]

/-- A load that one line holds, in local memory, without poison, reads its bits (R259). -/
theorem State.globRead_one {s : State} {a : GlobAcc} {i : Nat} (one : s.ctx.gq = [a]) (load : a.kind = .load false) (dest : a.dest = .s i) (got : a.got = 0)
    (gotBits : a.gotBits = 0) (line : a.width ≤ 512 - a.addr % 512) (allowed : s.ctxCause a.addr a.width = none) (clean : s.dev.poison = []) :
    s.globRead [] a = { s with dev := s.dev.useLine (physLocal a.addr / 512), ctx := { s.ctx with
      gq := []
      pend := s.ctx.pend ++ [{ dest := .s i, val := s.physRead (physLocal a.addr) a.width, addr := 0, left := 1, inter := 1, flags := 0,
                               pc := a.pc, bno := a.bno }] } } := by
  have met : ∀ m, s.poisonMet a.addr a.width m = none := fun m => by simp [State.poisonMet, clean]
  simp [State.globRead, Nat.min_eq_left line, allowed, met, State.globDone, load, dest, got, gotBits, one, overlay, forwards, Ctx.leave, Ctx.comesBack,
    State.onCtx, State.onDev]

/-- A store of one write merges and leaves its queue (R41). -/
theorem State.globWrite_one {s : State} {a : GlobAcc} {x : BitWrite} (one : s.ctx.gq = [a]) (store : a.kind = .store) (write : a.writes = [x]) :
    s.globWrite a = { s with ctx := { s.ctx with gq := [] }, dev := s.dev.putMasked [x] } := by
  simp [State.globWrite, write, State.globWritten, store, one, Ctx.leave, State.onCtx, State.onDev]

/-- The memory after one write on local memory. -/
theorem Device.putMasked_mem (d : Device) {x : BitWrite} (pos : 0 < x.width) :
    (d.putMasked [x]).mem = d.mem.writeBits (physLocal x.addr) x.width x.val := by
  have put : (d.putMasked [x]).mem = (d.put (physLocal x.addr) x.width x.val).mem := by
    unfold Device.putMasked
    dsimp only
    split <;> rfl
  rw [put, Device.put_mem, if_neg (by omega)]

/-- A load of local memory performs by reading its line. -/
theorem State.globPerform_load {s : State} {a : GlobAcc} (load : a.kind = .load false) (own : physDev a.addr = s.dev.devId) :
    s.globPerform [] a = s.globRead [] a := by
  simp [State.globPerform, load, own]

/-- A store on local memory performs by merging its line. -/
theorem State.globPerform_store {s : State} {a : GlobAcc} (store : a.kind = .store) (own : physDev a.addr = s.dev.devId) :
    s.globPerform [] a = s.globWrite a := by
  simp [State.globPerform, store, own]

/-! ## Rings (R211, R213) -/

/-- A READ ring of a typed space, with room, without full bits or poison, gets its next element (R211). -/
theorem State.readAhead_typed {s : State} {q : Nat} {r : Ring} {a : Word} (hr : r = s.ctx.ring q)
    (ha : a = r.addrAt (r.window.length + s.ctx.readsOf q)) (mode : r.mode = 2) (room : r.window.length + s.ctx.readsOf q < r.depth)
    (addr : r.addrCause q a = none) (typed : r.spaceNo < 2) (fe : r.fe = 0) (clean : s.core.poison = []) :
    s.readAhead q = { s with ctx := { s.ctx with rings := s.ctx.rings.set q { r with
      window := r.window ++ [{ val := (s.core.mem (spaceOf r.spaceNo)).readBits a.toNat r.size, addr := a.toNat, cause := none }] } } } := by
  subst hr ha
  simp [State.readAhead, mode, Nat.not_le.mpr room, addr, Nat.ne_of_lt typed, fe, Core.poisoned_of_clean clean, Ctx.windowGets, State.onCtx]

theorem spaceOf_ne_glob {n : Nat} (h : n < 2) : spaceOf n ≠ .glob := by
  interval_cases n <;> decide

/-- What a push of a scalar element writes (R209). -/
theorem Ring.written_of_scalar {r : Ring} (scalar : r.elem = 0) (c : Core) (addr v : Nat) :
    r.written c addr v = { addr := addr, width := r.size, val := v % 2 ^ r.size } := by
  simp [Ring.written, Ring.asWritten, scalar]

theorem State.performPush_mem (s : State) (q : Nat) (w : RingWrite) (sp : Space) : (s.performPush q w).core.mem sp =
    (s.core.putAll (spaceOf (s.ctx.ring q).spaceNo) [(s.ctx.ring q).written s.core w.addr w.val]).mem sp := by
  unfold State.performPush
  dsimp only [State.onCtx_core, State.onCore_core]
  split
  · exact Core.mem_of_fill ..
  · rfl

/-- A push that performs leaves its buffer and counts in a FIFO (R213, R214). -/
theorem State.performPush_ring {s : State} {q : Nat} (w : RingWrite) (bound : q < s.ctx.rings.length) : (s.performPush q w).ctx.ring q =
    { s.ctx.ring q with
      buf := (s.ctx.ring q).buf.filter fun x => x.seq != w.seq
      count := if (s.ctx.ring q).mode = 1 then (s.ctx.ring q).count + 1 else (s.ctx.ring q).count } := by
  simp [State.performPush, Ctx.ring, bound]

/-! ## Responses (R374) -/

section
variable {s : State} {a : GlobAcc} (one : s.ctx.gq = [a]) (sent : a.sent = true) (load : a.kind = .load false)
include one sent load

/-- The response to a lone load brings its value. -/
theorem State.globResponse_value (fwd : a.fwd = []) {i : Nat} (dest : a.dest = .s i) (v : Nat) :
    s.globResponse a.id 0 v = { s with ctx := { s.ctx with
      gq := []
      pend := s.ctx.pend ++ [{ dest := .s i, val := v % 2 ^ a.width, addr := 0, left := 1, inter := 1, flags := 0, pc := a.pc, bno := a.bno }] } } := by
  simp [State.globResponse, one, sent, load, fwd, overlay, State.globDone, dest, Ctx.leave, Ctx.comesBack, State.onCtx]

/-- The refusal of a load whose context has left the slot stops none. -/
theorem State.globResponse_orphan (orphan : a.orphan = true) (v : Nat) :
    s.globResponse a.id Cause.unmapped.code v = { s with ctx := { s.ctx with gq := [] } } := by
  simp [State.globResponse, one, sent, GlobAcc.isLoad, load, Cause.code, State.globRefused, orphan, Ctx.leave, State.onCtx]

/-- The refusal of a load is a fault of its context, for its next bundle boundary. -/
theorem State.globResponse_refusal (none : s.ctx.gfault = none) (own : a.orphan = false) (v : Nat) :
    s.globResponse a.id Cause.unmapped.code v =
      { s with ctx := { s.ctx with gq := [], gfault := some (.unmapped, BitVec.ofNat 64 a.addr, a.pc, a.slots) } } := by
  simp [State.globResponse, one, sent, GlobAcc.isLoad, load, Cause.code, State.globRefused, own, Ctx.leave, State.onCtx, refusalOf, Ctx.lateFault, none,
    word]

end

/-- Settles O56: each event and each operation by its lemma, in the order of the statement. -/
theorem landingAndPerforming : Obligations.LandingAndPerforming := by
  intro s
  refine ⟨fun who => ⟨if_neg (by omega), if_neg (by omega), exec_globalWriteMerge who, exec_globalLoadPerform who, if_neg (by omega),
      fun nil => ⟨exec_fabricResponse_of_nil who nil, exec_remoteRequestTimeout_of_nil who nil⟩⟩,
    exec_ctxEvent_of_le,
    fun who => ⟨exec_localAccessPerform who, if_neg (by omega), if_neg (by omega), if_neg (by omega), if_neg (by omega)⟩,
    exec_coreEvent_of_le,
    fun who => if_neg (by omega),
    s.landDue_pend,
    fun p due => State.landDue_one due,
    fun x k one due slot store free => slot ▸ State.localsOf_one one due store free,
    fun o _ due order f hf => hf ▸ ⟨fun init => ?binit, fun init => ?arrival⟩,
    fun a one due here own unmarked first => ⟨fun i load dest got gotBits _ line allowed clean => ?load, fun x store write => ?store⟩,
    fun d x wf pos => ?merge,
    fun q r a hr ha mode room addr typed fe clean => State.readAhead_typed hr ha mode room addr typed fe clean,
    fun q w r bound hr scalar typed pos clean wf t ht => ?push,
    fun a v one sent fwd load i dest => ⟨State.globResponse_value one sent load fwd dest v, fun orphan => State.globResponse_orphan one sent load orphan v,
      fun none own => State.globResponse_refusal one sent load none own v⟩⟩
  case binit =>
    rw [State.barEach_one init due order, State.barPerform, if_pos init]
  case arrival =>
    rw [State.barEach_one (by simp [init]) due order, State.barPerform, if_neg (by simp [init])]
  case load =>
    rw [State.globSome_one one due here unmarked first (by simp [GlobAcc.isAtomic, load]) (by simp [GlobAcc.isLoad, load]),
      State.globPerform_load load own, State.globRead_one one load dest got gotBits line allowed clean]
  case store =>
    rw [State.globSome_one one due here unmarked first (by simp [GlobAcc.isAtomic, store]) (by simp [GlobAcc.isLoad, store]),
      State.globPerform_store store own, State.globWrite_one one store write]
  case merge =>
    rw [d.putMasked_mem pos]
    exact ⟨Memory.readBits_writeBits_same _ _ _ wf, fun b n apart => Memory.readBits_writeBits_other _ _ _ wf apart⟩
  case push =>
    subst ht hr
    refine ⟨?_, State.performPush_ring w bound, rfl⟩
    rw [State.performPush_mem, Ring.written_of_scalar scalar, Core.mem_putAll_same _ _ (spaceOf_ne_glob typed), Memory.writeAll, Memory.writeAll,
      Memory.readBits_writeBits_same _ _ _ wf, Nat.mod_mod]

end Sys2Proof.Machine

/-! O7: the slots that check their operands, each by the check that fails first. -/

namespace Sys2Proof.Machine

/-! ## Pointers (R157 to R163) -/

/-- A pointer slot whose result does not fit raises ILLEGAL-USE, with the push that it owes. -/
theorem pointer2_refuses {f : Word → Word → Except Word Word} {d : Dst} {a b : Src} {s t u : State} {x y v : Word} (ha : Gives (readS a) s x t)
    (hb : Gives (readS b) t y u) (hd : Gives (readyS d) u () u) (bad : f x y = .error v) :
    pointer2 f d a b s = .next ((u.owePushes (Dst.rings d)).raised .illegalUse v false) := by
  have refused : Stops (match f x y with | .ok v => putS d 1 v | .error v => raise .illegalUse v) u (.raise .illegalUse v) u [] := by
    rw [bad]
    exact stops_raise _ _ u
  have owing := (owes_readyS hd).stops (f := fun _ => _) refused
  rw [List.append_nil] at owing
  exact runSlot_raises (ha.stops (plain_readS a) (hb.stops (plain_readS b) owing))

/-- A result that does not fit has the TVAL of its rule. -/
theorem orTval_error {r : Option Word} {w v : Word} (h : orTval r w = .error v) : v = w := by
  cases r <;> cases h; rfl

theorem ptrAdd_error {p : Stride} {x y v : Word} (h : ptrAdd p x y = .error v) : v = y := orTval_error h

theorem ptrRec_error {p : Stride} {x y v : Word} (h : ptrRec p x y = .error v) : v = y := orTval_error h

theorem ptrDif_error {p : Stride} {x y v : Word} (h : ptrDif p x y = .error v) :
    v = if p.l = 0 then x - y else BitVec.ofInt 64 (curR x - curR y) := by
  have plain : wordI (x.toInt - y.toInt) = x - y := by
    refine BitVec.eq_of_toInt_eq ?_
    rw [wordI, BitVec.toInt_ofInt, BitVec.toInt_sub]
  unfold ptrDif at h
  split at h
  case isTrue l =>
    rw [if_pos l, ← plain]
    dsimp only at h
    split at h
    · exact orTval_error h
    · cases h; rfl
  case isFalse l =>
    rw [if_neg l]
    dsimp only at h
    split at h
    · exact orTval_error h
    · cases h; rfl

theorem ptrIdx_error {p : Stride} {x y v : Word} (h : ptrIdx p x y = .error v) : v = y := by
  unfold ptrIdx at h
  split at h
  · cases h; rfl
  · exact orTval_error h

theorem ptrAlign_error {p : Stride} {x y v : Word} (h : ptrAlign p x y = .error v) : v = x := by
  unfold ptrAlign at h
  dsimp only at h
  split at h
  · cases h; rfl
  · split at h
    · exact orTval_error h
    · split at h
      all_goals
        split at h
        all_goals exact orTval_error h

theorem ptrClass_error {p : Stride} {x y v : Word} (h : ptrClass p x y = .error v) : v = y := by
  unfold ptrClass at h
  split at h
  · cases h; rfl
  · split at h <;> cases h
    rfl

/-- The one bits among the low n bits, as the places that hold them. -/
theorem popCount_eq (n x : Nat) : popCount n x = ((List.range n).filter fun k => x.testBit k).length := by
  induction n generalizing x with
  | zero => rfl
  | succ n ih =>
    rw [popCount, ih, List.range_succ_eq_map, List.filter_cons, List.filter_map, Nat.testBit_zero]
    rcases Nat.mod_two_eq_zero_or_one x with even | odd
    · simp [even, Function.comp_def, Nat.testBit_succ]
    · simp [odd, Function.comp_def, Nat.testBit_succ, Nat.add_comm]

theorem mkPlain_of_le {n : Int} (h : 2 ^ 63 ≤ n) : mkPlain n = none := if_neg (by omega)

/-- pidx of a record with a bitmap that is too long, or that ends beyond the address space, refuses with the bitmap (R159). -/
theorem bitmapIdx_error {x y : Word} {n : Int} (hn : n = x.toInt + 42 + 4 * ((List.range (y.toNat / 2 ^ 32)).filter fun k => y.getLsbD k).length)
    (bad : 2 ^ 37 ≤ y.toNat ∨ 2 ^ 63 ≤ n) : bitmapIdx x y = .error y := by
  have wide := y.isLt
  unfold bitmapIdx
  by_cases long : bits y.toNat 37 27 ≠ 0
  · rw [if_pos long]
  · have short : y.toNat < 2 ^ 37 := by unfold bits at long; omega
    have index : bits y.toNat 32 5 = y.toNat / 2 ^ 32 := by unfold bits; omega
    have place : x.toInt + ((42 + 4 * popCount (bits y.toNat 32 5) y.toNat : Nat) : Int) = n := by
      rw [index, popCount_eq, hn]
      push_cast
      exact (Int.add_assoc ..).symm
    rw [if_neg long, place, mkPlain_of_le (bad.resolve_left (by omega))]
    rfl

/-- prec of a record with a bitmap of more than 32 bits, or that ends beyond the address space, refuses with the bitmap (R160). -/
theorem bitmapRec_error {x y : Word} {n : Int} (hn : n = x.toInt + 42 + 4 * ((List.range 32).filter fun k => y.getLsbD k).length)
    (bad : 2 ^ 32 ≤ y.toNat ∨ 2 ^ 63 ≤ n) : bitmapRec x y = .error y := by
  have wide := y.isLt
  unfold bitmapRec
  by_cases long : bits y.toNat 32 32 ≠ 0
  · rw [if_pos long]
  · have short : y.toNat < 2 ^ 32 := by unfold bits at long; omega
    have next : x.toInt + ((42 + 4 * popCount 32 y.toNat : Nat) : Int) = n := by
      rw [popCount_eq, hn]
      push_cast
      exact (Int.add_assoc ..).symm
    rw [if_neg long, next, mkPlain_of_le (bad.resolve_left (by omega))]
    rfl

/-! ## LOOP (R137) -/

section
variable {s : State} {safe : Bool} {len : Fin 64} {n : Word}

/-- A malformed bundle of the body refuses first. -/
theorem stops_enterLoop_frame (frame : frameBody s.core.imem s.ctx.code s.bundle.next (len.val + 1) = none) :
    Stops (enterLoop safe len n.toNat) s (.raise .bundle 0) s [] := by
  refine (gives_get s).stops plain_get ?_
  simp only [frame]
  exact stops_raise _ _ s

variable {stop : Nat} (frame : frameBody s.core.imem s.ctx.code s.bundle.next (len.val + 1) = some stop)
include frame

/-- A count of 2^32 or more refuses with itself. -/
theorem stops_enterLoop_count (many : 2 ^ 32 ≤ n.toNat) : Stops (enterLoop safe len n.toNat) s (.raise .illegalUse n) s [] := by
  refine (gives_get s).stops plain_get ?_
  simp only [frame, word_toNat]
  exact (stops_check (decide_eq_false (by omega)) _ _ s).bind

variable (few : n.toNat < 2 ^ 32)
include few

/-- A seventh level refuses. -/
theorem stops_enterLoop_depth (deep : 6 ≤ s.ctx.loops.levels.length) : Stops (enterLoop safe len n.toNat) s (.raise .illegalUse 6) s [] := by
  refine (gives_get s).stops plain_get ?_
  simp only [frame]
  exact (gives_check (decide_eq_true few) _ _ s).stops (plain_check _ _ _) (stops_check (decide_eq_false (by omega)) _ _ s).bind

variable (flat : s.ctx.loops.levels.length < 6)
include flat

/-- A body that ends beyond the innermost active one refuses with its end. -/
theorem stops_enterLoop_body {l : Level} (inner : s.ctx.loops.levels.getLast? = some l) (beyond : l.stop < stop) :
    Stops (enterLoop safe len n.toNat) s (.raise .illegalUse (word stop)) s [] := by
  refine (gives_get s).stops plain_get ?_
  simp only [frame, inner]
  exact (gives_check (decide_eq_true few) _ _ s).stops (plain_check _ _ _) ((gives_check (decide_eq_true flat) _ _ s).stops (plain_check _ _ _)
    (stops_check (decide_eq_false (by omega)) _ _ s).bind)

/-- A body longer than the claim refuses with its length. -/
theorem stops_enterLoop_claim (within : ∀ l, s.ctx.loops.levels.getLast? = some l → stop ≤ l.stop) (long : s.ctx.claims.loopBuf < len.val + 1) :
    Stops (enterLoop safe len n.toNat) s (.raise .illegalUse (word (len.val + 1))) s [] := by
  refine (gives_get s).stops plain_get ?_
  simp only [frame]
  refine (gives_check (decide_eq_true few) _ _ s).stops (plain_check _ _ _) ((gives_check (decide_eq_true flat) _ _ s).stops (plain_check _ _ _)
    ((gives_check ?_ _ _ s).stops (plain_check _ _ _) (stops_check (decide_eq_false (by omega)) _ _ s).bind))
  cases inner : s.ctx.loops.levels.getLast? with
  | none => rfl
  | some l => exact decide_eq_true (within l inner)

end

/-! ## The other checks -/

section
variable {s : State}

/-- tret outside a handler raises ILLEGAL-USE (R124). -/
theorem tret_refuses (out : s.ctx.inh = false) : exec .tret s = .next (s.raised .illegalUse 0 false) :=
  runSlot_refuses ((gives_get s).stops plain_get (stops_check out _ _ s).bind)

/-- lbrk of a level that is not active raises ILLEGAL-USE (R141). -/
theorem lbrk_refuses {level : Fin 8} (inactive : s.ctx.loops.levels.length ≤ level.val) :
    exec (.lbrk level) s = .next (s.raised .illegalUse (word level.val) false) :=
  runSlot_refuses ((gives_get s).stops plain_get (stops_check (decide_eq_false (by omega)) _ _ s).bind)

/-- cwr of a reserved rounding mode raises ILLEGAL-USE with the value (R127). -/
theorem cwr_frm_refuses {r : Fin 32} (ready : s.ctx.busy (.s r.val) = false) (reserved : (s.ctx.regs.readS r.val).toNat % 8 ∈ [6, 7]) :
    exec (.cwr 2 r) s = .next (s.raised .illegalUse (s.ctx.regs.readS r.val) false) := by
  have refused : cregRefuses 2 (s.ctx.regs.readS r.val) = true := by
    simpa [cregRefuses, bits] using reserved
  exact runSlot_refuses ((gives_readReg ready).stops (plain_readReg _) (stops_check (by simp [refused]) _ _ s).bind)

/-- wre of a value that is no multiple of 64 below 4,096 raises ILLEGAL-USE with the value (R149). -/
theorem wre_refuses {t : State} {k : Fin 8} {a : Src} {x : Word} (ha : Gives (readS a) s x t) (ready : t.ctx.busyWrite (.e k.val) = false)
    (bad : ¬ (x.toNat % 64 = 0 ∧ x.toNat < 4096)) : exec (.wre k a) s = .next (t.raised .illegalUse x false) :=
  runSlot_refuses (ha.stops (plain_readS a) ((gives_readyDest ready).stops (plain_readyDest _) (stops_check (by simpa using bad) _ _ t).bind))

end

/-- Settles O7: each slot by the lemma about its first failing check. -/
theorem slotsRaiseInOrder : Obligations.SlotsRaiseInOrder := by
  refine ⟨fun s t u a b d r k x y v f wid level => ⟨wre_refuses, fun ha hb hd => ?pointers, tret_refuses, lbrk_refuses, cwr_frm_refuses⟩,
    fun s t len count a n r which => ?loops, fun signed wid h i v o g s off val w hv right r ho ready hw hhv which => ?handles⟩
  case pointers =>
    have refuses : ∀ {g v}, g x y = .error v → pointer2 g d a b s = _ := fun bad => pointer2_refuses ha hb hd bad
    refine ⟨fun e => ⟨refuses e, ptrAdd_error e⟩, fun e => ⟨refuses e, ptrAdd_error e⟩, fun e => ⟨refuses e, ptrDif_error e⟩,
      fun e => ⟨refuses e, ptrDif_error e⟩, fun z e => ⟨?_, ptrIdx_error e⟩, fun z e => ⟨?_, ptrRec_error e⟩,
      fun n hn bad => refuses (bitmapIdx_error hn bad), fun n hn bad => refuses (bitmapRec_error hn bad),
      fun e => ⟨refuses e, ptrAlign_error e⟩, fun e => ⟨refuses e, ptrClass_error e⟩⟩
    · change pointer2 _ d a b s = _
      rw [if_neg z]
      exact refuses e
    · change pointer2 _ d a b s = _
      rw [if_neg z]
      exact refuses e
  case loops =>
    obtain ⟨safe, run⟩ : ∃ safe, Runs r (enterLoop safe len n.toNat) t := by
      rcases which with ⟨rfl, hn, rfl | rfl⟩ | ⟨ha, rfl | rfl⟩
      · exact ⟨false, hn ▸ runs_runSlot _ t⟩
      · exact ⟨true, hn ▸ runs_runSlot _ t⟩
      · exact ⟨false, (runs_runSlot _ s).after ha (plain_readS a)⟩
      · exact ⟨true, (runs_runSlot _ s).after ha (plain_readS a)⟩
    exact ⟨fun frame => run.2 _ _ _ (stops_enterLoop_frame frame), fun stop frame => ⟨fun many => run.2 _ _ _ (stops_enterLoop_count frame many),
      fun few => ⟨fun deep => run.2 _ _ _ (stops_enterLoop_depth frame few deep), fun flat =>
        ⟨fun l inner beyond => run.2 _ _ _ (stops_enterLoop_body frame few flat inner beyond),
          fun within long => run.2 _ _ _ (stops_enterLoop_claim frame few flat within long)⟩⟩⟩⟩
  case handles =>
    obtain ⟨f, run⟩ : ∃ f, Runs r (gaddr h.val off w right >>= f) s := by
      subst hw
      rcases which with ⟨rfl, rfl, hd⟩ | ⟨rfl, rfl, hval, hg, on⟩
      · have run := ((runs_runSlot _ s : Runs (exec (.ldG signed wid (.reg i) h o) s) _ s).after ho (plain_readReg _)).after hd (plain_readyDest _)
        exact ⟨_, run⟩
      · have run := (((runs_runSlot _ s : Runs (exec (.stG wid v h o g) s) _ s).after hval (plain_readReg _)).after ho (plain_readReg _)).after
          (gives_readGuard hg) (plain_readGuard _)
        simp only [on, if_true] at run
        exact ⟨_, run⟩
    subst hhv
    exact ⟨fun bad => run.2 _ _ _ (stops_gaddr_unusable ready bad).bind,
      fun usable beyond => run.2 _ _ _ (stops_gaddr_bounds ready usable beyond).bind,
      fun usable fits may => run.2 _ _ _ (stops_gaddr_right ready usable fits may).bind,
      fun usable fits may c refused => run.2 _ _ _ (stops_gaddr_cause ready usable fits may refused).bind⟩

end Sys2Proof.Machine

/-! O40: where a result lands, and what it leaves. -/

namespace Sys2Proof.Machine

/-! ## Results that land in registers (R84, R129, R149, R188) -/

/-- A destination whose register takes the value as it comes: every register but a handle, which a revocation may mark (R188). -/
def Dest.isPlainReg : Dest → Bool
  | .s _ | .v _ | .pair _ | .preds | .b .. | .m _ | .e _ => true
  | _ => false

/-- The state once the flags of a result have landed (R54). -/
def State.withFlagsOf (s : State) (p : Pending) : State := if p.flags = 0 then s else s.onCtx fun c => c.landFlags p.flags p.pc

theorem State.withFlagsOf_noFlags (s : State) {p : Pending} (h : p.flags = 0) : s.withFlagsOf p = s := if_pos h

/-- A result for a register other than a handle lands its flags and writes that register. -/
theorem State.landResult_plainReg (s : State) {p : Pending} (h : p.dest.isPlainReg = true) :
    s.landResult p = (s.withFlagsOf p).onCtx fun c => { c with regs := c.regs.land p.dest p.val } := by
  obtain ⟨dest, val, addr, left, inter, flags, pc⟩ := p
  cases dest
  case s | v | pair | preds | b | m | e => rfl
  case none | h | ring | ringAt | bits => cases h

/-- A result for a handle register lands its flags and writes the handle, DOOMED where its page is being revoked (Table 9.5 row 1). -/
theorem State.landResult_handle (s : State) {p : Pending} {i : Nat} (h : p.dest = .h i) :
    s.landResult p = (s.withFlagsOf p).onCtx fun c =>
      { c with regs := c.regs.land (.h i) ((s.withFlagsOf p).dev.landHandle (BitVec.ofNat 256 p.val)).toNat } := by
  obtain ⟨dest, val, addr, left, inter, flags, pc⟩ := p
  cases h
  rfl

theorem Device.landHandle_of_keeps {d : Device} {h : HandleBits} (keeps : hState h ≠ 1 ∨ d.revoked h = false) : d.landHandle h = h :=
  if_neg fun ⟨valid, revoked⟩ => by
    rcases keeps with other | free
    · exact other valid
    · exact absurd revoked (by simp [free])

theorem Device.landHandle_of_revoked {d : Device} {h : HandleBits} (valid : hState h = 1) (revoked : d.revoked h = true) :
    d.landHandle h = hSetState h 2 := if_pos ⟨valid, revoked⟩

@[simp] theorem Ctx.landFlags_fflags (c : Ctx) (fl pc : Nat) : (c.landFlags fl pc).fp.fflags = c.fp.fflags ||| BitVec.ofNat 5 fl := by
  unfold Ctx.landFlags
  dsimp only
  split
  · rfl
  · split <;> rfl

/-- The flags of a result join FFLAGS, and no flags leave it as it is (R54). -/
theorem State.withFlagsOf_fflags (s : State) (p : Pending) :
    (s.withFlagsOf p).ctx.fp.fflags = s.ctx.fp.fflags ||| BitVec.ofNat 5 p.flags := by
  unfold State.withFlagsOf
  split
  case isTrue none => simp [none]
  case isFalse => exact Ctx.landFlags_fflags ..

/-- Settles O40: the value lands by Regs.land, a handle after landHandle, and the flags by landFlags. -/
theorem resultsLandInTheirRegisters : Obligations.ResultsLandInTheirRegisters := by
  rintro s p r lands rfl hl
  have plain : ∀ d u, d.isPlainReg = true → s.ctx.regs.land d p.val = u → lands d u := by
    rintro d _ reg rfl
    refine (hl d _).mpr fun noFlags hd => ?_
    subst hd
    rw [s.landResult_plainReg reg, s.withFlagsOf_noFlags noFlags]
    rfl
  have handle : ∀ i h, s.dev.landHandle (BitVec.ofNat 256 p.val) = h → lands (.h i) { s.ctx.regs with h := s.ctx.regs.h.set i h } := by
    rintro i _ rfl
    refine (hl _ _).mpr fun noFlags hd => ?_
    rw [s.landResult_handle hd, s.withFlagsOf_noFlags noFlags]
    simp [State.onCtx, Regs.land]
  refine ⟨plain _ _ rfl rfl, fun i hi => plain _ _ rfl (if_neg hi), fun i => plain _ _ rfl rfl, plain _ _ rfl rfl,
    fun k hk => plain _ _ rfl (if_neg hk), plain _ _ rfl rfl, fun i byPbr => plain _ _ rfl rfl, fun i => plain _ _ rfl rfl,
    fun i => plain _ _ rfl rfl, ?kept, ?doomed, ?flags, rfl, rfl, rfl, fun i hi => if_neg hi, fun k hk => ?pred⟩
  case kept =>
    rintro i _ rfl keeps
    exact handle i _ (Device.landHandle_of_keeps keeps)
  case doomed =>
    rintro i _ rfl valid revoked
    exact handle i _ (Device.landHandle_of_revoked valid revoked)
  case flags =>
    rintro ⟨i, hd⟩
    have reg : p.dest.isPlainReg = true := by rcases hd with hd | hd | hd <;> rw [hd] <;> rfl
    rw [s.landResult_plainReg reg]
    exact s.withFlagsOf_fflags p
  case pred => simp [Regs.readP, show k ≠ 0 by omega, show k ≠ 1 by omega]

end Sys2Proof.Machine

/-! O12: the control registers, over one equation of a write of any of them. -/

namespace Sys2Proof.Machine

/-! ## Control registers (R126, R127) -/

/-- crd stages the register as it stands, interlocked (R126). -/
theorem crd_stages {s : State} {d : Fin 32} {creg : Fin 4096} (ready : s.ctx.busyWrite (.s d.val) = false)
    (settled : creg.val = 0 → s.ctx.flagsPending = false) :
    exec (.crd d creg) s = s.drawn.stages [s.resultOf (.s d.val) (s.draw.1 + 1) 1 (s.readCreg creg.val).toNat 0] := by
  have goes : (creg.val != 0 || !s.ctx.flagsPending) = true := by
    by_cases zero : creg.val = 0
    · simp [settled zero]
    · simp [zero]
  exact runSlot_gives ((gives_readyDest ready).bind ((gives_get s).bind ((gives_hold goes s).bind ((gives_draw s).bind
    (gives_putInter _ _ _ _ _)))))

/-- A control register refuses a value exactly where it is FRM and the value a reserved mode (R127). -/
theorem cregRefuses_iff (n : Nat) (v : Word) : cregRefuses n v = true ↔ n = 2 ∧ 6 ≤ v.toNat % 8 := by
  simp only [cregRefuses, bits, Bool.and_eq_true, Bool.or_eq_true, beq_iff_eq]
  omega

/-- cwr of a value its register takes stages the write (R127). -/
theorem cwr_stages {s : State} {a : Fin 32} {creg : Fin 4096} (ready : s.ctx.busy (.s a.val) = false)
    (taken : creg.val = 2 → (s.ctx.regs.readS a.val).toNat % 8 < 6) :
    exec (.cwr creg a) s = s.stages [.cwr creg.val (s.ctx.regs.readS a.val)] := by
  have ok : (!cregRefuses creg.val (s.ctx.regs.readS a.val)) = true := by
    rw [Bool.not_eq_true', ← Bool.not_eq_true, cregRefuses_iff]
    rintro ⟨frm, reserved⟩
    exact absurd (taken frm) (by omega)
  exact runSlot_gives ((gives_readReg ready).bind ((gives_check ok _ _ s).bind (gives_stage _ s)))

/-- A write of a control register, field by field (R127). -/
theorem Ctx.writeCreg_eq (c : Ctx) (n : Nat) (v : Word) : c.writeCreg n v = { c with
    fp := {
      fflags := if n = 0x000 then BitVec.ofNat 5 v.toNat else c.fp.fflags
      fmask := if n = 0x001 then BitVec.ofNat 5 v.toNat else c.fp.fmask
      frm := if n = 0x002 then BitVec.ofNat 3 v.toNat else c.fp.frm
      seed := if n = 0x003 then v else c.fp.seed
      sctr := if n = 0x004 then v else c.fp.sctr }
    tr := { c.tr with
      tvec := if n = 0x010 then v &&& 0x1FFFE1 else c.tr.tvec
      tcause := if n = 0x011 then v &&& 0xE0FF else c.tr.tcause
      tepc := if n = 0x012 then v &&& 0x1FFFE0 else c.tr.tepc
      tscr := if n = 0x015 then v else c.tr.tscr
      tena := if n = 0x016 then v &&& 3 else c.tr.tena }
    late := if n = 0x023 ∧ v.getLsbD 0 = true then c.late.filterMap Pending.cleared else c.late } := by
  unfold Ctx.writeCreg
  split
  -- LWBCLR, which writes under its bit, and the numbers of no register that can be written
  case h_11 => split <;> simp_all
  case h_12 => simp_all
  all_goals rfl

/-- What a cwr does as it commits (R127). -/
theorem State.applyEffect_cwr (s : State) (n : Nat) (v : Word) : s.applyEffect (.cwr n v) = s.onCtx fun c => c.writeCreg n v := rfl

/-- A control register that is not written reads as before, but for CSTAT, which counts the late writes (R127). -/
theorem State.readCreg_writeCreg_other (s : State) {n k : Nat} (v : Word) (other : k ≠ n) (cstat : k ≠ 0x022) :
    (s.onCtx fun c => c.writeCreg n v).readCreg k = s.readCreg k := by
  simp only [Ctx.writeCreg_eq]
  unfold State.readCreg
  split
  -- CSTAT
  case h_16 => exact absurd rfl cstat
  all_goals simp [State.ctxid, other.symm]

/-- A ring push, also one whose ring has been bound anew (R219). -/
def Pending.isPush (p : Pending) : Bool :=
  match p.dest with
  | .ring _ | .bits .. => true
  | _ => false

/-- The entries that LWBCLR leaves are the ring pushes, without their flags (R106). -/
theorem filterMap_cleared (l : List Pending) :
    l.filterMap Pending.cleared = (l.filter Pending.isPush).map fun p => { p with flags := 0 } := by
  induction l with
  | nil => rfl
  | cons p t ih =>
    rw [List.filterMap_cons, List.filter_cons, ih]
    obtain ⟨dest, val, addr, left, inter, flags, pc⟩ := p
    cases dest <;> rfl

/-- The low bits of a word, kept in a register of k bits (R9). -/
theorem setWidth_ofNat_toNat (v : Word) (k : Nat) : (BitVec.ofNat k v.toNat).setWidth 64 = v &&& BitVec.ofNat 64 (2 ^ k - 1) := by
  refine BitVec.eq_of_getLsbD_eq fun i hi => ?_
  rw [BitVec.getLsbD_setWidth, BitVec.getLsbD_and, BitVec.getLsbD_ofNat, BitVec.getLsbD_ofNat, Nat.testBit_two_pow_sub_one,
    BitVec.testBit_toNat]
  simp [hi, Bool.and_comm]

/-- A cwr changes the floating-point, the trap registers and the late-write buffer alone (R127). -/
theorem State.applyEffect_cwr_frame {s t : State} {n : Nat} {v : Word} (h : t = s.applyEffect (.cwr n v)) :
    t = { s with ctx := { s.ctx with fp := t.ctx.fp, tr := t.ctx.tr, late := t.ctx.late } } := by
  subst h
  simp only [State.applyEffect_cwr, Ctx.writeCreg_eq]
  rfl

/-- A cwr leaves the late-write buffer, but for a 1 to LWBCLR, which leaves the ring pushes without their flags (R106, log 75). -/
theorem Ctx.writeCreg_late (c : Ctx) (n : Nat) (v : Word) : (c.writeCreg n v).late =
    if n = 0x023 ∧ v.getLsbD 0 = true then (c.late.filter Pending.isPush).map fun p => { p with flags := 0 } else c.late := by
  rw [Ctx.writeCreg_eq, filterMap_cleared]

/-- Settles O12: crd and cwr by what they stage, and the write by the equation of writeCreg, register by register. -/
theorem controlRegistersReadAndWrite : Obligations.ControlRegistersReadAndWrite := by
  refine ⟨fun s d creg ready settled => ⟨s.draw.1 + 1, by omega, crd_stages ready settled⟩, fun s a creg => cwr_stages,
    fun s t n v ht => ⟨State.applyEffect_cwr_frame ht, ?others, ?late, ?fflags, ?fmask, ?frm, ?_, ?_, ?_, ?_, ?_, ?_, ?_, ?lwbclr⟩⟩
  all_goals subst ht
  case others =>
    intro k other
    split
    · rfl
    · exact s.readCreg_writeCreg_other v other ‹_›
  case late =>
    intro other
    exact (s.ctx.writeCreg_late n v).trans (if_neg fun h => other h.1)
  case fflags | fmask => rintro rfl; exact setWidth_ofNat_toNat v 5
  case frm => rintro rfl; exact setWidth_ofNat_toNat v 3
  case lwbclr =>
    rintro rfl
    exact ⟨rfl, (s.ctx.writeCreg_late _ v).trans (if_congr (by simp) rfl rfl)⟩
  all_goals rintro rfl; rfl

end Sys2Proof.Machine

/-! O53: the decoder and the encoder of slots agree. A row of the tables is a word of fixed bits with operand fields beside them; a layout says where they lie, and whether a word has the fixed bits is one comparison under a mask. -/

namespace Sys2Proof.Codec

/-- The field of m values from bit lo up (R2). -/
def field (w lo m : Nat) : Nat := w / 2 ^ lo % m

/-- The mask of the field of m values from bit lo up. -/
def ones (lo m : Nat) : Nat := (m - 1) * 2 ^ lo

/-! Bits, masks and fields. -/

section
variable {w v lo n c B M : Nat}

theorem testBit_ones {i : Nat} : (ones lo (2 ^ n)).testBit i = decide (lo ≤ i ∧ i < lo + n) := by
  rw [ones, Nat.testBit_mul_two_pow, Nat.testBit_two_pow_sub_one, ← Bool.decide_and, decide_eq_decide]
  omega

theorem testBit_field {i : Nat} : (field w lo (2 ^ n)).testBit i = (decide (i < n) && w.testBit (lo + i)) := by
  rw [field, Nat.testBit_mod_two_pow, Nat.testBit_div_two_pow, Nat.add_comm]

/-- A value put at bit lo of B, which has no bits there. -/
theorem testBit_put (hv : v < 2 ^ n) (clear : field B lo (2 ^ n) = 0) (i : Nat) :
    (v * 2 ^ lo + B).testBit i = if lo ≤ i ∧ i < lo + n then v.testBit (i - lo) else B.testBit i := by
  change Machine.bits B lo n = 0 at clear
  rw [← Machine.testBit_setBits, Machine.setBits, clear, Nat.mod_eq_of_lt hv, Nat.zero_mul, Nat.sub_zero, Nat.add_comm]

theorem testBit_of_full (full : field M lo (2 ^ n) = 2 ^ n - 1) {i : Nat} (hi : lo ≤ i ∧ i < lo + n) : M.testBit i = true := by
  have := congrArg (Nat.testBit · (i - lo)) full
  simpa [testBit_field, hi.1, show i - lo < n by omega] using this

theorem field_put (hv : v < 2 ^ n) (clear : field B lo (2 ^ n) = 0) : field (v * 2 ^ lo + B) lo (2 ^ n) = v := by
  refine Nat.eq_of_testBit_eq fun i => ?_
  rw [testBit_field, testBit_put hv clear]
  by_cases hi : i < n
  · simp [hi]
  · simp [hi, Nat.testBit_eq_false_of_lt (hv.trans_le (Nat.pow_le_pow_right (by decide) (Nat.le_of_not_lt hi)))]

theorem field_and : field (w &&& M) lo (2 ^ n) = field w lo (2 ^ n) &&& field M lo (2 ^ n) := by
  refine Nat.eq_of_testBit_eq fun i => ?_
  simp only [testBit_field, Nat.testBit_and]
  by_cases hi : i < n <;> simp [hi]

theorem field_and_of_full (full : field M lo (2 ^ n) = 2 ^ n - 1) : field (w &&& M) lo (2 ^ n) = field w lo (2 ^ n) := by
  rw [field_and, full, Nat.and_two_pow_sub_one_eq_mod, field, Nat.mod_mod]

theorem field_and_xor (full : field M lo (2 ^ n) = 2 ^ n - 1) : field (w &&& (M ^^^ ones lo (2 ^ n))) lo (2 ^ n) = 0 := by
  refine Nat.eq_of_testBit_eq fun i => ?_
  by_cases hi : i < n
  · simp [testBit_field, hi, testBit_of_full full (i := lo + i) (by omega), testBit_ones]
  · simp [testBit_field, hi]

/-- The bits under a mask are those of one of its fields and those under the rest of it. -/
theorem and_eq_put (full : field M lo (2 ^ n) = 2 ^ n - 1) :
    w &&& M = field w lo (2 ^ n) * 2 ^ lo + (w &&& (M ^^^ ones lo (2 ^ n))) := by
  refine Nat.eq_of_testBit_eq fun i => ?_
  rw [testBit_put (v := field w lo (2 ^ n)) (Nat.mod_lt _ (by positivity)) (field_and_xor full)]
  split
  · next hi => simp [testBit_of_full full hi, testBit_field, show i - lo < n by omega, hi.1]
  · next hi => simp [testBit_ones, hi]

theorem put_and (hv : v < 2 ^ n) (full : field M lo (2 ^ n) = 2 ^ n - 1) (hB : B &&& (M ^^^ ones lo (2 ^ n)) = B) :
    (v * 2 ^ lo + B) &&& (M ^^^ ones lo (2 ^ n)) = B := by
  refine Nat.eq_of_testBit_eq fun i => ?_
  rw [Nat.testBit_and, testBit_put hv (hB ▸ field_and_xor full)]
  split
  · next hi =>
    rw [← hB]
    simp [testBit_of_full full hi, testBit_ones, hi]
  · rw [← Nat.testBit_and, hB]

theorem and_ones : w &&& ones lo (2 ^ n) = field w lo (2 ^ n) * 2 ^ lo := by
  have full : field (ones lo (2 ^ n)) lo (2 ^ n) = 2 ^ n - 1 := by
    rw [field, ones, Nat.mul_div_cancel _ (by positivity), Nat.mod_eq_of_lt (Nat.sub_lt (by positivity) (by decide))]
  rw [and_eq_put full, Nat.xor_self, Nat.and_zero, Nat.add_zero]

theorem fld_of_fixed (fixed : w &&& M = B) (full : fld M lo n = 2 ^ n - 1) : fld w lo n = B / 2 ^ lo % 2 ^ n :=
  fixed ▸ (field_and_of_full full).symm

theorem fld_ne_of_fixed (fixed : w &&& M = B) (differ : c &&& fld M lo n ≠ fld B lo n) : (fld w lo n = c) = False := by
  refine eq_false fun h => differ ?_
  rw [← fixed, ← h]
  exact field_and.symm

end

/-! Operands and where they lie. -/

/-- v is the code of an operand with m codes, and r says that the reader of its field answers that operand. -/
inductive Operand : Nat → Nat → (Nat → Nat → Prop) → Prop
  | src (a : Src) : Operand a.code 64 fun w lo => Sys2Proof.src w lo = a
  | dst (d : Dst) : Operand d.code 64 fun w lo => dst? w lo = some d
  | num {k : Nat} [NeZero k] (v : Fin k) : Operand v.val k fun w lo => Sys2Proof.num k w lo = v
  | bit (b : Bool) : Operand b.toNat 2 fun w lo => Sys2Proof.bit w lo = b
  | fmt (t : Fmt) : Operand t.code 32 fun w lo => fmt? w lo = some t
  | floatFmt (t : FloatFmt) : Operand t.code 8 fun w lo => floatFmt? w lo = some t
  | major (t : FloatFmt) : Operand t.major 8 fun w lo => majorFmt? w lo = some t
  | rnd (r : Rnd) : Operand r.code 8 fun w lo => rnd? w lo = some r
  | cond (c : Cond) : Operand c.code 16 fun w lo => cond? w lo = some c

/-- A code is below the number of codes of its operand. -/
theorem Operand.lt {v m : Nat} {r : Nat → Nat → Prop} (h : Operand v m r) : v < m := by
  cases h with
  | src a => cases a <;> simp only [Src.code] <;> omega
  | dst d => cases d <;> simp only [Dst.code] <;> omega
  | num v => exact v.isLt
  | bit b => exact b.toNat_lt
  | fmt t => cases t <;> decide
  | floatFmt t | major t => cases t <;> decide
  | rnd r => cases r <;> decide
  | cond c => cases c <;> decide

section
variable {w lo : Nat}

theorem src_eq_iff {a : Src} : src w lo = a ↔ field w lo 64 = a.code := by
  unfold src fld field
  split_ifs <;> cases a <;>
    simp only [Src.code, num, Src.reg.injEq, Src.pop.injEq, Src.peek.injEq, reduceCtorEq, Fin.ext_iff, Fin.val_ofNat, false_iff] <;> omega

theorem dst?_eq_some_iff {d : Dst} : dst? w lo = some d ↔ field w lo 64 = d.code := by
  unfold dst? fld field
  split_ifs <;> cases d <;>
    simp only [Dst.code, num, Option.some.injEq, Dst.reg.injEq, Dst.push.injEq, reduceCtorEq, Fin.ext_iff, Fin.val_ofNat, false_iff] <;> omega

theorem bit_eq_iff {b : Bool} : bit w lo = b ↔ field w lo 2 = b.toNat := by
  change (w / 2 ^ lo % 2 == 1) = b ↔ w / 2 ^ lo % 2 = b.toNat
  rcases Nat.mod_two_eq_zero_or_one (w / 2 ^ lo) with h | h <;> cases b <;> simp [h]

/-- A table read from codes is the inverse of the codes. -/
theorem ofCode_eq_some_iff {α : Type} {code : α → Nat} {ofCode : Nat → Option α} (back : ∀ x, ofCode (code x) = some x)
    (only : ∀ c x, ofCode c = some x → c = code x) {c : Nat} {x : α} : ofCode c = some x ↔ c = code x :=
  ⟨only c x, fun h => h ▸ back x⟩

end

/-- A field holds the code of an operand exactly where its reader answers the operand. -/
theorem Operand.reads {v m : Nat} {r : Nat → Nat → Prop} (h : Operand v m r) (w lo : Nat) : r w lo ↔ field w lo m = v := by
  cases h with
  | src a => exact src_eq_iff
  | dst d => exact dst?_eq_some_iff
  | num v => exact (Fin.ext_iff : Sys2Proof.num _ w lo = v ↔ _)
  | bit b => exact bit_eq_iff
  | fmt t =>
    refine ofCode_eq_some_iff (ofCode := Fmt.ofCode) (fun x => by cases x <;> rfl) fun c x => ?_
    unfold Fmt.ofCode
    split <;> rintro ⟨⟩ <;> rfl
  | floatFmt t =>
    refine ofCode_eq_some_iff (ofCode := FloatFmt.ofCode) (fun x => by cases x <;> rfl) fun c x => ?_
    unfold FloatFmt.ofCode
    split <;> rintro ⟨⟩ <;> rfl
  | major t =>
    unfold majorFmt?
    refine Iff.trans (b := fld w lo 3 = t.major) ?_ Iff.rfl
    beta_reduce
    split <;> cases t <;> simp_all [FloatFmt.major]
  | rnd x =>
    refine ofCode_eq_some_iff (ofCode := Rnd.ofCode) (fun x => by cases x <;> rfl) fun c x => ?_
    unfold Rnd.ofCode
    split <;> rintro ⟨⟩ <;> rfl
  | cond x =>
    refine ofCode_eq_some_iff (ofCode := Cond.ofCode) (fun x => by cases x <;> rfl) fun c x => ?_
    unfold Cond.ofCode
    split <;> rintro ⟨⟩ <;> rfl

/-- Operand fields that lie beside each other in the low 31 bits, with what their readers answer; M masks the bits they leave. -/
inductive Layout : List (Nat × Nat) → List (Nat → Nat → Prop) → Nat → Prop
  | nil : Layout [] [] (2 ^ 31 - 1)
  | cons {v lo m M : Nat} {r : Nat → Nat → Prop} {fs : List (Nat × Nat)} {rs : List (Nat → Nat → Prop)} : Operand v m r → Layout fs rs M →
      (m == 2 ^ m.log2 && field M lo m == m - 1) = true → Layout ((v, lo) :: fs) (r :: rs) (M ^^^ ones lo m)

/-- The readers of the fields answer their operands in w. -/
def Holds (w : Nat) : List (Nat × Nat) → List (Nat → Nat → Prop) → Prop
  | (_, lo) :: fs, r :: rs => r w lo ∧ Holds w fs rs
  | _, _ => True

theorem pack_add (x B : Nat) (fs : List (Nat × Nat)) : x + pack B fs = pack (x + B) fs := by
  induction fs with
  | nil => rfl
  | cons f fs ih => simp only [pack, ← ih]; omega

/-- The side condition of a layout: the field has a width, and the mask has every bit of it. -/
theorem full_of_fits {M lo m : Nat} (fits : (m == 2 ^ m.log2 && field M lo m == m - 1) = true) : ∃ n, m = 2 ^ n ∧ field M lo m = m - 1 := by
  simp only [Bool.and_eq_true, beq_iff_eq] at fits
  exact ⟨_, fits⟩

/-- An immediate is read as a number of the same width. -/
theorem num_eq_toFin_iff {w lo n : Nat} {v : BitVec n} : num (2 ^ n) w lo = v.toFin ↔ imm n w lo = v :=
  Fin.ext_iff.trans (BitVec.toNat_inj (x := imm n w lo))

/-- A packed word has its fixed bits, and its readers answer its operands. -/
theorem Layout.pack_spec {fs : List (Nat × Nat)} {rs : List (Nat → Nat → Prop)} {M : Nat} (layout : Layout fs rs M) :
    ∀ {B : Nat}, B &&& M = B → pack B fs &&& M = B ∧ Holds (pack B fs) fs rs ∧ pack B fs < 2 ^ 31 := by
  induction layout with
  | nil => exact fun hB => ⟨hB, trivial, hB ▸ Nat.and_lt_two_pow _ (by decide)⟩
  | @cons v lo m M r fs rs operand _ fits ih =>
    intro B hB
    obtain ⟨n, rfl, full⟩ := full_of_fits fits
    have value : field (v * 2 ^ lo + B) lo (2 ^ n) = v := field_put operand.lt (hB ▸ field_and_xor full)
    obtain ⟨fixed, holds, below⟩ := ih (B := v * 2 ^ lo + B) (by rw [and_eq_put full, value, put_and operand.lt full hB])
    rw [pack, pack_add]
    have kept : field (pack (v * 2 ^ lo + B) fs) lo (2 ^ n) = v := by rw [← field_and_of_full full, fixed, value]
    rw [and_eq_put full, kept] at fixed
    exact ⟨Nat.add_left_cancel fixed, ⟨(operand.reads _ _).mpr kept, holds⟩, below⟩

/-- A word is packed from its fixed bits and the operands that its readers answer. -/
theorem Layout.pack_of_holds {fs : List (Nat × Nat)} {rs : List (Nat → Nat → Prop)} {M w : Nat} (layout : Layout fs rs M) (below : w < 2 ^ 31)
    (holds : Holds w fs rs) : pack (w &&& M) fs = w := by
  induction layout with
  | nil => exact (Nat.and_two_pow_sub_one_eq_mod w 31).trans (Nat.mod_eq_of_lt below)
  | cons operand _ fits ih =>
    obtain ⟨reads, holds⟩ := holds
    obtain ⟨n, rfl, full⟩ := full_of_fits fits
    rw [pack, pack_add, ← (operand.reads _ _).mp reads, ← and_eq_put full, ih holds]

/-! Every encoding decodes: a row's guards follow from its fixed bits, and those of the rows before it contradict them. -/

/-- The word of the instruction reads back as it. -/
def ReadsBack (i : Instr) : Prop := ∀ w, encodeSlot i = some w → w < 2 ^ 31 ∧ decodeRaw w = some i

theorem ReadsBack.of_none {i : Instr} (row : encodeSlot i = none) : ReadsBack i := fun _ e => nomatch row.symm.trans e

/-- The majors with a reader of their own (Table 4.3), which are all but those of the floating-point lanes. -/
def majors : List (Nat × (Nat → Option Instr)) :=
  [(0x00, decodeMajor00), (0x01, decodeMajor01), (0x02, decodeMajor02), (0x03, decodeMajor03), (0x04, decodeMajor04), (0x05, decodeMajor05),
   (0x06, decodeMajor06), (0x08, decodeMajor08), (0x09, decodeMajor09), (0x0A, decodeMajor0A), (0x0B, decodeMajor0B), (0x0C, decodeMajor0C),
   (0x0D, decodeMajor0D), (0x0E, decodeMajor0E), (0x0F, decodeMajor0F), (0x10, decodeMajor10), (0x11, decodeMajor11), (0x12, decodeMajor12),
   (0x13, decodeMajor13), (0x14, decodeMajor14), (0x15, decodeMajor15), (0x18, decodeMajor18), (0x19, decodeMajor19), (0x1A, decodeMajor1A),
   (0x1B, decodeMajor1B), (0x1C, decodeMajor1C), (0x1D, decodeMajor1D), (0x1E, decodeMajor1E), (0x1F, decodeMajor1F), (0x25, decodeMajor25),
   (0x26, decodeMajor26), (0x27, decodeMajor27), (0x28, decodeMajor28), (0x29, decodeMajor29), (0x2A, decodeMajor2A), (0x2B, decodeMajor2B),
   (0x30, decodeMajor30), (0x31, decodeMajor31), (0x32, decodeMajor32), (0x34, decodeMajor34), (0x35, decodeMajor35), (0x36, decodeMajor36),
   (0x38, decodeMajor38), (0x39, decodeMajor39), (0x3A, decodeMajor3A)]

theorem decodeRaw_of_mem_majors {w : Nat} : ∀ p ∈ majors, fld w 25 6 = p.1 → decodeRaw w = p.2 w := by
  simp only [majors, List.forall_mem_cons, List.not_mem_nil, false_imp_iff, implies_true, and_true]
  and_intros
  all_goals
    intro major
    rw [decodeRaw, major]
    rfl

theorem decodeRaw_of_lookup {w k : Nat} {d : Nat → Option Instr} (major : fld w 25 6 = k) (hd : majors.lookup k = some d) : decodeRaw w = d w := by
  obtain ⟨_, _, split, _⟩ := List.lookup_eq_some_iff.mp hd
  exact decodeRaw_of_mem_majors (k, d) (split ▸ List.mem_append_right _ (List.mem_cons_self ..)) major

theorem ReadsBack.of_layout {i : Instr} {B M : Nat} {fs : List (Nat × Nat)} {rs : List (Nat → Nat → Prop)} (row : encodeSlot i = some (pack B fs))
    (layout : Layout fs rs M) (hB : B &&& M = B) (h : ∀ w, w &&& M = B → Holds w fs rs → decodeRaw w = some i) : ReadsBack i := by
  intro w e
  obtain ⟨fixed, holds, below⟩ := layout.pack_spec hB
  cases row.symm.trans e
  exact ⟨below, h _ fixed holds⟩

/-- The majors 0x20 to 0x24 have one reader, and the format is part of the major (Table 4.7). -/
theorem decodeRaw_of_majorFmt {w : Nat} {f : FloatFmt} (high : fld w 28 3 = 4) (hf : majorFmt? w 25 = some f) : decodeRaw w = decodeMajor20 w := by
  have low : w / 2 ^ 25 % 8 = f.major := ((Operand.major f).reads w 25).mp hf
  unfold fld at high
  have major : fld w 25 6 = 32 + f.major := by unfold fld; omega
  unfold decodeRaw
  rw [major]
  cases f <;> rfl

theorem readsBack (i : Instr) : ReadsBack i := by
  cases i
  case nop | tret | safe | gfence | exit | pwrrel | mark | fenceSc =>
    rintro _ ⟨⟩
    decide
  case fadd | fsub | fmul | fma | fms | fnma | fmin | fmax | fabs | fneg | fcmpEq | fcmpLt | fcmpLe | fcmpUn =>
    refine .of_layout rfl (by repeat' constructor) rfl fun w fixed holds => ?_
    simp only [Holds] at holds
    rw [decodeRaw_of_majorFmt (fld_of_fixed fixed rfl) holds.1]
    simp (disch := decide) only [decodeMajor20, reg5, holds, fld_of_fixed fixed, Nat.reduceDiv, Nat.reducePow, Nat.reduceMod, Nat.reduceEqDiff,
      ↓reduceIte, false_and, and_self, Option.bind_some]
  all_goals try exact .of_none rfl
  all_goals
    refine .of_layout rfl (by repeat' constructor) rfl fun w fixed holds => ?_
    simp only [Holds, num_eq_toFin_iff] at holds
    rw [decodeRaw_of_lookup (fld_of_fixed fixed rfl) rfl]
    simp (disch := decide) only [decodeMajor00, decodeMajor01, decodeMajor02, decodeMajor03, decodeMajor04, decodeMajor05, decodeMajor06, decodeMajor08, decodeMajor09,
      decodeMajor0A, decodeMajor0B, decodeMajor0C, decodeMajor0D, decodeMajor0E, decodeMajor0F, decodeMajor10, decodeMajor11, decodeMajor12,
      decodeMajor13, decodeMajor14, decodeMajor15, decodeMajor18, decodeMajor19, decodeMajor1A, decodeMajor1B, decodeMajor1C, decodeMajor1D,
      decodeMajor1E, decodeMajor1F, decodeMajor25, decodeMajor26, decodeMajor27, decodeMajor28, decodeMajor29, decodeMajor2A, decodeMajor2B,
      decodeMajor30, decodeMajor31, decodeMajor32, decodeMajor34, decodeMajor35, decodeMajor36, decodeMajor38, decodeMajor39, decodeMajor3A, reg5, holds, fld_of_fixed fixed, fld_ne_of_fixed fixed,
      Nat.reduceDiv, Nat.reducePow, Nat.reduceMod, Nat.reduceEqDiff, ↓reduceIte, false_and, and_false, and_self, Option.bind_some]

/-! Every decoding encodes: the guards of a row fix exactly the bits that its operands leave. -/

/-- A guard on fixed fields of w: it holds only if the bits of w under M are those of B. -/
inductive Guard (w : Nat) : Prop → Nat → Nat → Prop
  | fld {lo n c : Nat} : Guard w (fld w lo n = c) (ones lo (2 ^ n)) (c * 2 ^ lo)
  | and {p q : Prop} {M M' B B' : Nat} : Guard w p M B → Guard w q M' B' → Guard w (p ∧ q) (M ||| M') (B ||| B')

theorem Guard.fixed {w M B : Nat} {p : Prop} (g : Guard w p M B) : p → w &&& M = B := by
  induction g with
  | fld => rintro rfl; exact and_ones
  | and _ _ ih ih' => rintro ⟨hp, hq⟩; rw [Nat.and_or_distrib_left, ih hp, ih' hq]

/-- What a reader answers, if anything, is an instruction whose word is w. -/
def Encodes (w : Nat) (o : Option Instr) : Prop := ∀ i, o = some i → encodeSlot i = some w

section
variable {w M B M' B' : Nat}

theorem Encodes.of_none : Encodes w none := fun _ h => nomatch h

theorem Encodes.of_some {i : Instr} {fs : List (Nat × Nat)} {rs : List (Nat → Nat → Prop)} (row : encodeSlot i = some (pack B fs))
    (layout : Layout fs rs M) (below : w < 2 ^ 31) (fixed : w &&& M' = B') (same : M = M' ∧ B = B') (holds : Holds w fs rs) : Encodes w (some i) := by
  obtain ⟨rfl, rfl⟩ := same
  rintro _ ⟨⟩
  rw [row, ← fixed, layout.pack_of_holds below holds]

theorem Encodes.of_ite {c : Prop} {_ : Decidable c} {a b : Option Instr} (fixed : w &&& M = B) (guard : Guard w c M' B')
    (ha : w &&& (M ||| M') = B ||| B' → Encodes w a) (hb : Encodes w b) : Encodes w (if c then a else b) := by
  split
  · next hc => exact ha (by rw [Nat.and_or_distrib_left, fixed, guard.fixed hc])
  · exact hb

theorem Encodes.of_bind {α : Type} {o : Option α} {f : α → Option Instr} (h : ∀ x, o = some x → Encodes w (f x)) : Encodes w (o.bind f) := by
  cases o with
  | none => exact .of_none
  | some x => exact h x rfl

end

/-- The major of the floating-point lanes is fixed but for its format. -/
theorem float_fixed {w k : Nat} (major : fld w 25 6 = k) (hk : k / 8 = 4) : w &&& ones 28 8 = 4 * 2 ^ 28 :=
  Guard.fixed (Guard.fld (n := 3)) (by unfold fld at *; omega)

theorem encodes_decodeMajor20 {w : Nat} (below : w < 2 ^ 31) (fixed : w &&& ones 28 8 = 4 * 2 ^ 28) : Encodes w (decodeMajor20 w) := by
  unfold decodeMajor20
  repeat' with_reducible refine .of_ite fixed (by repeat' constructor) (fun fixed => ?_) ?_
  all_goals try exact .of_none
  all_goals
    repeat' refine .of_bind fun _ _ => ?_
    refine .of_some rfl (by repeat' constructor) below fixed (by decide) ?_
    simp only [Holds, reg5, and_self, *]

/-- Row by row: the first step unfolds the reader of the major, the others go down its guards. -/
theorem encodes_decodeRaw {w : Nat} (below : w < 2 ^ 31) : Encodes w (decodeRaw w) := by
  unfold decodeRaw
  split
  case h_30 major | h_31 major | h_32 major | h_33 major | h_34 major => exact encodes_decodeMajor20 below (float_fixed major rfl)
  case h_51 => exact .of_none
  all_goals
    next major =>
    have fixed := Guard.fixed .fld major
    try refine .of_ite fixed (by repeat' constructor) (fun fixed => ?_) ?_
    repeat' with_reducible refine .of_ite fixed (by repeat' constructor) (fun fixed => ?_) ?_
    all_goals try exact .of_none
    all_goals
      repeat' refine .of_bind fun _ _ => ?_
      refine .of_some rfl (by repeat' constructor) below fixed (by decide) ?_
      simp only [Holds, num_eq_toFin_iff, reg5, and_self, *]

/-! The two decoders. -/

theorem decodeSlot_eq_some_iff {w : Nat} {i : Instr} : decodeSlot w = some i ↔ decodeRaw (w % 2 ^ 31) = some i ∧ i.wf = true := by
  unfold decodeSlot
  cases decodeRaw (w % 2 ^ 31) with
  | none => simp
  | some j =>
    change (if j.wf = true then some j else none) = some i ↔ _
    constructor
    · intro h
      split at h <;> cases h
      exact ⟨rfl, ‹_›⟩
    · rintro ⟨⟨⟩, wf⟩
      exact if_pos wf

/-- A word of a firmware core, by its fields (R405). -/
theorem firmware_word_iff {w B : Nat} (hB : B < 2 ^ 15 ∧ B % 2 ^ 12 = 0x0B) {rd rs1 rs2 : Fin 32} :
    B + rd.val * 2 ^ 7 + rs1.val * 2 ^ 15 + rs2.val * 2 ^ 20 = w ↔
      w < 2 ^ 32 ∧ (fld w 0 7 = 0x0B ∧ fld w 25 7 = 0) ∧ fld w 12 3 = B / 2 ^ 12 ∧ reg5 w 7 = rd ∧ reg5 w 15 = rs1 ∧ reg5 w 20 = rs2 := by
  simp only [fld, reg5, num, Fin.ext_iff, Fin.val_ofNat]
  omega

theorem decodeFirmware_of_encode {w : Nat} {i : Instr} (h : encodeFirmware i = some w) : w < 2 ^ 32 ∧ decodeFirmware w = some i := by
  unfold encodeFirmware at h
  split at h
  case h_5 => cases h
  all_goals
    next rd rs1 rs2 =>
    obtain ⟨below, opcode, funct, rfl, rfl, rfl⟩ := (firmware_word_iff (by decide)).mp (Option.some.inj h)
    exact ⟨below, by rw [decodeFirmware, if_pos opcode, funct]; rfl⟩

theorem encodeFirmware_of_decode {w : Nat} {i : Instr} (below : w < 2 ^ 32) (h : decodeFirmware w = some i) : encodeFirmware i = some w := by
  unfold decodeFirmware at h
  split at h
  · next opcode =>
    split at h <;> cases h
    all_goals exact congrArg some ((firmware_word_iff (by decide)).mpr ⟨below, opcode, ‹_›, rfl, rfl, rfl⟩)
  · cases h

/-- Settles O53: a word of a row reads back by its layout, and what a word reads as has its word by the guards of its row. -/
theorem decodeAndEncodeAgree : Obligations.DecodeAndEncodeAgree := by
  refine ⟨fun i w row wf => ?_, fun i w h => ?_, fun i w => decodeFirmware_of_encode, fun i w => encodeFirmware_of_decode⟩
  · obtain ⟨below, reads⟩ := readsBack i w row
    refine ⟨below, decodeSlot_eq_some_iff.mpr ⟨?_, wf⟩, decodeSlot_eq_some_iff.mpr ⟨?_, wf⟩⟩
    · rw [Nat.mod_eq_of_lt below, reads]
    · rw [Nat.add_mod_right, Nat.mod_eq_of_lt below, reads]
  · obtain ⟨reads, wf⟩ := decodeSlot_eq_some_iff.mp h
    exact ⟨wf, encodes_decodeRaw (Nat.mod_lt _ (by decide)) i reads⟩

end Sys2Proof.Codec

/-! O10: the guarded branches (R133 to R135). -/

namespace Sys2Proof.Machine

/-- The displacement counts slots from the first slot of the bundle (R133). -/
theorem dispTarget_eq (pc : Nat) (disp : BitVec 18) : dispTarget pc disp = BitVec.ofInt 64 (pc + 32 * disp.toInt) := rfl

section
variable {s : State} {g : Fin 16} (hg : s.guardReady g.val)
include hg

/-- A slot that does its work under a guard only stages nothing when the guard is false (R80). -/
theorem runSlot_guarded_of_false {f : State → Act Unit} (off : s.ctx.regs.readP g.val = false) :
    runSlot (do let p ← readGuard g.val; let s ← get; if p then f s) s = s.stages [] := by
  rw [State.stages, staged_nil]
  exact runSlot_gives ((gives_readGuard hg).bind ((gives_get s).bind (Gives.of_false (by simp [off]) (gives_pure () s))))

/-- A slot that does its work under a guard only stages what its work does when the guard is true (R80). -/
theorem runSlot_guarded_of_true {f : State → Act Unit} {l : List Effect} (on : s.ctx.regs.readP g.val = true)
    (h : Gives (f s) s () (s.staged l)) :
    runSlot (do let p ← readGuard g.val; let s ← get; if p then f s) s = s.stages l :=
  runSlot_gives ((gives_readGuard hg).bind ((gives_get s).bind (Gives.of_true on h)))

end

/-- A taken branch with the fetch bubble of 2 clk (R134). -/
theorem gives_bubble_branch (target : Word) (s : State) :
    Gives (do stage (.bubble 2); stage (.branch target)) s () (s.staged [.bubble 2, .branch target]) :=
  Gives.after_stage (gives_stage _ _)

/-- The bubble is staged unless a pbr that issued at least 3 clk before wrote the value (R134). -/
theorem gives_bri_stages (early : Bool) (target : Word) (s : State) :
    Gives (do
        if !early then stage (.bubble 2)
        stage (.branch target)) s ()
      (s.staged ((if early = true then [] else [.bubble 2]) ++ [.branch target])) := by
  cases early
  · exact gives_bubble_branch target s
  · exact gives_stage _ s

/-- Settles O10: each branch is its work under a guard; pbr has none. -/
theorem branchesComplete : Obligations.BranchesComplete := by
  rintro s disp g n target rfl hg
  refine ⟨fun off => ?_, fun on => ⟨?_, fun free => ?_, fun free => ?_, fun free => ?_⟩, fun free => ?_⟩
  · exact ⟨runSlot_guarded_of_false hg off, runSlot_guarded_of_false hg off, runSlot_guarded_of_false hg off,
      runSlot_guarded_of_false hg off⟩
  · exact runSlot_guarded_of_true hg on (gives_bubble_branch _ s)
  · refine runSlot_guarded_of_true hg on ((gives_readyDest free).bind ((gives_putDest _ 1 s.bundle.next 0 s).bind ?_))
    rw [← dispTarget_eq]
    simpa using gives_bubble_branch (dispTarget s.bundle.pc disp) (s.staged [s.resultOf (.b 3 false) 1 0 s.bundle.next 0])
  · refine runSlot_guarded_of_true hg on ((gives_await (by simp [free]) s).bind ?_)
    simpa only [Bool.and_eq_true, decide_eq_true_eq, Regs.readB, nth] using
      gives_bri_stages (s.ctx.regs.bPbr.getD n.val false && decide (3 ≤ s.ctx.regs.bAge.getD n.val 0)) (s.ctx.regs.readB n.val) s
  · exact runSlot_guarded_of_true hg on ((gives_await (by simp [free]) s).bind (gives_bubble_branch _ s))
  · exact runSlot_gives ((gives_readyDest free).bind ((gives_get s).bind (gives_putDest _ 1 _ 0 s)))

end Sys2Proof.Machine

/-! O39: what the operands of a slot find. -/

namespace Sys2Proof.Machine

/-! ## What an operand finds (R79, R415) -/

/-- What the operands of a slot have met after one more, which waits unless ok and has cause c, and the pushes l it owes. -/
def Operands.met (o : Operands) (ok : Bool) (c : Option (Cause × Word)) (l : List Nat) : Operands :=
  { o with missing := o.missing || !ok, cause := if o.quiet then o.cause else o.cause.or c, owed := o.owed ++ l }

theorem Operands.met_met (o : Operands) (ok ok' : Bool) (c c' : Option (Cause × Word)) (l l' : List Nat) :
    (o.met ok c l).met ok' c' l' = o.met (ok && ok') (c.or c') (l ++ l') := by
  cases h : o.quiet <;> simp [met, h, Bool.or_assoc, Option.or_assoc]

theorem Operands.met_true_none (o : Operands) (l : List Nat) : o.met true none l = { o with owed := o.owed ++ l } := by
  cases h : o.quiet <;> simp [met, h]

section
variable {α β : Type} {m : Act α} {f : α → Act β} {s t : State} {w o : Operands}

/-- A slot goes on with what its first part delivers. -/
theorem run_bind_of_ok {x : α} (h : (m.run.run s).run w = ((.ok x, t), o)) : ((m >>= f).run.run s).run w = ((f x).run.run t).run o := by
  simp only [ExceptT.run_bind, StateT.run_bind]
  show (match (m.run.run s).run w with | p => _) = _
  rw [h]
  rfl

/-- A slot ends where its first part stops. -/
theorem run_bind_of_error {e : Stop} (h : (m.run.run s).run w = ((.error e, t), o)) : ((m >>= f).run.run s).run w = ((.error e, t), o) := by
  simp only [ExceptT.run_bind, StateT.run_bind]
  show (match (m.run.run s).run w with | p => _) = _
  rw [h]
  rfl

end

/-- An operand of a slot goes on with x and leaves t, whatever it finds: it is there if ok, its cause is c, and it owes the pushes l. -/
def Finds {α : Type} (m : Act α) (s : State) (ok : Bool) (c : Option (Cause × Word)) (x : α) (t : State) (l : List Nat) : Prop :=
  ∀ w : Operands, (m.run.run s).run w = ((.ok x, t), w.met ok c l)

section
variable {α β : Type} {m : Act α} {s t : State} {ok : Bool} {c : Option (Cause × Word)} {x : α} {l : List Nat}

theorem Finds.gives (h : Finds m s true none x t l) : Gives m s x t :=
  ⟨l, fun w => ⟨w.quiet, by rw [h w, Operands.met_true_none]⟩⟩

theorem Finds.misses (h : Finds m s ok c x t l) (missing : ok = false) : Misses m s := fun w =>
  ⟨x, t, _, h w, by simp [Operands.met, missing]⟩

theorem Finds.meets {e : Cause} {v : Word} (h : Finds m s true (some (e, v)) x t l) : Meets m s e v := fun w quiet first =>
  ⟨x, t, _, h w, by simp [Operands.met], by simp [Operands.met, quiet, first]⟩

theorem Finds.bind {f : α → Act β} {ok' : Bool} {c' : Option (Cause × Word)} {y : β} {u : State} {l' : List Nat}
    (h : Finds m s ok c x t l) (k : Finds (f x) t ok' c' y u l') :
    Finds (m >>= f) s (ok && ok') (c.or c') y u (l ++ l') := fun w => by
  rw [run_bind_of_ok (h w), k, Operands.met_met]

/-- A part that finds nothing, before one that does. -/
theorem Finds.after {f : α → Act β} {y : β} {u : State} (h : Finds m s true none x t []) (k : Finds (f x) t ok c y u l) :
    Finds (m >>= f) s ok c y u l := by
  simpa using h.bind k

/-- A part that finds something, before others that find nothing. -/
theorem Finds.before {f : α → Act β} {y : β} {u : State} (h : Finds m s ok c x t l) (k : Finds (f x) t true none y u []) :
    Finds (m >>= f) s ok c y u l := by
  simpa using h.bind k

theorem finds_of_run (h : ∀ w : Operands, (m.run.run s).run w = ((.ok x, t), w)) : Finds m s true none x t [] := fun w => by
  rw [h w, Operands.met_true_none, List.append_nil]

theorem finds_pure (x : α) (s : State) : Finds (pure x) s true none x s [] := finds_of_run fun _ => rfl

theorem Finds.map (f : α → β) (h : Finds m s ok c x t l) : Finds (do let y ← m; pure (f y)) s ok c (f x) t l :=
  h.before (finds_pure (f x) t)

end

theorem finds_get (s : State) : Finds (get : Act State) s true none s s [] := finds_of_run fun _ => rfl

theorem finds_stage (e : Effect) (s : State) : Finds (stage e) s true none () (s.staged [e]) [] := finds_of_run fun _ => rfl

theorem finds_await (ok : Bool) (s : State) : Finds (await ok) s ok none () s [] := by
  intro w
  cases ok
  · change ((Except.ok (), s), { w with missing := true }) = _
    cases h : w.quiet <;> simp [Operands.met, h]
  · exact finds_of_run (fun _ => rfl) w

theorem finds_noteAny (c : Option (Cause × Word)) (s : State) : Finds (noteAny c) s true c () s [] := by
  intro w
  cases c
  case none => exact finds_of_run (fun _ => rfl) w
  case some c =>
    change ((Except.ok (), s), if w.quiet || w.cause.isSome then w else { w with cause := some c }) = _
    rcases w with ⟨missing, _ | first, _ | _, owed⟩ <;> simp [Operands.met]

theorem finds_owed (q : Nat) (s : State) : Finds (meet fun o => { o with owed := o.owed ++ [q] }) s true none () s [q] := fun w => by
  rw [Operands.met_true_none]; rfl

/-- What the rest of an operand finds, where it was waited for before. -/
theorem Finds.after_await {α : Type} {f : Unit → Act α} {s t : State} {c : Option (Cause × Word)} {x : α} {l : List Nat} (ok : Bool)
    (h : Finds (f ()) s true c x t l) : Finds (await ok >>= f) s ok c x t l := by
  simpa using (finds_await ok s).bind h

/-! ## An operand that raises at once (R209) -/

section
variable {α β : Type} {m : Act α} {f : α → Act β} {s : State} {c : Cause} {v : Word}

theorem raisesEarly_raiseEarly (c : Cause) (v : Word) (s : State) : RaisesEarly (raiseEarly c v) s c v := fun w quiet => by
  change (((if w.quiet then pure () else throw (.raiseEarly c v) : Act Unit).run.run s).run w) = _
  rw [quiet]; rfl

theorem RaisesEarly.bind (h : RaisesEarly m s c v) : RaisesEarly (m >>= f) s c v := fun w quiet => run_bind_of_error (h w quiet)

/-- A read of the state goes before. -/
theorem RaisesEarly.after_get {f : State → Act β} (h : RaisesEarly (f s) s c v) : RaisesEarly (get >>= f) s c v := fun w quiet => h w quiet

end

/-! ## Ring elements as operands (R209 to R211, R214) -/

section
variable {s : State} {q k field : Nat} {kind : Ring → Bool}

/-- A ring that gives an element is waited for as elem? says, and has its cause and its value. -/
theorem finds_ringElem {e : Bool × Option (Cause × Word) × Nat} (gives : (s.ctx.ring q).gives kind = true) (he : e = Ring.elem? s q k (s.ctx.ring q)) :
    Finds (ringElem q k field kind) s e.1 e.2.1 e.2.2 s [] := by
  subst he
  refine (finds_get s).after ?_
  rw [if_pos gives]
  exact Finds.after_await _ ((finds_noteAny _ s).before (finds_pure _ s))

theorem raisesEarly_ringElem (field : Nat) (wrong : (s.ctx.ring q).gives kind = false) :
    RaisesEarly (ringElem q k field kind) s .illegalUse (word field) := by
  refine RaisesEarly.after_get ?_
  rw [if_neg (by simp [wrong])]
  exact (raisesEarly_raiseEarly _ _ s).bind

end

section
variable {s : State} {q : Fin 16} {kind : Ring → Bool} {reg : Nat → Act Nat} {ok : Bool} {c : Option (Cause × Word)} {x : Nat}

/-- A pop stages itself beside what its element finds (R79). -/
theorem finds_readSrc_pop (gives : (s.ctx.ring q.val).gives kind = true)
    (he : Ring.elem? s q.val (s.bundle.pops q.val) (s.ctx.ring q.val) = (ok, c, x)) :
    Finds (readSrc (.pop q) kind reg) s ok c x (s.staged [.pop q.val]) [] := by
  refine (finds_get s).after ?_
  refine (finds_ringElem gives he.symm).before ?_
  simp only [gives, if_true]
  exact (finds_stage _ s).after (finds_pure x _)

theorem finds_readSrc_peek (gives : (s.ctx.ring q.val).gives kind = true) (he : Ring.elem? s q.val 0 (s.ctx.ring q.val) = (ok, c, x)) :
    Finds (readSrc (.peek q) kind reg) s ok c x s [] :=
  finds_ringElem gives he.symm

theorem raisesEarly_readSrc_pop (wrong : (s.ctx.ring q.val).gives kind = false) :
    RaisesEarly (readSrc (.pop q) kind reg) s .illegalUse (word (32 + q.val)) :=
  RaisesEarly.after_get (raisesEarly_ringElem _ wrong).bind

theorem raisesEarly_readSrc_peek (wrong : (s.ctx.ring q.val).gives kind = false) :
    RaisesEarly (readSrc (.peek q) kind reg) s .illegalUse (word (48 + q.val)) :=
  raisesEarly_ringElem _ wrong

end

section
variable {s : State} {q k : Nat} {r : Ring}

/-- A FIFO gives its element from memory, once it is there and no function result is still to be pushed (R214, R339). -/
theorem Ring.elem?_fifo (fifo : r.mode = 1) (here : k < r.count) (free : s.ctx.busy (.ring q) = false)
    (clean : s.core.poisoned (spaceOf r.spaceNo) (r.fifoAddr k) r.size = none) :
    Ring.elem? s q k r = (true, none, r.deliver ((s.core.mem (spaceOf r.spaceNo)).readBits (r.fifoAddr k) r.size)) := by
  simp [Ring.elem?, fifo, here, free, clean]

theorem Ring.elem?_fifo_waits (fifo : r.mode = 1) (waits : r.count ≤ k ∨ s.ctx.busy (.ring q) = true) :
    (Ring.elem? s q k r).1 = false := by
  rcases waits with waits | waits <;> simp [Ring.elem?, fifo, waits]

/-- A READ ring whose address has a cause gives it, waiting for nothing (R210, R215). -/
theorem Ring.elem?_of_addrCause {e : Cause × Word} (read : r.mode = 2) (cause : r.addrCause q (r.addrAt k) = some e) :
    Ring.elem? s q k r = (true, some e, 0) := by
  simp [Ring.elem?, read, cause]

/-- A READ ring gives the element of its window, with the cause recorded for it (R211). -/
theorem Ring.elem?_window {w : WinElem} (read : r.mode = 2) (fine : r.addrCause q (r.addrAt k) = none) (element : r.window[k]? = some w) :
    Ring.elem? s q k r = (true, w.cause.map fun c => (c, word w.addr), r.deliver w.val) := by
  simp [Ring.elem?, read, fine, element]

theorem Ring.elem?_window_waits (read : r.mode = 2) (fine : r.addrCause q (r.addrAt k) = none) (beyond : r.window.length ≤ k) :
    Ring.elem? s q k r = (false, none, 0) := by
  simp [Ring.elem?, read, fine, beyond]

end

/-! ## The destinations that push (R209, R210, R213) -/

section
variable {s : State} {q : Nat} {r : Ring} {kind : Ring → Bool}

/-- A push waits for its room, and has the cause of its address where its ring is a WRITE ring. -/
theorem finds_readyPush (hr : r = s.ctx.ring q) (mode : r.mode = 1 ∨ r.mode = 3) (elem : kind r = true) :
    Finds (readyPush q kind) s (r.hasRoom (s.bundle.pushes q)) (if r.mode = 3 then (r.asWritten s.core
      (r.addrAt (s.bundle.pushes q)).toNat).addrCause q (r.addrAt (s.bundle.pushes q)) else none) () s [q] := by
  subst hr
  refine (finds_get s).after ?_
  rw [if_neg (by simpa [elem] using mode.resolve_left)]
  refine Finds.after_await _ ?_
  simpa using (finds_owed q s).bind (finds_noteAny _ s)

theorem raisesEarly_readyPush (hr : r = s.ctx.ring q) (wrong : r.mode ≠ 1 ∧ r.mode ≠ 3 ∨ kind r = false) :
    RaisesEarly (readyPush q kind) s .illegalUse (word (32 + q)) := by
  subst hr
  refine RaisesEarly.after_get ?_
  rw [if_pos (by simpa using wrong)]
  exact raisesEarly_raiseEarly _ _ s

/-- Only lanes of 16 bits narrow as they are written (R209). -/
theorem Ring.asWritten_of_scalar (scalar : r.elem = 0) (c : Core) (a : Nat) : r.asWritten c a = r := by
  simp [Ring.asWritten, scalar]

theorem Ring.hasRoom_iff {n : Nat} : r.hasRoom n = true ↔ r.pending + n < r.depth ∧ (r.mode = 1 → r.count + r.pending + n < r.capacity) := by
  simp [Ring.hasRoom, imp_iff_not_or]

end

/-! ## Scalar and vector operands (R78, R209) -/

section
variable {s : State} {i : Fin 32} {q : Fin 16} {r : Ring} {ok : Bool} {c : Option (Cause × Word)} {x : Nat}

theorem misses_readS_reg (busy : s.ctx.busy (.s i.val) = true) : Misses (readS (.reg i)) s := by
  have found : Finds (readReg i.val) s false none (s.ctx.regs.readS i.val) s [] := by
    refine (finds_get s).after ?_
    rw [busy]
    exact Finds.after_await false (finds_pure _ s)
  exact ((found.map BitVec.toNat).map word).misses rfl

/-- A ring that pops and peeks of scalar operands are permitted of. -/
theorem gives_scalar (mode : r.mode = 1 ∨ r.mode = 2) (scalar : r.elem = 0) : r.gives (fun r => r.elem == 0) = true := by
  simp [Ring.gives, Ring.readable, mode, scalar]

theorem not_gives_scalar (wrong : r.mode ≠ 1 ∧ r.mode ≠ 2 ∨ r.elem ≠ 0) : r.gives (fun r => r.elem == 0) = false := by
  rcases wrong with ⟨fifo, read⟩ | kind
  · simp [Ring.gives, Ring.readable, fifo, read]
  · simp [Ring.gives, kind]

theorem finds_readS_pop (mode : (s.ctx.ring q.val).mode = 1 ∨ (s.ctx.ring q.val).mode = 2) (scalar : (s.ctx.ring q.val).elem = 0)
    (he : Ring.elem? s q.val (s.bundle.pops q.val) (s.ctx.ring q.val) = (ok, c, x)) :
    Finds (readS (.pop q)) s ok c (word x) (s.staged [.pop q.val]) [] :=
  (finds_readSrc_pop (gives_scalar mode scalar) he).map word

theorem finds_readS_peek (mode : (s.ctx.ring q.val).mode = 1 ∨ (s.ctx.ring q.val).mode = 2) (scalar : (s.ctx.ring q.val).elem = 0)
    (he : Ring.elem? s q.val 0 (s.ctx.ring q.val) = (ok, c, x)) : Finds (readS (.peek q)) s ok c (word x) s [] :=
  (finds_readSrc_peek (gives_scalar mode scalar) he).map word

theorem finds_readV_pop (read : (s.ctx.ring q.val).mode = 2) (vector : (s.ctx.ring q.val).elem = 1 ∨ (s.ctx.ring q.val).elem = 2)
    (he : Ring.elem? s q.val (s.bundle.pops q.val) (s.ctx.ring q.val) = (ok, c, x)) :
    Finds (readV (.pop q)) s ok c (BitVec.ofNat 1024 x) (s.staged [.pop q.val]) [] :=
  (finds_readSrc_pop (by simp [Ring.gives, Ring.readable, read, vector]) he).map (BitVec.ofNat 1024)

end

/-- Settles O39: an operand goes on with what its ring gives, or raises at once where the ring gives nothing of its kind. -/
theorem operandsDeliver : Obligations.OperandsDeliver := by
  rintro s i q k r rfl hr
  change r = s.ctx.ring q.val at hr
  subst hr
  refine ⟨gives_readS_reg, misses_readS_reg, gives_readV_reg, fun read scalar => ?read, fun fifo scalar => ?fifo, fun wrong => ?wrong,
    fun read vector w fine element clean => ?vector, fun fifo scalar room => ?pushFifo, fun write scalar room => ?pushWrite,
    fun n => Ring.hasRoom_iff, fun mode scalar full => ?full, fun wrong => ?pushWrong⟩
  case read =>
    refine ⟨fun w fine element => ⟨fun clean => ?_, fun c cause => ?_⟩, fun w fine element clean => ?_, fun c v cause => ?_, fun fine beyond => ?_⟩
    · exact (finds_readS_pop (.inr read) scalar (by rw [Ring.elem?_window read fine element, clean]; rfl)).gives
    · exact (finds_readS_pop (.inr read) scalar (by rw [Ring.elem?_window read fine element, cause]; rfl)).meets
    · exact (finds_readS_peek (.inr read) scalar (by rw [Ring.elem?_window read fine element, clean]; rfl)).gives
    · exact (finds_readS_pop (.inr read) scalar (Ring.elem?_of_addrCause read cause)).meets
    · exact (finds_readS_pop (.inr read) scalar (Ring.elem?_window_waits read fine beyond)).misses rfl
  case fifo =>
    refine ⟨fun here free clean => ?_, fun waits => ?_, fun here free clean => ?_, fun waits => ?_⟩
    · exact (finds_readS_pop (.inl fifo) scalar (Ring.elem?_fifo fifo here free clean)).gives
    · exact (finds_readS_pop (.inl fifo) scalar rfl).misses (Ring.elem?_fifo_waits fifo waits)
    · exact (finds_readS_peek (.inl fifo) scalar (Ring.elem?_fifo fifo here free clean)).gives
    · exact (finds_readS_peek (.inl fifo) scalar rfl).misses (Ring.elem?_fifo_waits fifo (waits.imp_left Nat.le_of_eq))
  case wrong =>
    have none := not_gives_scalar wrong
    exact ⟨(raisesEarly_readSrc_pop none).bind, (raisesEarly_readSrc_peek none).bind⟩
  case vector => exact (finds_readV_pop read vector (by rw [Ring.elem?_window read fine element, clean]; rfl)).gives
  case pushFifo =>
    have found := finds_readyPush (kind := fun r => r.elem == 0) rfl (.inl fifo) (by simp [scalar])
    rw [room, if_neg (by omega)] at found
    exact found.gives
  case pushWrite =>
    have found := finds_readyPush (kind := fun r => r.elem == 0) rfl (.inr write) (by simp [scalar])
    rw [room, if_pos write, Ring.asWritten_of_scalar scalar] at found
    refine ⟨fun fine => ?_, fun c v cause => ?_⟩
    · rw [fine] at found
      exact found.gives
    · rw [cause] at found
      exact found.meets
  case full => exact (finds_readyPush (kind := fun r => r.elem == 0) rfl mode (by simp [scalar])).misses full
  case pushWrong => exact raisesEarly_readyPush (kind := fun r => r.elem == 0) rfl (by simpa using wrong)

end Sys2Proof.Machine

/-! O54: the words written out from the tables. -/

namespace Sys2Proof.Codec

/-- Settles O54: each word but the last is the encoding of its instruction, with the S bit clear or set, so it decodes to it; no row has the last. -/
theorem writtenOutWordsDecode : Obligations.WrittenOutWordsDecode := by
  obtain ⟨slot, -⟩ := decodeAndEncodeAgree
  have clear {i : Instr} {w : Nat} (row : encodeSlot i = some w) (wf : i.wf = true) : decodeSlot w = some i := by
    obtain ⟨-, decodes, -⟩ := slot i w row wf
    exact decodes
  have nopStops : decodeSlot (0 + 2 ^ 31) = some .nop := by
    obtain ⟨-, -, decodes⟩ := slot .nop 0 rfl rfl
    exact decodes
  have noRow : decodeSlot 0x00001234 = none := by decide
  exact ⟨clear rfl rfl, clear rfl rfl, clear rfl rfl, clear rfl rfl, nopStops, clear rfl rfl, clear rfl rfl, clear rfl rfl,
    clear rfl rfl, noRow⟩

end Sys2Proof.Codec

/-! O13: gfence (R128). -/

namespace Sys2Proof.Machine

/-- A hold whose condition fails adds its wait to the mark of the bundle. -/
theorem gives_hold_of_false {ok : Bool} (h : ok = false) (s : State) :
    Gives (hold ok) s () (s.onBundle fun b => { b with mark := b.mark.hold none }) := by
  subst h; exact gives_modify _ s

theorem State.uncompleted_older_iff (s : State) (g : Nat) :
    ((s.core.commandsOf s.phys).all fun c => tagOlder c.tag g) = true ↔ ∀ c ∈ s.core.pool.cmds, c.ctx = s.phys → tagOlder c.tag g = true := by
  simp only [Core.commandsOf, List.all_filter, List.all_eq_true, Bool.or_eq_true, Bool.not_eq_true', beq_eq_false_iff_ne, ← imp_iff_not_or]

theorem tagOlder_iff {a b : Nat} (ha : a < 2 ^ 16) :
    tagOlder a b = true ↔ 1 ≤ (b + 2 ^ 16 - a) % 2 ^ 16 ∧ (b + 2 ^ 16 - a) % 2 ^ 16 ≤ 2 ^ 15 - 1 := by
  unfold tagOlder
  rw [Nat.mod_eq_of_lt ha]
  simp only [Bool.and_eq_true, decide_eq_true_eq]

/-- Settles O13: gfence stages its effect under a hold whose condition is that every uncompleted command of the context is older. -/
theorem gfenceAdvancesGeneration : Obligations.GfenceAdvancesGeneration := by
  refine fun s => ⟨fun older => ?_, fun c mem mine younger => ?_, rfl, fun a b ha _ => tagOlder_iff ha⟩
  · exact runSlot_gives ((gives_get s).bind ((gives_hold ((s.uncompleted_older_iff _).mpr older) s).bind (gives_stage _ s)))
  · have held : ((s.core.commandsOf s.phys).all fun c => tagOlder c.tag ((s.ctx.gen + 1) % 2 ^ 16)) = false :=
      Bool.eq_false_iff.mpr fun older => Bool.eq_false_iff.mp younger ((s.uncompleted_older_iff _).mp older c mem mine)
    exact runSlot_gives ((gives_get s).bind ((gives_hold_of_false held s).bind (gives_stage _ _)))

end Sys2Proof.Machine

/-! O9: the operand-free control slots, gidx, gspawn and pwracq. -/

namespace Sys2Proof.Machine

theorem bitAt_eq_testBit (x k : Nat) : bitAt x k = x.testBit k := by
  simp [bitAt, Nat.testBit_eq_decide_div_mod_eq, ← Bool.beq_eq_decide_eq]

theorem bitAt_toNat {n : Nat} (w : BitVec n) (k : Nat) : bitAt w.toNat k = w.getLsbD k := bitAt_eq_testBit _ k

theorem runSlot_stage (e : Effect) (s : State) : runSlot (stage e) s = s.stages [e] := runSlot_gives (gives_stage e s)

/-- A wait instruction whose condition does not hold, first of its bundle to wait. -/
theorem gives_holdWaiting_of_false {ok : Bool} (h : ok = false) (w : WaitOn) {s : State} (first : s.bundle.mark = .none) :
    Gives (holdWaiting ok w) s () (s.onBundle fun b => { b with mark := .waits w }) := by
  subst h
  have held : (s.onBundle fun b => { b with mark := b.mark.hold (some w) }) = s.onBundle fun b => { b with mark := .waits w } := by
    simp [State.onBundle, first, Mark.hold]
  exact held ▸ gives_modify (fun s => s.onBundle fun b => { b with mark := b.mark.hold (some w) }) s

section
variable {s : State}

theorem exit_stages (may : s.ctx.inh = false ∨ s.groupRemains = false) : exec .exit s = s.stages [.exit] :=
  runSlot_gives ((gives_get s).bind ((gives_check (by rcases may with h | h <;> simp [h]) _ _ s).bind (gives_stage _ s)))

theorem gspawn_stages {a : Fin 32} {w x : Word} (first : Gives (readReg a.val) s w s) (second : Gives (readReg (a.val + 1)) s x s)
    (form : w.toNat < 2 ^ 41) (earlier : w.getLsbD 40 = true ∨ w.toNat % 2 ^ 40 ≤ s.ctx.group.index) (free : s.spawnIndex < 2 ^ 40 - 1)
    (room : ∀ y, s.myKernel = some y → y.2.table.length < 4096) : exec (.gspawn a) s = s.stages [.spawn w x] := by
  have reserved : (bits w.toNat 41 23 == 0) = true := by rw [bits, Nat.div_eq_of_lt form]; rfl
  have dep : (bitAt w.toNat 40 || decide (bits w.toNat 0 40 ≤ s.ctx.group.index)) = true := by
    rw [bitAt_toNat]; simpa [bits] using earlier
  have table : (match s.myKernel with | some y => decide (y.2.table.length < 4096) | none => true) = true := by
    split
    · next y hy => simpa using room y hy
    · rfl
  exact runSlot_gives (first.bind (second.bind ((gives_get s).bind ((gives_check reserved _ _ s).bind ((gives_check dep _ _ s).bind
    ((gives_check (by simpa using free) _ _ s).bind ((gives_hold table s).bind (gives_stage _ s))))))))

/-- pwracq notes the level it asks for, and stages it whether it waits or not. -/
theorem pwracq_stages {k : Fin 16} {t : State}
    (wait : Gives (holdWaiting (k.val ≤ s.ctx.power.level || k.val ≤ s.ctx.power.held) .grant)
      (s.onBundle fun b => { b with waitVal := word k.val }) () t) : exec (.pwracq k) s = t.stages [.power k.val] :=
  runSlot_gives ((gives_get s).bind ((gives_modify _ s).bind (wait.bind (gives_stage _ t))))

end

/-- Settles O9: each slot is its checks, where it has any, and then its one effect. -/
theorem operandFreeSlots : Obligations.OperandFreeSlots := by
  refine ⟨fun s code h q level first last => ⟨?nop, runSlot_stage _ s, fun inh => ?tret, runSlot_stage _ s, runSlot_stage _ s, fun ready => ?hrev,
    runSlot_stage _ s, runSlot_stage _ s, exit_stages, runSlot_gives (gives_modify _ s)⟩,
    fun s d dim a k w x => ⟨fun ready => ?gidx, gspawn_stages, fun covered => ?covered, fun level held mark => ?waits⟩⟩
  case nop => exact (runSlot_gives (gives_pure () s)).trans (congrArg _ (staged_nil s).symm)
  case tret => exact runSlot_gives ((gives_get s).bind ((gives_check inh _ _ s).bind (gives_stage _ s)))
  case hrev => exact runSlot_gives ((gives_readyDest ready).bind (gives_stage _ s))
  case gidx => exact runSlot_gives (ready.bind ((gives_get s).bind (gives_putS d 1 _ s)))
  case covered => exact pwracq_stages (gives_holdWaiting (by simpa using covered) _ _)
  case waits =>
    exact pwracq_stages (gives_holdWaiting_of_false (by simp only [Bool.or_eq_false_iff, decide_eq_false_iff_not]; omega) _ mark)

end Sys2Proof.Machine

/-! O51: the registers at reset. -/

namespace Sys2Proof.Machine

theorem getD_replicate_self {α : Type} (n : Nat) (d : α) (k : Nat) : (List.replicate n d).getD k d = d :=
  List.getElem?_getD_replicate_default_eq d n k

/-- A register file of zeros reads 0, also beyond its end. -/
theorem nth_replicate_zero {w : Nat} (n k : Nat) : nth (List.replicate n (0 : BitVec w)) k = 0 := getD_replicate_self n 0 k

theorem Regs.reset_readS (i : Nat) : Regs.reset.readS i = 0 := by
  unfold Regs.readS
  split
  · rfl
  · exact nth_replicate_zero 32 i

theorem Regs.reset_readP {k : Nat} (h : 1 ≤ k) : Regs.reset.readP k = false := by
  obtain ⟨j, rfl⟩ := Nat.exists_eq_add_of_le' h
  unfold Regs.readP
  rw [if_neg (Nat.succ_ne_zero j)]
  split
  · rfl
  · exact getD_replicate_self 15 false j

theorem Ctx.reset_ring_mode (q : Nat) : (Ctx.reset.ring q).mode = 0 := by
  rw [show Ctx.reset.ring q = .unbound from getD_replicate_self 16 Ring.unbound q]
  rfl

/-- Settles O51: the reset state is given field by field, and its register files are lists of zeros. -/
theorem resetLeavesTheTableValues : Obligations.ResetLeavesTheTableValues := by
  rintro s rfl
  refine ⟨rfl, rfl, rfl, Regs.reset_readS, nth_replicate_zero 32, fun _ => Regs.reset_readP, nth_replicate_zero 8, getD_replicate_self 8 0,
    nth_replicate_zero 16, rfl, rfl, rfl, rfl, Ctx.reset_ring_mode, rfl, rfl, rfl, rfl, rfl, rfl, rfl, fun x hx => ?_, rfl, rfl, rfl, rfl, rfl, rfl,
    fun _ => ⟨rfl, rfl⟩, rfl, fun x hx => ?_, rfl, rfl, rfl, rfl, rfl⟩
  · obtain rfl := List.eq_of_mem_replicate hx
    exact ⟨rfl, rfl⟩
  · obtain rfl := List.eq_of_mem_replicate hx
    exact ⟨rfl, rfl, rfl⟩

end Sys2Proof.Machine

/-! O45, O46: the faults that stop a context, over one law of stopFault. -/

namespace Sys2Proof.Machine

section
variable {s : State} {c : Cause} {v : Word} {pc slots : Nat} {esc : Bool}

theorem State.stopFault_now (done : s.ctx.fnPending = false) : s.stopFault c v pc slots esc = s.takeFault c v pc slots esc := by
  simp [State.stopFault, done]

/-- A system fault, or an escalation, whose entry waited is the fault it was. -/
theorem State.takeEntry_fault {e : Entry} (fault : e.isFault = true) : s.takeEntry e = s.stopFault e.cause e.val e.epc e.slots e.esc := if_pos fault

theorem State.takePrecise_system (system : c.isProgram = false) : s.takePrecise c v pc slots = s.stopFault c v pc slots false := by
  simp [State.takePrecise, system]

theorem State.takePrecise_double (program : c.isProgram = true) (handler : s.ctx.inh = true) :
    s.takePrecise c v pc slots = s.stopFault .double (word c.code) pc slots false := by
  simp [State.takePrecise, program, handler]

theorem State.takePrecise_escalates (program : c.isProgram = true) (out : s.ctx.inh = false) (disabled : s.ctx.tr.enabled = false) :
    s.takePrecise c v pc slots = s.stopFault c v pc slots true := by
  simp [State.takePrecise, program, out, disabled]

/-- ESC of TCAUSE after a fault: an escalation sets it, and nothing clears it (R111). -/
theorem TrapRegs.faulted_esc (t : TrapRegs) : bitAt (t.faulted v pc slots esc).tcause.toNat 13 = (esc || bitAt t.tcause.toNat 13) := by
  cases esc
  · rfl
  · simp only [bitAt_toNat]
    change (t.tcause ||| word (2 ^ 13)).getLsbD 13 = true
    rw [BitVec.getLsbD_or]
    simp [word]

/-- The fault record of a fault that is taken (R112). -/
theorem State.takeFault_record (s : State) (hpc : pc < 2 ^ 21) (hslots : slots < 256) {t : State} (ht : t = s.takeFault c v pc slots esc) :
    t.ctx.st = .faulted ∧ t.ctx.blk.fcause = c.code ∧ t.ctx.blk.fval = v ∧ t.ctx.blk.esc = esc ∧ t.ctx.blk.fpc = pc ∧ t.ctx.blk.fslots = slots ∧
      t.ctx.tr.tval = v ∧ bitAt t.ctx.tr.tcause.toNat 13 = (esc || bitAt s.ctx.tr.tcause.toNat 13) := by
  subst ht
  exact ⟨rfl, rfl, rfl, rfl, Nat.mod_eq_of_lt hpc, Nat.mod_eq_of_lt hslots, rfl, TrapRegs.faulted_esc _⟩

end

/-- Settles O45: both escalations are stopFault, whose fault is taken at once or, as an entry, once the function results have landed. -/
theorem programTrapsEscalate : Obligations.ProgramTrapsEscalate := by
  rintro s _ c v pc slots stops program rfl hpc hslots hstops
  have stopped {k : Cause} {w : Word} {b : Bool} (fault : !k.isProgram || b) (h : s.takePrecise c v pc slots = s.stopFault k w pc slots b) :
      stops k w b := by
    rw [hstops, h]
    refine ⟨fun done => s.takeFault_record hpc hslots (State.stopFault_now done), fun pending =>
      ⟨{ cause := k, val := w, epc := pc, slots := slots, defer := false, esc := b }, by simp [State.stopFault, pending], ?_⟩⟩
    rintro u done _ rfl
    exact u.takeFault_record hpc hslots ((State.takeEntry_fault (by exact fault)).trans (State.stopFault_now done))
  exact ⟨fun handler => stopped rfl (State.takePrecise_double program handler),
    fun out disabled => stopped (Bool.or_true _) (State.takePrecise_escalates program out disabled)⟩

/-- Settles O46: a system fault is stopFault, taken at once or kept as the entry that takes it. -/
theorem systemFaultsStopTheContext : Obligations.SystemFaultsStopTheContext := by
  rintro s _ c v pc slots mine system rfl hpc hslots rfl
  have fault : s.takePrecise c v pc slots = s.stopFault c v pc slots false := State.takePrecise_system system
  refine ⟨fun done => ?_, fun pending running wait bars ring released => ?_⟩
  · rw [fault, State.stopFault_now done]
    have blk : (s.takeFault c v pc slots false).ctx.blk = { s.ctx.blk with fpc := pc, fslots := slots, fcause := c.code, fval := v, esc := false } := by
      simp only [State.takeFault, Nat.mod_eq_of_lt hpc, Nat.mod_eq_of_lt hslots]
    have tr : (s.takeFault c v pc slots false).ctx.tr =
        { s.ctx.tr with tepc := BitVec.ofNat 64 (pc / 2 ^ 5 % 2 ^ 16 * 32), tval := v, tslot := BitVec.ofNat 64 slots } := by
      simp only [State.takeFault, TrapRegs.faulted, Nat.mod_eq_of_lt hslots]; rfl
    exact ⟨rfl, blk, rfl, rfl, rfl, rfl, rfl, tr, rfl, rfl, rfl, rfl, rfl, rfl, rfl, rfl, rfl, rfl, rfl⟩
  · refine ⟨{ cause := c, val := v, epc := pc, slots := slots, defer := false, esc := false }, ?_, fun u _ => ?_⟩
    · rw [fault, State.stopFault, if_pos pending]
      simp only [State.onCtx, running, reduceCtorEq, if_false, ← wait, ← bars, ← ring, ← released]
    · rw [State.takePrecise_system system]
      exact State.takeEntry_fault (by simp [Entry.isFault, system])

end Sys2Proof.Machine

/-! O47: the return from a handler, the replay of its late writes, and the trap instruction. -/

namespace Sys2Proof.Machine

/-- The context as a return goes on, before it takes its address (R124). -/
def State.returning (s : State) : State :=
  s.onCtx fun c => { c with
    loops := c.held, held := .empty, inh := false, st := .running, replay := !c.late.isEmpty, probes := [],
    order := { c.order with scDrain := none, scPassed := false } }

/-- Without an active level at its address a context goes on there at once (R145). -/
theorem State.reinstate_flat {s : State} {pc : Nat} (flat : (s.ctx.loops.branchTo pc).levels = []) :
    s.reinstate pc = s.onCtx fun c => { c with pc := word pc, loops := c.loops.branchTo pc, loopBuf := [] } := by
  unfold State.reinstate
  dsimp only [State.onCtx_ctx]
  rw [flat]; rfl

/-- A context that a return leaves in no fault goes on at its address with the levels that hold it. -/
theorem State.reinstate_running {s : State} {pc : Nat} (fine : (s.reinstate pc).ctx.st ≠ .faulted) :
    (s.reinstate pc).ctx.pc = word pc ∧ (s.reinstate pc).ctx.inh = s.ctx.inh ∧ (s.reinstate pc).ctx.loops = s.ctx.loops.branchTo pc ∧
      (s.reinstate pc).ctx.regs = s.ctx.regs := by
  unfold State.reinstate at fine ⊢
  dsimp only at fine ⊢
  split at fine
  · exact ⟨rfl, rfl, rfl, rfl⟩
  · split at fine
    · exact ⟨rfl, rfl, rfl, rfl⟩
    · exact absurd rfl fine

theorem Ctx.replayLate_of_replay {c : Ctx} (replay : c.replay = true) : c.replayLate =
    { c with pend := c.late.filter c.mayReplay ++ c.pend, late := c.late.filter fun p => !c.mayReplay p, replay := false } := if_pos replay

/-- Settles O47: a return is reinstate at TEPC, a replay sends back what mayReplay names, and a trap instruction leaves its entry or takes its cause. -/
theorem returnsAndTrapInstructions : Obligations.ReturnsAndTrapInstructions := by
  refine ⟨?_, ?_, fun c replay => ?_, ?_⟩
  · rintro s _ _ rfl rfl flat
    have eq : s.commitTret = s.returning.onCtx _ := State.reinstate_flat flat
    have loops : s.ctx.held.branchTo (s.ctx.tr.tepc.toNat / 2 ^ 5 % 2 ^ 16 * 32) = { s.ctx.held with levels := [] } := by
      simp only [LoopStack.branchTo, LoopStack.mk.injEq, and_true]; exact flat
    rw [eq]
    exact ⟨rfl, rfl, rfl, loops, rfl, by simp [State.returning], rfl, rfl, rfl, rfl, rfl, rfl⟩
  · rintro s _ rfl running
    obtain ⟨pc, inh, loops, regs⟩ := State.reinstate_running (s := s.returning) fun faulted => CtxState.noConfusion (running.symm.trans faulted)
    exact ⟨pc, inh, loops, regs⟩
  · have mine (handler : c.inh = true) : c.mayReplay = fun p => p.inh := funext fun p => by simp [Ctx.mayReplay, handler]
    rw [Ctx.replayLate_of_replay replay]
    exact ⟨rfl, fun out => by simp [Ctx.mayReplay, out], fun handler => by simp [mine handler]⟩
  · rintro s _ code pos rfl - done
    refine ⟨fun out enabled => ⟨{ cause := .trap, val := word code, epc := s.ctx.pc.toNat, slots := 2 ^ pos, defer := false }, ?_, rfl, rfl, rfl, rfl⟩,
      fun handler => ?_, fun out disabled => ?_⟩
    · exact if_neg (by simp [out, TrapRegs.enabled, enabled])
    · rw [State.commitTrap, if_pos (.inl handler), State.takePrecise_double rfl handler, State.stopFault_now done]
      exact ⟨rfl, rfl, rfl⟩
    · rw [State.commitTrap, if_pos (.inr (by rw [show s.ctx.tr.enabled = false from disabled]; rfl)), State.takePrecise_escalates rfl out disabled, State.stopFault_now done]
      exact ⟨rfl, rfl, rfl⟩

end Sys2Proof.Machine

/-! O44: the entry to the trap handler. -/

namespace Sys2Proof.Machine

/-- A bit that is set, taken away, is cleared, and the other bits stay. -/
theorem getLsbD_sub_word {x : Word} {k : Nat} (lt : k < 64) (set : x.getLsbD k = true) (j : Nat) :
    (x - word (2 ^ k)).getLsbD j = (x.getLsbD j && j != k) := by
  have bit (j : Nat) : (word (2 ^ k)).getLsbD j = decide (j = k) := by
    rw [show word (2 ^ k) = BitVec.twoPow 64 k from BitVec.eq_of_toNat_eq (by simp [word])]
    simp [BitVec.getLsbD_twoPow, lt, eq_comm]
  have clear : (x &&& ~~~ word (2 ^ k)) &&& word (2 ^ k) = 0 := by simp [BitVec.and_assoc]
  have parts : x = (x &&& ~~~ word (2 ^ k)) + word (2 ^ k) := by
    rw [BitVec.add_eq_or_of_and_eq_zero _ _ clear]
    ext i hi
    simp only [← BitVec.getLsbD_eq_getElem, BitVec.getLsbD_or, BitVec.getLsbD_and, BitVec.getLsbD_not, bit]
    by_cases h : i = k
    · simp [h, set]
    · simp [h, hi]
  have diff : x - word (2 ^ k) = x &&& ~~~ word (2 ^ k) := by
    conv_lhs => rw [parts, BitVec.add_sub_cancel]
  rw [diff, BitVec.getLsbD_and, BitVec.getLsbD_not, bit]
  by_cases hj : j < 64
  · simp [hj, bne, BEq.beq]
  · simp [BitVec.getLsbD_of_ge _ _ (Nat.le_of_not_lt hj)]

theorem Cause.code_lt (c : Cause) : c.code < 64 := by cases c <;> decide

/-- Entering the handler clears the pending bit of the cause and no other (R110). -/
theorem Ctx.enterHandler_tpend (c : Ctx) (e : Entry) (k : Nat) :
    bitAt (c.enterHandler e).tr.tpend.toNat k = (bitAt c.tr.tpend.toNat k && k != e.cause.code) := by
  simp only [Ctx.enterHandler, bitAt_toNat]
  split
  · exact getLsbD_sub_word e.cause.code_lt ‹_› k
  · rename_i clear
    by_cases h : k = e.cause.code
    · simpa [h] using clear
    · simp [h]

/-- What the handler finds in TCAUSE (Table 5.3): DEFER, whether late writes are held, and the cause. -/
theorem Ctx.enterHandler_tcause (c : Ctx) (e : Entry) :
    (c.enterHandler e).tr.tcause.toNat = (if e.defer then 2 ^ 15 else 0) + (if c.late = [] then 0 else 2 ^ 14) + e.cause.code := by
  have lt := e.cause.code_lt
  simp only [Ctx.enterHandler, word, BitVec.toNat_ofNat, ne_eq, List.length_eq_zero_iff]
  split <;> split <;> simp_all <;> omega

/-- The context whose results, all exposed, have been captured (R105). -/
def Ctx.captured (c : Ctx) : Ctx :=
  { c with
    barWait := []
    released := []
    late := c.late ++ c.pend.map fun p => { p with left := p.left + c.stopped.getD 0, inh := c.inh }
    pend := []
    stopped := none }

theorem Ctx.interPending_eq_false {c : Ctx} (exposed : c.pend.filter Pending.isInter = []) (returned : c.awaits = [])
    (loaded : ∀ a ∈ c.gq, a.dest = .none) : c.interPending = false := by
  have pend : c.pend.any Pending.isInter = false := by simpa [List.filter_eq_nil_iff] using exposed
  have gq : (c.gq.any fun a => a.dest != .none) = false := by simpa using loaded
  simp [Ctx.interPending, pend, returned, gq]

theorem Ctx.takeTrap_enters {c : Ctx} {e : Entry} (free : c.safeHold = false) (exposed : c.pend.filter Pending.isInter = [])
    (returned : c.awaits = []) (loaded : ∀ a ∈ c.gq, a.dest = .none) : c.takeTrap e = c.captured.enterHandler e := by
  have enters : c.takeTrap e = ({ c with barWait := [], released := [] } : Ctx).capture.enterHandler e :=
    (if_neg (Bool.eq_false_iff.mp free)).trans (if_neg (Bool.eq_false_iff.mp (Ctx.interPending_eq_false (c := c) exposed returned loaded)))
  have all : (c.pend.filter fun p => !p.isInter) = c.pend :=
    List.filter_eq_self.mpr fun p mem => by simpa using List.filter_eq_nil_iff.mp exposed p mem
  rw [enters, Ctx.capture, Ctx.captured]
  dsimp only
  rw [all, exposed]

theorem Ctx.takeTrap_waits {c : Ctx} {e : Entry} (free : c.safeHold = false) (inter : c.interPending = true) :
    c.takeTrap e = { ({ c with barWait := [], released := [] } : Ctx).stopWaits with entry := some e, st := .running } :=
  (if_neg (Bool.eq_false_iff.mp free)).trans (if_pos inter)

/-- Settles O44: an entry captures and enters the handler, or waits for the safe point's results, or for the interlocked ones. -/
theorem takingATrap : Obligations.TakingATrap := by
  rintro c e _ rfl
  refine ⟨fun free exposed returned loaded => ?_, fun safe => if_pos safe, fun free inter => ?_⟩
  · rw [Ctx.takeTrap_enters free exposed returned loaded]
    refine ⟨rfl, rfl, rfl, rfl, rfl, rfl, rfl, Ctx.enterHandler_tcause _ e, rfl, ?_, ?_, ?_, fun k ne => ?_, rfl, rfl, rfl, rfl, rfl, rfl, rfl, rfl, rfl, rfl, rfl⟩
    · exact Nat.mod_eq_of_lt (by unfold bits; omega)
    · exact Nat.mod_eq_of_lt (by omega)
    · rw [Ctx.enterHandler_tpend]; simp
    · rw [Ctx.enterHandler_tpend, bne_iff_ne.mpr ne, Bool.and_true]; rfl
  · obtain ⟨p, mem, hp⟩ := inter
    have wait : c.interPending = true := by simp [Ctx.interPending, List.any_eq_true.mpr ⟨p, mem, hp⟩]
    rw [Ctx.takeTrap_waits free wait]
    exact ⟨rfl, rfl, rfl, rfl, rfl, rfl, rfl, rfl, rfl, rfl⟩

end Sys2Proof.Machine

/-! O48: the bundles in which a slot raises. -/

namespace Sys2Proof.Machine

/-! ## The lowest cause (R104) -/

theorem testBit_posMask (l : List Nat) (j : Nat) : (posMask l).testBit j = decide (j ∈ l) := by
  have fold (m : Nat) : (l.foldl (fun m j => m ||| 2 ^ j) m).testBit j = (m.testBit j || decide (j ∈ l)) := by
    induction l generalizing m with
    | nil => simp
    | cons k t ih => simp [ih, Nat.testBit_or, Nat.testBit_two_pow, Bool.or_assoc, Bool.decide_or, eq_comm]
  exact (fold 0).trans (by simp)

/-- Of two causes the one of the lower code, the first where the codes are one. -/
def Cause.lower (m : Cause) (y : Cause × Word × Nat) : Cause := if y.1.code < m.code then y.1 else m

theorem foldl_lower_spec (l : List (Cause × Word × Nat)) (m : Cause) :
    (l.foldl Cause.lower m = m ∨ ∃ x ∈ l, x.1 = l.foldl Cause.lower m) ∧
      (l.foldl Cause.lower m).code ≤ m.code ∧ ∀ x ∈ l, (l.foldl Cause.lower m).code ≤ x.1.code := by
  induction l generalizing m with
  | nil => simp
  | cons y t ih =>
    obtain ⟨mem, le, least⟩ := ih (m.lower y)
    have step : (m.lower y = m ∨ m.lower y = y.1) ∧ (m.lower y).code ≤ m.code ∧ (m.lower y).code ≤ y.1.code := by
      unfold Cause.lower
      split
      · exact ⟨.inr rfl, by omega, le_refl _⟩
      · exact ⟨.inl rfl, le_refl _, by omega⟩
    obtain ⟨pick, lem, ley⟩ := step
    refine ⟨?_, le.trans lem, List.forall_mem_cons.mpr ⟨le.trans ley, least⟩⟩
    rcases mem with same | ⟨x, hx, e⟩
    · rcases pick with h | h
      · exact .inl (same.trans h)
      · exact .inr ⟨y, List.mem_cons_self, (same.trans h).symm⟩
    · exact .inr ⟨x, List.mem_cons_of_mem _ hx, e⟩

/-- The cause taken is one of those raised, of lowest code, and its mask holds the positions that raised it (R104). -/
theorem lowestCause_spec {l : List (Cause × Word × Nat)} (raised : l ≠ []) :
    ∃ (c : Cause) (v : Word) (m : Nat), lowestCause l = some (c, v, m) ∧ (∃ j, (c, v, j) ∈ l) ∧ (∀ x ∈ l, c.code ≤ x.1.code) ∧
      ∀ j, bitAt m j = true ↔ ∃ x ∈ l, x.1 = c ∧ x.2.2 = j := by
  obtain ⟨x, t, rfl⟩ := List.exists_cons_of_ne_nil raised
  obtain ⟨mem, le, least⟩ := foldl_lower_spec t x.1
  let c := t.foldl Cause.lower x.1
  let same := (x :: t).filter fun y => y.1 == c
  have found : ∃ y, y ∈ same := by
    rcases mem with h | ⟨y, hy, h⟩
    · exact ⟨x, List.mem_filter.mpr ⟨List.mem_cons_self, beq_iff_eq.mpr h.symm⟩⟩
    · exact ⟨y, List.mem_filter.mpr ⟨List.mem_cons_of_mem _ hy, beq_iff_eq.mpr h⟩⟩
  obtain ⟨y, rest, hsame⟩ := List.exists_cons_of_ne_nil (List.ne_nil_of_mem found.choose_spec)
  have first : y ∈ same := hsame ▸ List.mem_cons_self
  obtain ⟨hy, hc⟩ := List.mem_filter.mp first
  refine ⟨c, (same.headD x).2.1, posMask (same.map fun y => y.2.2), rfl, ⟨y.2.2, ?_⟩, List.forall_mem_cons.mpr ⟨le, least⟩, fun j => ?_⟩
  · rw [hsame, ← beq_iff_eq.mp hc]; exact hy
  · rw [bitAt_eq_testBit, testBit_posMask, decide_eq_true_iff, List.mem_map]
    exact ⟨fun ⟨z, hz, e⟩ => ⟨z, (List.mem_filter.mp hz).1, beq_iff_eq.mp (List.mem_filter.mp hz).2, e⟩,
      fun ⟨z, hz, hzc, e⟩ => ⟨z, List.mem_filter.mpr ⟨hz, beq_iff_eq.mpr hzc⟩, e⟩⟩

/-! ## The pages a probe has walked (R194) -/

/-- What each step of a fold may change is all that the fold changes. -/
theorem foldl_rel {α β : Type} {r : α → α → Prop} {f : α → β → α} (refl : ∀ a, r a a) (trans : ∀ {a b c}, r a b → r b c → r a c)
    (step : ∀ a x, r a (f a x)) (l : List β) (a : α) : r a (l.foldl f a) := by
  induction l generalizing a with
  | nil => exact refl a
  | cons x t ih => exact trans (step a x) (ih _)

/-- t is s but for the device. -/
def State.DevOnly (s t : State) : Prop := t = { s with dev := t.dev }

theorem State.devOnly_onDev (s : State) (f : Device → Device) : s.DevOnly (s.onDev f) := rfl

theorem State.DevOnly.trans {s t u : State} (h : s.DevOnly t) (k : t.DevOnly u) : s.DevOnly u := by
  unfold State.DevOnly at *
  rw [k, h]

theorem State.devOnly_readsLines (s : State) (a w : Nat) : s.DevOnly (s.readsLines a w) := by
  unfold State.readsLines
  split <;> rfl

theorem State.devOnly_heatLeaf (s : State) (leaf : Nat) (write : Bool) : s.DevOnly (s.heatLeaf leaf write) := by
  unfold State.heatLeaf State.stepLeaf
  split <;> rfl

theorem State.devOnly_walkUses (s : State) (root va : Nat) : s.DevOnly (s.walkUses root va) := by
  unfold State.walkUses
  split
  · rfl
  · exact foldl_rel (r := State.DevOnly) (fun _ => rfl) State.DevOnly.trans (fun t a => t.devOnly_readsLines a 64) _ s

/-- t is s but for the device and the translation cache. -/
def State.FillOnly (s t : State) : Prop := t = { s with core := { s.core with tcache := t.core.tcache }, dev := t.dev }

theorem State.FillOnly.trans {s t u : State} (h : s.FillOnly t) (k : t.FillOnly u) : s.FillOnly u := by
  unfold State.FillOnly at *
  rw [k, h]

theorem State.DevOnly.fillOnly {s t : State} (h : s.DevOnly t) : s.FillOnly t := by
  unfold State.DevOnly at h
  rw [h]; rfl

theorem State.fillOnly_tcache (s : State) (f : List TcEntry → List TcEntry) : s.FillOnly (s.onCore fun k => { k with tcache := f k.tcache }) := rfl

theorem State.fillOnly_probed (s : State) (x : TcEntry) : s.FillOnly (s.probed x) := by
  have filled : s.FillOnly (((s.walkUses s.ctx.blk.root (canonVa (x.vpn * 2 ^ 19))).onCore fun k => { k with tcache := tcFill k.tcache x }).heatLeaf x.addr false) :=
    ((s.devOnly_walkUses ..).fillOnly.trans (State.fillOnly_tcache _ (tcFill · x))).trans (State.devOnly_heatLeaf ..).fillOnly
  unfold State.probed
  dsimp only
  split
  · exact filled.trans (State.devOnly_onDev ..).fillOnly
  · exact filled

theorem State.fillOnly_keepFills (s : State) (b : Bundle) : s.FillOnly (s.keepFills b) :=
  foldl_rel (r := State.FillOnly) (fun _ => rfl) State.FillOnly.trans State.fillOnly_probed b.kept s

/-! ## The bundle judged (R415) -/

theorem Ctx.run_eq (c : Ctx) : c.run = { c with st := c.run.st } ∧ (c.run.st = c.st ∨ c.st = .ready ∧ c.run.st = .running) := by
  unfold Ctx.run
  split
  · exact ⟨rfl, .inr ⟨‹_›, rfl⟩⟩
  · exact ⟨rfl, .inl rfl⟩

theorem State.judge_early {s0 s : State} {ws : List Nat} {l : List SlotEnd} {x : Cause × Word × Nat} (low : lowestCause (earlyCauses l) = some x) :
    s0.judge s ws l = .idle ((s0.onCtx Ctx.run).takePrecise x.1 x.2.1 s.bundle.pc x.2.2) := by
  simp only [State.judge, low]

theorem State.judge_check {s0 s : State} {ws : List Nat} {l : List SlotEnd} {x : Cause × Word × Nat} (early : earlyCauses l = [])
    (none : ∀ e ∈ l, e.mark ≠ .stalled) (within : s.ctx.overdrawn (s.bundleCharge ws) = false) (low : lowestCause (checkCauses l) = some x) :
    s0.judge s ws l = .idle (((s0.keepFills s.bundle).onCtx Ctx.run).takePrecise x.1 x.2.1 s.bundle.pc x.2.2) := by
  have going : (l.any fun e => e.mark == .stalled) = false := by simpa using none
  have quiet : lowestCause (earlyCauses l) = Option.none := congrArg lowestCause early
  simp only [State.judge, quiet, going, low, within, lowerCause, Bool.false_eq_true, if_false]

/-- Settles O48: the cause is the lowest of those raised, and it is taken on the state before the bundle, with the fills of its probes once no ring's mode raised. -/
theorem raisingBundlesDoNotCommit : Obligations.RaisingBundlesDoNotCommit := by
  intro s0 s ws l cs _ raised which
  obtain ⟨c, v, m, low, mem, least, mask⟩ := lowestCause_spec raised
  suffices h : ∃ t, s0.FillOnly t ∧ s0.judge s ws l = .idle ((t.onCtx Ctx.run).takePrecise c v s.bundle.pc m) ∧
      (s.bundle.kept = [] ∨ cs = earlyCauses l → t = s0) by
    obtain ⟨t, fill, judged, kept⟩ := h
    obtain ⟨tc, d, rfl⟩ : ∃ tc d, t = { s0 with core := { s0.core with tcache := tc }, dev := d } := ⟨_, _, fill⟩
    obtain ⟨run, st⟩ := s0.ctx.run_eq
    refine ⟨c, v, m, _, judged, ?_, st, fun h => ?_, mem, least, mask⟩
    · exact congrArg (fun c => ({ s0 with ctx := c, core := { s0.core with tcache := tc }, dev := d } : State)) run
    · rw [kept h]; exact ⟨rfl, rfl⟩
  rcases which with rfl | ⟨early, none, within, rfl⟩
  · exact ⟨s0, rfl, State.judge_early low, fun _ => rfl⟩
  · refine ⟨_, s0.fillOnly_keepFills s.bundle, State.judge_check early none within low, fun h => ?_⟩
    rcases h with kept | h
    · rw [State.keepFills, kept]; rfl
    · exact absurd (h.trans early) raised

end Sys2Proof.Machine

/-! O42: what each effect of a bundle does when it commits, and that none but the heat of pages touches a memory. -/

namespace Sys2Proof.Machine

/-! ## What the commits leave alone: the memories -/

/-- The memories that the context at work reads, with the number of that context. -/
def State.memories (s : State) : (Memory × Memory × Memory × Memory) × Nat := ((s.core.act, s.core.stg, s.core.imem, s.dev.mem), s.phys)

@[simp] theorem State.onCtx_memories (s : State) (f : Ctx → Ctx) : (s.onCtx f).memories = s.memories := rfl

@[simp] theorem State.onPower_memories (s : State) (f : PowerUnit → PowerUnit) : (s.onPower f).memories = s.memories := rfl

@[simp] theorem State.lowerHeld_memories (s : State) (k : Nat) : (s.lowerHeld k).memories = s.memories := by
  unfold State.lowerHeld; split <;> rfl

@[simp] theorem State.commitSpawn_memories (s : State) (w x : Word) : (s.commitSpawn w x).memories = s.memories := by
  unfold State.commitSpawn; split <;> rfl

@[simp] theorem State.startWalk_memories (s : State) (va : Word) : (s.startWalk va).memories = s.memories := by
  unfold State.startWalk; split <;> rfl

@[simp] theorem State.commitCommand_memories (s : State) (c : Command) : (s.commitCommand c).memories = s.memories := by
  unfold State.commitCommand; split <;> rfl

theorem State.memories_onCore (s : State) {f : Core → Core}
    (kept : ((f s.core).act, (f s.core).stg, (f s.core).imem) = (s.core.act, s.core.stg, s.core.imem)) : (s.onCore f).memories = s.memories := by
  simp only [Prod.mk.injEq] at kept
  obtain ⟨act, stg, imem⟩ := kept
  simp only [State.memories, State.onCore_core, State.onCore_dev, State.onCore_phys, act, stg, imem]

theorem State.memories_ite {s t : State} {p : Prop} [Decidable p] (kept : t.memories = s.memories) : (if p then t else s).memories = s.memories := by
  split
  · exact kept
  · rfl

theorem State.memories_drain (s : State) (a w : Nat) : (s.onCore fun k => k.drain a w).memories = s.memories :=
  s.memories_onCore (by unfold Core.drain; split <;> rfl)

/-! ### Rings (R211, R219, R220) -/

theorem State.memories_fillWindow (s : State) (r : Ring) : (s.onCore fun c => r.window.foldl (fun c w => c.fill w.addr r.size) c).memories = s.memories :=
  s.memories_onCore (foldl_keeps (fun c : Core => (c.act, c.stg, c.imem)) (fun c w => by rw [Core.fill_eq]) r.window s.core)

@[simp] theorem State.discard_memories (s : State) (q : Nat) : (s.discard q).memories = s.memories := by
  unfold State.discard
  dsimp only
  split
  · exact s.memories_fillWindow _
  · rfl

@[simp] theorem State.detachPushes_memories (s : State) (q : Nat) : (s.detachPushes q).memories = s.memories := rfl

@[simp] theorem State.commitQbind_memories (s : State) (q : Nat) (a w : Word) (h : HandleBits) : (s.commitQbind q a w h).memories = s.memories := by
  simp [State.commitQbind]

@[simp] theorem State.commitQunb_memories (s : State) (q : Nat) : (s.commitQunb q).memories = s.memories := by simp [State.commitQunb]

@[simp] theorem State.commitQadv_memories (s : State) (q n : Nat) : (s.commitQadv q n).memories = s.memories := by
  unfold State.commitQadv
  dsimp only
  split <;> simp

/-! ### Halves and beats (R276, R288 to R295) -/

@[simp] theorem State.halfEvent_memories (s : State) (f : Nat) (e : HalfEvent) (ctx b pc : Nat) : (s.halfEvent f e ctx b pc).memories = s.memories := by
  unfold State.halfEvent
  dsimp only
  split
  · rfl
  · split <;> rfl

/-- An event of the context at work reaches it in its slot, or a record of the device (R295). -/
@[simp] theorem State.toContext_memories (s : State) (b : Nat) (f : Ctx → Ctx) : (s.toContext s.phys b f).memories = s.memories := by
  unfold State.toContext
  split
  · rw [State.atCtx_onCtx]; rfl
  · rfl

theorem State.macroRecord_memories {s : State} {n : Nat} (own : n = s.phys) (cause : Cause) (f info val b pc : Nat) :
    (s.macroRecord cause f info val n b pc).memories = s.memories := by
  subst own
  exact State.toContext_memories (s.record _ _ _ _ _) b _

theorem State.checkFailed_memories (s : State) (f info val b pc : Nat) : (s.checkFailed f info val s.phys b pc).memories = s.memories := by
  have event := s.halfEvent_memories f (.fail false) s.phys b pc
  unfold State.checkFailed
  generalize s.halfEvent f (.fail false) s.phys b pc = t at event ⊢
  have counted : (t.onCore fun c => { c with mcnt := { c.mcnt with softErr := true, chk := (c.mcnt.chk + 1) % 2 ^ 16 } }).memories = s.memories := event
  exact (State.macroRecord_memories (congrArg Prod.snd counted).symm ..).trans counted

@[simp] theorem State.blockCheck_memories (s : State) (e : DotEntry) (pc : Nat) : (s.blockCheck e pc).memories = s.memories := by
  unfold State.blockCheck
  dsimp only
  split
  · split
    · exact s.checkFailed_memories ..
    · rfl
  · rfl

@[simp] theorem State.nanScale_memories (s : State) (e : DotEntry) (pc : Nat) : (s.nanScale e pc).memories = s.memories := by
  unfold State.nanScale
  dsimp only
  split
  · exact State.macroRecord_memories rfl ..
  · rfl

@[simp] theorem State.foldAll_memories (s : State) (mask pc : Nat) : (s.foldAll mask pc).memories = s.memories := by
  have checked := foldl_keeps State.memories (fun t e => State.blockCheck_memories t e pc) (s.groupHalves mask) s
  have scaled := foldl_keeps State.memories (fun t e => State.nanScale_memories t e pc) (s.groupHalves mask)
  have folded := foldl_keeps State.memories (f := State.foldGroup) fun _ _ => rfl
  exact (folded _ _).trans ((scaled _).trans checked)

@[simp] theorem State.drainAll_memories (s : State) (mask : Nat) : (s.drainAll mask).memories = s.memories := by
  unfold State.drainAll
  dsimp only
  split <;> rfl

@[simp] theorem State.commitBeat_memories (s : State) (kind mask : Nat) (planes : List (Nat × Nat)) (sh : List Shaft) (pc : Nat) :
    (s.commitBeat kind mask planes sh pc).memories = s.memories :=
  have shafts : (if kind ≤ 1 then s.onCore fun c => { c with dot := { c.dot with shafts := sh } } else s).memories = s.memories := State.memories_ite rfl
  have presented := foldl_keeps State.memories (f := fun t (p : Nat × Nat) => t.plane p.1 p.2) (fun _ _ => rfl) planes
  (State.memories_ite (State.drainAll_memories ..)).trans ((State.memories_ite (State.foldAll_memories ..)).trans ((presented _).trans shafts))

@[simp] theorem State.commitMmode_memories (s : State) (f n fmt : Nat) (dot : Bool) (pc : Nat) :
    (s.commitMmode f n fmt dot pc).memories = s.memories :=
  foldl_keeps State.memories (fun t k => by simp) (List.range n) s

@[simp] theorem State.commitMchk_memories (s : State) (f pc : Nat) : (s.commitMchk f pc).memories = s.memories := by
  unfold State.commitMchk
  dsimp only
  split <;> rfl

/-- Of the effects only the fills of a probe and the sample of a handle access write memory: the heat of a page's leaf (R198). -/
theorem State.applyEffect_memories (s : State) {e : Effect} (fills : ∀ l, e ≠ .fills l) (sample : ∀ leaf w, e ≠ .sample leaf w) :
    (s.applyEffect e).memories = s.memories := by
  cases e with
  | fills l => exact absurd rfl (fills l)
  | sample leaf w => exact absurd rfl (sample leaf w)
  | clearFull a w => exact s.memories_drain a w
  | store a =>
    unfold State.applyEffect
    dsimp only
    split <;> rfl
  | walk va => exact s.startWalk_memories va
  | power k => exact (State.onCtx_memories ..).trans (s.lowerHeld_memories k)
  | spawn w x => exact s.commitSpawn_memories w x
  | command c => exact s.commitCommand_memories c
  | beat kind mask planes sh => exact s.commitBeat_memories ..
  | mmode f n fmt dot => exact s.commitMmode_memories ..
  | mchk f => exact s.commitMchk_memories ..
  | qbind q a w h => exact s.commitQbind_memories ..
  | qunb q => exact s.commitQunb_memories q
  | qadv q n => exact s.commitQadv_memories q n
  | _ => rfl

/-! ## The effects one by one -/

theorem Ring.pushed_eq (r : Ring) : r.pushed = { r with alloc := r.alloc + 1, cur := if r.mode = 1 then r.cur else r.addrAt 1 } := by
  unfold Ring.pushed
  split <;> rfl

/-- Settles O42: each clause is applyEffect of its effect, and the memories stay by applyEffect_memories. -/
theorem commitAppliesEffects : Obligations.CommitAppliesEffects := by
  intro s e
  refine ⟨?result, ?store, ?_, ?_, ?_, ?command, ?pop, ?_, ?_, fun fills sample => ?memories⟩
  case result =>
    rintro p p' rfl
    refine ⟨fun h => h ▸ rfl, ?_⟩
    rintro q r rfl rfl flies
    simp only [State.applyEffect, Ring.pushed_eq, if_neg flies]
    rfl
  case store =>
    rintro a a' rfl rfl
    refine ⟨fun plain => ?_, fun atomic => ?_⟩
    · simp only [State.applyEffect, plain]; rfl
    · simp only [State.applyEffect, Option.isSome_iff_ne_none.mpr atomic]; rfl
  case command =>
    rintro c rfl engine
    exact if_pos engine
  case pop =>
    rintro q r rfl rfl
    refine ⟨fun other => ?_, fun fifo => ?_⟩
    · simp only [State.applyEffect, State.onCtx, show (s.ctx.ring q).popped = _ from if_neg other]
    · simp only [State.applyEffect, State.onCtx, show (s.ctx.ring q).popped = _ from if_pos fifo]
  case memories =>
    have kept := s.applyEffect_memories fills sample
    simp only [State.memories, Prod.mk.injEq] at kept
    obtain ⟨⟨act, stg, imem, mem⟩, -⟩ := kept
    exact ⟨act, stg, imem, mem⟩
  all_goals
    intros
    subst_vars
    rfl

end Sys2Proof.Machine

/-! O41: what a slot leaves alone before its bundle commits. -/

namespace Sys2Proof.Machine

/-! ## Actions that stay in their bundle (R103, R415) -/

/-- From s to t only the bundle at issue and the model's draws have changed, the bundle is at its place, and no cause was raised in it. -/
structure State.AtIssue (s t : State) : Prop where
  same : SameMachine s t
  pc : t.bundle.pc = s.bundle.pc
  pos : t.bundle.pos = s.bundle.pos
  calm : (∀ c v e, s.bundle.mark ≠ .raised c v e) → ∀ c v e, t.bundle.mark ≠ .raised c v e

theorem State.AtIssue.rfl {s : State} : s.AtIssue s := ⟨Eq.refl s, Eq.refl _, Eq.refl _, id⟩

theorem State.AtIssue.trans {s t u : State} (h : s.AtIssue t) (k : t.AtIssue u) : s.AtIssue u where
  same := by
    obtain ⟨st, _⟩ := h
    obtain ⟨tu, _⟩ := k
    unfold SameMachine at st tu ⊢
    rw [tu, st]
  pc := k.pc.trans h.pc
  pos := k.pos.trans h.pos
  calm := k.calm ∘ h.calm

/-- An action that stays at issue: nothing but the bundle and the draws changes while it runs. -/
structure Stays (m : Act α) : Prop where
  run : ∀ (s : State) (w : Operands), s.AtIssue ((m.run.run s).run w).1.2

section
variable {α β : Type} {m : Act α} {f : α → Act β}

theorem stays_pure (x : α) : Stays (pure x : Act α) := ⟨fun _ _ => .rfl⟩

theorem stays_throw (e : Stop) : Stays (throw e : Act α) := ⟨fun _ _ => .rfl⟩

theorem stays_get : Stays (get : Act State) := ⟨fun _ _ => .rfl⟩

theorem stays_getThe : Stays (getThe Operands : Act Operands) := ⟨fun _ _ => .rfl⟩

theorem stays_meet (f : Operands → Operands) : Stays (meet f) := ⟨fun _ _ => .rfl⟩

theorem Stays.bind (h : Stays m) (k : ∀ x, Stays (f x)) : Stays (m >>= f) := by
  constructor
  intro s w
  have first := h.run s w
  simp only [ExceptT.run_bind, StateT.run_bind]
  generalize (m.run.run s).run w = z at first ⊢
  obtain ⟨⟨r, t⟩, o⟩ := z
  cases r with
  | error e => exact first
  | ok x => exact first.trans ((k x).run t o)

theorem Stays.ite {c : Prop} [Decidable c] {m n : Act α} (h : c → Stays m) (k : ¬c → Stays n) : Stays (if c then m else n) := by
  split
  · exact h ‹_›
  · exact k ‹_›

/-- An action of one arm only, before the rest of both. -/
theorem Stays.iteThen {c : Prop} [Decidable c] {m : Act Unit} {f : Unit → Act α} (h : c → Stays m) (k : Stays (f ())) :
    Stays (if c then m >>= f else f ()) := .ite (fun hc => (h hc).bind fun _ => k) fun _ => k

/-- A value chosen for the rest of an action. -/
theorem Stays.iteBind {c : Prop} [Decidable c] {n : Act α} (h : c → Stays m) (k : ¬c → Stays n) (rest : ∀ x, Stays (f x)) :
    Stays (if c then m >>= f else n >>= f) := .ite (fun hc => (h hc).bind rest) fun hc => (k hc).bind rest

/-- A change of the bundle at issue that moves it nowhere and raises nothing. -/
theorem stays_modify {g : State → State} (h : ∀ s : State, s.AtIssue (g s)) : Stays (modify g) := ⟨fun s _ => h s⟩

theorem State.onBundle_atIssue (s : State) {g : Bundle → Bundle} (pc : (g s.bundle).pc = s.bundle.pc) (pos : (g s.bundle).pos = s.bundle.pos)
    (calm : (∀ c v e, s.bundle.mark ≠ .raised c v e) → ∀ c v e, (g s.bundle).mark ≠ .raised c v e) : s.AtIssue (s.onBundle g) :=
  ⟨Eq.refl _, pc, pos, calm⟩

theorem stays_bundle {g : State → Bundle → Bundle}
    (h : ∀ s b, (g s b).pc = b.pc ∧ (g s b).pos = b.pos ∧ (g s b).mark = b.mark := by exact fun _ _ => ⟨rfl, rfl, rfl⟩) :
    Stays (modify fun s => s.onBundle (g s)) := stays_modify fun s => by
  obtain ⟨pc, pos, mark⟩ := h s s.bundle
  exact s.onBundle_atIssue pc pos (mark ▸ id)

theorem stays_draw : Stays (modifyGet State.draw : Act Nat) := ⟨fun _ _ => ⟨Eq.refl _, Eq.refl _, Eq.refl _, id⟩⟩

theorem stays_raise (c : Cause) (v : Word) : Stays (raise c v : Act α) := stays_throw _

theorem stays_check (ok : Bool) (c : Cause) (v : Word) : Stays (check ok c v) := .ite (fun _ => stays_pure _) fun _ => stays_raise c v

theorem stays_await (ok : Bool) : Stays (await ok) := .ite (fun _ => stays_pure _) fun _ => stays_meet _

theorem stays_stage (e : Effect) : Stays (stage e) := stays_modify fun s => s.onBundle_atIssue (Eq.refl _) (Eq.refl _) id

theorem stays_raiseEarly (c : Cause) (v : Word) : Stays (raiseEarly c v) :=
  stays_getThe.bind fun _ => .ite (fun _ => stays_pure _) fun _ => stays_throw _

theorem stays_note (c : Cause) (v : Word) : Stays (note c v) := stays_meet _

theorem stays_noteAny (c : Option (Cause × Word)) : Stays (noteAny c) := by
  cases c with
  | none => exact stays_pure _
  | some x => exact stays_note x.1 x.2

theorem Mark.hold_calm (k : Mark) (w : Option WaitOn) (calm : ∀ c v e, k ≠ .raised c v e) (c : Cause) (v : Word) (e : Bool) :
    k.hold w ≠ .raised c v e := by
  cases k <;> cases w <;> simp_all [Mark.hold]

theorem stays_hold (ok : Bool) : Stays (hold ok) := stays_modify fun s => by
  split
  · exact .rfl
  · exact s.onBundle_atIssue (Eq.refl _) (Eq.refl _) (Mark.hold_calm _ _)

theorem stays_holdWaiting (ok : Bool) (w : WaitOn) : Stays (holdWaiting ok w) := stays_modify fun s => by
  split
  · exact .rfl
  · exact s.onBundle_atIssue (Eq.refl _) (Eq.refl _) (Mark.hold_calm _ _)

theorem stays_readReg (i : Nat) : Stays (readReg i) := stays_get.bind fun _ => (stays_await _).bind fun _ => stays_pure _

theorem stays_readVReg (i : Nat) : Stays (readVReg i) := stays_get.bind fun _ => (stays_await _).bind fun _ => stays_pure _

theorem stays_readPred (g : Nat) : Stays (readPred g) := stays_get.bind fun _ => (stays_await _).bind fun _ => stays_pure _

theorem stays_readMask (i : Nat) : Stays (readMask i) := stays_get.bind fun _ => (stays_await _).bind fun _ => stays_pure _

theorem stays_readBase (i : Nat) : Stays (readBase i) := stays_get.bind fun _ => (stays_await _).bind fun _ => stays_pure _

theorem stays_readGuard (g : Nat) : Stays (readGuard g) :=
  (stays_readPred g).bind fun _ => (stays_meet _).bind fun _ => stays_pure _

theorem stays_ringElem (q k field : Nat) (ok : Ring → Bool) : Stays (ringElem q k field ok) :=
  stays_get.bind fun _ => .ite (fun _ => (stays_await _).bind fun _ => (stays_noteAny _).bind fun _ => stays_pure _)
    fun _ => (stays_raiseEarly _ _).bind fun _ => stays_pure _

theorem stays_readSrc (a : Src) (ok : Ring → Bool) {reg : Nat → Act Nat} (h : ∀ i, Stays (reg i)) : Stays (readSrc a ok reg) := by
  cases a with
  | reg i => exact h i
  | peek q => exact stays_ringElem ..
  | pop q =>
    exact stays_get.bind fun _ => (stays_ringElem ..).bind fun _ =>
      .ite (fun _ => (stays_stage _).bind fun _ => stays_pure _) fun _ => stays_pure _

theorem stays_readS (a : Src) : Stays (readS a) :=
  (stays_readSrc a _ fun i => (stays_readReg i).bind fun _ => stays_pure _).bind fun _ => stays_pure _

theorem stays_readV (a : Src) : Stays (readV a) :=
  (stays_readSrc a _ fun i => (stays_readVReg i).bind fun _ => stays_pure _).bind fun _ => stays_pure _

theorem stays_readyPush (q : Nat) (ok : Ring → Bool) : Stays (readyPush q ok) :=
  stays_get.bind fun _ => .ite (fun _ => stays_raiseEarly _ _)
    fun _ => (stays_await _).bind fun _ => (stays_meet _).bind fun _ => stays_noteAny _

theorem stays_readyDest (d : Dest) : Stays (readyDest d) := stays_get.bind fun _ => stays_await _

theorem stays_readyS (d : Dst) : Stays (readyS d) := by
  cases d with
  | reg i => exact stays_readyDest _
  | push q => exact stays_readyPush q.val fun r => r.elem == 0

theorem stays_readyV (d : Dst) : Stays (readyV d) := by
  cases d with
  | reg i => exact stays_readyDest _
  | push q => exact stays_readyPush q.val fun r => r.elem == 1 || r.elem == 2

theorem stays_putDest (d : Dest) (lat val flags : Nat) : Stays (putDest d lat val flags) := stays_get.bind fun _ => stays_stage _

theorem stays_putInter (d : Dest) (lat val kind : Nat) : Stays (putInter d lat val kind) := stays_get.bind fun _ => stays_stage _

theorem stays_putPush (q lat val flags : Nat) : Stays (putPush q lat val flags) := stays_get.bind fun _ => stays_stage _

theorem stays_putPushInter (q lat val : Nat) : Stays (putPushInter q lat val) := stays_get.bind fun _ => stays_stage _

theorem stays_putS (d : Dst) (lat : Nat) (v : Word) : Stays (putS d lat v) := by
  cases d with
  | reg i => exact stays_putDest ..
  | push q => exact stays_putPush ..

theorem stays_putV (d : Dst) (lat : Nat) (v : Wide) (flags : Nat) : Stays (putV d lat v flags) := by
  cases d with
  | reg i => exact stays_putDest ..
  | push q => exact stays_putPush ..

theorem stays_putPair (k lat : Nat) (c : Bool) : Stays (putPair k lat c) := stays_putDest ..

/-! ## The shared actions -/

theorem stays_loadWaits (sp : Space) (fe : Nat) (rs : List (Nat × Nat)) : Stays (loadWaits sp fe rs) := by
  have clears (l : List (Nat × Nat)) : Stays (l.forM fun r => stage (.clearFull r.1 r.2)) := by
    induction l with
    | nil => exact stays_pure _
    | cons r t ih => exact (stays_stage _).bind fun _ => ih
  refine stays_get.bind fun s => ?_
  extract_lets ready staged rest
  have hstaged : Stays (staged ()) := (stays_stage _).bind fun _ => .ite (fun _ => clears rs) fun _ => stays_pure _
  have hrest : Stays (rest ()) := .iteThen (fun _ => stays_bundle) hstaged
  split
  · exact (stays_raise _ _).bind fun _ => hrest
  · exact (stays_hold _).bind fun _ => hrest

theorem stays_vloadLocal (sp : Space) (fe : Nat) (w32 contig : Bool) (stride : Nat → Int) (d : Dst) (x : Word) :
    Stays (vloadLocal sp fe w32 contig stride d x) := by
  refine stays_get.bind fun s => ?_
  dsimp only
  split
  · exact stays_raise _ _
  · exact (stays_loadWaits ..).bind fun _ => stays_putV ..

theorem stays_stageStore (sp : Space) (writes : List BitWrite) (slow setFull : Bool) : Stays (stageStore sp writes slow setFull) :=
  stays_get.bind fun _ => .ite (fun _ => (stays_stage _).bind fun _ => stays_stage _) fun _ => stays_pure _

theorem stays_vstoreLocal (sp : Space) (w32 contig setFull : Bool) (stride : Nat → Int) (m : Fin 8) (v : Fin 32) (g : Fin 16) (x : Word) :
    Stays (vstoreLocal sp w32 contig setFull stride m v g x) := by
  refine (stays_readMask _).bind fun _ => (stays_readVReg _).bind fun _ => (stays_readGuard _).bind fun _ => stays_get.bind fun _ =>
    .ite (fun _ => ?_) fun _ => stays_pure _
  split
  · exact stays_raise _ _
  · exact stays_stageStore ..

theorem stays_enterLoop (safe : Bool) (len : Fin 64) (n : Nat) : Stays (enterLoop safe len n) := by
  refine stays_get.bind fun s => ?_
  dsimp only
  split
  · exact stays_raise _ _
  · exact (stays_check ..).bind fun _ => (stays_check ..).bind fun _ => (stays_check ..).bind fun _ => (stays_check ..).bind fun _ =>
      .ite (fun _ => stays_stage _) fun _ => stays_stage _

theorem stays_gaddr (h : Nat) (off : Word) (w : Nat) (right : HandleBits → Bool) : Stays (gaddr h off w right) := by
  refine stays_get.bind fun s => (stays_await _).bind fun _ => (stays_check ..).bind fun _ => (stays_check ..).bind fun _ =>
    (stays_check ..).bind fun _ => ?_
  dsimp only
  split
  · exact stays_raise _ _
  · exact stays_pure _

theorem stays_stageGlob (kind : GlobKind) (a w : Nat) (writes : List BitWrite) (dest : Dest) (order h : Nat) :
    Stays (stageGlob kind a w writes dest order h) :=
  stays_draw.bind fun _ => stays_get.bind fun _ => (stays_stage _).bind fun _ => stays_stage _

theorem stays_stageCommand (queue : Nat) (c : Command) : Stays (stageCommand queue c) :=
  stays_get.bind fun _ => (stays_hold _).bind fun _ => stays_stage _

theorem stays_stageLane (op : LaneOp) (tag : Nat) : Stays (stageLane op tag) := stays_get.bind fun _ => stays_stage _

theorem stays_putTagged (d : Dst) (lat inter tag flags : Nat) : Stays (putTagged d lat inter tag flags) := by
  cases d with
  | reg i => exact stays_get.bind fun _ => stays_stage _
  | push q => exact stays_get.bind fun _ => stays_stage _

theorem stays_putFunction (d : Dst) (f : FloatFmt) (func mode : Nat) (l : List LaneResult) : Stays (putFunction d f func mode l) := by
  cases d with
  | reg i => exact stays_get.bind fun _ => (stays_hold _).bind fun _ => (stays_stage _).bind fun _ => stays_stage _
  | push q => exact stays_get.bind fun _ => (stays_hold _).bind fun _ => (stays_stage _).bind fun _ => stays_stage _

theorem stays_checkOwner (mask : Nat) : Stays (checkOwner mask) := stays_get.bind fun _ => stays_check ..

theorem stays_holdTransition (mask : Nat) : Stays (holdTransition mask) := stays_get.bind fun _ => stays_hold _

theorem stays_implicitPush (h : Shaft) : Stays (implicitPush h) :=
  stays_get.bind fun _ => .ite (fun _ => (stays_raiseEarly _ _).bind fun _ => stays_pure _) fun _ =>
    .ite (fun _ => stays_raise _ _) fun _ => (stays_ringElem ..).bind fun _ => (stays_stage _).bind fun _ => stays_pure _

end

/-! ## The exception of a slot (R103, R104) -/

/-- What the end of a slot leaves: a state at issue, or the exception of a cause taken in one. -/
def State.Ended (s t : State) : Prop := s.AtIssue t ∨ ∃ u c v early, s.AtIssue u ∧ t = u.raised c v early

theorem State.AtIssue.onMark (s : State) {k : Mark} (calm : ∀ c v e, k ≠ .raised c v e) :
    s.AtIssue (s.onBundle fun b => { b with mark := k }) := s.onBundle_atIssue (Eq.refl _) (Eq.refl _) fun _ => calm

theorem State.owePushes_atIssue (s : State) (l : List Nat) : s.AtIssue (s.owePushes l) := by
  unfold State.owePushes
  dsimp only
  split
  · exact .rfl
  · exact s.onBundle_atIssue (Eq.refl _) (Eq.refl _) id

theorem Stays.ended {m : Act Unit} (h : Stays m) (s : State) (w : Operands) : s.Ended (slotEnd ((m.run.run s).run w)) := by
  have at_ := h.run s w
  generalize (m.run.run s).run w = r at at_ ⊢
  obtain ⟨⟨e, t⟩, o⟩ := r
  have stalled : s.AtIssue (t.onBundle fun b => { b with mark := .stalled }) := at_.trans (.onMark t (by simp))
  have owed := at_.trans (t.owePushes_atIssue o.owed)
  have raised {u c v early} (hu : s.AtIssue u) : s.Ended (u.raised c v early) := .inr ⟨u, c, v, early, hu, Eq.refl _⟩
  match e with
  | .error (.raiseEarly c v) => exact raised at_
  | .ok () =>
    simp only [slotEnd]
    split
    · exact .inl stalled
    · split
      · exact raised at_
      · exact .inl at_
  | .error (.raise c v) =>
    simp only [slotEnd]
    split
    · exact .inl stalled
    · split
      · exact raised owed
      · exact raised owed

theorem State.Ended.frame {s t : State} (h : s.Ended t) (start : s.bundle.mark = .none) :
    ((∀ c v e, t.bundle.mark ≠ .raised c v e) → SameMachine s t) ∧
      ∀ c v e, t.bundle.mark = .raised c v e →
        ∃ u, SameMachine s u ∧ u.bundle.pc = s.bundle.pc ∧ u.bundle.pos = s.bundle.pos ∧
          t = { u.takePrecise c v s.bundle.pc (2 ^ s.bundle.pos) with bundle := t.bundle } := by
  rcases h with h | ⟨u, c, v, early, hu, rfl⟩
  · exact ⟨fun _ => h.same, fun c v e raised => absurd raised (h.calm (by simp [start]) c v e)⟩
  · refine ⟨fun calm => absurd (Eq.refl _) (calm c v early), fun c' v' e' raised => ⟨u, hu.same, hu.pc, hu.pos, ?_⟩⟩
    obtain ⟨rfl, rfl, rfl⟩ : c = c' ∧ v = v' ∧ early = e' := by simpa [State.raised] using raised
    simp [State.raised, hu.pc, hu.pos]

/-! ## The slots of one shape -/

/-- An outcome is that of a slot whose action stays at issue. -/
def RunsAtIssue (s : State) (o : Host.Outcome State Fault Refusal) : Prop := ∃ m, o = runSlot m s ∧ Stays m

section
variable {s : State} {d : Dst} {a b : Src}

theorem scalar2_runsAtIssue (f : Word → Word → Word) (lat : Nat) : RunsAtIssue s (scalar2 f lat d a b s) :=
  ⟨_, rfl, (stays_readS a).bind fun _ => (stays_readS b).bind fun _ => (stays_readyS d).bind fun _ => stays_putS ..⟩

theorem scalar1_runsAtIssue (f : Word → Word) (lat : Nat) : RunsAtIssue s (scalar1 f lat d a s) :=
  ⟨_, rfl, (stays_readS a).bind fun _ => (stays_readyS d).bind fun _ => stays_putS ..⟩

theorem moveTo_runsAtIssue (x : Dest) (f : Regs → Word) : RunsAtIssue s (moveTo d x f s) :=
  ⟨_, rfl, stays_get.bind fun _ => (stays_await _).bind fun _ => (stays_readyS d).bind fun _ => stays_putS ..⟩

theorem divide_runsAtIssue (f : Word → Word → Word) (i : Fin 32) : RunsAtIssue s (divide f i a b s) :=
  ⟨_, rfl, (stays_readS a).bind fun _ => (stays_readS b).bind fun _ => (stays_readyDest _).bind fun _ => stays_draw.bind fun _ =>
    stays_putInter ..⟩

theorem loadHigh_runsAtIssue (k : Nat) (i : Fin 32) (imm : BitVec 16) : RunsAtIssue s (loadHigh k i imm s) :=
  ⟨_, rfl, (stays_readReg _).bind fun _ => (stays_readyDest _).bind fun _ => stays_putDest ..⟩

theorem predLogic_runsAtIssue (f : Bool → Bool → Bool) (k : Fin 8) (p q : Fin 16) : RunsAtIssue s (predLogic f k p q s) :=
  ⟨_, rfl, (stays_readPred _).bind fun _ => (stays_readPred _).bind fun _ => (stays_readyDest _).bind fun _ => stays_putPair ..⟩

theorem pointer2_runsAtIssue (f : Word → Word → Except Word Word) : RunsAtIssue s (pointer2 f d a b s) :=
  ⟨_, rfl, (stays_readS a).bind fun x => (stays_readS b).bind fun y => (stays_readyS d).bind fun _ => by
    split
    · exact stays_putS ..
    · exact stays_raise _ _⟩

theorem loadLocal_runsAtIssue (sp : Space) (signed : Bool) (wid : Fin 64) (fe : Nat) : RunsAtIssue s (loadLocal sp signed wid d a fe s) :=
  ⟨_, rfl, (stays_readS a).bind fun _ => (stays_readyS d).bind fun _ => (stays_check ..).bind fun _ => (stays_loadWaits ..).bind fun _ =>
    stays_get.bind fun _ => stays_putS ..⟩

theorem storeLocal_runsAtIssue (sp : Space) (setfull : Bool) (wid : Fin 64) (g : Fin 16) : RunsAtIssue s (storeLocal sp setfull wid a b g s) :=
  ⟨_, rfl, (stays_readGuard _).bind fun _ => (stays_readS a).bind fun _ => (stays_readS b).bind fun _ =>
    .ite (fun _ => (stays_check ..).bind fun _ => stays_stageStore ..) fun _ => stays_pure _⟩

theorem atomicLocal_runsAtIssue (op : Nat) (w ord : Fin 16) (x y : Fin 32) (g : Fin 16) : RunsAtIssue s (atomicLocal op w ord x y g s) :=
  ⟨_, rfl, (stays_readReg _).bind fun _ => (stays_readReg _).bind fun _ => .iteBind (fun _ => stays_readReg _) (fun _ => stays_pure _) fun _ =>
    (stays_readGuard _).bind fun _ => (stays_readyDest _).bind fun _ => .ite (fun _ => (stays_check ..).bind fun _ =>
      (stays_check ..).bind fun _ => stays_get.bind fun _ => (stays_stage _).bind fun _ => stays_stage _) fun _ => stays_pure _⟩

theorem atomicGlobal_runsAtIssue (op : Nat) (w ord h : Fin 16) (x : Fin 32) (g : Fin 16) : RunsAtIssue s (atomicGlobal op w ord h x g s) :=
  ⟨_, rfl, (stays_readReg _).bind fun _ => (stays_readReg _).bind fun _ => .iteBind (fun _ => stays_readReg _) (fun _ => stays_pure _) fun _ =>
    (stays_readGuard _).bind fun _ => (stays_readyDest _).bind fun _ => .ite (fun _ => (stays_gaddr ..).bind fun _ =>
      (stays_check ..).bind fun _ => stays_stageGlob ..) fun _ => stays_pure _⟩

theorem maintain_runsAtIssue (evict : Bool) (h : Fin 16) : RunsAtIssue s (maintain evict h a b s) :=
  ⟨_, rfl, (stays_readS a).bind fun _ => (stays_readS b).bind fun _ => stays_get.bind fun _ => (stays_await _).bind fun _ =>
    (stays_check ..).bind fun _ => (stays_check ..).bind fun _ => stays_draw.bind fun _ => stays_stage _⟩

/-- A store through a handle: its offences, then its access. -/
theorem vstG_runsAtIssue (m : Fin 8) (v o : Fin 32) (e32 : Bool) (h g : Fin 16) : RunsAtIssue s (execVstG m v e32 h o g s) :=
  ⟨_, rfl, (stays_readReg _).bind fun _ => (stays_readMask _).bind fun _ => (stays_readVReg _).bind fun _ => (stays_readGuard _).bind fun _ =>
    stays_get.bind fun _ => (stays_await _).bind fun _ => .ite (fun _ => (stays_check ..).bind fun _ => by
      split
      · exact stays_raise _ _
      · dsimp only
        split
        · exact stays_raise _ _
        · exact .ite (fun _ => stays_stageGlob ..) fun _ => stays_pure _) fun _ => stays_pure _⟩

theorem ldG_runsAtIssue (signed : Bool) (wid : Fin 64) (h : Fin 16) (o : Fin 32) : RunsAtIssue s (execLdG signed wid d h o s) :=
  ⟨_, rfl, (stays_readReg _).bind fun _ => (stays_readyS d).bind fun _ => (stays_gaddr ..).bind fun _ => by
    cases d with
    | reg i => exact stays_stageGlob ..
    | push q => exact stays_get.bind fun _ => (stays_putPush ..).bind fun _ => stays_stageGlob ..⟩

theorem vldG_runsAtIssue (e32 : Bool) (h : Fin 16) : RunsAtIssue s (execVldG e32 d h a s) :=
  ⟨_, rfl, (stays_readS a).bind fun _ => (stays_readyV d).bind fun _ => (stays_gaddr ..).bind fun _ => by
    cases d with
    | reg i => exact stays_stageGlob ..
    | push q => exact stays_get.bind fun _ => (stays_putPush ..).bind fun _ => stays_stageGlob ..⟩

theorem trans_runsAtIssue (h : Fin 16) (k : Fin 8) : RunsAtIssue s (execTrans h a k s) :=
  ⟨_, rfl, (stays_readS a).bind fun _ => stays_get.bind fun s => (stays_await _).bind fun _ => (stays_readyDest _).bind fun _ =>
    (stays_readyDest _).bind fun _ => by
      dsimp only
      split
      · exact .ite (fun _ => (stays_stage _).bind fun _ => (stays_putDest ..).bind fun _ => stays_putPair ..) fun _ =>
          (stays_stage _).bind fun _ => (stays_putDest ..).bind fun _ => stays_putPair ..
      · exact (stays_stage _).bind fun _ => (stays_putDest ..).bind fun _ => stays_putPair ..⟩

theorem hinfo_runsAtIssue (h : Fin 16) : RunsAtIssue s (execHinfo d h s) :=
  ⟨_, rfl, (stays_readyS d).bind fun _ => stays_get.bind fun s => (stays_await _).bind fun _ => stays_draw.bind fun _ => by
    cases d with
    | reg i => exact stays_putInter ..
    | push q => exact stays_putPushInter ..⟩

theorem probe_runsAtIssue : RunsAtIssue s (execProbe a b s) :=
  ⟨_, rfl, (stays_readS a).bind fun _ => (stays_readS b).bind fun _ => stays_get.bind fun s => (stays_check ..).bind fun _ =>
    .ite (fun _ => by
      split
      · exact Stays.bind stays_bundle fun _ => stays_raise _ _
      · exact Stays.bind stays_bundle fun _ => stays_hold _
      · exact stays_stage _
      · exact Stays.bind stays_bundle fun _ => stays_raise _ _) fun _ => stays_hold _⟩

theorem copyCommand_runsAtIssue (op : Nat) (iss : Bool) (ord : Fin 16) (i j k : Fin 32) : RunsAtIssue s (copyCommand op iss ord i j k s) :=
  ⟨_, rfl, (stays_readReg _).bind fun _ => (stays_readReg _).bind fun _ => (stays_readReg _).bind fun _ => (stays_readReg _).bind fun _ =>
    stays_get.bind fun _ => .iteThen (fun _ => stays_await _) <| .iteThen (fun _ => stays_await _) <| (stays_check ..).bind fun _ =>
      (stays_check ..).bind fun _ => (stays_check ..).bind fun _ => (stays_check ..).bind fun _ => (stays_check ..).bind fun _ => by
        dsimp only
        split
        · exact stays_raise _ _
        · exact (stays_check ..).bind fun _ => (stays_check ..).bind fun _ => stays_stageCommand ..⟩

theorem collCommand_runsAtIssue (op : Nat) (iss : Bool) (ord : Fin 16) (i j k : Fin 32) : RunsAtIssue s (collCommand op iss ord i j k s) :=
  ⟨_, rfl, (stays_readReg _).bind fun _ => (stays_readReg _).bind fun _ => (stays_readReg _).bind fun _ => (stays_readReg _).bind fun _ =>
    stays_get.bind fun _ => (stays_check ..).bind fun _ => by
      extract_lets rest
      have hrest : Stays (rest ()) := (stays_check ..).bind fun _ => (stays_check ..).bind fun _ => by
        split
        · exact stays_raise _ _
        · exact (stays_check ..).bind fun _ => stays_stageCommand ..
      split
      · exact (stays_raise _ _).bind fun _ => hrest
      · exact hrest⟩

theorem floatLanes2_runsAtIssue (f : FloatFmt) (op : Nat → Nat → Nat × Nat) : RunsAtIssue s (floatLanes2 f op d a b s) :=
  ⟨_, rfl, (stays_readV a).bind fun _ => (stays_readV b).bind fun _ => (stays_readyV d).bind fun _ => stays_putV ..⟩

theorem floatFused_runsAtIssue (f : FloatFmt) (rm : Rnd) (p q : Bool) (i : Fin 32) : RunsAtIssue s (floatFused f rm p q i a b s) :=
  ⟨_, rfl, (stays_readV a).bind fun _ => (stays_readV b).bind fun _ => (stays_readVReg _).bind fun _ => (stays_readyDest _).bind fun _ =>
    stays_get.bind fun _ => stays_putDest ..⟩

theorem floatCmp_runsAtIssue (f : FloatFmt) (rel : Exact → Exact → Bool) (md : Fin 8) : RunsAtIssue s (floatCmp f rel md a b s) :=
  ⟨_, rfl, (stays_readV a).bind fun _ => (stays_readV b).bind fun _ => (stays_readyDest _).bind fun _ => stays_putDest ..⟩

theorem lanes1_runsAtIssue (w32 : Bool) (op : Nat → Nat) (lat : Nat) : RunsAtIssue s (lanes1 w32 op lat d a s) :=
  ⟨_, rfl, (stays_readV a).bind fun _ => (stays_readyV d).bind fun _ => stays_putV ..⟩

theorem lanes2_runsAtIssue (w32 : Bool) (op : Nat → Nat → Nat) (lat : Nat) : RunsAtIssue s (lanes2 w32 op lat d a b s) :=
  ⟨_, rfl, (stays_readV a).bind fun _ => (stays_readV b).bind fun _ => (stays_readyV d).bind fun _ => stays_putV ..⟩

theorem intCmp_runsAtIssue (rel : Nat → Nat → Nat → Bool) (w32 : Bool) (md : Fin 8) : RunsAtIssue s (intCmp rel w32 md a b s) :=
  ⟨_, rfl, (stays_readV a).bind fun _ => (stays_readV b).bind fun _ => (stays_readyDest _).bind fun _ => stays_putDest ..⟩

theorem mask2_runsAtIssue (f : Word → Word → Word) (i j k : Fin 8) : RunsAtIssue s (mask2 f i j k s) :=
  ⟨_, rfl, (stays_readMask _).bind fun _ => (stays_readMask _).bind fun _ => (stays_readyDest _).bind fun _ => stays_putDest ..⟩

theorem function1_runsAtIssue (fn : Fn) (t : FloatFmt) (rm : Rnd) : RunsAtIssue s (function1 fn t rm d a s) :=
  ⟨_, rfl, (stays_readV a).bind fun _ => (stays_readyV d).bind fun _ => stays_get.bind fun _ => stays_putFunction ..⟩

theorem functionX_runsAtIssue (fn : XFn) (t : FloatFmt) : RunsAtIssue s (functionX fn t d a s) :=
  ⟨_, rfl, (stays_readV a).bind fun _ => (stays_readyV d).bind fun _ => stays_putV ..⟩

/-! ## Beats (R287 to R293) -/

theorem mpush_runsAtIssue (shafts : Fin 256) : RunsAtIssue s (execMpush shafts a b s) := by
  refine ⟨_, rfl, stays_get.bind fun s => ?_⟩
  extract_lets af pol ring rest
  have hrest (vec : Nat → HalfVec) : Stays (rest vec) := by
    refine (stays_checkOwner _).bind fun _ => .ite (fun _ => (stays_check ..).bind fun _ => (stays_check ..).bind fun _ => ?_) fun _ => stays_pure _
    extract_lets sh beat
    have hbeat : Stays (beat ()) := (stays_holdTransition _).bind fun _ => (stays_stage _).bind fun _ => stays_stage _
    clear_value ring
    split
    · exact (stays_check ..).bind fun _ => hbeat
    · exact (stays_check ..).bind fun _ => hbeat
  clear_value rest ring
  split
  · exact (stays_readVReg _).bind fun _ => .iteBind (fun _ => stays_readVReg _) (fun _ => stays_pure _) fun _ =>
      (stays_readVReg _).bind fun _ => (stays_pure _).bind hrest
  · split
    · exact (stays_pure _).bind hrest
    · exact .ite (fun _ => (stays_ringElem ..).bind fun _ => .iteThen (fun _ => stays_stage _) <| (stays_pure _).bind hrest) fun _ =>
        .iteThen (fun _ => stays_raiseEarly _ _) <| (stays_pure _).bind hrest

theorem stays_shiftShaft (mask : Nat) (z : Bool) (h : Shaft) : Stays (shiftShaft mask z h) := by
  refine .ite (fun _ => stays_pure _) fun _ => ?_
  extract_lets rest loaded
  have hrest (x : Shaft) : Stays (rest x) := by
    refine .ite (fun _ => ?_) fun _ => stays_pure _
    split
    · exact (stays_pure _).bind fun _ => stays_pure _
    · exact .ite (fun _ => (stays_implicitPush h).bind fun _ => (stays_pure _).bind fun _ => stays_pure _) fun _ =>
        (stays_pure _).bind fun _ => stays_pure _
  have hloaded (v : HalfVec) : Stays (loaded v) := (stays_pure _).bind hrest
  refine .ite (fun _ => (stays_pure _).bind hrest) fun _ => ?_
  split
  · exact (stays_pure _).bind hloaded
  · exact .iteBind (fun _ => stays_implicitPush h) (fun _ => stays_raise _ _) hloaded

theorem stays_shiftAll (mask : Nat) (z : Bool) (ks : List Nat) (sh : List Shaft) (ps : List (Nat × Nat)) : Stays (shiftAll mask z ks sh ps) := by
  induction ks generalizing sh ps with
  | nil => exact stays_pure _
  | cons k t ih => exact stays_get.bind fun _ => (stays_shiftShaft ..).bind fun _ => (stays_stage _).bind fun _ => ih ..

theorem foldBeat_runsAtIssue (kind : Nat) (fold drain : Bool) (shafts : Fin 256) : RunsAtIssue s (foldBeat kind fold drain shafts s) :=
  ⟨_, rfl, (stays_checkOwner _).bind fun _ => stays_get.bind fun s => .iteThen (fun _ => stays_check ..) <| by
    split
    · exact stays_raise _ _
    · extract_lets moves beat
      have hbeat : Stays (beat ()) := (stays_holdTransition _).bind fun _ => (stays_hold _).bind fun _ => (stays_stage _).bind fun _ => stays_stage _
      refine .ite (fun _ => ?_) fun _ => hbeat
      split
      · exact (stays_raise _ _).bind fun _ => hbeat
      · exact hbeat⟩

theorem mset_runsAtIssue (i j : Fin 32) : RunsAtIssue s (execMset i j s) :=
  ⟨_, rfl, (stays_readReg _).bind fun _ => (stays_readReg _).bind fun _ => stays_get.bind fun s => (stays_check ..).bind fun _ =>
    (stays_check ..).bind fun _ => .ite (fun _ => stays_stage _) fun _ => (stays_check ..).bind fun _ => (stays_check ..).bind fun _ =>
      (stays_loadWaits ..).bind fun _ => by
        dsimp only
        split
        · exact stays_raise _ _
        · split
          · exact stays_raise _ _
          · exact stays_stage _⟩

end

/-! ## Every slot (R77 to R401) -/

/-- Every slot of the opcode table runs as an action that stays at issue: those of one shape by the lemma of their shape, each other one by its steps. -/
theorem exec_runsAtIssue (i : Instr) (h : IsSlot i) (s : State) : RunsAtIssue s (exec i s) := by
  cases i with dsimp only [exec]
  | nop => exact ⟨_, rfl, stays_pure _⟩
  | trap | safe | mark | qunb | pwrrel => exact ⟨_, rfl, stays_stage _⟩
  | tret | exit => exact ⟨_, rfl, stays_get.bind fun _ => (stays_check ..).bind fun _ => stays_stage _⟩
  | crd => exact ⟨_, rfl, (stays_readyDest _).bind fun _ => stays_get.bind fun _ => (stays_hold _).bind fun _ => stays_draw.bind fun _ =>
      stays_putInter ..⟩
  | cwr | qstr => exact ⟨_, rfl, (stays_readReg _).bind fun _ => (stays_check ..).bind fun _ => stays_stage _⟩
  | gfence | fenceSc => exact ⟨_, rfl, stays_get.bind fun _ => (stays_hold _).bind fun _ => stays_stage _⟩
  | gidx d => exact ⟨_, rfl, (stays_readyS d).bind fun _ => stays_get.bind fun _ => stays_putS ..⟩
  | lbrk => exact ⟨_, rfl, stays_get.bind fun _ => (stays_check ..).bind fun _ => stays_stage _⟩
  | gspawn => exact ⟨_, rfl, (stays_readReg _).bind fun _ => (stays_readReg _).bind fun _ => stays_get.bind fun _ => (stays_check ..).bind fun _ =>
      (stays_check ..).bind fun _ => (stays_check ..).bind fun _ => (stays_hold _).bind fun _ => stays_stage _⟩
  | pwracq => exact ⟨_, rfl, stays_get.bind fun _ => Stays.bind stays_bundle fun _ => (stays_holdWaiting ..).bind fun _ => stays_stage _⟩
  | br => exact ⟨_, rfl, (stays_readGuard _).bind fun _ => stays_get.bind fun _ =>
      .ite (fun _ => (stays_stage _).bind fun _ => stays_stage _) fun _ => stays_pure _⟩
  | call => exact ⟨_, rfl, (stays_readGuard _).bind fun _ => stays_get.bind fun _ => .ite (fun _ => (stays_readyDest _).bind fun _ =>
      (stays_putDest ..).bind fun _ => (stays_stage _).bind fun _ => stays_stage _) fun _ => stays_pure _⟩
  | bri => exact ⟨_, rfl, (stays_readGuard _).bind fun _ => stays_get.bind fun _ => .ite (fun _ => (stays_await _).bind fun _ =>
      .iteThen (fun _ => stays_stage _) <| stays_stage _) fun _ => stays_pure _⟩
  | ret => exact ⟨_, rfl, (stays_readGuard _).bind fun _ => stays_get.bind fun _ => .ite (fun _ => (stays_await _).bind fun _ =>
      (stays_stage _).bind fun _ => stays_stage _) fun _ => stays_pure _⟩
  | pbr => exact ⟨_, rfl, (stays_readyDest _).bind fun _ => stays_get.bind fun _ => stays_putDest ..⟩
  | loop | loopSafe => exact ⟨_, rfl, stays_enterLoop ..⟩
  | loopReg | loopSafeReg => exact ⟨_, rfl, (stays_readS _).bind fun _ => stays_enterLoop ..⟩
  | ltag => exact ⟨_, rfl, stays_bundle⟩
  | add | sub | and | or | xor | andn | min | max | minu | maxu | shl | shr | sra | rol | ror | mul | mulh | mulhu =>
    exact scalar2_runsAtIssue ..
  | clz | ctz | popc | brev | abs | addi | andi | ori | xori | shli | shri | srai | bfx | pscl => exact scalar1_runsAtIssue ..
  | rdb | rdm | rde => exact moveTo_runsAtIssue ..
  | wrb | wrm => exact ⟨_, rfl, (stays_readS _).bind fun _ => (stays_readyDest _).bind fun _ => stays_putDest ..⟩
  | rdp d => exact ⟨_, rfl, stays_get.bind fun _ => (stays_await _).bind fun _ => (stays_readyS d).bind fun _ => stays_putS ..⟩
  | wrp => exact ⟨_, rfl, (stays_readS _).bind fun _ => (stays_readS _).bind fun _ => stays_get.bind fun _ => (stays_await _).bind fun _ =>
      stays_putDest ..⟩
  | wre => exact ⟨_, rfl, (stays_readS _).bind fun _ => (stays_readyDest _).bind fun _ => (stays_check ..).bind fun _ => stays_putDest ..⟩
  | rdi d => exact ⟨_, rfl, stays_get.bind fun _ => (stays_readyS d).bind fun _ => stays_putS ..⟩
  | div | divu | rem | remu => exact divide_runsAtIssue ..
  | li d | bfm d => exact ⟨_, rfl, (stays_readyS d).bind fun _ => stays_putS ..⟩
  | lih1 | lih2 | lih3 => exact loadHigh_runsAtIssue ..
  | bfi => exact ⟨_, rfl, (stays_readReg _).bind fun _ => (stays_readS _).bind fun _ => (stays_readyDest _).bind fun _ => stays_putDest ..⟩
  | cmp => exact ⟨_, rfl, (stays_readS _).bind fun _ => (stays_readS _).bind fun _ => (stays_readyDest _).bind fun _ => stays_putPair ..⟩
  | cmpi => exact ⟨_, rfl, (stays_readS _).bind fun _ => (stays_readyDest _).bind fun _ => stays_putPair ..⟩
  | pand | por | pxor | pandn => exact predLogic_runsAtIssue ..
  | sel d => exact ⟨_, rfl, (stays_readPred _).bind fun _ => (stays_readS _).bind fun _ => (stays_readS _).bind fun _ =>
      (stays_readyS d).bind fun _ => stays_putS ..⟩
  | padd | pdif | pidx | prec | paddB | pdifB | pal | pcls => exact pointer2_runsAtIssue ..
  | ldAct | ldStg => exact loadLocal_runsAtIssue ..
  | stAct | stStg => exact storeLocal_runsAtIssue ..
  | ldG => exact ldG_runsAtIssue ..
  | stG => exact ⟨_, rfl, (stays_readReg _).bind fun _ => (stays_readReg _).bind fun _ => (stays_readGuard _).bind fun _ =>
      .ite (fun _ => (stays_gaddr ..).bind fun _ => stays_stageGlob ..) fun _ => stays_pure _⟩
  | vldAct fe e32 d | vldActCol e32 d | vldStg e32 d => exact ⟨_, rfl, (stays_readS _).bind fun _ => (stays_readyV d).bind fun _ => stays_vloadLocal ..⟩
  | vldActStr e32 d => exact ⟨_, rfl, (stays_readS _).bind fun _ => (stays_readS _).bind fun _ => (stays_readyV d).bind fun _ => stays_vloadLocal ..⟩
  | vldG => exact vldG_runsAtIssue ..
  | vstAct | vstActCol | vstStg | vstActFill => exact ⟨_, rfl, (stays_readReg _).bind fun _ => stays_vstoreLocal ..⟩
  | vstActStr16 | vstActStr32 => exact ⟨_, rfl, (stays_readReg _).bind fun _ => (stays_readReg _).bind fun _ => stays_vstoreLocal ..⟩
  | vstG => exact vstG_runsAtIssue ..
  | aaddAct | aandAct | aorAct | axorAct | aminAct | amaxAct | aswapAct | acasAct => exact atomicLocal_runsAtIssue ..
  | aaddG | aandG | aorG | axorG | aminG | amaxG | aswapG | acasG => exact atomicGlobal_runsAtIssue ..
  | fence => exact ⟨_, rfl, stays_get.bind fun _ => (stays_hold _).bind fun _ => .ite (fun _ => stays_stage _) fun _ => stays_pure _⟩
  | fmt => exact ⟨_, rfl, (stays_readS _).bind fun _ => (stays_check ..).bind fun _ => stays_stage _⟩
  | clean | inv => exact maintain_runsAtIssue ..
  | trans => exact trans_runsAtIssue ..
  | probe => exact probe_runsAtIssue
  | hrev => exact ⟨_, rfl, (stays_readyDest _).bind fun _ => stays_stage _⟩
  | hinfo => exact hinfo_runsAtIssue ..
  | hmov => exact ⟨_, rfl, stays_get.bind fun _ => (stays_await _).bind fun _ => (stays_readyDest _).bind fun _ => (stays_await _).bind fun _ =>
      .ite (fun _ => stays_putDest ..) fun _ => stays_pure _⟩
  | binit => exact ⟨_, rfl, (stays_readS _).bind fun _ => (stays_readS _).bind fun _ => (stays_check ..).bind fun _ => (stays_check ..).bind fun _ =>
      stays_draw.bind fun _ => stays_get.bind fun _ => stays_stage _⟩
  | barv => exact ⟨_, rfl, (stays_readS _).bind fun _ => (stays_readS _).bind fun _ => (stays_check ..).bind fun _ => (stays_check ..).bind fun _ =>
      stays_get.bind fun _ => (stays_check ..).bind fun _ => stays_draw.bind fun _ => stays_stage _⟩
  | bwait => exact ⟨_, rfl, (stays_readS _).bind fun _ => (stays_check ..).bind fun _ => stays_get.bind fun _ => .ite (fun _ => stays_hold _) fun _ =>
      (stays_check ..).bind fun _ => Stays.bind stays_bundle fun _ => (stays_holdWaiting ..).bind fun _ => stays_stage _⟩
  | btest => exact ⟨_, rfl, (stays_readS _).bind fun _ => (stays_readyDest _).bind fun _ => (stays_check ..).bind fun _ => stays_get.bind fun _ =>
      .ite (fun _ => stays_hold _) fun _ => (stays_check ..).bind fun _ => stays_draw.bind fun _ => (stays_putInter ..).bind fun _ => stays_stage _⟩
  | hbwait | waitt => exact ⟨_, rfl, (stays_readS _).bind fun _ => stays_get.bind fun _ => Stays.bind stays_bundle fun _ => stays_holdWaiting ..⟩
  | fadd | fsub | fmul | fmin | fmax => exact floatLanes2_runsAtIssue ..
  | fma | fms | fnma => exact floatFused_runsAtIssue ..
  | fabs | fneg | vabs => exact lanes1_runsAtIssue ..
  | fcmpEq | fcmpLt | fcmpLe | fcmpUn => exact floatCmp_runsAtIssue ..
  | vadd | vsub | vmul | vadds | vaddus | vsubs | vsubus | vmin | vmax | vminu | vmaxu | vand | vor | vxor | vshl | vshr | vsra =>
    exact lanes2_runsAtIssue ..
  | vcmpEq | vcmpLt | vcmpLtu => exact intCmp_runsAtIssue ..
  | cvt t f rm d | qnt f pol rm elt d | dqnt f pol rm elt d => exact ⟨_, rfl, (stays_readV _).bind fun _ => (stays_readyV d).bind fun _ =>
      stays_get.bind fun _ => stays_putV ..⟩
  | vsel m w32 d => exact ⟨_, rfl, (stays_readMask _).bind fun _ => (stays_readV _).bind fun _ => (stays_readV _).bind fun _ =>
      (stays_readyV d).bind fun _ => stays_putV ..⟩
  | vperm w32 d => exact ⟨_, rfl, (stays_readV _).bind fun _ => (stays_readV _).bind fun _ => (stays_readyV d).bind fun _ => stays_putV ..⟩
  | vbcast w32 d => exact ⟨_, rfl, (stays_readS _).bind fun _ => (stays_readyV d).bind fun _ => stays_putV ..⟩
  | vins => exact ⟨_, rfl, (stays_readS _).bind fun _ => (stays_readS _).bind fun _ => (stays_readVReg _).bind fun _ => (stays_readyDest _).bind fun _ =>
      (stays_check ..).bind fun _ => stays_putDest ..⟩
  | vext w32 d => exact ⟨_, rfl, (stays_readV _).bind fun _ => (stays_readS _).bind fun _ => (stays_readyS d).bind fun _ =>
      (stays_check ..).bind fun _ => stays_putS ..⟩
  | mand | mor | mxor | mandn | mnot => exact mask2_runsAtIssue ..
  | mpopc d => exact ⟨_, rfl, (stays_readMask _).bind fun _ => (stays_readyS d).bind fun _ => stays_putS ..⟩
  | eacc => exact ⟨_, rfl, (stays_readV _).bind fun _ => (stays_readBase _).bind fun _ => stays_stageLane ..⟩
  | evred => exact ⟨_, rfl, (stays_readReg _).bind fun _ => (stays_readV _).bind fun _ => (stays_check ..).bind fun _ => stays_stageLane ..⟩
  | eread t rm d | eflg d => exact ⟨_, rfl, (stays_readBase _).bind fun _ => (stays_readyV d).bind fun _ => stays_get.bind fun _ => (stays_hold _).bind fun _ =>
      (stays_putTagged ..).bind fun _ => stays_stageLane ..⟩
  | eclr => exact ⟨_, rfl, (stays_readBase _).bind fun _ => (stays_readMask _).bind fun _ => stays_get.bind fun _ => (stays_hold _).bind fun _ =>
      stays_stageLane ..⟩
  | eanc => exact ⟨_, rfl, (stays_readBase _).bind fun _ => (stays_readReg _).bind fun _ => (stays_check ..).bind fun _ => stays_get.bind fun _ =>
      (stays_hold _).bind fun _ => stays_stageLane ..⟩
  | fexp | fexp2 | fexpm1 | flog | flog2 | flog1p | fsin | fcos | fsinpi | fcospi | ftanh | flogi | ferf | frsq | fsqrt | frcp =>
    exact function1_runsAtIssue ..
  | fdiv t rm d => exact ⟨_, rfl, (stays_readV _).bind fun _ => (stays_readV _).bind fun _ => (stays_readyV d).bind fun _ => stays_get.bind fun _ =>
      stays_putFunction ..⟩
  | xexp2 | xlog2 | xrsq | xrcp | xtanh | xlogi | xsin | xerf => exact functionX_runsAtIssue ..
  | mpush => exact mpush_runsAtIssue ..
  | mshift => exact ⟨_, rfl, (stays_checkOwner _).bind fun _ => (stays_shiftAll ..).bind fun _ => (stays_holdTransition _).bind fun _ => stays_stage _⟩
  | macc | mdrain | maccD => exact foldBeat_runsAtIssue ..
  | mset => exact mset_runsAtIssue ..
  | mmode => exact ⟨_, rfl, (stays_readReg _).bind fun _ => (stays_readReg _).bind fun _ => (stays_check ..).bind fun _ => (stays_check ..).bind fun _ =>
      stays_get.bind fun _ => by
        split
        · exact stays_raise _ _
        · exact stays_stage _⟩
  | mglaze => exact ⟨_, rfl, (stays_readReg _).bind fun _ => (stays_check ..).bind fun _ => stays_get.bind fun _ => (stays_stage _).bind fun _ =>
      stays_stage _⟩
  | mchk => exact ⟨_, rfl, (stays_readReg _).bind fun _ => (stays_check ..).bind fun _ => stays_get.bind fun _ => (stays_check ..).bind fun _ =>
      stays_stage _⟩
  | mstat => exact ⟨_, rfl, (stays_readReg _).bind fun _ => (stays_readyDest _).bind fun _ => (stays_check ..).bind fun _ => stays_get.bind fun _ =>
      stays_draw.bind fun _ => stays_putInter ..⟩
  | rld => exact ⟨_, rfl, (stays_readReg _).bind fun _ => (stays_readReg _).bind fun _ => (stays_readReg _).bind fun _ => stays_get.bind fun _ =>
      .iteThen (fun _ => stays_await _) <| (stays_check ..).bind fun _ => (stays_check ..).bind fun _ => (stays_check ..).bind fun _ =>
        (stays_check ..).bind fun _ => (stays_check ..).bind fun _ => (stays_check ..).bind fun _ => stays_stageCommand ..⟩
  | xpcfg => exact ⟨_, rfl, (stays_readReg _).bind fun _ => (stays_readReg _).bind fun _ => stays_get.bind fun _ => stays_stageCommand ..⟩
  | qbind => exact ⟨_, rfl, (stays_readReg _).bind fun _ => (stays_readReg _).bind fun _ => stays_get.bind fun _ => (stays_check ..).bind fun _ =>
      (stays_check ..).bind fun _ => (stays_await _).bind fun _ => (stays_check ..).bind fun _ => stays_stage _⟩
  | qadv => exact ⟨_, rfl, (stays_readReg _).bind fun _ => stays_get.bind fun _ => (stays_check ..).bind fun _ => (stays_check ..).bind fun _ =>
      (stays_check ..).bind fun _ => (stays_hold _).bind fun _ => stays_stage _⟩
  | qwait => exact ⟨_, rfl, (stays_readReg _).bind fun _ => stays_get.bind fun _ => (stays_check ..).bind fun _ =>
      Stays.bind stays_bundle fun _ => stays_holdWaiting ..⟩
  | qstat => exact ⟨_, rfl, (stays_readyDest _).bind fun _ => stays_get.bind fun _ => stays_draw.bind fun _ => stays_putInter ..⟩
  | sqrd => exact ⟨_, rfl, (stays_readyDest _).bind fun _ => stays_get.bind fun _ => (stays_hold _).bind fun _ => stays_draw.bind fun _ =>
      stays_putInter ..⟩
  | cpy | xfer => exact copyCommand_runsAtIssue ..
  | collAllr | collBcast | collAllg | collRsc => exact collCommand_runsAtIssue ..
  | _ => exact Bool.noConfusion h

/-- Settles O41: a slot's action stays at issue, and its end is a state at issue or the exception of its cause taken in one. -/
theorem slotsChangeNothingButTheirBundle : Obligations.SlotsChangeNothingButTheirBundle := by
  intro i s t slot start run
  obtain ⟨m, hm, stays⟩ := exec_runsAtIssue i slot s
  obtain rfl : slotEnd ((m.run.run s).run .start) = t := Host.Outcome.next.inj (hm.symm.trans run)
  exact (stays.ended s .start).frame start

end Sys2Proof.Machine

/-! O55: the commands of firmware on one context, its time slice, its deferred causes and its record. -/

namespace Sys2Proof.Machine

/-! ## The events (R101, R120) -/

/-- A command of firmware acts on the context that it names. -/
theorem State.onCommand_of_lt {s : State} (who : s.ev.who < 512) (f : State → State) : s.onCommand f = .next (s.atCtx s.ev.who f) :=
  if_neg (by omega)

/-- A command to a context that the part does not have names no agent. -/
theorem exec_ctxCommand_of_le {s : State} (h : 512 ≤ s.ev.who) (i : Instr)
    (hi : i ∈ [Instr.park, .force, .kill, .restore, .restart, .retire, .free, .detach, .attach, .sliceExpiry, .deferredTrapEntry, .saveComplete]) :
    exec i s = .fault (.noSuchAgent s.ev.who) := by
  simp only [List.mem_cons, List.not_mem_nil, or_false] at hi
  rcases hi with rfl | rfl | rfl | rfl | rfl | rfl | rfl | rfl | rfl | rfl | rfl | rfl
  all_goals exact if_pos h

theorem exec_deferredTrapEntry_of_lt {s : State} (who : s.ev.who < 512) :
    exec .deferredTrapEntry s = .next (s.atCtx s.ev.who fun t => (t.ctx.dueCause.map fun c => (t.takeDeferred c).fmtStops).getD t) := by
  refine (State.onCommand_of_lt who _).trans ?_
  congr 2
  funext t
  cases t.ctx.dueCause <;> rfl

/-- The end of a save on a parked context. -/
def State.saveEnds (t : State) : State :=
  if t.ctx.st ≠ .parked then t else if t.saveClk.ctx.saveLeft.isSome then t.saveClk.saved else t.saveClk

theorem exec_saveComplete_of_lt {s : State} (who : s.ev.who < 512) : exec .saveComplete s = .next (s.atCtx s.ev.who State.saveEnds) :=
  if_neg (by omega)

/-- A save that has begun ends, whatever clks are left of it. -/
theorem State.saveEnds_of_begun {t : State} {n : Nat} (parked : t.ctx.st = .parked) (left : t.ctx.saveLeft = some n) :
    ∃ u : State, t.saveEnds = u.saved ∧ u.ctx.regs = t.ctx.regs ∧ u.ctx.blk = t.ctx.blk := by
  have clk : t.saveClk = if n ≤ 1 then t.saved else t.onCtx fun c => { c with saveLeft := some (n - 1) } := by
    unfold State.saveClk
    rw [left]
    cases t.ctx.gfault <;> rfl
  rw [State.saveEnds, if_neg (not_not.mpr parked), clk]
  by_cases last : n ≤ 1
  · exact ⟨t, by simp [last, State.saved], rfl, rfl⟩
  · exact ⟨t.onCtx fun c => { c with saveLeft := some (n - 1) }, by simp [last], rfl, rfl⟩

/-! ## Commands that park, retire, free, attach and detach (Table 5.5) -/

section
variable {s : State}

theorem State.parkCmd_requests (h : s.ctx.st = .ready ∨ s.ctx.st = .running ∨ s.ctx.st = .trapped) :
    s.parkCmd = { s with ctx := { s.ctx with blk := { s.ctx.blk with preq := true } } } := by
  rcases h with h | h | h <;> simp [State.parkCmd, State.requestPark, State.onCtx, h]

theorem State.parkCmd_waiting (waiting : s.ctx.st = .waiting) (landed : s.ctx.interPending = false) :
    s.parkCmd = (s.onCtx fun c => { c with blk := { c.blk with preq := true } }).park true := by
  unfold State.parkCmd
  rw [waiting]
  exact (if_pos waiting).trans (if_neg fun pending => Bool.false_ne_true (landed.symm.trans pending))

theorem State.forceCmd_eq (h : s.ctx.st = .ready ∨ s.ctx.st = .running ∨ s.ctx.st = .waiting ∨ s.ctx.st = .trapped) : s.forceCmd = s.forcePark := by
  rcases h with h | h | h | h <;> simp [State.forceCmd, h]

theorem State.forcePark_now (entry : s.ctx.entry = none) (safe : s.ctx.safeHold = false) (landed : s.ctx.interPending = false) :
    s.forcePark = s.park true := by
  simp [State.forcePark, State.stopPark, Ctx.atBoundary, entry, safe, landed]

/-- A forced park waits for the interlocked results, and for an entry or a safe point under way. -/
theorem State.forcePark_waits (pending : s.ctx.interPending = true) :
    s.forcePark.ctx.st = s.ctx.st ∧ s.forcePark.ctx.force = true ∧ s.forcePark.ctx.regs = s.ctx.regs := by
  unfold State.forcePark State.stopPark
  rw [if_pos pending]
  split <;> exact ⟨rfl, rfl, rfl⟩

theorem State.killCtx_eq (live : s.ctx.st ≠ .free) (kept : s.ctx.st ≠ .retired) :
    s.killCtx = ((({ s with core := s.core.withdraw s.phys } : State).fnKill s.slot).onCtx fun c =>
      { c with pend := c.pend.filter fun p => p.inter < 2 }).retireCtx := by
  unfold State.killCtx
  split
  · exact absurd ‹_› live
  · exact absurd ‹_› kept
  · rfl

theorem State.killCtx_retires : s.killCtx.ctx.st = .retired ∨ s.ctx.st = .free := by
  by_cases free : s.ctx.st = .free
  · exact .inr free
  · by_cases retired : s.ctx.st = .retired
    · exact .inl (by simp [State.killCtx, State.ignored, retired])
    · exact .inl (by rw [State.killCtx_eq free retired]; rfl)

theorem State.killCmd_of_none (live : s.ctx.st ≠ .free) (kept : s.ctx.st ≠ .retired) (alone : s.ctx.kernel = none) :
    s.killCmd = s.killCtx ∧ s.killCtx.ctx.claims = Claims.none ∧ s.killCtx.ctx.withdrawn = [] := by
  have eq := State.killCtx_eq live kept
  refine ⟨?_, by rw [eq]; rfl, by rw [eq]; rfl⟩
  unfold State.killCmd
  split
  · exact absurd ‹_› live
  · exact absurd ‹_› kept
  · exact State.abortMine_none (by rw [eq, State.retireCtx_kernel]; exact alone) 0

theorem State.retireCmd_of_none (faulted : s.ctx.st = .faulted) (alone : s.ctx.kernel = none) : s.retireCmd = s.retireCtx :=
  (if_pos faulted).trans (State.abortMine_none (s.retireCtx_kernel.trans alone) _)

/-- A context that is FREE follows none of the commands (R101). -/
theorem State.commands_of_free (free : s.ctx.st = .free) :
    s.parkCmd = s.ignored ∧ s.forceCmd = s.ignored ∧ s.killCmd = s.ignored ∧ s.restoreCmd = s.ignored ∧ s.restartCmd = s.ignored ∧
      s.retireCmd = s.ignored ∧ s.freeCmd = s.ignored ∧ s.detachCmd = s.ignored := by
  simp [State.parkCmd, State.forceCmd, State.killCmd, State.restoreCmd, State.restartCmd, State.retireCmd, State.freeCmd, State.detachCmd, free]

theorem State.detachCmd_saved (saved : s.ctx.st = .saved) (room : s.core.detached.length < 8) :
    s.detachCmd.ctx.st = .free ∧ s.detachCmd.ctx.blk.save = 0 ∧ s.detachCmd.ctx.blk.root = 0 ∧
      s.detachCmd.core.detached = s.core.detached ++ [s.ctx.blk.area] ∧
      assoc? s.detachCmd.dev.records s.ctx.blk.area = some { core := s.coreNo, rseq := s.ctx.rseq, ctx := s.ctx } := by
  rw [State.detachCmd, if_pos ⟨saved, room⟩]
  exact ⟨rfl, rfl, rfl, rfl, assoc?_assocSet _ _ _⟩

theorem hdrFrom_eq (h : Nat) : hdrFrom h = h % 16 := congrArg (· % 16) (Nat.div_one h)

theorem hdrCore_eq (h : Nat) : hdrCore h = h / 2 ^ 66 % 2 ^ 8 := rfl

theorem Device.part_zero (d : Device) (a w : Nat) : d.part a 0 w = d.mem.readBits a w := rfl

theorem State.attachCmd_free {r : SavedRecord} (free : s.ctx.st = .free) (record : assoc? s.dev.records s.ctx.blk.area = some r)
    (clean : s.poisoned (physLocal s.ctx.blk.area) 512 = none) (core : hdrCore (s.dev.part (physLocal s.ctx.blk.area) 0 512) = s.coreNo)
    (mine : s.core.detached.contains s.ctx.blk.area = true) (low : 2 ≤ hdrFrom (s.dev.part (physLocal s.ctx.blk.area) 0 512))
    (high : hdrFrom (s.dev.part (physLocal s.ctx.blk.area) 0 512) ≤ 5) :
    s.attachCmd.ctx.st = .saved ∧ s.attachCmd.ctx.regs = r.ctx.regs ∧ s.attachCmd.ctx.pc = r.ctx.pc ∧
      s.attachCmd.core.detached = s.core.detached.filter fun x => x != s.ctx.blk.area := by
  unfold State.attachCmd
  dsimp only
  rw [free, record]
  dsimp only
  rw [if_pos ⟨by rw [clean]; rfl, core, mine, low, high⟩]
  exact ⟨rfl, rfl, rfl, rfl⟩

end

/-! ## The time slice and the deferred causes (R107, R111, R120) -/

theorem Ctx.sliceDue_iff (c : Ctx) : c.sliceDue = true ↔
    c.blk.slice ≠ 0 ∧ (c.st = .ready ∨ c.st = .running ∨ c.st = .trapped) ∧ max c.blk.slice 7168 ≤ c.blk.sliced + 1 := by
  simp [Ctx.sliceDue, Ctx.slicing, CtxBlock.effective, or_assoc, and_assoc]

theorem Ctx.dueCause_lowest {c : Ctx} (h : c.st = .ready ∨ c.st = .running) (entry : c.entry = none) : c.dueCause = c.tr.lowest := by
  rcases h with h | h <;> simp [Ctx.dueCause, h, entry]

theorem State.takeDeferred_enters {s : State} (c : Cause) (enabled : s.ctx.tr.tvec.getLsbD 0 = true) : s.takeDeferred c =
    { s with ctx := s.ctx.takeTrap { cause := c, val := s.ctx.tr.deferVal c, epc := s.ctx.pc.toNat, slots := 0, defer := true } } :=
  if_pos enabled

theorem State.takeDeferred_escalates {s : State} (c : Cause) (disabled : s.ctx.tr.tvec.getLsbD 0 = false) (done : s.ctx.fnPending = false) :
    (s.takeDeferred c).ctx.st = .faulted ∧ (s.takeDeferred c).ctx.blk.fcause = c.code ∧ (s.takeDeferred c).ctx.blk.esc = true := by
  have eq : s.takeDeferred c = _ := (if_neg fun enabled => Bool.false_ne_true (disabled.symm.trans enabled)).trans (State.stopFault_now done)
  rw [eq]
  exact ⟨rfl, rfl, rfl⟩

/-! ## The record read back (R118, Tables 5.8 and 5.9) -/

/-- The bits from lo up of what lies at a are those at a + lo. -/
theorem Memory.bits_readBits (m : Memory) (a : Nat) {w lo n : Nat} (inside : lo + n ≤ w) : bits (m.readBits a w) lo n = m.readBits (a + lo) n := by
  refine Nat.eq_of_testBit_eq fun i => ?_
  rw [bits, Nat.testBit_mod_two_pow, Nat.testBit_div_two_pow, Memory.testBit_readBits, Memory.testBit_readBits]
  by_cases h : i < n
  · simp [h, show i + lo < w by omega, show a + (i + lo) = a + lo + i by omega]
  · simp [h]

theorem Memory.bitAt_readBits (m : Memory) (a : Nat) {w k : Nat} (inside : k < w) : bitAt (m.readBits a w) k = decide (m.readBits (a + k) 1 = 1) := by
  rw [← Memory.bits_readBits m a (show k + 1 ≤ w from inside)]
  simp [bitAt, bits, ← Bool.beq_eq_decide_eq]

theorem getElem?_chunks (w : Nat) {n i : Nat} (x : Nat) (h : i < n) : (chunks w n x)[i]? = some (bits x (w * i) w) := by
  induction n generalizing x i with
  | zero => omega
  | succ n ih =>
    cases i with
    | zero => simp [chunks, bits]
    | succ i => simp [chunks, ih _ (Nat.lt_of_succ_lt_succ h), bits, Nat.div_div_eq_div_mul, ← Nat.pow_add, Nat.mul_succ, Nat.add_comm]

/-- Word i of some words of w bits that lie at a is that at its own place. -/
theorem Memory.getD_chunks_readBits {α : Type} (m : Memory) (a : Nat) {W w n i : Nat} (f : Nat → α) (z : α) (h : i < n) (inside : w * n ≤ W) :
    ((chunks w n (m.readBits a W)).map f).getD i z = f (m.readBits (a + w * i) w) := by
  have : w * i + w ≤ W := (Nat.mul_succ w i ▸ Nat.mul_le_mul_left w h).trans inside
  rw [List.getD_eq_getElem?_getD, List.getElem?_map, getElem?_chunks w _ h, Memory.bits_readBits m a this]
  rfl

/-- The general registers of the record that lies at a. -/
def Device.recordRegs (d : Device) (a : Nat) (r : Regs) : Regs :=
  r.unpack (d.part a 0xE00 2048) (d.part a 0x1600 1024) (d.part a 0x1A00 4096) (d.part a 0x5200 32768)

/-- They stand at the places of Table 5.8. -/
theorem Device.recordRegs_places (d : Device) (a : Nat) (r : Regs) :
    (∀ i, i < 32 → (d.recordRegs a r).s.getD i 0 = word (d.part a (0xE00 + 64 * i) 64) ∧
      (d.recordRegs a r).v.getD i 0 = BitVec.ofNat 1024 (d.part a (0x5200 + 1024 * i) 1024)) ∧
      (∀ i, i < 8 → (d.recordRegs a r).m.getD i 0 = word (d.part a (0x1600 + 64 * i) 64)) ∧
      ∀ k, k < 16 → (d.recordRegs a r).p.getD k false = decide (d.part a (0x1900 + k) 1 = 1) := by
  simp only [Device.recordRegs, Regs.unpack, Device.part, ← Nat.add_assoc]
  refine ⟨fun i h => ⟨Memory.getD_chunks_readBits _ _ _ _ h (by decide), Memory.getD_chunks_readBits _ _ _ _ h (by decide)⟩,
    fun i h => Memory.getD_chunks_readBits _ _ _ _ h (by decide), fun k h => ?_⟩
  rw [List.getD_eq_getElem?_getD, List.getElem?_map, List.getElem?_range h, Option.map_some, Option.getD_some,
    Memory.bitAt_readBits _ _ (by omega), Nat.add_assoc, Nat.add_assoc, ← Nat.add_assoc 0x1600]

/-- What a RESTORE of context c reads back from the record at a (R119): the PC, the modes, the general and the float registers, the traps. -/
structure Ctx.ReadBack (d : Device) (a : Nat) (c u : Ctx) : Prop where
  pc : u.pc = word (bits (d.part a 0 512) 8 21)
  inh : u.inh = bitAt (d.part a 0 512) 5
  gen : u.gen = bits (d.part a 0 512) 32 16
  gwait : u.gwait = bitAt (d.part a 0 512) 4
  regs : u.regs = d.recordRegs a c.regs
  fp : u.fp = (c.withControls fun k => word (d.veiled a (0x2A00 + 64 * k) 64)).fp
  tr : u.tr = (c.withControls fun k => word (d.veiled a (0x2A00 + 64 * k) 64)).tr

theorem State.ite_readDot_ctx (p : Prop) [Decidable p] (s : State) (a : Nat) : (if p then s.readDot a else s).ctx = s.ctx := by
  split
  · exact State.onCore_ctx _ _
  · rfl

/-- The choice of a dot set to read back leaves the context alone; the kernel is spared to evaluate it. -/
theorem State.readRecord_readBack (s : State) : s.ctx.ReadBack s.dev (physLocal s.ctx.blk.area) s.readRecord.ctx :=
  have kept {α : Type} (f : Ctx → α) := congrArg f
    (State.ite_readDot_ctx (hdrDot (s.dev.part (physLocal s.ctx.blk.area) 0 512) && s.ownsDot) s (physLocal s.ctx.blk.area))
  ⟨rfl, rfl, rfl, rfl, kept fun c => s.dev.recordRegs (physLocal s.ctx.blk.area) c.regs, rfl, rfl⟩

/-- The registers but for the handles, which a RESTORE refreshes (R188). -/
def Regs.withoutHandles (r : Regs) : Regs := { r with h := [] }

theorem Regs.of_withoutHandles {r u : Regs} (h : r.withoutHandles = u.withoutHandles) : r.s = u.s ∧ r.v = u.v ∧ r.m = u.m ∧ r.p = u.p :=
  ⟨(congrArg Regs.s h :), (congrArg Regs.v h :), (congrArg Regs.m h :), (congrArg Regs.p h :)⟩

/-- The state in which a context goes on whose record is read back (R102, R362). -/
def Ctx.resumesAs (c : Ctx) : CtxState := if c.gwait then .waiting else if c.inh then .trapped else .ready

/-- The focused context with its record read back and its handles refreshed (R188, R189). -/
def State.reread (s : State) : State := (s.readRecord.onDev fun d => d.unpin (physLocal s.ctx.blk.area) (2 ^ 21)).refreshHandles

/-- A context goes on after its record is read back: in the state of the record, after the clks of the copy (R117, R119). -/
def Ctx.goesOn (c : Ctx) (clks : Nat) : Ctx :=
  { c with
    st := c.resumesAs
    wait := if c.gwait then .group else .nothing
    replay := c.late.any c.mayReplay
    sliceUp := c.sliceUp || c.blk.raised
    blk := { c.blk with preq := false }
    bubble := clks
    power := { c.power with charges := [] } }

/-- The end of a RESTORE: the context goes on, or faults for a poisoned word of its record (R43). -/
def State.resumeFrom (t : State) (poison : Option Nat) : State :=
  let u := t.onCtx fun c => c.goesOn (saveClks t.saveBits)
  match poison with
  | some x => u.takeFault .poison (word x) u.ctx.pc.toNat 0 false
  | none => u.reinstate u.ctx.pc.toNat

/-- Two contexts agree in what a RESTORE reads back, but for the handles, which it refreshes. -/
structure Ctx.SameRecord (c u : Ctx) : Prop where
  pc : u.pc = c.pc
  inh : u.inh = c.inh
  gen : u.gen = c.gen
  gwait : u.gwait = c.gwait
  regs : u.regs.withoutHandles = c.regs.withoutHandles
  fp : u.fp = c.fp
  tr : u.tr = c.tr

theorem State.refreshHandles_sameRecord (t : State) : t.ctx.SameRecord t.refreshHandles.ctx := ⟨rfl, rfl, rfl, rfl, rfl, rfl, rfl⟩

theorem Ctx.SameRecord.resumesAs {c u : Ctx} (h : c.SameRecord u) : u.resumesAs = c.resumesAs := by
  rw [Ctx.resumesAs, Ctx.resumesAs, h.gwait, h.inh]

theorem State.reread_sameRecord (s : State) : s.readRecord.ctx.SameRecord s.reread.ctx := by
  have h := State.refreshHandles_sameRecord (s.readRecord.onDev fun d => d.unpin (physLocal s.ctx.blk.area) (2 ^ 21))
  rw [State.onDev_ctx] at h
  exact h

theorem Ctx.goesOn_sameRecord (c : Ctx) (clks : Nat) : c.SameRecord (c.goesOn clks) := ⟨rfl, rfl, rfl, rfl, rfl, rfl, rfl⟩

/-- The text of State.resume with the poisoned word of the record as an argument: the kernel then compares the two without a search of the record. -/
def State.resumeWith (s : State) (poison : Option Nat) : State :=
  let area := physLocal s.ctx.blk.area
  let s := (s.readRecord.onDev fun d => d.unpin area (2 ^ 21)).refreshHandles
  let n := saveClks s.saveBits
  let s := s.onCtx fun c =>
    { c with
      st := if c.gwait then .waiting else if c.inh then .trapped else .ready
      wait := if c.gwait then .group else .nothing
      replay := c.late.any c.mayReplay
      sliceUp := c.sliceUp || c.blk.raised
      blk := { c.blk with preq := false }
      bubble := n
      power := { c.power with charges := [] } }
  match poison with
  | some x => s.takeFault .poison (word x) s.ctx.pc.toNat 0 false
  | none => s.reinstate s.ctx.pc.toNat

theorem State.resume_eq (s : State) : s.resume = s.resumeWith s.poisonedRecord := rfl

/-- The kernel unfolds both sides down to the same ends. -/
theorem State.resumeWith_eq (s : State) (poison : Option Nat) : s.resumeWith poison = s.reread.resumeFrom poison := rfl

theorem State.reinstate_modes (s : State) (pc : Nat) : (s.reinstate pc).ctx.inh = s.ctx.inh ∧ (s.reinstate pc).ctx.gen = s.ctx.gen := by
  unfold State.reinstate
  dsimp only
  split
  · exact ⟨rfl, rfl⟩
  · split <;> exact ⟨rfl, rfl⟩

/-- What a context that goes on keeps of its record, and the state that it ends in (R43, R102, R145). -/
theorem State.resumeFrom_ctx (t : State) (poison : Option Nat) :
    (t.resumeFrom poison).ctx.pc = t.ctx.pc ∧ (t.resumeFrom poison).ctx.inh = t.ctx.inh ∧ (t.resumeFrom poison).ctx.gen = t.ctx.gen ∧
      (t.resumeFrom poison).ctx.regs.withoutHandles = t.ctx.regs.withoutHandles ∧ (t.resumeFrom poison).ctx.fp = t.ctx.fp ∧
      ((t.resumeFrom poison).ctx.st ≠ .faulted → (t.resumeFrom poison).ctx.tr = t.ctx.tr) ∧
      (∀ x, poison = some x → (t.resumeFrom poison).ctx.st = .faulted ∧ (t.resumeFrom poison).ctx.blk.fcause = Cause.poison.code ∧
        (t.resumeFrom poison).ctx.blk.fval = word x) ∧
      (poison = none → (t.resumeFrom poison).ctx.st = t.ctx.resumesAs ∨
        (t.resumeFrom poison).ctx.st = .faulted ∧ (t.resumeFrom poison).ctx.blk.fcause = Cause.bundle.code) := by
  unfold State.resumeFrom
  generalize hu : (t.onCtx fun c => c.goesOn (saveClks t.saveBits)) = u
  have ctx : u.ctx = t.ctx.goesOn (saveClks t.saveBits) := by rw [← hu, State.onCtx_ctx]
  have same : t.ctx.SameRecord u.ctx := by rw [ctx]; exact Ctx.goesOn_sameRecord _ _
  have st : u.ctx.st = t.ctx.resumesAs := by rw [ctx]; rfl
  rw [← same.pc, ← same.inh, ← same.gen, ← same.regs, ← same.fp, ← same.tr, ← st]
  cases poison with
  | some x => exact ⟨rfl, rfl, rfl, rfl, rfl, fun fine => absurd rfl fine, fun y hy => ⟨rfl, rfl, Option.some.inj hy ▸ rfl⟩, nofun⟩
  | none =>
    obtain ⟨pc, regs, fp, -, ends⟩ := u.reinstate_ctx u.ctx.pc.toNat
    obtain ⟨inh, gen⟩ := u.reinstate_modes u.ctx.pc.toNat
    refine ⟨pc.trans (word_toNat _), inh, gen, congrArg _ regs, fp, fun fine => ?_, nofun, fun _ => ends.imp And.left id⟩
    exact (ends.resolve_right fun bad => fine bad.1).2

/-! ## RESTORE and RESTART (rows 18 and 21) -/

/-- A RESTORE of a SAVED context that has a save area resumes it from its record (row 18). -/
theorem State.restoreCmd_saved {s : State} (saved : s.ctx.st = .saved) (area : s.ctx.blk.save ≠ 0) :
    s.restoreCmd = s.reread.resumeFrom s.poisonedRecord :=
  (if_pos ⟨saved, area⟩).trans (s.resume_eq.trans (s.resumeWith_eq _))

/-- The fields of a record's header are the parts of the record at their own offsets. -/
theorem Device.bits_part (d : Device) (a : Nat) {w lo n : Nat} (inside : lo + n ≤ w) : bits (d.part a 0 w) lo n = d.part a lo n :=
  Memory.bits_readBits d.mem (a + 0) inside

theorem Device.bitAt_part (d : Device) (a : Nat) {w k : Nat} (inside : k < w) : bitAt (d.part a 0 w) k = decide (d.part a k 1 = 1) :=
  Memory.bitAt_readBits d.mem (a + 0) inside

/-- A RESTORE brings back the general registers as the record holds them (Table 5.8). -/
theorem State.resumeFrom_regs (s : State) (poison : Option Nat) : (s.reread.resumeFrom poison).ctx.regs.withoutHandles =
    (s.dev.recordRegs (physLocal s.ctx.blk.area) s.ctx.regs).withoutHandles := by
  obtain ⟨-, -, -, regs, -⟩ := s.reread.resumeFrom_ctx poison
  exact regs.trans (s.reread_sameRecord.regs.trans (congrArg _ s.readRecord_readBack.regs))

/-- And the PC and the modes of its header (Table 5.9). -/
theorem State.resumeFrom_header (s : State) (poison : Option Nat) :
    (s.reread.resumeFrom poison).ctx.pc = word (s.dev.part (physLocal s.ctx.blk.area) 8 21) ∧
      (s.reread.resumeFrom poison).ctx.inh = decide (s.dev.part (physLocal s.ctx.blk.area) 5 1 = 1) ∧
      (s.reread.resumeFrom poison).ctx.gen = s.dev.part (physLocal s.ctx.blk.area) 32 16 := by
  obtain ⟨pc, inh, gen, -⟩ := s.reread.resumeFrom_ctx poison
  have same := s.reread_sameRecord
  have read := s.readRecord_readBack
  rw [pc, inh, gen, same.pc, same.inh, same.gen, read.pc, read.inh, read.gen]
  exact ⟨congrArg word (Device.bits_part _ _ (by decide)), Device.bitAt_part _ _ (by decide), Device.bits_part _ _ (by decide)⟩

/-- And its control registers (R119); a fault at the end writes trap registers of its own. -/
theorem State.resumeFrom_controls (s : State) (poison : Option Nat) {ctl : Nat → Word}
    (h : ∀ k, ctl k = word (s.dev.veiled (physLocal s.ctx.blk.area) (0x2A00 + 64 * k) 64)) :
    (s.reread.resumeFrom poison).ctx.fp = (s.ctx.withControls ctl).fp ∧
      ((s.reread.resumeFrom poison).ctx.st ≠ .faulted → (s.reread.resumeFrom poison).ctx.tr = (s.ctx.withControls ctl).tr) := by
  obtain ⟨-, -, -, -, fp, tr, -⟩ := s.reread.resumeFrom_ctx poison
  have same := s.reread_sameRecord
  have read := s.readRecord_readBack
  rw [funext h, ← read.fp, ← read.tr, ← same.fp, ← same.tr]
  exact ⟨fp, tr⟩

/-- The state in which the record lets its context go on, by the header. -/
theorem State.reread_resumesAs (s : State) : s.reread.ctx.resumesAs = if s.dev.part (physLocal s.ctx.blk.area) 4 1 = 1 then .waiting
    else if s.dev.part (physLocal s.ctx.blk.area) 5 1 = 1 then .trapped else .ready := by
  have read := s.readRecord_readBack
  rw [s.reread_sameRecord.resumesAs, Ctx.resumesAs, read.gwait, read.inh, Device.bitAt_part _ _ (by decide), Device.bitAt_part _ _ (by decide)]
  simp only [decide_eq_true_eq]

/-- A RESTART of a context that a page fault has stopped goes on where it stopped (row 21, R145). -/
theorem State.restartCmd_pagefault {s : State} (faulted : s.ctx.st = .faulted) (cause : s.ctx.blk.fcause = Cause.pagefault.code) :
    s.restartCmd.ctx.pc = s.ctx.pc ∧ s.restartCmd.ctx.regs.s = s.ctx.regs.s ∧
      (s.restartCmd.ctx.st = .ready ∨ s.restartCmd.ctx.st = .faulted ∧ s.restartCmd.ctx.blk.fcause = Cause.bundle.code) := by
  rw [State.restartCmd, if_pos ⟨faulted, cause⟩]
  obtain ⟨pc, regs, -, -, ends⟩ := (s.refreshHandles.onCtx fun c => { c with st := .ready }).reinstate_ctx
    (s.refreshHandles.onCtx fun c => { c with st := .ready }).ctx.pc.toNat
  exact ⟨pc.trans (word_toNat _), (congrArg Regs.s regs).trans rfl, ends.imp And.left id⟩

/-! ## The record written (R118) -/

theorem veil_veil (o w v : Nat) : veil o w (veil o w v) = v % 2 ^ w := by
  refine Nat.eq_of_testBit_eq fun i => ?_
  simp only [veil, Nat.testBit_xor, Nat.testBit_mod_two_pow]
  cases decide (i < w) <;> simp

theorem Device.writePinned_mem (d : Device) (a : Nat) (x : BitWrite) :
    (d.writePinned a x).mem = if x.width = 0 then d.mem else d.mem.writeBits (a + x.addr) x.width x.val :=
  (Device.foldl_mem (fun d l => d.cacheLine_mem true l) _ _).trans (d.put_mem _ _ _)

theorem Device.writePinned_wf (d : Device) (a : Nat) (x : BitWrite) (h : d.mem.wf = true) : (d.writePinned a x).mem.wf = true := by
  rw [Device.writePinned_mem]
  split
  · exact h
  · exact Memory.writeBits_wf _ _ _ h

theorem Device.cacheLine_records (d : Device) (pin : Bool) (l : Nat) : (d.cacheLine pin l).records = d.records := by
  unfold Device.cacheLine; exact (apply_ite Device.records _ _ _).trans (ite_self _)

theorem Device.backInvalidate_records (d : Device) (l : Nat) : (d.backInvalidate l).records = d.records := by
  unfold Device.backInvalidate; split <;> rfl

theorem Device.merge_records (d : Device) (a w v : Nat) : (d.merge a w v).records = d.records := by
  unfold Device.merge
  split
  · rfl
  · exact foldl_keeps Device.records (fun d l => d.cacheLine_records false l) (linesOf a w) d

theorem Device.writePinned_records (d : Device) (a : Nat) (x : BitWrite) : (d.writePinned a x).records = d.records := by
  refine (foldl_keeps Device.records (fun d l => d.cacheLine_records true l) _ _).trans ?_
  rw [Device.put, Device.merge_records, foldl_keeps Device.records Device.backInvalidate_records]

/-- Two parts of a record share no bit. -/
def BitWrite.apart (x y : BitWrite) : Prop := x.addr + x.width ≤ y.addr ∨ y.addr + y.width ≤ x.addr

/-- A part of the record at a stands there. -/
def Device.holds (d : Device) (a : Nat) (x : BitWrite) : Prop := d.mem.readBits (a + x.addr) x.width = x.val % 2 ^ x.width

theorem Device.holds_writePinned_self (d : Device) (a : Nat) (x : BitWrite) (h : d.mem.wf = true) : (d.writePinned a x).holds a x := by
  unfold Device.holds
  rw [Device.writePinned_mem]
  split
  · rename_i none
    rw [none]; simp [Memory.readBits, Nat.mod_one]
  · exact Memory.readBits_writeBits_same _ _ _ h

theorem Device.holds_writePinned_apart {d : Device} {a : Nat} {x y : BitWrite} (h : d.mem.wf = true) (apart : x.apart y) (holds : d.holds a x) :
    (d.writePinned a y).holds a x := by
  unfold Device.holds
  rw [Device.writePinned_mem]
  split
  · exact holds
  · rw [Memory.readBits_writeBits_other _ _ _ h (by unfold BitWrite.apart at apart; omega)]
    exact holds

/-- A part written among parts that are apart from it stands when all are written. -/
theorem Device.holds_foldl_writePinned {a : Nat} {x : BitWrite} (l : List BitWrite) {d : Device} (h : d.mem.wf = true)
    (apart : ∀ y ∈ l, y = x ∨ x.apart y) (start : x ∈ l ∨ d.holds a x) : (l.foldl (fun d x => d.writePinned a x) d).holds a x := by
  induction l generalizing d with
  | nil => exact start.resolve_left List.not_mem_nil
  | cons y t ih =>
    refine ih (d.writePinned_wf a y h) (fun z hz => apart z (List.mem_cons_of_mem _ hz)) ?_
    rcases apart y List.mem_cons_self with rfl | off
    · exact .inr (d.holds_writePinned_self a y h)
    · rcases start with mem | holds
      · rcases List.mem_cons.mp mem with rfl | mem
        · exact .inr (d.holds_writePinned_self a x h)
        · exact .inl mem
      · exact .inr (Device.holds_writePinned_apart h off holds)

/-- The parts whose layout the manual gives lie apart (Table 5.8). -/
theorem State.recordParts_apart (s : State) {x y : BitWrite} (hx : x ∈ s.recordParts) (hy : y ∈ s.recordParts) : x = y ∨ x.apart y := by
  have all : s.recordParts.Pairwise BitWrite.apart := by
    unfold State.recordParts
    dsimp only
    split <;> split
    all_goals
      simp only [List.cons_append, List.nil_append, List.append_nil, List.pairwise_cons, List.forall_mem_cons, List.not_mem_nil, BitWrite.apart,
        List.Pairwise.nil, false_imp_iff, implies_true, and_true]
      omega
  have symm : Std.Symm BitWrite.apart := ⟨fun _ _ => Or.symm⟩
  exact or_iff_not_imp_left.mpr fun ne => all.forall hx hy ne

/-- They leave room for the regions without a given layout (log 8). -/
theorem State.recordParts_outside (s : State) {x : BitWrite} (h : x ∈ s.recordParts) :
    x.addr + x.width ≤ 0x2A00 ∨ 0x3200 ≤ x.addr ∧ x.addr + x.width ≤ 0xD200 ∨ 0x35200 ≤ x.addr ∧ x.addr + x.width ≤ 0x37200 ∨ 0x127200 ≤ x.addr := by
  revert x
  unfold State.recordParts
  dsimp only
  split <;> split
  all_goals
    simp only [List.cons_append, List.nil_append, List.append_nil, List.forall_mem_cons, List.not_mem_nil, false_imp_iff, implies_true, and_true]
    omega

/-- The late writes, the withdrawn commands and the dot set of the focused context fit their regions. -/
structure State.RecordFits (s : State) : Prop where
  late : s.ctx.late.length ≤ 64
  withdrawn : s.ctx.withdrawn.length ≤ 256
  dot : ∀ e ∈ s.core.dot.entries, e.index < 128 ∧ e.vals.length ≤ 96

/-- The parts without a given layout lie in those regions. -/
theorem State.RecordFits.inside {s : State} (fits : s.RecordFits) {x : BitWrite} (h : x ∈ s.veiledParts) :
    0x2A00 ≤ x.addr ∧ x.addr + x.width ≤ 0x3200 ∨ 0xD200 ≤ x.addr ∧ x.addr + x.width ≤ 0x35200 ∨ 0x37200 ≤ x.addr ∧ x.addr + x.width ≤ 0x127200 := by
  obtain ⟨late, withdrawn, dot⟩ := fits
  simp only [State.veiledParts, List.mem_append, List.mem_map, List.mem_range, List.mem_mapIdx] at h
  rcases h with ((⟨k, hk, rfl⟩ | ⟨i, hi, rfl⟩) | ⟨i, hi, rfl⟩) | h
  · left; dsimp only; omega
  · right; left; dsimp only; omega
  · right; left; dsimp only; omega
  · split at h
    · obtain ⟨e, he, o, ho, rfl⟩ := by simpa using h
      have := dot e he
      right; right; dsimp only; omega
    · exact absurd h List.not_mem_nil

theorem State.RecordFits.saved_holds {s : State} (fits : s.RecordFits) (wf : s.dev.mem.wf = true) {x : BitWrite} (h : x ∈ s.recordParts) :
    s.saved.dev.holds (physLocal s.ctx.blk.area) x := by
  refine Device.holds_foldl_writePinned _ wf (fun y hy => ?_) (.inl (List.mem_append_left _ h))
  rcases List.mem_append.mp hy with hy | hy
  · exact s.recordParts_apart hy h |>.imp id Or.symm
  · have := s.recordParts_outside h
    have := fits.inside hy
    exact .inr (by unfold BitWrite.apart; omega)

/-- What a save leaves beside the record (Table 5.5 row 15). -/
theorem State.saved_keeps (s : State) :
    s.saved.ctx.st = .saved ∧ s.saved.ctx.rseq = s.dev.revSeq ∧ s.saved.ctx.regs = s.ctx.regs ∧ s.saved.dev.records = s.dev.records :=
  ⟨rfl, rfl, rfl, foldl_keeps Device.records (fun d x => d.writePinned_records _ x) _ _⟩

/-- Settles O55: each command by its own law; a RESTORE by what its record holds, a save by the parts of its record, which lie apart. -/
theorem contextCommandsComplete : Obligations.ContextCommandsComplete := by
  intro s
  refine ⟨fun who => ⟨State.onCommand_of_lt who _, State.onCommand_of_lt who _, State.onCommand_of_lt who _, State.onCommand_of_lt who _,
      State.onCommand_of_lt who _, State.onCommand_of_lt who _, State.onCommand_of_lt who _, State.onCommand_of_lt who _,
      State.onCommand_of_lt who _, State.onCommand_of_lt who _, exec_deferredTrapEntry_of_lt who, State.saveEnds, exec_saveComplete_of_lt who,
      fun t n => State.saveEnds_of_begun⟩, exec_ctxCommand_of_le, State.parkCmd_requests, fun waiting landed => ?_, fun live entry safe landed => ?_,
    fun live pending => ?_, State.killCtx_retires, State.killCmd_of_none, fun faulted alone => ?_, fun retired => if_pos retired, ?_, State.restartCmd_pagefault,
    State.detachCmd_saved, ?_, fun c => ⟨c.sliceDue_iff, rfl⟩, ?_, ?_, fun free => ?_, veil_veil⟩
  · rw [State.parkCmd_waiting waiting landed]
    obtain ⟨st, src, forced, regs⟩ := State.park_ctx (s.onCtx fun c => { c with blk := { c.blk with preq := true } }) true
    exact ⟨st, src.trans (by rw [State.onCtx_ctx, waiting]; rfl), forced, regs⟩
  · rw [State.forceCmd_eq live, State.forcePark_now entry safe landed]
    obtain ⟨st, -, forced, regs⟩ := s.park_ctx true
    exact ⟨st, forced, regs⟩
  · rw [State.forceCmd_eq live]
    exact State.forcePark_waits pending
  · rw [State.retireCmd_of_none faulted alone]
    exact ⟨rfl, rfl⟩
  · intro part saved area hpart t ht
    obtain rfl : part = s.dev.part (physLocal s.ctx.blk.area) := funext fun o => funext fun w => hpart o w
    rw [State.restoreCmd_saved saved area] at ht
    subst ht
    obtain ⟨eqS, eqV, eqM, eqP⟩ := Regs.of_withoutHandles (s.resumeFrom_regs s.poisonedRecord)
    obtain ⟨sv, m, p⟩ := s.dev.recordRegs_places (physLocal s.ctx.blk.area) s.ctx.regs
    obtain ⟨pc, inh, gen⟩ := s.resumeFrom_header s.poisonedRecord
    obtain ⟨-, -, -, -, -, -, faults, goes⟩ := s.reread.resumeFrom_ctx s.poisonedRecord
    rw [s.reread_resumesAs] at goes
    rw [eqS, eqV, eqM, eqP]
    exact ⟨sv, m, p, pc, inh, gen, fun ctl => s.resumeFrom_controls s.poisonedRecord, faults, goes⟩
  · intro r h free record clean header core mine low high
    obtain rfl : h = s.dev.part (physLocal s.ctx.blk.area) 0 512 := header.trans (s.dev.part_zero _ _).symm
    rw [← hdrFrom_eq] at low high
    exact State.attachCmd_free free record clean ((hdrCore_eq _).trans core) mine low high
  · intro c live entry lowest
    exact ⟨(Ctx.dueCause_lowest live entry).trans lowest, State.takeDeferred_enters c, State.takeDeferred_escalates c⟩
  · obtain ⟨st, rseq, regs, records⟩ := s.saved_keeps
    exact ⟨st, rseq, regs, records, fun wf late withdrawn dot x => State.RecordFits.saved_holds ⟨late, withdrawn, dot⟩ wf⟩
  · obtain ⟨park, force, kill, restore, restart, retire, gone, detach⟩ := State.commands_of_free free
    rw [force, kill, restore, restart, retire, gone, detach, park]
    exact ⟨rfl, rfl, rfl, rfl, rfl, rfl, rfl, rfl⟩

end Sys2Proof.Machine

/-! O43: where a committed bundle leaves its context (R136 to R143). -/

namespace Sys2Proof.Machine

/-! ## IterationEnd (R216) -/

theorem State.discard_loops (s : State) (q : Nat) : (s.discard q).ctx.loops = s.ctx.loops ∧ (s.discard q).ctx.safeHold = s.ctx.safeHold := by
  unfold State.discard
  dsimp only
  split <;> exact ⟨rfl, rfl⟩

theorem State.ringStep_loops (s : State) (k n : Nat) :
    (s.ringStep k n).ctx.loops = s.ctx.loops ∧ (s.ringStep k n).ctx.safeHold = s.ctx.safeHold := by
  unfold State.ringStep
  dsimp only
  split
  · exact s.discard_loops n
  · exact ⟨rfl, rfl⟩

@[simp] theorem State.iterationEnd_loops (s : State) (k : Nat) : (s.iterationEnd k).ctx.loops = s.ctx.loops :=
  foldl_keeps (fun t : State => t.ctx.loops) (fun t n => (t.ringStep_loops k n).1) _ s

@[simp] theorem State.iterationEnd_safeHold (s : State) (k : Nat) : (s.iterationEnd k).ctx.safeHold = s.ctx.safeHold :=
  foldl_keeps (fun t : State => t.ctx.safeHold) (fun t n => (t.ringStep_loops k n).2) _ s

/-- The context with these levels active, its ring strides as they were. -/
def State.withLevels (s : State) (levels : List Level) : State := s.onCtx fun c => { c with loops := { c.loops with levels := levels } }

@[simp] theorem State.withLevels_levels (s : State) (levels : List Level) : (s.withLevels levels).ctx.loops.levels = levels := rfl
@[simp] theorem State.withLevels_safeHold (s : State) (levels : List Level) : (s.withLevels levels).ctx.safeHold = s.ctx.safeHold := rfl

/-! ## EndStep (R138) -/

/-- EndStep(n) with the given fuel leaves the context at m with these levels; safe says whether an iteration of a safe level ended. -/
structure State.EndsAt (s : State) (n fuel m : Nat) (levels : List Level) (safe : Bool) : Prop where
  pc : (s.endStep n fuel).2.1 = m
  safe : (s.endStep n fuel).2.2 = safe
  levels : (s.endStep n fuel).1.ctx.loops.levels = levels
  hold : (s.endStep n fuel).1.ctx.safeHold = s.ctx.safeHold

section
variable {s : State} {n fuel m : Nat} {l : Level} {rest left : List Level} {safe : Bool}

/-- Nothing ends where no level is active. -/
theorem State.endsAt_flat (flat : s.ctx.loops.levels = []) : s.EndsAt n fuel n [] false := by
  have stays : s.endStep n fuel = (s, n, false) := by
    cases fuel with
    | zero => rfl
    | succ fuel => simp [State.endStep, flat]
  constructor <;> rw [stays]
  exact flat

/-- Nothing ends where the innermost level ends elsewhere. -/
theorem State.endsAt_within (inner : s.ctx.loops.levels = rest ++ [l]) (other : l.stop ≠ n) : s.EndsAt n fuel n (rest ++ [l]) false := by
  have stays : s.endStep n fuel = (s, n, false) := by
    cases fuel with
    | zero => rfl
    | succ fuel => simp [State.endStep, inner, other.symm]
  constructor <;> rw [stays]
  exact inner

/-- EndStep ends an iteration of the innermost level and goes on from there with the levels it leaves. -/
theorem State.EndsAt.of_iteration {k n' : Nat} {levels : List Level} {t : State} (ht : t = (s.iterationEnd k).withLevels levels)
    (step : s.endStep n (fuel + 1) = ((t.endStep n' fuel).1, (t.endStep n' fuel).2.1, l.safe || (t.endStep n' fuel).2.2))
    (h : t.EndsAt n' fuel m left safe) : s.EndsAt n (fuel + 1) m left (l.safe || safe) := by
  constructor <;> rw [step]
  · exact h.pc
  · rw [h.safe]
  · exact h.levels
  · exact h.hold.trans (ht ▸ s.iterationEnd_safeHold k)

/-- An innermost level with no iteration left is popped, and EndStep goes on with the levels below it. -/
theorem State.endsAt_pop (inner : s.ctx.loops.levels = rest ++ [l]) (ends : l.stop = n) (last : l.count ≤ l.index + 1)
    (below : ∀ t : State, t.ctx.loops.levels = rest → t.EndsAt n fuel m left safe) : s.EndsAt n (fuel + 1) m left (l.safe || safe) :=
  .of_iteration rfl (by simp [State.endStep, State.withLevels, inner, ends, Nat.not_lt.mpr last])
    (below _ ((s.iterationEnd rest.length).withLevels_levels rest))

/-- An innermost level with an iteration left goes on at its start, its index one higher. -/
theorem State.endsAt_again (inner : s.ctx.loops.levels = rest ++ [l]) (ends : l.stop = n) (more : l.index + 1 < l.count) (body : l.start ≠ l.stop) :
    s.EndsAt n (fuel + 1) l.start (rest ++ [{ l with index := l.index + 1 }]) l.safe := by
  have again : ((s.iterationEnd rest.length).withLevels (rest ++ [{ l with index := l.index + 1 }])).EndsAt l.start fuel l.start _ false :=
    State.endsAt_within (State.withLevels_levels ..) body.symm
  have ended := again.of_iteration (s := s) (l := l) (n := n) rfl (by simp [State.endStep, State.withLevels, inner, ends, more])
  rwa [Bool.or_false] at ended

section
variable {ended : List Level} (done : ∀ x ∈ ended, x.stop = n ∧ x.count ≤ x.index + 1)
include done

/-- Every innermost level that ends at n with no iteration left is popped. -/
theorem State.endsAt_ended (inner : s.ctx.loops.levels = rest ++ ended)
    (below : ∀ t : State, t.ctx.loops.levels = rest → t.EndsAt n fuel m left safe) :
    s.EndsAt n (fuel + ended.length) m left (ended.any Level.safe || safe) := by
  induction ended using List.reverseRecOn generalizing s with
  | nil => exact below s (inner.trans (List.append_nil _))
  | append_singleton xs x ih =>
    obtain ⟨ends, last⟩ := done x (by simp)
    have pops := State.endsAt_pop (inner.trans (List.append_assoc ..).symm) ends last fun t => ih (s := t) fun y hy => done y (by simp [hy])
    rw [List.length_append, ← Nat.add_assoc, List.any_append, Bool.or_comm (xs.any _), Bool.or_assoc]
    simpa only [List.any_cons, List.any_nil, Bool.or_false, List.length_singleton] using pops

/-- A context goes on where EndStep leaves it, at a safe point when an iteration of a safe level ended (R113). -/
theorem State.goOn_ended (inner : s.ctx.loops.levels = rest ++ ended) (few : s.ctx.loops.levels.length ≤ 6)
    (below : ∀ (t : State) (fuel : Nat), t.ctx.loops.levels = rest → t.EndsAt n (fuel + 1) m left safe) :
    (s.goOn n).ctx.pc = BitVec.ofNat 64 m ∧ (s.goOn n).ctx.loops.levels = left ∧
      (s.goOn n).ctx.safeHold = (s.ctx.safeHold || ended.any Level.safe || safe) := by
  have fuel : 7 = 6 - ended.length + 1 + ended.length := by
    rw [inner, List.length_append] at few
    omega
  obtain ⟨pc, hsafe, levels, hold⟩ := fuel ▸ State.endsAt_ended done inner fun t => below t (6 - ended.length)
  unfold State.goOn
  dsimp only
  rw [pc, hsafe, Bool.or_assoc]
  split
  case isTrue h => exact ⟨rfl, levels, by rw [h, Bool.or_true]; rfl⟩
  case isFalse h => exact ⟨rfl, levels, by rw [Bool.eq_false_iff.mpr h, Bool.or_false]; exact hold⟩

end
end

/-! ## TakeBranch (R142) -/

/-- The body of the level holds the address. -/
def Level.holds (l : Level) (t : Nat) : Bool := decide (l.start ≤ t ∧ t < l.stop)

theorem popLevels_eq (t : Nat) (l : List Level) : popLevels t l = l.dropWhile fun x => !x.holds t := by
  induction l with
  | nil => rfl
  | cons x xs ih =>
    rw [popLevels, List.dropWhile_cons, ← ih]
    by_cases h : x.start ≤ t ∧ t < x.stop <;> simp [Level.holds, h]

/-- TakeBranch keeps the outer levels up to the innermost one whose body holds the target. -/
theorem LoopStack.branchTo_levels (ls : LoopStack) (t : Nat) :
    ∃ k, (ls.branchTo t).levels = ls.levels.take k ∧ (∀ x, (ls.branchTo t).levels.getLast? = some x → x.holds t = true) ∧
      ∀ x, ls.levels[k]? = some x → x.holds t = false := by
  have kept : (ls.branchTo t).levels = ls.levels.rdropWhile fun x => !x.holds t := congrArg List.reverse (popLevels_eq t _)
  have whole := List.rdropWhile_append_rtakeWhile (p := fun x : Level => !x.holds t) (l := ls.levels)
  rw [kept]
  refine ⟨_, List.prefix_iff_eq_take.mp (List.rdropWhile_prefix _ _), fun x last => ?last, fun x next => ?next⟩
  case last =>
    obtain ⟨some, rfl⟩ := List.mem_getLast?_eq_getLast last
    simpa using List.rdropWhile_last_not _ _ some
  case next =>
    rw [← whole, List.getElem?_append_right (by simp), whole] at next
    simpa using List.mem_rtakeWhile_imp (List.mem_of_getElem? next)

/-! ## The redirect of a bundle (R143) -/

/-- The effects that say where the context goes on. -/
def Effect.redirects : Effect → Bool
  | .branch _ | .endStep _ | .enter _ | .lbrk _ | .trap _ | .tret | .exit => true
  | _ => false

/-- Where the context goes on after the redirect of its bundle, or without one. -/
def State.follows (s : State) : Option Effect → State
  | some (.branch t) => s.onCtx fun c => { c with pc := t, loops := c.loops.branchTo t.toNat }
  | some (.endStep n) => s.goOn n
  | some (.enter l) => s.onCtx fun c => { c with pc := word s.bundle.next, loops := { c.loops with levels := c.loops.levels ++ [l] } }
  | some (.lbrk k) =>
    (s.withLevels (s.ctx.loops.levels.take k)).goOn
      (match s.ctx.loops.levels[k]? with | some l => l.stop | none => s.bundle.next)
  | some (.trap code) =>
    (s.goOn s.bundle.next).commitTrap code ((s.bundle.slots.findIdx? fun i => match i with | .trap _ => true | _ => false).getD 0)
  | some .tret => s.commitTret
  | some .exit => s.commitExit
  | _ => s.goOn s.bundle.next

theorem State.sequence_eq (s : State) : s.sequence = s.follows (s.bundle.effects.find? Effect.redirects) := rfl

section
variable {s : State} {pre post : List Effect}

/-- An effect that none of the redirects of R143 is. -/
theorem Effect.not_redirects {e : Effect}
    (h : match e with | .branch _ | .endStep _ | .enter _ | .lbrk _ | .trap _ | .tret | .exit => False | _ => True) : e.redirects = false := by
  cases e
  case branch | endStep | enter | lbrk | trap | tret | exit => exact h.elim
  all_goals rfl

/-- The first redirect that a bundle stages is the one that its context follows. -/
theorem State.sequence_redirect {e : Effect} (plain : ∀ x ∈ pre, x.redirects = false) (effects : s.bundle.effects = pre ++ e :: post)
    (redirects : e.redirects = true) : s.sequence = s.follows (some e) := by
  rw [State.sequence_eq, effects, List.find?_append, List.find?_eq_none.mpr (by simpa using plain), List.find?_cons_of_pos redirects, Option.none_or]

/-- A bundle without a redirect goes on after its last slot. -/
theorem State.sequence_next (plain : ∀ x ∈ s.bundle.effects, x.redirects = false) : s.sequence = s.goOn s.bundle.next := by
  rw [State.sequence_eq, List.find?_eq_none.mpr (by simpa using plain)]
  rfl

/-- The address at which EndStep runs and the levels it finds: after a bundle without a redirect, after a LOOP of count 0, and after lbrk (R138, R141). -/
theorem State.sequence_goOn {n : Nat} {active : List Level} (plain : ∀ x ∈ pre, x.redirects = false)
    (which : s.bundle.effects = pre ∧ n = s.bundle.next ∧ active = s.ctx.loops.levels ∨
      s.bundle.effects = pre ++ .endStep n :: post ∧ active = s.ctx.loops.levels ∨
      ∃ k x, s.bundle.effects = pre ++ .lbrk k :: post ∧ s.ctx.loops.levels[k]? = some x ∧ n = x.stop ∧ active = s.ctx.loops.levels.take k) :
    ∃ u : State, s.sequence = u.goOn n ∧ u.ctx.loops.levels = active ∧ u.ctx.safeHold = s.ctx.safeHold := by
  rcases which with ⟨effects, rfl, rfl⟩ | ⟨effects, rfl⟩ | ⟨k, x, effects, level, rfl, rfl⟩
  · exact ⟨s, State.sequence_next (effects ▸ plain), rfl, rfl⟩
  · exact ⟨s, State.sequence_redirect plain effects rfl, rfl, rfl⟩
  · have seq : s.sequence = (s.withLevels (s.ctx.loops.levels.take k)).goOn _ := State.sequence_redirect plain effects rfl
    rw [level] at seq
    exact ⟨_, seq, s.withLevels_levels _, s.withLevels_safeHold _⟩

end

/-- Settles O43: EndStep pops the levels that are over, by induction from the innermost, and the level below them gives the three cases; a branch is
TakeBranch, and an entry appends its level. -/
theorem commitSequencesTheContext : Obligations.CommitSequencesTheContext := by
  rintro s l _ rfl
  refine ⟨fun rest ended active n pre post plain which few done => ?ends, fun t pre post effects plain => ?branch, fun pre post effects plain => ?enter⟩
  case ends =>
    obtain ⟨u, goes, rfl, hold⟩ := State.sequence_goOn (fun x hx => Effect.not_redirects (plain x hx)) which
    rw [goes, ← hold]
    refine ⟨fun all => ?flat, fun inner other => ?within, fun inner ends more body => ?again⟩
    case flat => simpa using State.goOn_ended (rest := []) done all few fun t fuel => State.endsAt_flat
    case within => simpa using State.goOn_ended done (inner.trans (List.append_cons ..)) few fun t fuel below => State.endsAt_within below other
    case again => exact State.goOn_ended done (inner.trans (List.append_cons ..)) few fun t fuel below => State.endsAt_again below ends more body
  case branch =>
    rw [State.sequence_redirect (fun x hx => Effect.not_redirects (plain x hx)) effects rfl]
    obtain ⟨k, kept, last, next⟩ := s.ctx.loops.branchTo_levels t.toNat
    exact ⟨rfl, k, kept, fun x hx => of_decide_eq_true (last x hx), fun x hx => of_decide_eq_false (next x hx)⟩
  case enter =>
    rw [State.sequence_redirect (fun x hx => Effect.not_redirects (plain x hx)) effects rfl]
    exact ⟨rfl, rfl⟩

end Sys2Proof.Machine

/-! O4: the moves between register classes (R148, R149). -/

namespace Sys2Proof.Machine

/-- The sum of the powers of two that f names below n has exactly those bits. -/
theorem testBit_foldl_range (f : Nat → Bool) (n j : Nat) :
    ((List.range n).foldl (fun a k => a + if f k = true then 2 ^ k else 0) 0).testBit j = (decide (j < n) && f j) := by
  induction n generalizing j with
  | zero => simp
  | succ n ih =>
    rw [List.range_succ, List.foldl_append, List.foldl_cons, List.foldl_nil]
    have small := Nat.lt_pow_two_of_testBit _ fun i (hi : i ≥ n) => (ih i).trans (by simp [Nat.not_lt.mpr hi])
    have joined : ∀ b : Bool, ∀ a < 2 ^ n, a + (if b = true then 2 ^ n else 0) = a ||| (if b = true then 2 ^ n else 0) := by
      rintro (_ | _) a ha
      · simp
      · simpa [Nat.add_comm, Nat.or_comm] using Nat.two_pow_add_eq_or_of_lt ha 1
    rw [joined _ _ small, Nat.testBit_or, ih]
    rcases Nat.lt_trichotomy j n with lt | rfl | gt
    · cases f n <;> simp [lt, Nat.lt_succ_of_lt lt, lt.ne']
    · cases f j <;> simp
    · cases f n <;> simp [gt.not_gt, gt.ne, show ¬ j < n + 1 by omega]

/-- rdp reads predicate j in bit j, and 0 above the sixteen (R148). -/
theorem Regs.getLsbD_preds (r : Regs) (j : Nat) : (word r.preds).getLsbD j = (decide (j < 16) && r.readP j) := by
  have bit : r.preds.testBit j = (decide (j < 16) && r.readP j) := testBit_foldl_range r.readP 16 j
  rw [word, BitVec.getLsbD_ofNat, bit, ← Bool.and_assoc, ← Bool.decide_and]
  simp only [and_iff_right_of_imp fun h : j < 16 => show j < 64 by omega]

/-- The loop index of a level, 0 when it is not active (R136). -/
theorem LoopStack.index_eq (l : LoopStack) (k : Nat) : l.index k = (l.levels[k]?.map Level.index).getD 0 := by
  unfold LoopStack.index
  cases l.levels[k]? <;> rfl

/-- The predicates are all there for a reader, or all free for a writer, when each of the eight pairs is. -/
theorem all_pairs {busy : Dest → Bool} (free : ∀ j < 8, busy (.pair j) = false) : ((List.range 8).all fun k => !busy (.pair k)) = true :=
  List.all_eq_true.mpr fun k hk => by simp [free k (List.mem_range.mp hk)]

/-- A move from a register of another class stages that register. -/
theorem moveTo_stages {d : Dst} {x : Dest} (f : Regs → Word) {s : State} (free : s.ctx.busy x = false) (hd : Gives (readyS d) s () s) :
    moveTo d x f s = s.stages [s.sOf d 1 (f s.ctx.regs)] :=
  runSlot_gives ((gives_get s).bind ((gives_await (by simp [free]) s).bind (hd.bind (gives_putS d 1 _ s))))

section
variable {s t : State} {d : Dst} {a : Src} {x : Word}

theorem rdi_stages (hd : Gives (readyS d) s () s) (k : Fin 8) :
    exec (.rdi d k) s = s.stages [s.sOf d 1 (BitVec.ofNat 64 ((s.ctx.loops.levels[k.val]?.map Level.index).getD 0))] := by
  rw [← LoopStack.index_eq]
  exact runSlot_gives ((gives_get s).bind (hd.bind (gives_putS d 1 _ s)))

theorem rdp_stages (hd : Gives (readyS d) s () s) (free : ∀ j < 8, s.ctx.busy (.pair j) = false) :
    exec (.rdp d) s = s.stages [s.sOf d 1 (word s.ctx.regs.preds)] :=
  runSlot_gives ((gives_get s).bind ((gives_await (all_pairs free) s).bind (hd.bind (gives_putS d 1 _ s))))

/-- A scalar operand that goes as it is to a register of another class. -/
theorem write_stages (ha : Gives (readS a) s x t) {r : Dest} (free : t.ctx.busyWrite r = false) :
    runSlot (do let v ← readS a; readyDest r; putDest r 1 v.toNat 0) s = t.stages [t.resultOf r 1 0 x.toNat 0] :=
  runSlot_gives (ha.bind ((gives_readyDest free).bind (gives_putDest r 1 _ 0 t)))

theorem wre_stages (ha : Gives (readS a) s x t) {k : Fin 8} (free : t.ctx.busyWrite (.e k.val) = false) (aligned : x.toNat % 64 = 0)
    (fits : x.toNat < 4096) : exec (.wre k a) s = t.stages [t.resultOf (.e k.val) 1 0 x.toNat 0] :=
  runSlot_gives (ha.bind ((gives_readyDest free).bind ((gives_check (by simp [aligned, fits]) _ _ t).bind (gives_putDest _ 1 _ 0 t))))

theorem wrp_stages {b : Src} {u : State} {y : Word} (ha : Gives (readS a) s x t) (hb : Gives (readS b) t y u)
    (free : ∀ j < 8, u.ctx.busyWrite (.pair j) = false) :
    exec (.wrp a b) s = u.stages [u.resultOf .preds 1 0 (x.toNat % 2 ^ 16 + y.toNat % 2 ^ 16 * 2 ^ 16) 0] :=
  runSlot_gives (ha.bind (hb.bind ((gives_get u).bind ((gives_await (all_pairs free) u).bind (gives_putDest _ 1 _ 0 u)))))

end

/-- Settles O4: a read is moveTo of its register, a write goes on with its operand once its destination is free, and rdp packs the predicates bit by bit. -/
theorem registerMoves : Obligations.RegisterMoves := by
  intro d a b s t u x y n k hd
  refine ⟨fun free => moveTo_stages (·.readB n.val) free hd, fun free => moveTo_stages (·.readM k.val) free hd,
    fun free => moveTo_stages (fun r => word (r.readE k.val)) free hd, rdi_stages hd k,
    fun free => ⟨word s.ctx.regs.preds, rdp_stages hd free, fun j hj => ?low, fun j hj => ?high⟩,
    fun ha => ⟨write_stages ha, write_stages ha, wre_stages ha, wrp_stages ha⟩⟩
  case low => rw [Regs.getLsbD_preds, decide_eq_true hj, Bool.true_and]
  case high => rw [Regs.getLsbD_preds, decide_eq_false (Nat.not_lt.mpr hj), Bool.false_and]

end Sys2Proof.Machine

/-! O6: the compares, the predicate logic and sel (R130 to R132). -/

namespace Sys2Proof.Machine

section
variable (x y : Word)

/-! The conditions of Table 6.2. -/

@[simp] theorem condHolds_eq : condHolds .eq x y = decide (x = y) := rfl
@[simp] theorem condHolds_ne : condHolds .ne x y = decide (x ≠ y) := (decide_not ..).symm
@[simp] theorem condHolds_lt : condHolds .lt x y = decide (x.toInt < y.toInt) := rfl
@[simp] theorem condHolds_ge : condHolds .ge x y = decide (y.toInt ≤ x.toInt) := rfl
@[simp] theorem condHolds_ltu : condHolds .ltu x y = decide (x.toNat < y.toNat) := rfl
@[simp] theorem condHolds_geu : condHolds .geu x y = decide (y.toNat ≤ x.toNat) := rfl
@[simp] theorem condHolds_tst : condHolds .tst x y = decide (x &&& y ≠ 0) := (decide_not ..).symm
@[simp] theorem condHolds_ntst : condHolds .ntst x y = decide (x &&& y = 0) := rfl

end

section
variable {s t u : State} {a b : Src} {x y : Word} {k : Fin 8}

/-- A compare stages its condition for the pair (R130). -/
theorem cmp_stages (c : Cond) (ha : Gives (readS a) s x t) (hb : Gives (readS b) t y u) (free : u.ctx.busyWrite (.pair k.val) = false) :
    exec (.cmp c k a b) s = u.stages [u.pairOf k.val 1 (condHolds c x y)] :=
  runSlot_gives (ha.bind (hb.bind ((gives_readyDest free).bind (gives_putPair _ 1 _ u))))

/-- A compare with an immediate extends its sign (R130). -/
theorem cmpi_stages (c : Cond) (ha : Gives (readS a) s x t) (free : t.ctx.busyWrite (.pair k.val) = false) (imm : BitVec 12) :
    exec (.cmpi c k a imm) s = t.stages [t.pairOf k.val 1 (condHolds c x (imm.signExtend 64))] :=
  runSlot_gives (ha.bind ((gives_readyDest free).bind (gives_putPair _ 1 _ t)))

/-- Predicate logic stages its function of the two predicates for the pair (R131). -/
theorem predLogic_stages (f : Bool → Bool → Bool) {pa pb : Fin 16} (ha : s.guardReady pa.val) (hb : s.guardReady pb.val)
    (free : s.ctx.busyWrite (.pair k.val) = false) :
    predLogic f k pa pb s = s.stages [s.pairOf k.val 1 (f (s.ctx.regs.readP pa.val) (s.ctx.regs.readP pb.val))] :=
  runSlot_gives ((gives_readPred ha).bind ((gives_readPred hb).bind ((gives_readyDest free).bind (gives_putPair _ 1 _ s))))

/-- sel stages the source that its predicate chooses, with both read (R132). -/
theorem sel_stages {d : Dst} {g : Fin 16} (hg : s.guardReady g.val) (ha : Gives (readS a) s x t) (hb : Gives (readS b) t y u)
    (hd : Gives (readyS d) u () u) :
    exec (.sel d a b g) s = u.stages [u.sOf d 1 (if s.ctx.regs.readP g.val = true then x else y)] :=
  runSlot_gives ((gives_readPred hg).bind (ha.bind (hb.bind (hd.bind (gives_putS d 1 _ u)))))

end

/-- Settles O6: every compare is cmp_stages or cmpi_stages with its condition of Table 6.2, every slot of predicate logic predLogic_stages. -/
theorem comparesAndPredicateLogic : Obligations.ComparesAndPredicateLogic := by
  intro k pa pb g d a b s s1 s2 x y imm
  refine ⟨fun ha hb free => ?cmp, fun ha free hy => ?cmpi, fun ha hb free => ?logic, sel_stages⟩
  case cmp => simp [cmp_stages _ ha hb free]
  case cmpi => simp [cmpi_stages _ ha free, hy]
  case logic =>
    exact ⟨predLogic_stages _ ha hb free, predLogic_stages _ ha hb free, predLogic_stages _ ha hb free, predLogic_stages _ ha hb free⟩

end Sys2Proof.Machine

/-! O11: LOOP and lbrk (R137, R141). -/

namespace Sys2Proof.Machine

section
variable {s : State} {safe : Bool} {len : Fin 64} {n stop : Nat}

/-- What a LOOP stages whose body ends at stop: the entry of its level, or the end of the body for a count of 0 (R137). -/
def State.loopEffect (s : State) (stop n : Nat) (safe : Bool) : Effect :=
  if n = 0 then .endStep stop else .enter { start := s.bundle.next, stop := stop, count := n, index := 0, safe := safe }

/-- The checks of R137 on the body of a LOOP, framed up to stop: a level is left, the body lies within the innermost active one and fits the claim. -/
structure State.LoopFits (s : State) (len stop : Nat) : Prop where
  frame : frameBody s.core.imem s.ctx.code s.bundle.next len = some stop
  level : s.ctx.loops.levels.length < 6
  within : ∀ l, s.ctx.loops.levels.getLast? = some l → stop ≤ l.stop
  claim : len ≤ s.ctx.claims.loopBuf

/-- A LOOP whose checks pass enters its level, or ends at once. -/
theorem State.LoopFits.gives (fits : s.LoopFits (len.val + 1) stop) (few : n < 2 ^ 32) :
    Gives (enterLoop safe len n) s () (s.staged [s.loopEffect stop n safe]) := by
  refine (gives_get s).bind ?_
  simp only [fits.frame]
  refine (gives_check (decide_eq_true few) _ _ s).bind ((gives_check (decide_eq_true fits.level) _ _ s).bind
    ((gives_check ?inside _ _ s).bind ((gives_check (decide_eq_true fits.claim) _ _ s).bind ?stages)))
  case inside =>
    cases inner : s.ctx.loops.levels.getLast? with
    | none => rfl
    | some l => exact decide_eq_true (fits.within l inner)
  case stages =>
    unfold State.loopEffect
    split
    · exact gives_stage _ s
    · exact gives_stage _ s

/-- lbrk of an active level stages its end (R141). -/
theorem lbrk_stages {level : Fin 8} (active : level.val < s.ctx.loops.levels.length) : exec (.lbrk level) s = s.stages [.lbrk level.val] :=
  runSlot_gives ((gives_get s).bind ((gives_check (decide_eq_true active) _ _ s).bind (gives_stage _ s)))

end

/-- Settles O11: the four forms are enterLoop, after their count operand where they have one. -/
theorem loopsComplete : Obligations.LoopsComplete := by
  intro s t len count a n stop level enters hEnters passes
  have fits : ∀ u, u = s ∨ u = t → u.LoopFits (len.val + 1) stop := fun u hu =>
    have ⟨frame, level, within, claim⟩ := passes u hu
    ⟨frame, level, within, claim⟩
  obtain rfl : enters = fun u => u.loopEffect stop := funext fun u => funext fun c => funext fun b => hEnters u c b
  have imm : count.val < 2 ^ 32 := by omega
  exact ⟨runSlot_gives ((fits s (.inl rfl)).gives imm), runSlot_gives ((fits s (.inl rfl)).gives imm),
    fun ha few => ⟨runSlot_gives (ha.bind ((fits t (.inr rfl)).gives few)), runSlot_gives (ha.bind ((fits t (.inr rfl)).gives few))⟩, lbrk_stages⟩

end Sys2Proof.Machine

/-! O1, O2, O3, O5: the scalar slots, over the values of Tables 7.2 and 7.3 as arithmetic on the words they take. -/

namespace Sys2Proof.Machine

/-! ## Minima, shifts and rotations (R148) -/

section
variable (x y : Word) (n : Nat)

theorem wordMin_eq : wordMin x y = BitVec.ofInt 64 (min x.toInt y.toInt) := by
  unfold wordMin
  split
  case isTrue le => rw [min_eq_left le, BitVec.ofInt_toInt]
  case isFalse gt => rw [min_eq_right (Int.le_of_not_le gt), BitVec.ofInt_toInt]

theorem wordMax_eq : wordMax x y = BitVec.ofInt 64 (max x.toInt y.toInt) := by
  unfold wordMax
  split
  case isTrue le => rw [max_eq_right le, BitVec.ofInt_toInt]
  case isFalse gt => rw [max_eq_left (Int.le_of_not_le gt), BitVec.ofInt_toInt]

theorem wordMinu_eq : wordMinu x y = BitVec.ofNat 64 (min x.toNat y.toNat) := by
  unfold wordMinu
  split
  case isTrue le => rw [min_eq_left le, BitVec.ofNat_toNat, BitVec.setWidth_eq]
  case isFalse gt => rw [min_eq_right (Nat.le_of_not_le gt), BitVec.ofNat_toNat, BitVec.setWidth_eq]

theorem wordMaxu_eq : wordMaxu x y = BitVec.ofNat 64 (max x.toNat y.toNat) := by
  unfold wordMaxu
  split
  case isTrue le => rw [max_eq_right le, BitVec.ofNat_toNat, BitVec.setWidth_eq]
  case isFalse gt => rw [max_eq_left (Nat.le_of_not_le gt), BitVec.ofNat_toNat, BitVec.setWidth_eq]

theorem shiftLeft_eq_ofNat : x <<< n = BitVec.ofNat 64 (x.toNat * 2 ^ n) := by
  rw [← Nat.shiftLeft_eq]; rfl

theorem ushiftRight_eq_ofNat : x >>> n = BitVec.ofNat 64 (x.toNat / 2 ^ n) := by
  rw [← Nat.shiftRight_eq_div_pow, ← BitVec.toNat_ushiftRight, BitVec.ofNat_toNat, BitVec.setWidth_eq]

theorem sshiftRight_eq_ofInt : x.sshiftRight n = BitVec.ofInt 64 (x.toInt / 2 ^ n) := by
  rw [BitVec.sshiftRight, Int.shiftRight_eq_div_pow]; norm_cast

variable {n}

theorem wordRol_eq (h : n < 64) : wordRol x n = x.rotateLeft n := (BitVec.rotateLeft_eq_rotateLeftAux_of_lt h).symm

/-- A rotation to the right is one to the left by the bits that are left; none by 0 (R148). -/
theorem wordRol_sub (h : n < 64) : wordRol x ((64 - n) % 64) = x.rotateRight n := by
  rw [BitVec.rotateRight_eq_rotateRightAux_of_lt h, wordRol, BitVec.rotateRightAux]
  rcases Nat.eq_zero_or_pos n with rfl | pos
  · change x <<< 0 ||| x >>> 64 = x >>> 0 ||| x <<< 64
    rw [BitVec.ushiftRight_eq_zero (Nat.le_refl 64), BitVec.shiftLeft_eq_zero (Nat.le_refl 64), BitVec.shiftLeft_zero, BitVec.ushiftRight_zero]
  · rw [Nat.mod_eq_of_lt (by omega), show 64 - (64 - n) = n by omega, BitVec.or_comm]

end

/-- Settles O1: every slot is scalar2 with its function, whose value is the one of Table 7.2 or 7.3. -/
theorem scalarTwoSources : Obligations.ScalarTwoSources := by
  intro d a b s s1 s2 x y ha hb hd
  have stages : ∀ f lat, scalar2 f lat d a b s = s2.stages [s2.sOf d lat (f x y)] := fun _ _ => scalar2_stages ha hb hd
  have short : y.toNat % 64 < 64 := Nat.mod_lt _ (by decide)
  refine ⟨stages _ _, stages _ _, stages _ _, stages _ _, stages _ _, stages _ _, ?min, ?max, ?minu, ?maxu, ?shl, ?shr, ?sra, ?rol, ?ror, ?mul,
    stages _ _, stages _ _⟩
  case min => rw [← wordMin_eq]; exact stages _ _
  case max => rw [← wordMax_eq]; exact stages _ _
  case minu => rw [← wordMinu_eq]; exact stages _ _
  case maxu => rw [← wordMaxu_eq]; exact stages _ _
  case shl => rw [← shiftLeft_eq_ofNat]; exact stages _ _
  case shr => rw [← ushiftRight_eq_ofNat]; exact stages _ _
  case sra => rw [← sshiftRight_eq_ofInt]; exact stages _ _
  case rol => rw [← wordRol_eq x short]; exact stages _ _
  case ror => rw [← wordRol_sub x short]; exact stages _ _
  case mul => rw [BitVec.ofInt_mul, BitVec.ofInt_toInt, BitVec.ofInt_toInt]; exact stages _ _

/-! ## Zeros counted and bits reversed (R148) -/

theorem trailZeros_le (n x : Nat) : trailZeros n x ≤ n := by
  induction n generalizing x with
  | zero => exact Nat.le_refl 0
  | succ n ih =>
    have := ih (x / 2)
    unfold trailZeros
    split <;> omega

/-- The bits below the lowest one are 0. -/
theorem testBit_of_lt_trailZeros {n x k : Nat} (h : k < trailZeros n x) : x.testBit k = false := by
  induction n generalizing x k with
  | zero => exact absurd h (Nat.not_lt_zero k)
  | succ n ih =>
    unfold trailZeros at h
    split at h
    case isTrue => exact absurd h (Nat.not_lt_zero k)
    case isFalse even =>
      cases k with
      | zero => simpa [Nat.testBit_zero] using even
      | succ k => rw [Nat.testBit_succ]; exact ih (by omega)

/-- The bit above them is 1, where the n bits hold one. -/
theorem testBit_trailZeros {n x : Nat} (h : trailZeros n x < n) : x.testBit (trailZeros n x) = true := by
  induction n generalizing x with
  | zero => exact absurd h (Nat.not_lt_zero _)
  | succ n ih =>
    unfold trailZeros at h ⊢
    split
    case isTrue odd => simpa [Nat.testBit_zero] using odd
    case isFalse even =>
      rw [if_neg even] at h
      rw [Nat.add_comm, Nat.testBit_succ]
      exact ih (by omega)

/-- Bit k of n bits reversed is bit n - 1 - k. -/
theorem testBit_revBits (n x k : Nat) : (revBits n x).testBit k = (decide (k < n) && x.testBit (n - 1 - k)) := by
  induction n generalizing x k with
  | zero => simp [revBits]
  | succ n ih =>
    have below : revBits n (x / 2) < 2 ^ n := Nat.lt_pow_two_of_testBit _ fun i hi => (ih _ i).trans (by simp [Nat.not_lt.mpr hi])
    rw [revBits, Nat.mul_comm, Nat.testBit_two_pow_mul_add _ below]
    rcases Nat.lt_trichotomy k n with low | rfl | high
    · rw [if_pos low, ih, ← Nat.testBit_succ, show (n - 1 - k).succ = n + 1 - 1 - k by omega]
      simp [low, Nat.lt_succ_of_lt low]
    · simp [Nat.testBit_zero]
    · rw [if_neg (by omega), show k - n = k - n - 1 + 1 by omega, Nat.testBit_succ]
      simp [show x % 2 / 2 = 0 by omega, show ¬ k < n + 1 by omega]

theorem testBit_revBits_toNat (x : Word) {k : Nat} (h : k < 64) : (revBits 64 x.toNat).testBit k = x.getLsbD (63 - k) := by
  rw [testBit_revBits, decide_eq_true h]; rfl

theorem getLsbD_revBits (x : Word) {k : Nat} (h : k < 64) : (word (revBits 64 x.toNat)).getLsbD k = x.getLsbD (63 - k) := by
  rw [word, BitVec.getLsbD_ofNat, decide_eq_true h, testBit_revBits_toNat x h, Bool.true_and]

/-- Where read gives the bits of v, it begins with as many zeros as v has trailing zeros, and a 1 follows them. -/
theorem trailZeros_reads {n v : Nat} {read : Nat → Bool} (h : ∀ k < n, v.testBit k = read k) :
    (∀ k < trailZeros n v, read k = false) ∧ (trailZeros n v < n → read (trailZeros n v) = true) :=
  ⟨fun k hk => (h k (hk.trans_le (trailZeros_le n v))) ▸ testBit_of_lt_trailZeros hk, fun some => h _ some ▸ testBit_trailZeros some⟩

/-- Settles O2: every slot is scalar1 with its function; the leading zeros are the trailing ones of the bits reversed. -/
theorem scalarOneSource : Obligations.ScalarOneSource := by
  intro d a s t x ha hd
  have stages : ∀ f, scalar1 f 1 d a s = t.stages [t.sOf d 1 (f x)] := fun _ => scalar1_stages ha hd
  refine ⟨⟨leadZeros 64 x.toNat, trailZeros_le _ _, stages _, trailZeros_reads fun k => testBit_revBits_toNat x⟩,
    ⟨trailZeros 64 x.toNat, trailZeros_le _ _, stages _, trailZeros_reads fun _ _ => rfl⟩, ?popc,
    ⟨word (revBits 64 x.toNat), stages _, fun k => getLsbD_revBits x⟩, ?abs⟩
  case popc =>
    have count : popCount 64 x.toNat = ((List.range 64).filter fun k => x.getLsbD k).length := popCount_eq 64 x.toNat
    rw [← count]
    exact stages _
  case abs =>
    rw [← Int.natCast_natAbs]
    exact stages _

/-! ## Immediates and bit fields (R151 to R153) -/

/-- The field of n bits at lo, as a bit vector of its own width. -/
theorem ofNat_bits (x : Word) (lo n : Nat) : BitVec.ofNat n (bits x.toNat lo n) = x.extractLsb' lo n := by
  apply BitVec.eq_of_toNat_eq
  rw [BitVec.toNat_ofNat, bits, Nat.mod_mod, BitVec.extractLsb'_toNat, Nat.shiftRight_eq_div_pow]

theorem word_bits (x : Word) (lo n : Nat) : word (bits x.toNat lo n) = (x.extractLsb' lo n).setWidth 64 := by
  apply BitVec.eq_of_toNat_eq
  rw [word, BitVec.toNat_ofNat, bits, BitVec.toNat_setWidth, BitVec.extractLsb'_toNat, Nat.shiftRight_eq_div_pow]

/-- A word with the field of n bits at lo replaced, bit by bit. -/
theorem getLsbD_setBits (old : Word) (lo n v : Nat) {j : Nat} (hj : j < 64) :
    (word (setBits old.toNat lo n v)).getLsbD j = if lo ≤ j ∧ j < lo + n then v.testBit (j - lo) else old.getLsbD j := by
  rw [word, BitVec.getLsbD_ofNat, decide_eq_true hj, testBit_setBits]; rfl

/-- A field within a word replaced leaves a word. -/
theorem toNat_setBits (old : Word) {lo n : Nat} (h : lo + n ≤ 64) (v : Nat) : (word (setBits old.toNat lo n v)).toNat = setBits old.toNat lo n v := by
  have fits : setBits old.toNat lo n v < 2 ^ 64 := Nat.lt_pow_two_of_testBit _ fun i hi => by
    rw [testBit_setBits, if_neg (by omega)]
    exact BitVec.getLsbD_of_ge old i hi
  exact (BitVec.toNat_ofNat _ _).trans (Nat.mod_eq_of_lt fits)

section
variable {r : Fin 32} {a : Src} {s t : State} {old x : Word}

/-- lih.k replaces 16 bits of its destination (R152). -/
theorem loadHigh_stages (hr : Gives (readReg r.val) s old s) (hd : Gives (readyDest (.s r.val)) s () s) (k : Nat) (imm : BitVec 16) :
    loadHigh k r imm s = s.stages [s.resultOf (.s r.val) 1 0 (setBits old.toNat (16 * k) 16 imm.toNat) 0] :=
  runSlot_gives (hr.bind (hd.bind (gives_putDest _ 1 _ 0 s)))

/-- bfi replaces a field of its destination (R153). -/
theorem bfi_stages (hr : Gives (readReg r.val) s old s) (ha : Gives (readS a) s x t) (hd : Gives (readyDest (.s r.val)) t () t) (pos wid : Fin 64) :
    exec (.bfi r a pos wid) s = t.stages [t.resultOf (.s r.val) 1 0 (setBits old.toNat pos.val (wid.val + 1) x.toNat) 0] :=
  runSlot_gives (hr.bind (ha.bind (hd.bind (gives_putDest _ 1 _ 0 t))))

end

/-- Settles O3: the forms with one source are scalar1 with their function; those that read their destination stage it with one field replaced. -/
theorem scalarImmediates : Obligations.ScalarImmediates := by
  intro d r a s t x old im10 im16 n pos wid inside ha hd hds hr hrs hrt
  have stages : ∀ f, scalar1 f 1 d a s = t.stages [t.sOf d 1 (f x)] := fun _ => scalar1_stages ha hd
  have constant : ∀ v, runSlot (do readyS d; putS d 1 v) s = s.stages [s.sOf d 1 v] := fun v => runSlot_gives (hds.bind (gives_putS d 1 v s))
  refine ⟨stages _, stages _, stages _, stages _, ?shli, ?shri, ?srai, ?bfx, ?bfxSigned, constant _, constant _, fun k hk => ?lih, ?bfi⟩
  case shli => rw [← shiftLeft_eq_ofNat]; exact stages _
  case shri => rw [← ushiftRight_eq_ofNat]; exact stages _
  case srai => rw [← sshiftRight_eq_ofInt]; exact stages _
  case bfx => rw [← word_bits]; exact stages _
  case bfxSigned => rw [← ofNat_bits, ← wordI_sext]; exact stages _
  case lih =>
    have high : 16 * k + 16 ≤ 64 := by
      simp only [List.mem_cons, List.not_mem_nil, or_false] at hk; omega
    refine ⟨word (setBits old.toNat (16 * k) 16 im16.toNat), ?_, fun j => getLsbD_setBits old _ _ _⟩
    rw [toNat_setBits old high, ← loadHigh_stages hr hrs]
    simp only [List.mem_cons, List.not_mem_nil, or_false] at hk
    rcases hk with rfl | rfl | rfl <;> rfl
  case bfi =>
    refine ⟨word (setBits old.toNat pos.val (wid.val + 1) x.toNat), ?_, fun j hj => ?_⟩
    · rw [toNat_setBits old inside, bfi_stages hr ha hrt]
    · rw [getLsbD_setBits old _ _ _ hj, Nat.add_assoc]; rfl

/-! ## Divisions (R147, R150) -/

/-- The quotient of the one overflow of a signed division is the dividend, modulo 2^64 (R150). -/
theorem tdiv_of_overflow {x y : Word} (hx : x.toInt = -2 ^ 63) (hy : y.toInt = -1) : BitVec.ofInt 64 (x.toInt.tdiv y.toInt) = x := by
  rw [hx, hy]
  exact BitVec.eq_of_toInt_eq (Eq.trans (by decide) hx.symm)

/-- A division by -1 leaves no remainder. -/
theorem tmod_neg_one (x : Word) {y : Word} (hy : y.toInt = -1) : BitVec.ofInt 64 (x.toInt.tmod y.toInt) = 0 := by
  rw [hy, Int.tmod_neg, Int.tmod_one]; rfl

/-- A division stages its function of the two words, interlocked, for as long as was drawn. -/
theorem divide_stages {f : Word → Word → Word} {d : Fin 32} {a b : Src} {s s1 s2 : State} {x y : Word} (ha : Gives (readS a) s x s1)
    (hb : Gives (readS b) s1 y s2) (free : s2.ctx.busyWrite (.s d.val) = false) :
    divide f d a b s = s2.drawn.stages [s2.resultOf (.s d.val) (min (s2.delays.headD 0 + 1) 40) 2 (f x y).toNat 0] :=
  runSlot_gives (ha.bind (hb.bind ((gives_readyDest free).bind ((gives_draw s2).bind (gives_putInter _ _ _ 2 s2.drawn)))))

/-- Settles O5: the four divisions are divide with their functions, which give the values of R150 for a zero divisor and for the overflow. -/
theorem divisionsComplete : Obligations.DivisionsComplete := by
  intro d a b s s1 s2 x y ha hb free
  have stages : ∀ f, divide f d a b s = _ := fun f => divide_stages (f := f) ha hb free
  refine ⟨min (s2.delays.headD 0 + 1) 40, by omega, by omega, fun v hv => ?div, fun v hv => hv ▸ stages _, fun v hv => ?rem, fun v hv => hv ▸ stages _⟩
  case div =>
    rw [ite_eq_right_iff.mpr fun overflow => (tdiv_of_overflow overflow.1 overflow.2).symm] at hv
    exact hv ▸ stages _
  case rem =>
    rw [ite_eq_right_iff.mpr fun overflow => (tmod_neg_one x overflow.2).symm] at hv
    exact hv ▸ stages _

end Sys2Proof.Machine

/-! O8: the pointer slots (R155 to R163), over what makes a plain pointer and a cursor. -/

namespace Sys2Proof.Machine

/-! ## Plain pointers and cursors (R157) -/

@[simp] theorem orTval_some (v e : Word) : orTval (some v) e = .ok v := rfl
@[simp] theorem orTval_none (e : Word) : orTval none e = .error e := rfl

theorem orTval_eq_ok {r : Option Word} {e v : Word} : orTval r e = .ok v ↔ r = some v := by
  cases r <;> simp

/-- The plain pointer to n is the word that reads n as signed. -/
theorem mkPlain_eq_some {n : Int} {v : Word} : mkPlain n = some v ↔ v.toInt = n := by
  unfold mkPlain
  constructor
  · intro h
    split at h
    case isFalse => cases h
    case isTrue fits =>
      cases h
      exact BitVec.toInt_ofInt_eq_self (by decide) fits.1 fits.2
  · rintro rfl
    rw [if_pos ⟨BitVec.le_toInt v, BitVec.toInt_lt⟩, wordI, BitVec.ofInt_toInt]

theorem mkPlain_of_fits {n : Int} (low : -2 ^ 63 ≤ n) (high : n < 2 ^ 63) : mkPlain n = some (BitVec.ofInt 64 n) := if_pos ⟨low, high⟩

theorem curJ_lt (c : Word) : curJ c < 32 := Nat.mod_lt _ (by decide)

theorem curR_eq (c : Word) : curR c = (BitVec.ofNat 59 c.toNat).toInt := sext_eq_toInt _ _

theorem curR_bounds (c : Word) : -2 ^ 58 ≤ curR c ∧ curR c < 2 ^ 58 := by
  rw [curR_eq]
  exact ⟨BitVec.le_toInt _, BitVec.toInt_lt⟩

/-- A slot that makes a cursor gives it its index and its record address where that fits, and refuses where it does not. -/
theorem orTval_mkCur {j : Nat} {r : Int} (e : Word) (hj : j < 32) :
    (-2 ^ 58 ≤ r → r < 2 ^ 58 → ∃ v, orTval (mkCur j r) e = .ok v ∧ curJ v = j ∧ curR v = r) ∧
    (r < -2 ^ 58 ∨ 2 ^ 58 ≤ r → orTval (mkCur j r) e = .error e) := by
  unfold mkCur
  constructor
  · intro low high
    rw [if_pos ⟨low, high⟩]
    refine ⟨_, rfl, ?_⟩
    unfold curJ curR bits sext uns word
    rw [BitVec.toNat_ofNat]
    constructor
    · omega
    · split <;> omega
  · intro outside
    rw [if_neg (by omega), orTval_none]

/-- A cursor is made of its index and its record address. -/
theorem mkCur_cur (v : Word) : mkCur (curJ v) (curR v) = some v := by
  have wide := v.isLt
  have ⟨low, high⟩ := curR_bounds v
  rw [mkCur, if_pos ⟨low, high⟩, ← word_toNat v]
  congr 2
  unfold curJ curR bits sext uns
  rw [word_toNat]
  split <;> omega

section
variable {t : Stride} {x y : Word}

theorem ptrStep_plain (plain : t.l = 0) (n : Int) : ptrStep t x n = mkPlain (x.toInt + n * t.w) := if_pos plain

theorem ptrAddr_plain (plain : t.l = 0) : ptrAddr t x = x.toInt := if_pos plain

theorem ptrAddr_cursor (cursor : t.l ≠ 0) : ptrAddr t x = curR x + 10 + curJ x * t.w := if_neg cursor

theorem ptrStep_cursor (cursor : t.l ≠ 0) (n : Int) :
    ptrStep t x n = mkCur (((curJ x : Int) + n) % 32).toNat (curR x + ((curJ x : Int) + n) / 32 * t.l) := if_neg cursor

/-! ## padd, pdif and pidx (R158, R159) -/

theorem ptrAdd_plain (w : Nat) : ptrAdd { w := w, l := 0 } x y =
    if -2 ^ 63 ≤ x.toInt + y.toInt * w ∧ x.toInt + y.toInt * w < 2 ^ 63 then .ok (BitVec.ofInt 64 (x.toInt + y.toInt * w)) else .error y := by
  rw [ptrAdd, ptrStep_plain rfl, mkPlain]
  split <;> rfl

theorem ptrAdd_cursor (cursor : t.l ≠ 0) {m r : Int} (hm : m = curJ x + y.toInt) (hr : r = curR x + m / 32 * t.l) :
    (-2 ^ 58 ≤ r → r < 2 ^ 58 → ∃ v, ptrAdd t x y = .ok v ∧ curJ v = m % 32 ∧ curR v = r) ∧
    (r < -2 ^ 58 ∨ 2 ^ 58 ≤ r → ptrAdd t x y = .error y) := by
  rw [ptrAdd, ptrStep_cursor cursor, ← hm, ← hr]
  obtain ⟨j, index⟩ : ∃ j : Nat, m % 32 = j := ⟨(m % 32).toNat, by omega⟩
  rw [index, Int.toNat_natCast]
  exact_mod_cast orTval_mkCur y (show j < 32 by omega)

/-- Where pdif counts n elements from y to x, padd of y by n is x (R158). -/
theorem ptrAdd_of_ptrDif {n : Word} (h : ptrDif t x y = .ok n) : ptrAdd t y n = .ok x := by
  unfold ptrDif at h
  rw [ptrAdd, orTval_eq_ok]
  split at h
  case isTrue plain =>
    dsimp only at h
    split at h
    case isFalse => cases h
    case isTrue whole =>
      have count := mkPlain_eq_some.mp (orTval_eq_ok.mp h)
      rw [ptrStep_plain plain, count, Int.ediv_mul_cancel (Int.dvd_of_emod_eq_zero whole), mkPlain_eq_some]
      omega
  case isFalse cursor =>
    dsimp only at h
    split at h
    case isFalse => cases h
    case isTrue whole =>
      have count := mkPlain_eq_some.mp (orTval_eq_ok.mp h)
      have index := curJ_lt x
      have sum : (curJ y : Int) + n.toInt = (curR x - curR y) / t.l * 32 + curJ x := by omega
      rw [ptrStep_cursor cursor, sum, show (((curR x - curR y) / t.l * 32 + curJ x) % 32).toNat = curJ x by omega,
        show ((curR x - curR y) / t.l * 32 + curJ x) / 32 = (curR x - curR y) / t.l by omega,
        Int.ediv_mul_cancel (Int.dvd_of_emod_eq_zero whole), show curR y + (curR x - curR y) = curR x by omega, mkCur_cur]

theorem ptrIdx_of_error {e : Word} (h : ptrAdd t x y = .error e) : ptrIdx t x y = .error y := by
  unfold ptrAdd at h
  unfold ptrIdx
  cases step : ptrStep t x y.toInt with
  | none => rfl
  | some c => rw [step] at h; cases h

theorem ptrIdx_of_ok {c : Word} (h : ptrAdd t x y = .ok c) : ptrIdx t x y = orTval (mkPlain (ptrAddr t c)) y := by
  rw [ptrIdx, orTval_eq_ok.mp h]

/-- The address of a plain pointer is the pointer (R159). -/
theorem ptrIdx_plain (plain : t.l = 0) : ptrIdx t x y = ptrAdd t x y := by
  cases h : ptrAdd t x y with
  | error e => rw [ptrIdx_of_error h, ptrAdd_error h]
  | ok c => rw [ptrIdx_of_ok h, ptrAddr_plain plain, orTval_eq_ok, mkPlain_eq_some]

/-- The address of an element always fits where its cursor does (R159). -/
theorem ptrIdx_cursor (cursor : t.l ≠ 0) (narrow : t.w ≤ 8) {c : Word} (h : ptrAdd t x y = .ok c) :
    ptrIdx t x y = .ok (BitVec.ofInt 64 (curR c + 10 + curJ c * t.w)) := by
  have ⟨low, high⟩ := curR_bounds c
  have offset : (curJ c * t.w : Int) ≤ 31 * 8 := by exact_mod_cast Nat.mul_le_mul (Nat.le_of_lt_succ (curJ_lt c)) narrow
  have := Int.mul_nonneg (Int.natCast_nonneg (curJ c)) (Int.natCast_nonneg t.w)
  rw [ptrIdx_of_ok h, ptrAddr_cursor cursor, mkPlain_of_fits (by omega) (by omega), orTval_some]

/-! ## prec, pal and pcls (R160, R162, R163) -/

theorem ptrRec_cursor {r : Int} (hr : r = curR x + y.toInt * t.l) :
    (-2 ^ 58 ≤ r → r < 2 ^ 58 → ∃ v, ptrRec t x y = .ok v ∧ curJ v = 0 ∧ curR v = r) ∧
    (r < -2 ^ 58 ∨ 2 ^ 58 ≤ r → ptrRec t x y = .error y) := by
  rw [ptrRec, ← hr]
  exact orTval_mkCur y (by decide)

theorem ptrAlign_before (h : x.toInt < y.toInt) : ptrAlign t x y = .error x := if_pos (by omega)

/-- The rounded-up quotient of n by w is the k that covers n and whose predecessor does not. -/
theorem ceilDiv_eq {n w k : Int} (below : (k - 1) * w < n) (covers : n ≤ k * w) : (n + w - 1) / w = k := by
  rw [Int.sub_mul] at below
  have rest := (Int.ediv_emod_unique (a := n + w - 1) (r := n + w - 1 - k * w) (q := k) (show 0 < w by omega)).mpr
  rw [Int.mul_comm w] at rest
  exact (rest ⟨by omega, by omega, by omega⟩).1

/-- The first element of a row of plain pointers at or after x (R162). -/
theorem ptrAlign_plain {w k : Nat} (wide : 0 < w) (after : y.toInt ≤ x.toInt) (reaches : x.toInt ≤ y.toInt + k * w)
    (first : ∀ j < k, y.toInt + j * w < x.toInt) : ptrAlign { w := w, l := 0 } x y =
    if y.toInt + k * w < 2 ^ 63 then .ok (BitVec.ofInt 64 (y.toInt + k * w)) else .error x := by
  have before : ((k : Int) - 1) * w < x.toInt - y.toInt := by
    cases k with
    | zero => push_cast; omega
    | succ k =>
      have := first k (Nat.lt_succ_self k)
      push_cast
      rw [Int.add_sub_cancel]
      omega
  have low := BitVec.le_toInt x
  unfold ptrAlign
  dsimp only
  rw [if_neg (by omega), if_pos rfl, ceilDiv_eq before (by omega), mkPlain]
  split
  case isTrue fits => rw [if_pos fits.2, orTval_some]; rfl
  case isFalse out => rw [if_neg (by omega), orTval_none]

/-- The record and the offset in it of a place o behind the base of a row of records. -/
theorem record_of_offset {o l k : Int} (low : k * l ≤ o) (high : o < k * l + l) : o / l = k ∧ o % l = o - k * l :=
  (Int.ediv_emod_unique (by omega)).mpr ⟨by rw [Int.mul_comm l]; omega, by omega, by omega⟩

/-- In a record that begins at or before x, pal names the element whose code reaches x while that of the element before it does not (R162). -/
theorem ptrAlign_in_record {k j : Nat} (shape : t.l = 32 * t.w + 10) (wide : 0 < t.w) (begun : y.toInt + k * t.l ≤ x.toInt) (hj : j < 32)
    (reaches : x.toInt ≤ y.toInt + k * t.l + 10 + j * t.w) (first : 0 < j → y.toInt + k * t.l + 10 + (j - 1) * t.w < x.toInt) :
    ptrAlign t x y = orTval (mkCur j (y.toInt + k * t.l)) x := by
  have within : (j * t.w : Int) ≤ 31 * t.w := Int.mul_le_mul_of_nonneg_right (by omega) (Int.natCast_nonneg _)
  have after : 0 ≤ (k * t.l : Int) := Int.mul_nonneg (Int.natCast_nonneg _) (Int.natCast_nonneg _)
  obtain ⟨record, offset⟩ := record_of_offset (o := x.toInt - y.toInt) (l := t.l) (k := k) (by omega) (by omega)
  have index : (if x.toInt - y.toInt - k * t.l ≤ 10 then 0 else (x.toInt - y.toInt - k * t.l - 10 + t.w - 1) / t.w : Int) = j := by
    rcases Nat.eq_zero_or_pos j with rfl | pos
    case inl => exact if_pos (by push_cast at reaches; omega)
    case inr =>
      have beyond := first pos
      have : 0 ≤ ((j : Int) - 1) * t.w := Int.mul_nonneg (by omega) (Int.natCast_nonneg _)
      rw [if_neg (by omega)]
      exact ceilDiv_eq (by omega) (by omega)
  unfold ptrAlign
  dsimp only
  rw [if_neg (by omega), if_neg (by omega), record, offset, index, if_neg (by omega), Int.toNat_natCast]

/-- Behind the last code of a record pal names element 0 of the next (R162). -/
theorem ptrAlign_past_record {k : Int} (shape : t.l = 32 * t.w + 10) (after : y.toInt ≤ x.toInt) (inside : x.toInt < y.toInt + k * t.l)
    (past : y.toInt + (k - 1) * t.l + 10 + 31 * t.w < x.toInt) : ptrAlign t x y = orTval (mkCur 0 (y.toInt + k * t.l)) x := by
  have step : k * t.l = (k - 1) * t.l + t.l := by rw [Int.sub_mul]; omega
  obtain ⟨record, offset⟩ := record_of_offset (o := x.toInt - y.toInt) (l := t.l) (k := k - 1) (by omega) (by omega)
  have far : ¬ x.toInt - y.toInt - (k - 1) * t.l ≤ 10 := by omega
  have index : (x.toInt - y.toInt - (k - 1) * t.l - 10 + t.w - 1) / t.w = 32 := ceilDiv_eq (by omega) (by omega)
  unfold ptrAlign
  dsimp only
  rw [if_neg (by omega), if_neg (by omega), record, offset, if_neg far, index, if_pos rfl, Int.sub_add_cancel]

/-- The element whose code begins first at or after x is the one that pal names (R162): the code before it begins earlier. -/
theorem ptrAlign_of_least {k j : Nat} {code : Nat → Nat → Int} (hcode : ∀ k j, code k j = y.toInt + k * t.l + 10 + j * t.w)
    (shape : t.l = 32 * t.w + 10) (wide : 0 < t.w) (after : y.toInt ≤ x.toInt) (hj : j < 32) (reaches : x.toInt ≤ code k j)
    (least : ∀ k' j', j' < 32 → x.toInt ≤ code k' j' → code k j ≤ code k' j') : ptrAlign t x y = orTval (mkCur j (y.toInt + k * t.l)) x := by
  have earlier : ∀ k' j', j' < 32 → code k' j' < code k j → code k' j' < x.toInt := fun k' j' hj' less =>
    Int.not_le.mp fun le => Int.not_le.mpr less (least k' j' hj' le)
  have first : 0 < j → y.toInt + k * t.l + 10 + (j - 1) * t.w < x.toInt := fun pos => by
    obtain ⟨i, rfl⟩ := Nat.exists_eq_add_one.mpr pos
    have step : code k (i + 1) = code k i + t.w := by rw [hcode, hcode]; push_cast; ring
    have before := earlier k i (by omega) (by omega)
    rw [hcode] at before
    push_cast
    rwa [Int.add_sub_cancel]
  by_cases begun : y.toInt + k * t.l ≤ x.toInt
  case pos => exact ptrAlign_in_record shape wide begun hj (hcode k j ▸ reaches) first
  case neg =>
    have zero : j = 0 := Nat.eq_zero_of_not_pos fun pos => by
      have := first pos
      have : 0 ≤ ((j : Int) - 1) * t.w := Int.mul_nonneg (by omega) (Int.natCast_nonneg _)
      omega
    subst zero
    have later : 0 < k := Nat.pos_of_ne_zero fun zero => by subst zero; push_cast at begun; omega
    obtain ⟨i, rfl⟩ := Nat.exists_eq_add_one.mpr later
    have step : code (i + 1) 0 = code i 31 + t.w + 10 := by rw [hcode, hcode, shape]; push_cast; ring
    have before := earlier i 31 (by omega) (by omega)
    rw [hcode] at before
    refine ptrAlign_past_record shape after (Int.not_le.mp begun) ?_
    push_cast at before ⊢
    rwa [Int.add_sub_cancel]

theorem toInt_sub_one (pos : 1 ≤ y.toInt) : (y - 1).toInt = y.toInt - 1 := by
  have := BitVec.toInt_lt (x := y)
  rw [BitVec.toInt_sub, show (1 : Word).toInt = 1 from rfl]
  exact Int.bmod_eq_of_le (by omega) (by omega)

theorem ptrClass_of_error {e : Word} (pos : 1 ≤ y.toInt) (h : ptrAdd t x (y - 1) = .error e) : ptrClass t x y = .error y := by
  unfold ptrAdd at h
  rw [toInt_sub_one pos] at h
  rw [ptrClass, if_neg (by omega)]
  cases last : ptrStep t x (y.toInt - 1) with
  | none => rfl
  | some c => rw [last] at h; cases h

/-- The class of the span from an element to the end of the last of y (R163). -/
theorem ptrClass_of_ok {c : Word} (pos : 1 ≤ y.toInt) (h : ptrAdd t x (y - 1) = .ok c) {lo hi : Int} (hlo : lo = ptrAddr t x)
    (hhi : hi = ptrAddr t c + t.w - 1) : ptrClass t x y = .ok (if lo / 64 = hi / 64 then 0 else if lo / 512 = hi / 512 then 1 else 2) := by
  have last := orTval_eq_ok.mp h
  rw [toInt_sub_one pos] at last
  rw [ptrClass, if_neg (by omega), last]
  dsimp only
  rw [classCode, show ptrAddr t x + (ptrAddr t c + t.w - ptrAddr t x) - 1 = hi by omega, ← hlo]
  split_ifs <;> rfl

end

/-! ## Bitmaps (R159, R160) -/

/-- The bit that follows the codes of the one bits of a bitmap, which lie behind 42 bits (R159, R160). -/
theorem bitmap_place (x y : Word) (i : Nat) {n : Int}
    (hn : n = x.toInt + 42 + 4 * ((List.range i).filter fun k => y.getLsbD k).length) (high : n < 2 ^ 63) :
    mkPlain (x.toInt + (42 + 4 * popCount i y.toNat : Nat)) = some (BitVec.ofInt 64 n) := by
  have low := BitVec.le_toInt x
  have place : x.toInt + ((42 + 4 * popCount i y.toNat : Nat) : Int) = n := by
    rw [popCount_eq, hn]
    push_cast
    exact (Int.add_assoc ..).symm
  rw [place, mkPlain_of_fits (by omega) high]

theorem bitmapIdx_of_fits {x y : Word} {n : Int} (hn : n = x.toInt + 42 + 4 * ((List.range (y.toNat / 2 ^ 32)).filter fun k => y.getLsbD k).length)
    (short : y.toNat < 2 ^ 37) (high : n < 2 ^ 63) : bitmapIdx x y = .ok (BitVec.ofInt 64 n) := by
  have index : bits y.toNat 32 5 = y.toNat / 2 ^ 32 := by unfold bits; omega
  rw [bitmapIdx, if_neg (by unfold bits; omega), index, bitmap_place x y _ hn high, orTval_some]

theorem bitmapRec_of_fits {x y : Word} {n : Int} (hn : n = x.toInt + 42 + 4 * ((List.range 32).filter fun k => y.getLsbD k).length)
    (short : y.toNat < 2 ^ 32) (high : n < 2 ^ 63) : bitmapRec x y = .ok (BitVec.ofInt 64 n) := by
  rw [bitmapRec, if_neg (by unfold bits; omega), bitmap_place x y _ hn high, orTval_some]

/-! ## The slots -/

/-- The formats of records of a fixed length: 10 bits and 32 elements of a few bits (Table 7.5). -/
theorem Fmt.record_shape {f : Fmt} (h : Fmt.recLen f ≠ 0) : Fmt.recLen f = 32 * Fmt.width f + 10 ∧ 0 < Fmt.width f ∧ Fmt.width f ≤ 8 := by
  revert h; cases f <;> decide

/-- A pointer slot stages the result that fits. -/
theorem pointer2_stages {f : Word → Word → Except Word Word} {d : Dst} {a b : Src} {s t u : State} {x y v : Word} (ha : Gives (readS a) s x t)
    (hb : Gives (readS b) t y u) (hd : Gives (readyS d) u () u) (fits : f x y = .ok v) : pointer2 f d a b s = u.stages [u.sOf d 1 v] := by
  refine runSlot_gives (ha.bind (hb.bind (hd.bind ?_)))
  rw [fits]
  exact gives_putS d 1 v u

/-- Settles O8: each slot by the result that fits, and each result by its law on plain pointers and on cursors. -/
theorem pointersComplete : Obligations.PointersComplete := by
  refine ⟨fun s t u a b d x y v f wid ha hb hd hdt => ?slots,
    ⟨fun w x y => ptrAdd_plain w, fun f x y m r cursor => ptrAdd_cursor (t := Fmt.stride f) cursor, fun f x y n => ptrAdd_of_ptrDif,
      fun wid x y n => ptrAdd_of_ptrDif⟩,
    fun w x y => ptrIdx_plain rfl,
    fun f x y cursor => ⟨fun c => ptrIdx_cursor cursor (Fmt.record_shape cursor).2.2, fun e => ptrIdx_of_error,
      fun r => ptrRec_cursor (t := Fmt.stride f)⟩,
    fun w k x y wide => ⟨ptrAlign_before, ptrAlign_plain wide⟩,
    fun f k j x y code cursor hcode => ⟨ptrAlign_before, fun after hj reaches least => ?align⟩,
    fun t x y c e at' lo hi hat => ⟨fun few => if_pos few, ptrClass_of_error, fun pos last hlo hhi => ?cls⟩⟩
  case slots =>
    have stages : ∀ {g v}, g x y = .ok v → pointer2 g d a b s = u.stages [u.sOf d 1 v] := pointer2_stages ha hb hd
    refine ⟨stages, stages, stages, stages,
      fun z fits => stages (by rwa [if_neg z]), fun n hn short high => stages (bitmapIdx_of_fits hn short high),
      fun z fits => stages (by rwa [if_neg z]), fun n hn short high => stages (bitmapRec_of_fits hn short high), ?pscl, stages, stages⟩
    case pscl =>
      have scale : wordI (curR x) = (x.extractLsb' 0 59).signExtend 64 := by
        rw [curR, wordI_sext, BitVec.extractLsb', Nat.shiftRight_zero]
      rw [← scale]
      exact scalar1_stages ha hdt
  case align =>
    obtain ⟨shape, wide, -⟩ := Fmt.record_shape cursor
    rw [ptrAlign_of_least (t := Fmt.stride f) hcode shape wide after hj reaches least]
    exact_mod_cast orTval_mkCur x hj
  case cls =>
    have address : ∀ c, at' c = ptrAddr t c := hat
    rw [address] at hlo hhi
    exact ptrClass_of_ok pos last hlo hhi

end Sys2Proof.Machine

/-! O15: the vector loads of the typed spaces, over the lanes of a vector put together from a list. -/

namespace Sys2Proof.Machine

/-! ## Vectors put together from their lanes (R310) -/

theorem unchunks_lt (w : Nat) (l : List Nat) : unchunks w l < 2 ^ (w * l.length) := by
  induction l with
  | nil => exact Nat.two_pow_pos _
  | cons x l ih =>
    have low : x % 2 ^ w < 2 ^ w := Nat.mod_lt x (Nat.two_pow_pos w)
    calc x % 2 ^ w + 2 ^ w * unchunks w l
        < 2 ^ w * (unchunks w l + 1) := by rw [Nat.mul_succ]; omega
      _ ≤ 2 ^ w * 2 ^ (w * l.length) := Nat.mul_le_mul_left _ ih
      _ = 2 ^ (w * (x :: l).length) := by rw [← Nat.pow_add, List.length_cons, Nat.mul_succ, Nat.add_comm]

/-- Word i of the number whose words are given. -/
theorem bits_unchunks (w : Nat) {l : List Nat} {i : Nat} (h : i < l.length) : bits (unchunks w l) (w * i) w = l[i] % 2 ^ w := by
  induction l generalizing i with
  | nil => exact absurd h (Nat.not_lt_zero i)
  | cons x l ih =>
    cases i with
    | zero => simp [bits, unchunks]
    | succ i =>
      have low : x % 2 ^ w / 2 ^ w = 0 := Nat.div_eq_of_lt (Nat.mod_lt x (Nat.two_pow_pos w))
      have rest : unchunks w (x :: l) / 2 ^ w = unchunks w l := by
        rw [unchunks, Nat.add_mul_div_left _ _ (Nat.two_pow_pos w), low, Nat.zero_add]
      rw [List.getElem_cons_succ, ← ih (Nat.lt_of_succ_lt_succ h), bits, Nat.mul_succ, Nat.add_comm, Nat.pow_add, ← Nat.div_div_eq_div_mul, rest, bits]

theorem bitsIn_mul_lanesIn (e : Bool) : bitsIn e * lanesIn e = 1024 := by cases e <;> rfl

/-- Lane i of a vector put together from its lanes. -/
theorem lane_ofLanes {e : Bool} {f : Nat → Nat} {i : Nat} (h : i < lanesIn e) (small : f i < 2 ^ bitsIn e) :
    (ofLanes e ((List.range (lanesIn e)).map f)).toNat / 2 ^ (i * bitsIn e) % 2 ^ bitsIn e = f i := by
  have whole : (ofLanes e ((List.range (lanesIn e)).map f)).toNat = unchunks (bitsIn e) ((List.range (lanesIn e)).map f) := by
    refine (BitVec.toNat_ofNat _ _).trans (Nat.mod_eq_of_lt ?_)
    rw [← bitsIn_mul_lanesIn e]
    simpa [bitsIn] using unchunks_lt (bitsIn e) ((List.range (lanesIn e)).map f)
  rw [whole, Nat.mul_comm i]
  refine (bits_unchunks (bitsIn e) (by simpa using h)).trans ?_
  rw [List.getElem_map, List.getElem_range, Nat.mod_eq_of_lt small]

/-! ## The element of a lane (R172) -/

theorem Memory.readBits_lt (m : Memory) (a w : Nat) : m.readBits a w < 2 ^ w := Nat.mod_lt _ (Nat.two_pow_pos w)

theorem uns_sext (v n w : Nat) : uns (sext v n) w = ((BitVec.ofNat n v).signExtend w).toNat := by
  rw [sext_eq_toInt, BitVec.signExtend, BitVec.toNat_ofInt]
  simp [uns]

/-- How the elements of a vector access widen: not, with zeros or with the sign (R172). -/
def State.laneWidening (s : State) (sp : Space) (e : Bool) (x : Word) : Nat :=
  if sp = .act ∧ (!e) = true ∧ x.toNat < sp.size then s.core.widening x.toNat else 0

theorem State.laneWidening_eq_two {s : State} {sp : Space} {e : Bool} {x : Word} (inside : sp = .act → x.toNat < sp.size) :
    s.laneWidening sp e x = 2 ↔ sp = .act ∧ e = false ∧ s.core.widening x.toNat = 2 := by
  unfold State.laneWidening
  by_cases act : sp = .act
  · cases e <;> simp [act, act ▸ inside act]
  · simp [act]

theorem State.storeBits_le (s : State) (sp : Space) (e : Bool) (x : Word) : s.storeBits sp e x ≤ bitsIn e := by
  have byte : 8 ≤ bitsIn e := by cases e <;> decide
  rw [State.storeBits_eq]
  by_cases kept : s.laneWidening sp e x = 0
  · exact (if_pos kept).le
  · exact (if_neg kept).le.trans byte

/-- The element that a lane takes, of the width the access has there. -/
theorem State.laneAt_storeBits {s : State} {sp : Space} {e : Bool} {x : Word} (inside : sp = .act → x.toNat < sp.size) (a : Nat) :
    s.laneAt sp e x (s.storeBits sp e x) a = if s.laneWidening sp e x = 2 then uns (sext ((s.core.mem sp).readBits a (s.storeBits sp e x)) 8) 16
      else (s.core.mem sp).readBits a (s.storeBits sp e x) := by
  unfold State.laneAt
  by_cases signed : s.laneWidening sp e x = 2
  · have narrow : s.storeBits sp e x = 8 := by
      rw [State.storeBits_eq]
      exact if_neg fun zero => absurd (signed.symm.trans zero) (by decide)
    rw [if_pos ((State.laneWidening_eq_two inside).mp signed), if_pos signed, narrow, uns_sext]
  · rw [if_neg (mt (State.laneWidening_eq_two inside).mpr signed), if_neg signed]

theorem State.laneAt_lt {s : State} {sp : Space} {e : Bool} {x : Word} {m : Nat} (narrow : m ≤ bitsIn e) (a : Nat) :
    s.laneAt sp e x m a < 2 ^ bitsIn e := by
  unfold State.laneAt
  split
  case isTrue signed =>
    obtain ⟨-, rfl, -⟩ := signed
    exact BitVec.isLt _
  case isFalse => exact (Memory.readBits_lt _ _ _).trans_le (Nat.pow_le_pow_right (by decide) narrow)

/-! ## The loads (R168, R177) -/

/-- A load whose ranges are ready stages nothing but its cells and the granules it empties. -/
theorem gives_loadWaits_isCells {s : State} {sp : Space} {fe : Nat} {rs : List (Nat × Nat)} (ready : ∀ r ∈ rs, s.loadReady sp fe r.1 r.2) :
    ∃ pre : List Effect, (∀ c ∈ pre, c.isCells = true) ∧ Gives (loadWaits sp fe rs) s () (s.staged pre) := by
  refine ⟨_, ?_, gives_loadWaits ready⟩
  rintro c (- | ⟨-, clears⟩)
  · rfl
  · by_cases empties : fe = 2
    · rw [if_pos empties] at clears
      obtain ⟨range, -, rfl⟩ := List.mem_map.mp clears
      rfl
    · rw [if_neg empties] at clears
      exact absurd clears List.not_mem_nil

/-- r is the outcome of a slot that stages on s the cells of its load and then one vector result of 6 clk with the lanes f (R177). -/
def LoadsLanes (s : State) (d : Dst) (e : Bool) (f : Nat → Nat) (r : Host.Outcome State Fault Refusal) : Prop :=
  ∃ (pre : List Effect) (v : Wide), (∀ c ∈ pre, c.isCells = true) ∧ r = (s.staged pre).stages [(s.staged pre).vOf d 6 v 0] ∧
    ∀ i < lanesIn e, v.toNat / 2 ^ (i * bitsIn e) % 2 ^ bitsIn e = f i

/-- The bits that a vector access names: those of its lanes together, or lane by lane (R177). -/
def laneRanges (e contig : Bool) (x : Word) (m : Nat) (addr : Nat → Nat) : List (Nat × Nat) :=
  if contig then [(x.toNat, lanesIn e * m)] else (List.range (lanesIn e)).map fun i => (addr i, m)

/-- A slot that goes on with a vector load whose lanes lie within the space and read in this clk loads the lanes (R177). -/
theorem loadsLanes_of_vloadLocal {s : State} {sp : Space} {fe m : Nat} {e contig : Bool} {stride : Nat → Int} {d : Dst} {x : Word}
    {addr : Nat → Nat} {r : Host.Outcome State Fault Refusal} (run : ∀ t, Gives (vloadLocal sp fe e contig stride d x) s () t → r = .next t)
    (inside : sp = .act → x.toNat < sp.size) (hm : s.storeBits sp e x = m) (ha : ∀ i, addr i = (laneAddr x (stride m) i).toNat)
    (fits : ∀ i < lanesIn e, 0 ≤ laneAddr x (stride m) i ∧ laneAddr x (stride m) i + m ≤ sp.size)
    (ready : ∀ c ∈ laneRanges e contig x m addr, s.loadReady sp fe c.1 c.2) :
    LoadsLanes s d e (fun i => s.laneAt sp e x m (addr i)) r := by
  obtain rfl : addr = fun i => (laneAddr x (stride m) i).toNat := funext ha
  obtain ⟨pre, cells, waits⟩ := gives_loadWaits_isCells ready
  have good : firstBadLane sp x (stride m) m (List.range (laneCount e)) = none := by
    refine List.find?_eq_none.mpr fun i hi => ?_
    obtain ⟨low, high⟩ := fits i (List.mem_range.mp hi)
    simp [low, high]
  have lanes : Gives (vloadLocal sp fe e contig stride d x) s () ((s.staged pre).staged [(s.staged pre).vOf d 6
      (ofLanes e ((List.range (lanesIn e)).map fun i => s.laneAt sp e x m (laneAddr x (stride m) i).toNat)) 0]) := by
    refine (gives_get s).bind ?_
    subst hm
    simp only [State.laneAt_storeBits inside, State.laneWidening, ← State.storeBits_eq, good]
    exact waits.bind (gives_putV d 6 _ 0 _)
  exact ⟨pre, _, cells, run _ lanes, fun i h => lane_ofLanes h (State.laneAt_lt (hm ▸ s.storeBits_le sp e x) _)⟩

theorem laneAddr_natCast (x : Word) (k i : Nat) : laneAddr x k i = (x.toNat + i * k : Nat) := by
  rw [laneAddr, Nat.mul_comm]
  push_cast
  rfl

/-- A vector load of a stride that goes up, whose last lane ends within the space (R177). -/
theorem loadsLanes_of_ascending {s : State} {sp : Space} {fe m k : Nat} {e contig : Bool} {stride : Nat → Int} {d : Dst} {x : Word}
    {r : Host.Outcome State Fault Refusal} (run : ∀ t, Gives (vloadLocal sp fe e contig stride d x) s () t → r = .next t)
    (hm : x.toNat < sp.size → s.storeBits sp e x = m) (wide : 0 < m) (hk : stride m = k) (fits : x.toNat + k * (lanesIn e - 1) + m ≤ sp.size)
    (ready : ∀ c ∈ laneRanges e contig x m fun i => x.toNat + i * k, s.loadReady sp fe c.1 c.2) :
    LoadsLanes s d e (fun i => s.laneAt sp e x m (x.toNat + i * k)) r := by
  have inside : x.toNat < sp.size := by omega
  have place : ∀ i, laneAddr x (stride m) i = (x.toNat + i * k : Nat) := fun i => hk ▸ laneAddr_natCast x k i
  refine loadsLanes_of_vloadLocal run (fun _ => inside) (hm inside) (fun i => by rw [place, Int.toNat_natCast]) (fun i hi => ?_) ready
  have last : i * k ≤ k * (lanesIn e - 1) := Nat.mul_comm i k ▸ Nat.mul_le_mul_left k (Nat.le_sub_one_of_lt hi)
  rw [place]
  omega

theorem lanesIn_pos (e : Bool) : 0 < lanesIn e := by cases e <;> decide

theorem bitsIn_pos (e : Bool) : 0 < bitsIn e := by cases e <;> decide

theorem State.elemBits_pos (s : State) (e : Bool) (x : Word) : 0 < s.elemBits e x := by
  unfold State.elemBits
  split
  case isTrue => decide
  case isFalse => exact bitsIn_pos e

theorem State.storeBits_act {s : State} {x : Word} (inside : x.toNat < Space.act.size) (e : Bool) : s.storeBits .act e x = s.elemBits e x :=
  if_pos ⟨rfl, inside⟩

/-- The last lane of a contiguous access ends it. -/
theorem mul_lanesIn_pred (e : Bool) (k : Nat) : k * (lanesIn e - 1) + k = lanesIn e * k := by
  rw [← Nat.mul_succ, Nat.succ_eq_add_one, Nat.sub_add_cancel (lanesIn_pos e), Nat.mul_comm]

/-- Settles O15: each of the four is vloadLocal after its operands, with its lanes at its stride. -/
theorem vectorLocalLoads : Obligations.VectorLocalLoads := by
  rintro e fe d a b s t u x y m gets - rfl core ha hgets
  have act : ∀ {w addr r}, LoadsLanes w d e (fun i => w.laneAt .act e x (t.elemBits e x) (addr i)) r → gets w .act addr r := (hgets ..).mpr
  have stg : ∀ {w addr r}, LoadsLanes w d e (fun i => w.laneAt .stg e x (bitsIn e) (addr i)) r → gets w .stg addr r := (hgets ..).mpr
  have wide := t.elemBits_pos e x
  refine ⟨fun hd fits ready => act ?contiguous, fun hd fits ready => act ?column, fun hd fits ready => stg ?staging,
    fun hb hd fits => act ?strided⟩
  case contiguous =>
    exact loadsLanes_of_ascending (fun _ k => runSlot_gives (ha.bind (hd.bind k))) (State.storeBits_act · e) wide rfl
      (by rwa [Nat.add_assoc, mul_lanesIn_pred]) (by simpa [laneRanges] using ready)
  case column =>
    exact loadsLanes_of_ascending (fun _ k => runSlot_gives (ha.bind (hd.bind k))) (State.storeBits_act · e) wide rfl fits
      (by simpa [laneRanges] using ready)
  case staging =>
    exact loadsLanes_of_ascending (fun _ k => runSlot_gives (ha.bind (hd.bind k))) (fun _ => rfl) (bitsIn_pos e) rfl
      (by rwa [Nat.add_assoc, mul_lanesIn_pred]) (by simpa [laneRanges] using ready)
  case strided =>
    have inside : x.toNat < Space.act.size := by
      obtain ⟨-, high, -⟩ := fits 0 (lanesIn_pos e)
      omega
    have same : u.elemBits e x = t.elemBits e x := by rw [State.elemBits, core, State.elemBits]
    exact loadsLanes_of_vloadLocal (fun _ k => runSlot_gives (ha.bind (hb.bind (hd.bind k)))) (fun _ => inside)
      ((State.storeBits_act inside e).trans same) (fun _ => rfl) (fun i hi => ⟨(fits i hi).1, (fits i hi).2.1⟩)
      (by simpa [laneRanges] using fun i hi => (fits i hi).2.2)

end Sys2Proof.Machine

/-! O23: the fences, fmt, the barrier slots and the waits on the clocks. -/

namespace Sys2Proof.Machine

/-! ## Order (R269, R270) -/

/-- An order code that has an acquire goes on once the older reads have performed; one that has a release is staged. -/
theorem fence_stages {s : State} {ord : Fin 16} (reads : ordAcquire ord.val = true → s.readsDone s.bundleNo = true) :
    exec (.fence ord) s = s.stages (if 6 ≤ ord.val then [.fence ord.val] else []) := by
  have goes : (!ordAcquire ord.val || s.readsDone s.bundleNo) = true := by
    cases acquires : ordAcquire ord.val
    · rfl
    · exact reads acquires
  refine runSlot_gives ((gives_get s).bind ((gives_hold goes s).bind ?_))
  by_cases release : 6 ≤ ord.val
  · rw [if_pos release]
    exact Gives.of_true (decide_eq_true release) (gives_stage _ s)
  · rw [if_neg release, staged_nil]
    exact Gives.of_false (by simpa [ordRelease] using release) (gives_pure () s)

theorem ordAcquire_iff (o : Nat) : ordAcquire o = true ↔ 1 ≤ o ∧ o ≤ 5 ∨ 11 ≤ o ∧ o ≤ 15 := by simp [ordAcquire]

/-- A hold whose condition fails, first of its bundle to wait. -/
theorem gives_hold_of_first {ok : Bool} (h : ok = false) {s : State} (first : s.bundle.mark = .none) :
    Gives (hold ok) s () { s with bundle := { s.bundle with mark := .held } } := by
  have marked : s.bundle.mark.hold none = .held := by rw [first]; rfl
  have held := gives_hold_of_false h s
  rwa [State.onBundle, marked] at held

theorem fenceSc_stages {s t : State} (h : Gives (hold (s.scDrained && s.ctx.order.scPassed)) s () t) : exec .fenceSc s = t.stages [.fenceSc] :=
  runSlot_gives ((gives_get s).bind (h.bind (gives_stage _ t)))

/-! ## How long the operations on a barrier take (R249, R250, R252) -/

/-- The clks of a btest: within 8 on a core barrier and 48 on one of the device (R252). -/
def State.testLat (t : State) (n : Nat) : Nat := if barIsCore n then min (t.draw.1 + 1) 8 else min (t.draw.1 + 1) 48

theorem State.testLat_bounds (t : State) (n : Nat) : 1 ≤ t.testLat n ∧ t.testLat n ≤ if n < 256 then 8 else 48 := by
  simp only [State.testLat, barIsCore, decide_eq_true_eq]
  split <;> omega

/-- The clks of an operation on its way to a barrier: 1 to one of the core and up to 48 to one of the device (R249, R250). -/
def State.barLeft (u : State) (n : Nat) : Nat := if barIsCore n then 1 else min (u.draw.1 + 1) 48

theorem State.barLeft_bounds (u : State) (n : Nat) : 1 ≤ u.barLeft n ∧ u.barLeft n ≤ if n < 256 then 1 else 48 := by
  simp only [State.barLeft, barIsCore, decide_eq_true_eq]
  split <;> omega

section
variable {s t u : State} {a b : Src} {x y : Word}
variable (ha : Gives (readS a) s x t)
include ha

/-! ## fmt (R171) -/

theorem fmt_stages (ok : bfmtOk x = true) (bank : Fin 16) :
    exec (.fmt bank a) s = t.stages [.fmt bank.val (BitVec.ofNat 64 (x.toNat % 2 ^ 33))] :=
  runSlot_gives (ha.bind ((gives_check ok _ _ t).bind (gives_stage _ t)))

theorem fmt_refuses (bad : bfmtOk x = false) (bank : Fin 16) : exec (.fmt bank a) s = .next (t.raised .format x false) :=
  runSlot_refuses (ha.stops (plain_readS a) (stops_check bad _ _ t).bind)

/-! ## Waits on a barrier (R251, R252) -/

/-- bwait on a barrier that no operation of its context is on its way to (R251). -/
theorem bwait_stages {o : Fin 64} {v : State} (desc : descOkWait x = true) (quiet : t.barBusy (descNum x) = false)
    (armed : (t.barrier (descNum x)).armed = true)
    (wait : Gives (holdWaiting (t.ctx.released.contains x || (t.barrier (descNum x)).passed x) .barrier)
      { t with bundle := { t.bundle with waitBar := some (descNum x, x) } } () v) : exec (.bwait o a) s = v.stages [.acquire o.val] :=
  runSlot_gives (ha.bind ((gives_check desc _ _ t).bind ((gives_get t).bind (Gives.of_false (by simp [quiet])
    ((gives_check armed _ _ t).bind ((gives_modify _ t).bind (wait.bind (gives_stage _ v))))))))

/-- bwait is held while an operation of its context is on its way to the barrier (R245, log 78). -/
theorem bwait_held {o : Fin 64} (desc : descOkWait x = true) (busy : t.barBusy (descNum x) = true) (first : t.bundle.mark = .none) :
    exec (.bwait o a) s = .next { t with bundle := { t.bundle with mark := .held } } :=
  runSlot_gives (ha.bind ((gives_check desc _ _ t).bind ((gives_get t).bind (Gives.of_true busy (gives_hold_of_first rfl first)))))

theorem btest_held {k : Fin 8} {o : Fin 64} (free : t.ctx.busyWrite (.pair k.val) = false) (desc : descOkWait x = true)
    (busy : t.barBusy (descNum x) = true) (first : t.bundle.mark = .none) :
    exec (.btest k a o) s = .next { t with bundle := { t.bundle with mark := .held } } :=
  runSlot_gives (ha.bind ((gives_readyDest free).bind ((gives_check desc _ _ t).bind ((gives_get t).bind
    (Gives.of_true busy (gives_hold_of_first rfl first))))))

/-- btest stages Passed for its pair, and its acquire where it passes (R252). -/
theorem btest_stages {k : Fin 8} {o : Fin 64} (free : t.ctx.busyWrite (.pair k.val) = false) (desc : descOkWait x = true)
    (quiet : t.barBusy (descNum x) = false) (armed : (t.barrier (descNum x)).armed = true) :
    exec (.btest k a o) s = t.drawn.stages (t.resultOf (.pair k.val) (t.testLat (descNum x)) 1 (if (t.barrier (descNum x)).passed x then 1 else 0) 0 ::
      if (t.barrier (descNum x)).passed x then [.acquire o.val] else [.cells .act []]) := by
  have last : (if (t.barrier (descNum x)).passed x then [Effect.acquire o.val] else [.cells .act []]) =
      [if (t.barrier (descNum x)).passed x then .acquire o.val else .cells .act []] := (apply_ite (fun e => [e]) ..).symm
  rw [last, State.stages, ← List.singleton_append, ← staged_staged]
  exact runSlot_gives (ha.bind ((gives_readyDest free).bind ((gives_check desc _ _ t).bind ((gives_get t).bind (Gives.of_false (by simp [quiet])
    ((gives_check armed _ _ t).bind ((gives_draw t).bind ((gives_putInter _ _ _ 1 t.drawn).bind (gives_stage _ _)))))))))

/-! ## Waits on the clocks (R253) -/

theorem hbwait_next {v : State} (wait : Gives (holdWaiting (t.dev.beat ≥ x.toNat) .tick) { t with bundle := { t.bundle with waitVal := x } } () v) :
    exec (.hbwait a) s = .next v :=
  runSlot_gives (ha.bind ((gives_get t).bind ((gives_modify _ t).bind wait)))

theorem waitt_next {v : State} (wait : Gives (holdWaiting (t.dev.tnow ≥ x.toNat) .time) { t with bundle := { t.bundle with waitVal := x } } () v) :
    exec (.waitt a) s = .next v :=
  runSlot_gives (ha.bind ((gives_get t).bind ((gives_modify _ t).bind wait)))

/-! ## Operations on a barrier (R249, R250) -/

variable (hb : Gives (readS b) t y u) (desc : descOkArrive x = true)
include hb desc

theorem binit_stages (some : 0 < y.toNat) (short : y.toNat < 2 ^ 40) : exec (.binit a b) s = u.drawn.stages
    [.barOp { bar := descNum x, init := true, n := y.toNat, left := u.barLeft (descNum x), order := 0, ctx := u.phys, bno := u.accNo }] := by
  have count : (y.toNat != 0 && decide (y.toNat < 2 ^ 40)) = true :=
    Bool.and_eq_true_iff.mpr ⟨bne_iff_ne.mpr some.ne', decide_eq_true short⟩
  exact runSlot_gives (ha.bind (hb.bind ((gives_check desc _ _ u).bind ((gives_check count _ _ u).bind ((gives_draw u).bind
    ((gives_get u.drawn).bind (gives_stage _ u.drawn)))))))

theorem barv_stages {o : Fin 64} (short : y.toNat < 2 ^ 40) (armed : (u.barrier (descNum x)).armed = true) : exec (.barv o a b) s = u.drawn.stages
    [.barOp { bar := descNum x, init := false, n := y.toNat, left := u.barLeft (descNum x), order := o.val, ctx := u.phys, bno := u.accNo }] :=
  runSlot_gives (ha.bind (hb.bind ((gives_check desc _ _ u).bind ((gives_check (decide_eq_true short) _ _ u).bind ((gives_get u).bind
    ((gives_check armed _ _ u).bind ((gives_draw u).bind (gives_stage _ u.drawn))))))))

theorem barv_refuses {o : Fin 64} (short : y.toNat < 2 ^ 40) (idle : (u.barrier (descNum x)).armed = false) :
    exec (.barv o a b) s = .next (u.raised .illegalUse x false) :=
  runSlot_refuses (ha.stops (plain_readS a) (hb.stops (plain_readS b) ((gives_check desc _ _ u).stops (plain_check _ _ _)
    ((gives_check (decide_eq_true short) _ _ u).stops (plain_check _ _ _) ((gives_get u).stops plain_get (stops_check idle _ _ u).bind)))))

end

/-- Settles O23: each slot by the lemma about it, with the condition it waits for. -/
theorem orderBarrierAndTimeSlots : Obligations.OrderBarrierAndTimeSlots := by
  intro s t u a b ord o bank k x y
  refine ⟨?fence, ?sc, ?scHeld, fun ha => ⟨fun ok => fmt_stages ha ok bank, fun bad => fmt_refuses ha bad bank, ?barrier, ?held, ?clocks, ?arrive⟩⟩
  case fence =>
    refine fun late early => fence_stages fun acquires => ?_
    rcases (ordAcquire_iff _).mp acquires with low | high
    · exact early low
    · exact (late.resolve_left (by omega)).resolve_left (by omega)
  case sc => exact fun drained passed => fenceSc_stages (gives_hold (Bool.and_eq_true_iff.mpr ⟨drained, passed⟩) s)
  case scHeld => exact fun wait first => fenceSc_stages (gives_hold_of_first (Bool.and_eq_false_iff.mpr wait) first)
  case barrier =>
    rintro desc armed quiet w rfl
    refine ⟨fun done => ?reached, fun out before first => ?waits,
      fun free => ⟨_, (t.testLat_bounds _).1, (t.testLat_bounds _).2, btest_stages ha free desc quiet armed⟩⟩
    case reached => exact bwait_stages ha desc quiet armed (gives_holdWaiting (by simpa using done) _ _)
    case waits => exact bwait_stages ha desc quiet armed (gives_holdWaiting_of_false (by simpa [before] using out) _ first)
  case held =>
    rintro desc busy first w rfl
    exact ⟨bwait_held ha desc busy first, fun free => btest_held ha free desc busy first⟩
  case clocks =>
    rintro w rfl
    exact ⟨fun past => hbwait_next ha (gives_holdWaiting (decide_eq_true past) _ _),
      fun ahead first => hbwait_next ha (gives_holdWaiting_of_false (decide_eq_false (Nat.not_le.mpr ahead)) _ first),
      fun past => waitt_next ha (gives_holdWaiting (decide_eq_true past) _ _),
      fun ahead first => waitt_next ha (gives_holdWaiting_of_false (decide_eq_false (Nat.not_le.mpr ahead)) _ first)⟩
  case arrive =>
    exact fun hb desc => ⟨_, (u.barLeft_bounds _).1, (u.barLeft_bounds _).2, binit_stages ha hb desc, barv_stages ha hb desc,
      barv_refuses ha hb desc⟩

end Sys2Proof.Machine

/-! O22: the handle slots trans, probe, hinfo and hmov. -/

namespace Sys2Proof.Machine

/-! ## trans (R193) -/

/-- The entry that a trans of an address hits: that of its page in the address space of the context, for a canonical address (R24, R191). -/
def State.translation (t : State) (va : Nat) : Option TcEntry := if isCanonical va then tcFind t.core.tcache t.ctx.blk.asid va else none

theorem State.translation_eq (t : State) (va : Nat) :
    t.translation va = if isCanonical va then tcFind t.core.tcache t.ctx.blk.asid va else none := rfl

/-- A trans stages its touch or its walk, and the results of its handle and its pair, which land together. -/
theorem gives_handleAndPair (e : Effect) (h k v : Nat) (c : Bool) (t : State) :
    Gives (do stage e; putDest (.h h) 16 v 0; putPair k 16 c) t () (t.staged [e, t.resultOf (.h h) 16 0 v 0, t.pairOf k 16 c]) := by
  have both : Gives (do putDest (.h h) 16 v 0; putPair k 16 c) (t.staged [e]) () _ := (gives_putDest ..).bind (gives_putPair ..)
  rw [staged_staged] at both
  exact Gives.after_stage both

section
variable {s t : State} {h : Fin 16} {k : Fin 8} {a : Src} {va : Word}
variable (ha : Gives (readS a) s va t) (landed : t.ctx.handlePending h.val = false) (freeH : t.ctx.busyWrite (.h h.val) = false)
  (freeK : t.ctx.busyWrite (.pair k.val) = false)
include ha landed freeH freeK

/-- A hit on a page that is not revoked makes its handle. -/
theorem trans_hit {x : TcEntry} (hit : t.translation va.toNat = some x) (usable : pteMig x.leaf.toNat < 2) : exec (.trans h a k) s =
    t.stages [.touch x, t.resultOf (.h h.val) 16 0 (handleOf t.dev.devId x va.toNat) 0, t.pairOf k.val 16 true] := by
  refine runSlot_gives (ha.bind ((gives_get t).bind ((gives_await (by simp [landed]) t).bind ((gives_readyDest freeH).bind
    ((gives_readyDest freeK).bind ?_)))))
  simp only [← State.translation_eq, hit]
  exact Gives.of_false (by omega) (gives_handleAndPair _ _ _ _ _ t)

/-- Without a hit, or on a page that is revoked, the walker is sent and the handle is the zero one. -/
theorem trans_miss (miss : ∀ x, t.translation va.toNat = some x → 2 ≤ pteMig x.leaf.toNat) :
    exec (.trans h a k) s = t.stages [.walk va, t.resultOf (.h h.val) 16 0 0 0, t.pairOf k.val 16 false] := by
  refine runSlot_gives (ha.bind ((gives_get t).bind ((gives_await (by simp [landed]) t).bind ((gives_readyDest freeH).bind
    ((gives_readyDest freeK).bind ?_)))))
  have walks := gives_handleAndPair (.walk va) h.val k.val 0 false t
  simp only [← State.translation_eq]
  cases hit : t.translation va.toNat with
  | none => exact walks
  | some x =>
    have revoked := miss x hit
    have range : pteMig x.leaf.toNat < 4 := Nat.mod_lt _ (by decide)
    exact Gives.of_true (by omega) walks

end

/-! ## probe (R194) -/

theorem plain_modify (f : State → State) : Plain (modify f : Act Unit) := fun _ _ => rfl

theorem State.quiet_of_nil {u : State} (pend : u.ctx.pend = []) (awaits : u.ctx.awaits = []) (gq : u.ctx.gq = []) : u.quiet = true := by
  simp [State.quiet, State.allLanded, pend, awaits, gq]

/-- A probe that has not waited for a migration begins at its address, with 64 pages to go. -/
theorem State.probeFrom_first {u : State} (first : assoc? u.ctx.probes u.accNo = none) (va : Nat) : u.probeFrom va = (va, 64) := by
  rw [State.probeFrom, first, Option.getD_none]

/-- A range that is over has no page left to walk. -/
theorem State.probePages_empty (u : State) {va stop : Nat} (past : stop ≤ va) (acc : List TcEntry) (n : Nat) :
    u.probePages va stop acc n = .done acc := by
  cases n with
  | zero => exact if_neg (by omega)
  | succ n => exact if_pos past

section
variable {s t u : State} {a b : Src} {va len : Word}
variable (ha : Gives (readS a) s va t) (hb : Gives (readS b) t len u) (safe : u.holdsSlot .safe = true)
  (first : assoc? u.ctx.probes u.accNo = none) (quiet : u.quiet = true)
include ha hb safe first quiet

theorem probe_stages {fills : List TcEntry} (walked : u.probePages va.toNat (va.toNat + len.toNat) [] 64 = .done fills) :
    exec (.probe a b) s = u.stages [.fills fills] := by
  refine runSlot_gives (ha.bind (hb.bind ((gives_get u).bind ((gives_check safe _ _ u).bind (Gives.of_true quiet ?_)))))
  simp only [u.probeFrom_first first, walked]
  exact gives_stage _ u

/-- A probe that meets a fault keeps the fills of the pages before it. -/
theorem probe_refuses {c : Cause} {v : Nat} {fills : List TcEntry}
    (met : u.probePages va.toNat (va.toNat + len.toNat) [] 64 = .fault c v fills) : exec (.probe a b) s =
      .next ((u.onBundle fun x => { x with kept := x.kept ++ fills }).raised c (word v) false) := by
  refine runSlot_refuses (ha.stops (plain_readS a) (hb.stops (plain_readS b) ((gives_get u).stops plain_get
    ((gives_check safe _ _ u).stops (plain_check _ _ _) (Stops.of_true quiet ?_)))))
  simp only [u.probeFrom_first first, met]
  exact (gives_modify _ u).stops (plain_modify _) (stops_raise _ _ _)

end

/-! ## hinfo and hmov (R196, R197) -/

section
variable {s : State} {h : Fin 16} (landed : s.ctx.handlePending h.val = false) (free : s.ctx.busy (.h h.val) = false)
include landed free

theorem hinfo_reg_stages {r : Fin 32} (ready : s.ctx.busyWrite (.s r.val) = false) : exec (.hinfo (.reg r) h) s =
    s.drawn.stages [s.resultOf (.s r.val) (s.draw.1 + 1) 1 (s.hSummary (s.ctx.regs.readH h.val)) 0] :=
  runSlot_gives ((gives_readyDest ready).bind ((gives_get s).bind ((gives_await (by simp [landed, free]) s).bind ((gives_draw s).bind
    (gives_putInter _ _ _ _ _)))))

theorem hinfo_push_stages {q : Fin 16} (ready : Gives (readyS (.push q)) s () s) : exec (.hinfo (.push q) h) s =
    s.drawn.stages [.push q.val { dest := .ring q.val, val := s.hSummary (s.ctx.regs.readH h.val),
                                  addr := (s.ctx.ring q.val).pushAddr (s.bundle.pushes q.val), left := s.draw.1 + 1, inter := 1, flags := 0,
                                  pc := s.bundle.pc, bno := s.accNo }] :=
  runSlot_gives (ready.bind ((gives_get s).bind ((gives_await (by simp [landed, free]) s).bind ((gives_draw s).bind
    ((gives_get s.drawn).bind (gives_stage _ s.drawn))))))

end

/-- hmov stages the copy of its handle, and nothing for a handle onto itself. -/
theorem hmov_stages {s : State} {d h : Fin 16} (landed : s.ctx.handlePending d.val = false) (freeD : s.ctx.busyWrite (.h d.val) = false)
    (free : s.ctx.busy (.h h.val) = false) :
    exec (.hmov d h) s = s.stages (if d = h then [] else [s.resultOf (.h d.val) 1 0 (s.ctx.regs.readH h.val).toNat 0]) := by
  refine runSlot_gives ((gives_get s).bind ((gives_await (by simp [landed]) s).bind ((gives_readyDest freeD).bind
    ((gives_await (by simp [free]) s).bind ?_))))
  by_cases same : d = h
  · rw [if_pos same, staged_nil]
    exact Gives.of_false (not_not.mpr same) (gives_pure () s)
  · rw [if_neg same]
    exact Gives.of_true same (gives_putDest _ _ _ _ s)

/-- Settles O22: each slot by the lemma about its outcome. -/
theorem handleSlots : Obligations.HandleSlots := by
  refine fun s t u h d r k a b va len => ⟨fun ha landed freeH freeK => ⟨fun x canonical found usable => ?hit, fun miss => ?miss⟩,
    fun ha hb safe first pend awaits gq => ?probe, fun landed free => ?hinfo, hmov_stages⟩
  case hit => exact trans_hit ha landed freeH freeK ((if_pos canonical).trans found) usable
  case miss =>
    refine trans_miss ha landed freeH freeK fun x hit => ?_
    obtain ⟨canonical, found⟩ := Option.ite_none_right_eq_some.mp hit
    rcases miss with bad | none | ⟨y, here, revoked⟩
    · rw [canonical] at bad; contradiction
    · rw [none] at found; contradiction
    · rw [here] at found
      exact Option.some.inj found ▸ revoked
  case probe =>
    have quiet := State.quiet_of_nil pend awaits gq
    exact ⟨fun _ => probe_stages ha hb safe first quiet, fun _ _ _ => probe_refuses ha hb safe first quiet,
      fun zero => u.probePages_empty (by simp [zero]) [] 64⟩
  case hinfo =>
    refine ⟨s.draw.1 + 1, Nat.le_add_left 1 _, hinfo_reg_stages landed free, fun q ready v a hv ha => ?_, fun invalid => if_pos invalid⟩
    subst hv ha
    exact hinfo_push_stages landed free ready

end Sys2Proof.Machine

/-! O57: the events of the units, each by the operation of its unit, and what the operations of the scrubber, the pool, the statistics ring and the remap registers do. -/

namespace Sys2Proof.Machine

section
variable {s : State}

/-! ## Events of a core (R226, R279, R299, R232) -/

/-- An event of a unit of a core that the part does not have names no agent. -/
theorem exec_coreUnitEvent_of_le (h : 256 ≤ s.ev.who) (i : Instr) (hi : i ∈ [Instr.laneAct, .drainArrival, .secondPhase, .checkPassEnd, .reloadStart,
    .reloadCompletion, .copyStart, .copyCompletion, .statisticsDrain, .eqlimWrite, .sampler]) : exec i s = .fault (.noSuchAgent s.ev.who) := by
  simp only [List.mem_cons, List.not_mem_nil, or_false] at hi
  rcases hi with rfl | rfl | rfl | rfl | rfl | rfl | rfl | rfl | rfl | rfl | rfl
  all_goals exact if_pos h

/-- The pass on the half that the event names ends, without a failure or at a row, and no other pass does (R279). -/
theorem exec_checkPassEnd (who : s.ev.who < 256) : ∃ f, exec .checkPassEnd s = .next (s.atCore s.ev.who f) ∧
    (∀ t : State, (∀ p ∈ t.core.passes, p.f ≠ s.ev.addr % 8192) → f t = t) ∧
    ∀ (t : State) p, s.ev.data = [] → t.core.passes = [p] → p.f = s.ev.addr % 8192 →
      f t = if s.ev.val = 0 then t.passToEnd p.f 256 256 else t.passHits p.f ((s.ev.val - 1) % 256) := by
  refine ⟨_, if_neg (by omega), fun t other => ?other, fun t p clean one named => ?named⟩
  case other =>
    have absent : t.core.passes.find? (·.f == s.ev.addr % 8192) = none := List.find?_eq_none.mpr fun p hp => by simpa using other p hp
    simp only [absent]
  case named => simp [one, named, clean, State.rowsFixed]

/-- The running reload ends in error, or completes once it has read its source (R299). -/
theorem exec_reloadCompletion (who : s.ev.who < 256) : ∃ f, exec .reloadCompletion s = .next (s.atCore s.ev.who f) ∧
    ∀ (t : State) c, t.core.running 2 = [c] → (s.ev.val ≠ 0 → f t = t.reloadFailed c (s.ev.val % 256) true) ∧
      (s.ev.val = 0 → c.run.wait = false → 8 * halfK (rcTFMT c.a) ≤ c.run.idx → c.run.held = true → f t = t.reloadDone c) := by
  refine ⟨_, if_neg (by omega), fun t c one => ⟨fun failed => ?failed, fun fine free read held => ?done⟩⟩
  case failed => simp [one, failed]
  case done => simp [one, fine, free, read, held]

/-- The running command of a copy queue ends in error, or completes once its data has moved (R232). -/
theorem exec_copyCompletion (who : s.ev.who < 256) : ∃ f, exec .copyCompletion s = .next (s.atCore s.ev.who f) ∧
    ∀ (t : State) c, t.core.running (s.ev.sub % 2) = [c] → (s.ev.val ≠ 0 → f t = t.copyFailed c (s.ev.val % 256)) ∧
      (s.ev.val = 0 → c.run.held = true → f t = t.copyDone c) := by
  refine ⟨_, if_neg (by omega), fun t c one => ⟨fun failed => ?failed, fun fine held => ?done⟩⟩
  case failed => simp [one, failed]
  case done => simp [one, fine, held]

theorem exec_eqlimWrite (who : s.ev.who < 256) : exec .eqlimWrite s = .next (s.atCore s.ev.who fun t => { t with core := { t.core with
    pool := t.core.pool.setLimit (s.ev.sub % 4) (s.ev.val / 2 ^ 16 % 2 ^ 10) (s.ev.val % 2 ^ 10) } }) := by
  have low : s.ev.val % 2 ^ 10 = bits s.ev.val 0 10 := by rw [bits, pow_zero, Nat.div_one]
  rw [low]
  exact if_neg (by omega)

/-! ## The statistics ring (R235) -/

section
variable {r : Nat} {l : List Nat} (recs : s.core.stats.recs = r :: l)
include recs

/-- Without a region the oldest record is dropped. -/
theorem State.drainRecord_dropped (region : s.core.stats.len = 0) : s.drainRecord = { s with core := { s.core with
    stats := { s.core.stats with recs := l, drop := (s.core.stats.drop + 1) % 2 ^ 32, idle := 0 } } } := by
  simp [State.drainRecord, recs, region, State.onCore]

/-- The oldest record is written at its slot of the region. -/
theorem State.drainRecord_written (region : s.core.stats.len ≠ 0) : s.drainRecord = { s with
    core := { s.core with stats := { s.core.stats with recs := l, wr := (s.core.stats.wr + 1) % 2 ^ 32, idle := 0 } }
    dev := s.dev.put (physLocal (s.core.stats.base * 2 ^ 9) + s.core.stats.wr % s.core.stats.len * 128) 128 r } := by
  simp [State.drainRecord, recs, region, State.onCore, State.onDev]

end

/-! ## The scrubber (R305) -/

theorem Device.cacheLine_scrubs (d : Device) (pin : Bool) (l : Nat) : (d.cacheLine pin l).scrubs = d.scrubs := by
  unfold Device.cacheLine; exact (apply_ite Device.scrubs _ _ _).trans (ite_self _)

theorem Device.backInvalidate_scrubs (d : Device) (l : Nat) : (d.backInvalidate l).scrubs = d.scrubs := by
  unfold Device.backInvalidate; split <;> rfl

theorem Device.put_scrubs (d : Device) (a w v : Nat) : (d.put a w v).scrubs = d.scrubs := by
  have owned := foldl_keeps Device.scrubs Device.backInvalidate_scrubs (linesOf a w) d
  unfold Device.put Device.merge
  split
  · exact owned
  · exact (foldl_keeps Device.scrubs (fun d l => d.cacheLine_scrubs false l) _ _).trans owned

theorem Device.putLog_scrubs (d : Device) (r : Nat) : (d.putLog r).scrubs = d.scrubs := by
  unfold Device.putLog
  split
  · rfl
  · exact d.put_scrubs _ _ _

/-- A record of the error log leaves the passes of the scrubber. -/
theorem Device.logError_scrubs (d : Device) (event cause source addr info : Nat) : (d.logError event cause source addr info).scrubs = d.scrubs := by
  unfold Device.logError
  dsimp only
  split
  · split <;> rfl
  · exact d.putLog_scrubs _

/-- A half in storage mode that fails is FAILED, or DEAD where it is a spare (Table 13.3 row 4). -/
theorem Half.react_fail_of_storage {h : Half} (storage : h.storage = true) (spare : Bool) :
    (h.react (.fail spare)).1 = { h with st := if spare then 5 else 4 } := by
  have mode : h.st < 2 := of_decide_eq_true storage
  rcases (by omega : h.st = 0 ∨ h.st = 1) with empty | store
  · simp [Half.react, empty]
  · simp [Half.react, store]

/-- The scrubber's pass makes its rows from the one it has reached, and is over (R305). -/
theorem exec_scrubPass (below : s.ev.addr < 2 ^ 22) (runs : s.dev.scrubInt ≠ 0) (storage : (s.dev.half s.ev.addr).storage = true)
    (free : s.halfBusy s.ev.addr = false) (fine : s.ev.val = 0) (clean : s.ev.data = []) : exec .scrubPass s =
      .next ((s.scrub s.ev.addr (s.dev.scrubRow s.ev.addr) none).onDev fun d => { d with scrubs := assocDel d.scrubs s.ev.addr }) := by
  change execScrubPass s = _
  unfold execScrubPass
  dsimp only
  rw [if_neg (by omega), if_neg (by simp [runs, storage, free]), if_pos fine, clean]
  rfl

/-- Without an interval, and on a half that has left storage mode or is used, the scrubber makes no pass (R305, log 83). -/
theorem exec_scrubPass_of_idle (below : s.ev.addr < 2 ^ 22)
    (idle : s.dev.scrubInt = 0 ∨ (s.dev.half s.ev.addr).storage = false ∨ s.halfBusy s.ev.addr = true) : exec .scrubPass s = .next s := by
  change execScrubPass s = _
  unfold execScrubPass
  dsimp only
  rw [if_neg (by omega), if_pos (by simpa using idle)]

theorem exec_scrubLate (below : s.ev.addr < 2 ^ 22) : exec .scrubLate s =
    .next (if (s.dev.half s.ev.addr).st = 3 ∧ s.dev.scrubDue (s.dev.half s.ev.addr) = true then s.scrubMissed s.ev.addr else s) :=
  if_neg (by omega)

/-- A pass whose rows are all sound has scrubbed the half. -/
theorem State.scrub_sound {k from0 : Nat} (sound : ∀ j < 256, from0 ≤ j → (s.dev.half k).rowFails j = false) :
    s.scrub k from0 none = s.onDev fun d => d.scrubbed k := by
  have absent : ((List.range 256).find? fun j => from0 ≤ j && ((s.dev.half k).rowFails j || (none : Option Nat) == some j)) = none :=
    List.find?_eq_none.mpr fun j hj => by simpa using sound j (List.mem_range.mp hj)
  unfold State.scrub
  dsimp only
  rw [absent]

/-- A pass fails at the first row that does. -/
theorem State.scrub_fails {k from0 row : Nat} (below : row < 256) (reached : from0 ≤ row) (fails : (s.dev.half k).rowFails row = true)
    (first : ∀ j < row, from0 ≤ j → (s.dev.half k).rowFails j = false) : s.scrub k from0 none = s.scrubFails k row := by
  have found : ((List.range 256).find? fun j => from0 ≤ j && ((s.dev.half k).rowFails j || (none : Option Nat) == some j)) = some row :=
    List.find?_range_eq_some.mpr ⟨by simp [reached, fails], List.mem_range.mpr below, fun j hj => by simpa [imp_iff_not_or] using first j hj⟩
  unfold State.scrub
  dsimp only
  rw [found]

/-- A half that no core holds is a spare: it fails as one, and its failure is logged. -/
theorem State.scrubFails_spare {k : Nat} (spare : s.dev.holder k = none) (storage : (s.dev.half k).storage = true) (row : Nat) :
    s.scrubFails k row = s.onDev fun d => (d.setHalf k (({ s.dev.half k with seen := s.dev.ref } : Half).react (.fail true)).1).logError 0x04
      Cause.checksum.code (k / 2 ^ 17) (k % 2 ^ 17) row := by
  unfold State.scrubFails
  rw [spare]
  dsimp only [State.onDev, Option.isNone_none]
  rw [Half.react_fail_of_storage storage, Half.react_fail_of_storage (h := { s.dev.half k with seen := s.dev.ref }) storage]

/-- A half that no core holds misses its interval in no counter and no log. -/
theorem State.scrubMissed_spare {k : Nat} (spare : s.dev.holder k = none) : s.scrubMissed k = { s with
    dev := s.dev.setHalf k { s.dev.half k with seen := (s.dev.half k).seen + 1200 * s.dev.scrubInt } } := by
  have after : ∀ h, (s.dev.setHalf k h).holder k = none := fun _ => spare
  simp only [State.scrubMissed, State.onDev, after]

/-! ## The eraser, migrations and the hatch (R198, R200, R201, R205) -/

theorem State.sweepDue_iff : s.sweepDue = true ↔ s.dev.mig.int ≠ 0 ∧ s.dev.ref % 1200 = 0 ∧ s.dev.ref / 1200 % s.dev.mig.int = 0 ∧
    s.dev.mig.swept ≠ s.dev.ref / 1200 + 1 := by
  simp [State.sweepDue, and_assoc]

section
variable {m : Migration} (listed : s.dev.migs[s.ev.who]? = some m)
include listed

theorem exec_migrationRevoke (copied : m.phase = 1) : exec .migrationRevoke s = .next (s.revokeMove m) := by
  change execMigrationRevoke s = _
  simp [execMigrationRevoke, listed, copied]

theorem exec_migrationSwitch (may : s.maySwitch m = true) : exec .migrationSwitch s = .next (s.switch m) := by
  change execMigrationSwitch s = _
  simp [execMigrationSwitch, listed, may]

/-- A migration in REVOKE past its limit, or whose switch fails its check, is abandoned; any other stays (R201). -/
theorem exec_migrationAbandon : exec .migrationAbandon s =
    .next (if m.phase = 2 ∧ (s.overLimit m = true ∨ s.maySwitch m = true ∧ s.switchOk m = false) then s.abandon m else s) := by
  change execMigrationAbandon s = _
  simp [execMigrationAbandon, listed]

end

theorem exec_hatchInterval_of_due {root : Nat} (due : s.dev.hatch.due = some root) : exec .hatchInterval s = .next { s.hatchClose root with
    dev := { (s.hatchClose root).dev with hatch := { (s.hatchClose root).dev.hatch with due := none } } } := by
  change Host.Outcome.next s.hatchClk = _
  rw [State.hatchClk, due]
  rfl

theorem exec_hatchInterval_of_none (idle : s.dev.hatch.due = none) : exec .hatchInterval s = .next s := by
  change Host.Outcome.next s.hatchClk = _
  rw [State.hatchClk, idle]

end

/-! ## Limits and remap registers (R226, R306) -/

/-- CAP and MIN are taken where the MINs fit the pool and MIN and CAP each other. -/
theorem Pool.setLimit_fits {p : Pool} {k cap min : Nat} (fits : (p.mins.set k min).sum ≤ 512 ∧ min ≤ cap ∧ cap ≤ 512) :
    p.setLimit k cap min = { p with caps := p.caps.set k cap, mins := p.mins.set k min } := if_neg (by omega)

theorem Pool.setLimit_refused {p : Pool} {k cap min : Nat} (refused : 512 < (p.mins.set k min).sum ∨ cap < min ∨ 512 < cap) :
    p.setLimit k cap min = { p with err := true } := if_pos (by omega)

/-- Before any kernel has been loaded, a remap register takes a position that no other register names and none of whose halves is DEAD. -/
theorem Device.writeRemap_accepted {d : Device} {k v p : Nat} (hp : p = v % 2 ^ 16) (unloaded : d.everLoaded = false) (inside : p < 33792)
    (free : d.mapped (k / 32768) p = false ∨ d.remapped k = p) (alive : ∀ h < 2, (d.half (macroHalf (k / 32768) p h)).st ≠ 5) :
    d.writeRemap k v = { d with remap := assocSet d.remap k p } := by
  subst hp
  have taken : (d.mapped (k / 32768) (v % 2 ^ 16) && d.remapped k != v % 2 ^ 16) = false := by
    rcases free with free | same
    · rw [free, Bool.false_and]
    · rw [bne_eq_false_iff_eq.mpr same, Bool.and_false]
  refine if_neg ?_
  rintro (loaded | beyond | named | dead | dead)
  · exact Bool.eq_false_iff.mp unloaded loaded
  · omega
  · exact Bool.eq_false_iff.mp taken named
  · exact alive 0 (by decide) dead
  · exact alive 1 (by decide) dead

/-- Settles O57: each event and each operation by its lemma, in the order of the statement. -/
theorem unitEventsComplete : Obligations.UnitEventsComplete := by
  intro s
  refine ⟨fun who => ⟨if_neg (by omega), if_neg (by omega), if_neg (by omega), exec_checkPassEnd who, if_neg (by omega), exec_reloadCompletion who,
      if_neg (by omega), exec_copyCompletion who, if_neg (by omega), exec_eqlimWrite who, if_neg (by omega)⟩,
    exec_coreUnitEvent_of_le,
    fun group => ⟨if_neg (by omega), if_neg (by omega)⟩,
    fun group => if_neg (by omega),
    fun register => if_neg (by omega),
    fun k h g hk hh hg => ⟨fun beyond => ?beyond, fun below => ⟨fun idle => ?idle, fun runs storage free fine clean from0 reached =>
      ⟨fun sound => ?sound, fun row inside after fails first spare => ?fails⟩, fun early => ?early, fun dot due => ?late⟩⟩,
    fun due => congrArg Host.Outcome.next (if_pos due),
    fun idle => congrArg Host.Outcome.next (if_neg (by simp [idle])),
    State.sweepDue_iff,
    rfl,
    fun m listed => ⟨exec_migrationRevoke listed, exec_migrationSwitch listed, fun revoked ends => ?abandons, fun stays => ?stays⟩,
    rfl,
    rfl,
    exec_hatchInterval_of_none,
    fun root => exec_hatchInterval_of_due,
    fun p k cap min => ⟨Pool.setLimit_fits, Pool.setLimit_refused⟩,
    fun r l recs => ⟨State.drainRecord_dropped recs, fun region => ?written⟩,
    fun d k v p => Device.writeRemap_accepted,
    fun d k v loaded => if_pos (.inl loaded),
    fun busy => if_pos busy⟩
  case beyond =>
    subst hk
    exact ⟨if_pos beyond, if_pos beyond⟩
  case idle =>
    subst hk hh
    exact exec_scrubPass_of_idle below idle
  case sound =>
    subst hk hh hg reached
    rw [exec_scrubPass below runs storage free fine clean, State.scrub_sound sound]
    rfl
  case fails =>
    subst hk hh hg reached
    rw [exec_scrubPass below runs storage free fine clean, State.scrub_fails inside after fails first, State.scrubFails_spare spare storage]
    dsimp only [State.onDev]
    rw [Device.logError_scrubs]
    rfl
  case early =>
    subst hk hh
    rw [exec_scrubLate below, if_neg]
    rintro ⟨dot, due⟩
    simp [dot, due] at early
  case late =>
    subst hk hh
    rw [exec_scrubLate below, if_pos ⟨dot, due⟩]
    exact ⟨rfl, State.scrubMissed_spare⟩
  case abandons => rw [exec_migrationAbandon listed, if_pos ⟨revoked, ends⟩]
  case stays =>
    rw [exec_migrationAbandon listed, if_neg]
    rintro ⟨revoked, late | ⟨may, fails⟩⟩
    · simp [revoked, late] at stays
    · simp [revoked, may, fails] at stays
  case written =>
    rw [State.drainRecord_written recs region]
    exact ⟨rfl, rfl⟩

end Sys2Proof.Machine

/-! O36: the ring instructions (R208, R214, R215, R219 to R224, R236). -/

namespace Sys2Proof.Machine

/-! ## qbind (R208, R214, R215, R219) -/

/-- A binding in global memory keeps a copy of the handle its word names (R219). -/
theorem State.bindRing_copy {s : State} {x w : Word} (glob : (s.bindRing x w).spaceNo = 2) :
    (s.bindRing x w).copy = s.ctx.regs.readH (w.toNat / 2 ^ 44 % 16) := if_pos glob

/-- An accepted ring in global memory is no FIFO (R208). -/
theorem State.bindRing_mode_ne_one {s : State} {x w bank : Word} (accepted : ringCfgOk w bank = true) (glob : (s.bindRing x w).spaceNo = 2) :
    (s.bindRing x w).mode ≠ 1 := by
  intro fifo
  have mode : ({ Ring.unbound with cfg := w } : Ring).mode = 1 := fifo
  have space : ({ Ring.unbound with cfg := w } : Ring).spaceNo = 2 := glob
  simp [ringCfgOk, mode, space] at accepted

section
variable {s : State} {q : Fin 16} {a b : Fin 32} {x w : Word}
variable (ha : Gives (readReg a.val) s x s) (hb : Gives (readReg b.val) s w s)
include ha hb

/-- qbind refuses a word that its checks do not accept (R208). -/
theorem qbind_refuses_format (bad : ringCfgOk w (s.core.bankFmt x.toNat) = false) :
    exec (.qbind q a b) s = .next (s.raised .format w false) :=
  runSlot_refuses (ha.stops (plain_readReg _) (hb.stops (plain_readReg _) ((gives_get s).stops plain_get (stops_check bad _ _ s).bind)))

variable (accepted : ringCfgOk w (s.core.bankFmt x.toNat) = true)
include accepted

/-- qbind refuses a FIFO that goes beyond its memory, with its last bit (R214). -/
theorem qbind_refuses_beyond (fifo : (s.bindRing x w).mode = 1)
    (beyond : (spaceOf (s.bindRing x w).spaceNo).size < x.toNat + (s.bindRing x w).capacity * (s.bindRing x w).size) : exec (.qbind q a b) s =
      .next (s.raised .illegalUse (BitVec.ofNat 64 (x.toNat + (s.bindRing x w).capacity * (s.bindRing x w).size - 1)) false) :=
  runSlot_refuses (ha.stops (plain_readReg _) (hb.stops (plain_readReg _) ((gives_get s).stops plain_get
    ((gives_check accepted _ _ s).stops (plain_check _ _ _) (stops_check (by simpa [fifo] using beyond) _ _ s).bind))))

/-- qbind refuses a handle that is not usable or lacks the right, with its number (R208). -/
theorem qbind_refuses_handle (glob : (s.bindRing x w).spaceNo = 2) (free : s.ctx.busy (.h (w.toNat / 2 ^ 44 % 16)) = false)
    (bad : hUsable (s.bindRing x w).copy = false ∨ (if (s.bindRing x w).mode = 2 then hRd (s.bindRing x w).copy else hWr (s.bindRing x w).copy) = false) :
    exec (.qbind q a b) s = .next (s.raised .invhandle (BitVec.ofNat 64 (w.toNat / 2 ^ 44 % 16)) false) := by
  have fits : ((s.bindRing x w).mode != 1) = true := bne_iff_ne.mpr (State.bindRing_mode_ne_one accepted glob)
  have right : ((s.bindRing x w).spaceNo != 2 || (hUsable (s.bindRing x w).copy &&
      (if (s.bindRing x w).mode == 2 then hRd (s.bindRing x w).copy else hWr (s.bindRing x w).copy))) = false := by
    rcases bad with bad | bad
    · simp [glob, bad]
    · simpa [glob] using fun _ => by simpa using bad
  exact runSlot_refuses (ha.stops (plain_readReg _) (hb.stops (plain_readReg _) ((gives_get s).stops plain_get
    ((gives_check accepted _ _ s).stops (plain_check _ _ _) ((gives_check (by rw [fits, Bool.true_or]) _ _ s).stops (plain_check _ _ _)
      ((gives_await (by simpa [bits] using .inr free) s).stops (plain_await _) (stops_check right _ _ s).bind))))))

/-- qbind stages the binding with its copy of the handle (R208). -/
theorem qbind_stages
    (fits : (s.bindRing x w).mode = 1 → x.toNat + (s.bindRing x w).capacity * (s.bindRing x w).size ≤ (spaceOf (s.bindRing x w).spaceNo).size)
    (free : (s.bindRing x w).spaceNo = 2 → s.ctx.busy (.h (w.toNat / 2 ^ 44 % 16)) = false)
    (usable : (s.bindRing x w).spaceNo = 2 → hUsable (s.bindRing x w).copy = true ∧
      (if (s.bindRing x w).mode = 2 then hRd (s.bindRing x w).copy else hWr (s.bindRing x w).copy) = true) :
    exec (.qbind q a b) s = s.stages [.qbind q.val x w (s.bindRing x w).copy] :=
  runSlot_gives (ha.bind (hb.bind ((gives_get s).bind ((gives_check accepted _ _ s).bind
    ((gives_check (by simpa [← imp_iff_not_or] using fits) _ _ s).bind ((gives_await (by simpa [bits, ← imp_iff_not_or] using free) s).bind
      ((gives_check (by simpa [← imp_iff_not_or] using usable) _ _ s).bind (gives_stage _ s))))))))

end

/-! ## qadv, qwait and qstr (R221 to R223) -/

/-- What qwait asks for is no more than a FIFO's capacity or a READ ring's depth (R222). -/
theorem Ring.waitLimit_iff (r : Ring) (n : Nat) : (match r.mode with | 1 => decide (n ≤ r.capacity) | 2 => decide (n ≤ r.depth) | _ => true) = true ↔
    (r.mode = 1 → n ≤ r.capacity) ∧ (r.mode = 2 → n ≤ r.depth) := by
  split <;> simp_all

/-- The condition of a qwait, by the mode of its ring (R222). -/
theorem State.qwaitOver_iff (s : State) (q n : Nat) : s.qwaitOver q n = true ↔
    ((s.ctx.ring q).mode = 1 → n ≤ (s.ctx.ring q).count) ∧ ((s.ctx.ring q).mode = 2 → n ≤ (s.ctx.ring q).window.length) ∧
    ((s.ctx.ring q).mode = 3 → (s.ctx.ring q).pending = 0 ∧ s.oldPushes q = false) := by
  unfold State.qwaitOver
  dsimp only
  split <;> simp_all

section
variable {s : State} {q : Fin 16} {a : Fin 32} {x : Word} (ha : Gives (readReg a.val) s x s)
include ha

/-- qadv of a bound ring goes past the elements, which a FIFO holds (R221). -/
theorem qadv_stages (bound : (s.ctx.ring q.val).mode ≠ 0) (short : x.toNat < 2 ^ 24)
    (has : (s.ctx.ring q.val).mode = 1 → x.toNat ≤ (s.ctx.ring q.val).capacity ∧ x.toNat ≤ (s.ctx.ring q.val).count) :
    exec (.qadv q a) s = s.stages [.qadv q.val x.toNat] := by
  have within : ((s.ctx.ring q.val).mode != 1 || decide (x.toNat ≤ (s.ctx.ring q.val).capacity)) = true := by
    simpa [← imp_iff_not_or] using fun fifo => (has fifo).1
  have held : ((s.ctx.ring q.val).mode != 1 || decide (x.toNat ≤ (s.ctx.ring q.val).count)) = true := by
    simpa [← imp_iff_not_or] using fun fifo => (has fifo).2
  exact runSlot_gives (ha.bind ((gives_get s).bind ((gives_check (bne_iff_ne.mpr bound) _ _ s).bind
    ((gives_check (decide_eq_true short) _ _ s).bind ((gives_check within _ _ s).bind ((gives_hold held s).bind (gives_stage _ s)))))))

theorem qadv_refuses_unbound (unbound : (s.ctx.ring q.val).mode = 0) :
    exec (.qadv q a) s = .next (s.raised .illegalUse (BitVec.ofNat 64 q.val) false) :=
  runSlot_refuses (ha.stops (plain_readReg _) ((gives_get s).stops plain_get (stops_check (by rw [unbound]; rfl) _ _ s).bind))

/-- qwait notes its ring and its count, and completes or waits on the ring (R222). -/
theorem qwait_goes {t : State} (limit : ((s.ctx.ring q.val).mode = 1 → x.toNat ≤ (s.ctx.ring q.val).capacity) ∧
      ((s.ctx.ring q.val).mode = 2 → x.toNat ≤ (s.ctx.ring q.val).depth))
    (wait : Gives (holdWaiting (s.qwaitOver q.val x.toNat) .ring) (s.onBundle fun b => { b with waitBar := some (q.val, x) }) () t) :
    exec (.qwait q a) s = .next t :=
  runSlot_gives (ha.bind ((gives_get s).bind ((gives_check ((Ring.waitLimit_iff _ _).mpr limit) _ _ s).bind ((gives_modify _ s).bind wait))))

theorem qstr_stages {level : Fin 8} (low : -2 ^ 23 ≤ x.toInt) (high : x.toInt < 2 ^ 23) :
    exec (.qstr q a level) s = s.stages [.qstr q.val level.val x.toInt] :=
  runSlot_gives (ha.bind ((gives_check (by simpa using And.intro low high) _ _ s).bind (gives_stage _ s)))

end

/-! ## qstat and sqrd (R224, R236) -/

theorem Ring.stat_zero (r : Ring) : r.stat 0 = r.cfg := rfl

theorem Ring.stat_one (r : Ring) : r.stat 1 = r.cur := rfl

theorem Ring.stat_two (r : Ring) : r.stat 2 =
    BitVec.ofNat 64 (r.window.length % 256 * 2 ^ 32 + r.pending % 256 * 2 ^ 24 + if r.mode = 1 then r.count else 0) := rfl

section
variable {s : State} {d : Fin 32} {what : Fin 4} (ready : s.ctx.busyWrite (.s d.val) = false)
include ready

theorem qstat_stages {q : Fin 16} : exec (.qstat d q what) s =
    s.drawn.stages [s.resultOf (.s d.val) (s.draw.1 + 1) 1 ((s.ctx.ring q.val).stat what.val).toNat 0] :=
  runSlot_gives ((gives_readyDest ready).bind ((gives_get s).bind ((gives_draw s).bind (gives_putInter _ _ _ _ _))))

/-- sqrd delivers its count; sel 3 once the buffer is empty (R236). -/
theorem sqrd_stages (empty : what.val = 3 → s.core.stats.recs = [] ∧ s.core.stats.fresh = []) : exec (.sqrd d what) s =
    s.drawn.stages [s.resultOf (.s d.val) (s.draw.1 + 1) 1 (match what.val with
      | 1 => s.core.stats.recs.length | 2 => s.core.stats.drop | _ => s.core.stats.wr) 0] := by
  have drained : (what.val != 3 || (s.core.stats.recs.isEmpty && s.core.stats.fresh.isEmpty)) = true := by
    simpa [← imp_iff_not_or] using empty
  exact runSlot_gives ((gives_readyDest ready).bind ((gives_get s).bind ((gives_hold drained s).bind ((gives_draw s).bind (gives_putInter _ _ _ _ _)))))

end

/-- Settles O36: each slot by the lemma about its outcome. -/
theorem ringSlots : Obligations.RingSlots := by
  rintro q a b d level what s x w r hx hw rfl
  refine ⟨runSlot_stage _ s, fun freeA => ?_, fun ready => ⟨s.draw.1 + 1, Nat.le_add_left 1 _, fun sel => ?stat, sqrd_stages ready⟩⟩
  case stat =>
    rw [qstat_stages ready]
    rcases (by omega : what.val = 0 ∨ what.val = 1 ∨ what.val = 2) with h | h | h
    · simp only [h, Ring.stat_zero]
    · simp only [h, Ring.stat_one]
    · simp only [h, Ring.stat_two]
  have ha : Gives (readReg a.val) s x s := hx ▸ gives_readReg freeA
  refine ⟨fun freeB => ?bind, qadv_stages ha, qadv_refuses_unbound ha, fun fifo read t ht => ?wait, qstr_stages ha⟩
  case bind =>
    have hb : Gives (readReg b.val) s w s := hw ▸ gives_readReg freeB
    refine ⟨fun accepted fits usable => ?stages, fun accepted fifo n hn beyond => ?beyond, fun accepted glob n h hn hh free bad => ?handle,
      qbind_refuses_format ha hb⟩
    case stages =>
      refine qbind_stages ha hb accepted fits (fun glob => (usable glob).1) fun glob => ?_
      rw [State.bindRing_copy glob]
      exact (usable glob).2
    case beyond =>
      subst hn
      exact qbind_refuses_beyond ha hb accepted fifo beyond
    case handle =>
      subst hn hh
      rw [← State.bindRing_copy glob] at bad
      exact qbind_refuses_handle ha hb accepted glob free bad
  case wait =>
    subst ht
    refine ⟨fun count window pushes => ?passes, fun waits mark => ?waits⟩
    case passes => exact qwait_goes ha ⟨fifo, read⟩ (gives_holdWaiting ((s.qwaitOver_iff _ _).mpr ⟨count, window, pushes⟩) _ _)
    case waits =>
      have short : s.qwaitOver q.val x.toNat = false := by
        rw [Bool.eq_false_iff, Ne, State.qwaitOver_iff]
        rintro ⟨count, window, pushes⟩
        rcases waits with ⟨mode, less⟩ | ⟨mode, less⟩ | ⟨mode, pending | old⟩
        · exact absurd (count mode) (by omega)
        · exact absurd (window mode) (by omega)
        · exact pending (pushes mode).1
        · simp [old] at pushes; exact pushes mode
      exact qwait_goes ha ⟨fifo, read⟩ (gives_holdWaiting_of_false short _ mark)

end Sys2Proof.Machine

/-! O37: a collective whose member list holds a poisoned word (R43, R379). -/

namespace Sys2Proof.Machine

/-- A collective that passes its first check meets the poison of its member list before the other checks (R43, log 102). -/
theorem collCommand_refuses_poison {op : Nat} {iss : Bool} {ord : Fin 16} {d a b : Fin 32} {s : State} {w src dst e : Word} {p : Nat}
    (hd : Gives (readReg d.val) s w s) (ha : Gives (readReg a.val) s src s) (hb : Gives (readReg b.val) s dst s)
    (he : Gives (readReg (b.val + 1)) s e s) (accepted : collOk op w e (s.dev.group (kwGRP w)) = true)
    (poison : s.poisoned (physLocal ((s.dev.group (kwGRP w)).base * 2 ^ 9)) (32 * (s.dev.group (kwGRP w)).members) = some p) :
    collCommand op iss ord d a b s = .next (s.raised .poison (word (s.dev.devId * 2 ^ 47 + p)) false) := by
  refine runSlot_refuses (hd.stops (plain_readReg _) (ha.stops (plain_readReg _) (hb.stops (plain_readReg _) (he.stops (plain_readReg _)
    ((gives_get s).stops plain_get ((gives_check accepted _ _ s).stops (plain_check _ _ _) ?_))))))
  simp only [poison]
  exact (stops_raise _ _ s).bind

/-- The reset state with 7 in s1, and the context as the one member of group 0, whose list lies at 2^29: its first word is poisoned. -/
def poisonedGroup : State := { State.reset with
  ctx := { Ctx.reset with regs := { Ctx.reset.regs with s := Ctx.reset.regs.s.set 1 7 } }
  dev := { Device.reset with
    poison := [2 ^ 23]
    links := { Links.reset with groups := Links.reset.groups.set 0 { n := 0, base := 2 ^ 20, digest := 0 } } } }

theorem poisonedGroup_poisoned : poisonedGroup.poisoned (physLocal ((poisonedGroup.dev.group (kwGRP 7)).base * 2 ^ 9))
    (32 * (poisonedGroup.dev.group (kwGRP 7)).members) = some (2 ^ 29) := by decide

theorem poisonedGroup_poolRoom : poisonedGroup.poolRoom 3 := by unfold State.poolRoom; decide

/-- Refutes O37: the clause on the collectives does not ask that the member list is free of poison. On poisonedGroup, coll.bcast of 7 bits from 0 to 0
meets each of its hypotheses and raises POISON. -/
theorem not_engineCommandSlots : ¬ Obligations.EngineCommandSlots := by
  intro h
  obtain ⟨-, coll, -⟩ := h false 0 1 0 11 poisonedGroup 7 0 0 0 0 _ 0 1 (by decide) (by decide) (by decide) (by decide) (by decide) (by decide) (by decide) (by decide)
    rfl rfl rfl
  have stages := coll _ rfl (by decide) (by decide) (by decide) (by decide) (by decide) (by decide) _ (.inl ⟨poisonedGroup_poolRoom, rfl⟩)
  have refuses : exec (.collBcast false 0 1 0 11) poisonedGroup = .next (poisonedGroup.raised .poison (word (0 * 2 ^ 47 + 2 ^ 29)) false) :=
    collCommand_refuses_poison (w := 7) (gives_readReg rfl) (gives_readReg rfl) (gives_readReg rfl) (gives_readReg rfl) (by decide) poisonedGroup_poisoned
  have same := stages.symm.trans refuses
  injection same with same
  exact absurd (congrArg (fun t : State => t.bundle.mark) same) (by decide)

end Sys2Proof.Machine

/-! O58: the events of the launch queues, of kernels and of groups, each by the operation of its unit. -/

namespace Sys2Proof.Machine

/-! ## Packets at the head of a queue (R238, R239) -/

section
variable {s : State} {q : Nat}

theorem State.onLaunchQueue_of_lt {n : Nat} (h : s.ev.who < n) (f : State → State) : s.onLaunchQueue n f = .next (f s) := if_neg (by omega)

section
variable (ready : s.headReady q = true)
include ready

/-- A bad packet that is ready at the head stops its queue, whatever event takes it (R239). -/
theorem State.takeHead_bad (bad : s.headGood q = false) (type : Nat) (f : State → State) : s.takeHead q type f = s.badPacket q := by
  simp [State.takeHead, ready, bad]

/-- A good packet of its type that is ready at the head is taken by the event (R238). -/
theorem State.takeHead_good (good : s.headGood q = true) {type : Nat} (typed : packetType (s.packet q) = type) (f : State → State) :
    s.takeHead q type f = f s := by
  simp [State.takeHead, ready, good, typed]

end

/-- An event of a queue that the device does not have names no agent. -/
theorem exec_queueEvent_of_le (h : 70 ≤ s.ev.who) (i : Instr) (hi : i ∈ [Instr.nopPacket, .launchPacket, .signalPacket, .signalWrite, .waitPacket,
    .waitPacketRelease, .sendPacket, .sendUnacknowledged]) : exec i s = .fault (.noSuchAgent s.ev.who) := by
  simp only [List.mem_cons, List.not_mem_nil, or_false] at hi
  rcases hi with rfl | rfl | rfl | rfl | rfl | rfl | rfl | rfl
  all_goals exact if_pos (by omega)

section
variable (who : s.ev.who < 70)
include who

theorem exec_nopPacket : exec .nopPacket s = .next (s.takeHead s.ev.who 0 fun t => t.onDev fun d => d.accept s.ev.who none) :=
  if_neg (by omega)

theorem exec_signalPacket : exec .signalPacket s =
    .next (s.takeHead s.ev.who 2 fun t => t.onDev fun d => d.accept s.ev.who (some (t.newPacket s.ev.who none))) := if_neg (by omega)

theorem exec_waitPacket : exec .waitPacket s =
    .next (s.takeHead s.ev.who 3 fun t => t.onDev fun d => d.accept s.ev.who (some (t.newPacket s.ev.who none))) := if_neg (by omega)

theorem exec_signalWrite : exec .signalWrite s =
    .next (if s.ev.sub = 1 then s.signalAnswered s.ev.who s.ev.addr (s.ev.val % 256) else s.signalDue s.ev.who) := if_neg (by omega)

theorem exec_waitPacketRelease : exec .waitPacketRelease s =
    .next (s.waitDue s.ev.who (some (if s.ev.sub = 0 then .ok s.ev.val else .error (refusalOf s.ev.sub)))) := if_neg (by omega)

end

/-- A LAUNCH whose argument block is there, or on this device, is checked and started (R352). -/
theorem exec_launchPacket_starts (who : s.ev.who < 64) (ready : s.headReady s.ev.who = true) (good : s.headGood s.ev.who = true)
    (typed : packetType (s.packet s.ev.who) = 1) (here : s.argWaits s.ev.who = false) : exec .launchPacket s = .next (s.startHead s.ev.who) := by
  change execLaunchPacket s = _
  rw [execLaunchPacket, State.onLaunchQueue_of_lt who, State.takeHead_good ready good typed]
  simp [here]

/-- A LAUNCH that waits for its argument block asks for it, at an event that brings none (R352). -/
theorem exec_launchPacket_asks (who : s.ev.who < 64) (ready : s.headReady s.ev.who = true) (good : s.headGood s.ev.who = true)
    (typed : packetType (s.packet s.ev.who) = 1) (waits : s.argWaits s.ev.who = true) (fine : s.ev.val = 0) (none : s.ev.data = []) :
    exec .launchPacket s = .next (s.askArgs s.ev.who) := by
  change execLaunchPacket s = _
  rw [execLaunchPacket, State.onLaunchQueue_of_lt who, State.takeHead_good ready good typed]
  simp [waits, fine, none]

theorem exec_sendPacket_sends (who : 64 ≤ s.ev.who ∧ s.ev.who < 70) (fresh : s.ev.sub ≠ 1) :
    exec .sendPacket s = .next (s.takeHead s.ev.who 0x10 fun t => t.sendHead s.ev.who) :=
  (if_neg (by omega)).trans (congrArg _ (if_neg fresh))

end

/-! ## A queue that stops (R239) -/

/-- g reads of the device none of the fields that a write of its memory or an error record changes. -/
structure SeesNoWrite {β : Type} (g : Device → β) : Prop where
  log : ∀ d l, g { d with log := l } = g d
  store : ∀ d l, g { d with store := l } = g d
  owned : ∀ d l o, g { d with owned := l, outbox := o } = g d
  written : ∀ d m p r k l, g { d with mem := m, poison := p, reserves := r, marks := k, migs := l } = g d

section
variable {β : Type} {g : Device → β} (h : SeesNoWrite g) (d : Device)
include h

theorem SeesNoWrite.cacheLine (l : Nat) : g (d.cacheLine false l) = g d := by
  unfold Device.cacheLine
  dsimp only
  split <;> exact h.store _ _

theorem SeesNoWrite.backInvalidate (l : Nat) : g (d.backInvalidate l) = g d := by
  unfold Device.backInvalidate
  split
  · exact h.owned _ _ _
  · rfl

theorem SeesNoWrite.merge (a w v : Nat) : g (d.merge a w v) = g d := by
  unfold Device.merge
  split
  · rfl
  · exact (h.written _ _ _ _ _ _).trans (foldl_keeps g h.cacheLine _ _)

theorem SeesNoWrite.put (a w v : Nat) : g (d.put a w v) = g d := (h.merge _ _ _ _).trans (foldl_keeps g h.backInvalidate _ _)

theorem SeesNoWrite.putLog (r : Nat) : g (d.putLog r) = g d := by
  unfold Device.putLog
  split
  · exact h.log _ _
  · exact (h.log _ _).trans (h.put _ _ _ _)

theorem SeesNoWrite.logError (event cause source addr info : Nat) : g (d.logError event cause source addr info) = g d := by
  unfold Device.logError
  dsimp only
  split
  · split <;> exact h.log _ _
  · exact h.putLog _ _

end

theorem seesNoWrite_queues : SeesNoWrite Device.queues := ⟨fun _ _ => rfl, fun _ _ => rfl, fun _ _ _ => rfl, fun _ _ _ _ _ _ => rfl⟩

/-- A queue that stops has its error set and is not enabled. -/
theorem Device.stopQueue_getElem? {d : Device} {q : Nat} {x : LaunchQueue} (h : d.queues[q]? = some x) (index cause : Nat) :
    (d.stopQueue q index cause).queues[q]? = some { x with err := true, en := false } := by
  unfold Device.stopQueue Device.logStop
  rw [seesNoWrite_queues.logError]
  simp [Device.onQueue, h]

/-! ## SIGNAL, WAIT and SEND (R238, R239, R383) -/

section
variable {s : State} {q : Nat}

/-- A SEND whose bytes are of this device and may be read leaves for its peer (R383). -/
theorem State.sendHead_outbox {a n : Nat} (ha : a = (s.packet q).getD 1 0) (hn : n = (s.packet q).getD 2 0) (here : physDev a = s.dev.devId)
    (may : s.physCause .unit a n = none) (clean : s.poisoned (physLocal a) n = none) : (s.sendHead q).dev.outbox = s.dev.outbox ++
      [{ who := 15, sub := q - 64, addr := (s.packet q).getD 4 0, val := s.physRead (physLocal a) n, len := n,
         data := [(s.packet q).getD 3 0 % 2 ^ 48, (s.packet q).getD 5 0, (s.packet q).getD 6 0, (s.dev.queue q).rd] }] := by
  unfold State.sendHead
  simp only [← ha, ← hn, here, ne_eq, not_true_eq_false, if_false, may, clean, Option.map_none, Option.or_none]
  rfl

/-- A signal word that another device has answered is asked for no more, and a refusal stops the queue (R239). -/
theorem State.signalAnswered_eq (s : State) (q index cause : Nat) {d : Device} (hd : d = s.dev.askEnds (fun x => x.kind == 0 && x.n == q && x.k == index) 1) :
    s.signalAnswered q index cause = { s with dev := if cause = 0 then d else d.stopQueue q index cause } := by
  subst hd
  unfold State.signalAnswered
  dsimp only
  split <;> rfl

variable {p : Packet} {l : List Packet} (oldest : (s.dev.queue q).pkts = p :: l)
include oldest

/-- The oldest packet, a SIGNAL, leaves its queue once its word is written; a refusal stops the queue (R238, R239). -/
theorem State.signalDue_eq (signal : packetType p.words = 2) {c : Option Cause} {t : State}
    (writes : s.writeWord q p.index (p.words.getD 1 0) (p.words.getD 2 0) = (c, t)) : s.signalDue q = match c with
      | some c => { t with dev := (t.dev.popPacket q).stopQueue q p.index c.code }
      | none => { t with dev := t.dev.popPacket q } := by
  simp only [State.signalDue, oldest, signal, ne_eq, not_true_eq_false, if_false, writes]
  cases c <;> rfl

/-- A WAIT on a word of this device leaves once the word has reached its value, and else asks anew (R238). -/
theorem State.waitDue_eq (wait : packetType p.words = 3) (here : physDev (p.words.getD 1 0) = s.dev.devId) {v : Nat}
    (reads : s.watchWord (p.words.getD 1 0) = .ok v) (rm : Option (Except Cause Nat)) : s.waitDue q rm =
      if p.words.getD 2 0 ≤ v then { s with dev := s.dev.dropPacket q p.index } else { s with dev := s.dev.asksAnew q p.index } := by
  have first : (s.dev.queue q).pkts.find? (fun p => packetType p.words == 3) = some p := by
    rw [oldest, List.find?_cons_of_pos (by simp [wait])]
  simp only [State.waitDue, first, here, ne_eq, not_true_eq_false, and_false, if_false, reads]
  rfl

end

/-! ## Launches and the arbiter (R352 to R354, R365) -/

section
variable {s : State} {q : Nat}

/-- A LAUNCH that a check refuses stops its queue, with its load status in LQSTAT (R239, R353). -/
theorem State.launch_refused (bad : s.headStatus q ≠ 0) :
    s.launch q = (s.onDev fun d => d.onQueue q fun x => { x with stat := s.headStatus q }).badPacket q := if_pos bad

/-- A LAUNCH that passes its checks is a PENDING kernel of the next number (R354). -/
theorem State.launch_pending (passes : s.headStatus q = 0) : ∃ x, (s.launch q).kernel? s.dev.nextKernel = some x ∧ x.st = .pending ∧ x.queue = q ∧
    x.index = (s.dev.queue q).rd ∧ x.image = (s.packet q).getD 1 0 ∧ x.arg = (s.packet q).getD 2 0 ∧ x.root = (s.packet q).getD 3 0 := by
  unfold State.launch
  dsimp only
  rw [if_neg (not_not.mpr passes)]
  exact ⟨_, State.kernel?_setKernel .., rfl, rfl, rfl, rfl, rfl, rfl⟩

/-- The arbiter serves no queue where launches may not start, or within 64 periods of the last start (R365, R388, R401). -/
theorem State.choice_eq_none (h : s.dev.launching = false ∨ s.dev.mayLaunch = false) : s.choice = none :=
  if_pos (by rcases h with h | h <;> simp [h])

theorem State.arbitrate_of_choice (served : s.choice = some q) : s.arbitrate = (s.countStart q).startQueue q := by
  rw [State.arbitrate, served]

/-- The kernel of a queue that is PENDING is placed. -/
theorem State.startQueue_of_pending {k : Nat} (pending : s.pendingOf q = some k) : s.startQueue q = s.placeKernel k := by
  simp [State.startQueue, pending]

/-- The head of a queue without one is accepted, and placed then. -/
theorem State.startQueue_of_head {k : Nat} (free : s.pendingOf q = none) (pending : (s.launch q).pendingOf q = some k) :
    s.startQueue q = (s.launch q).placeKernel k := by
  simp [State.startQueue, free, pending]

/-- A PENDING kernel with a candidate that fits is loaded there (R354). -/
theorem State.placeKernel_eq {x : Kernel} (kernel : s.kernel? q = some x) (pending : x.st = .pending) {l : List Nat}
    (fits : s.placement (s.placedHead x.image) = some l) :
    s.placeKernel q = s.loadKernel q l ((s.dev.queues.map LaunchQueue.prio).getD x.queue 0) := by
  simp only [State.placeKernel, kernel, pending, ne_eq, not_true_eq_false, if_false, fits]

end

/-! ## Events of a kernel (R354 to R356) -/

section
variable {s : State}

theorem exec_pendingPlacement_of_none (none : s.kernel? s.ev.who = none) : exec .pendingPlacement s = .next s := by
  change execPendingPlacement s = _
  rw [execPendingPlacement, none]

variable {x : Kernel} (kernel : s.kernel? s.ev.who = some x)
include kernel

/-- A kernel that is not LOADING is placed where it is PENDING and the arbiter serves its queue (R365). -/
theorem exec_pendingPlacement_of_ne_loading (st : x.st ≠ .loading) : exec .pendingPlacement s =
    .next (if x.st = .pending ∧ s.choice = some x.queue then (s.countStart x.queue).startQueue x.queue else s) := by
  change execPendingPlacement s = _
  rw [execPendingPlacement, kernel]
  simp only [st, if_false]
  split
  case isTrue served => rw [State.arbitrate_of_choice served.2]
  case isFalse => rfl

theorem exec_pendingPlacement_of_loading (st : x.st = .loading) :
    exec .pendingPlacement s = .next (s.answered s.ev.who x s.ev.len s.ev.sub (s.ev.val % 256)) := by
  change execPendingPlacement s = _
  rw [execPendingPlacement, kernel]
  simp only [st, if_true]

/-- KERNEL_RELEASE releases a kernel that is LOADED at its tick, but not in retention entry (R356, R401). -/
theorem exec_kernelRelease : exec .kernelRelease s =
    .next (if x.st = .loaded ∧ s.dev.power.retStep = 0 ∧ x.tick.any (· ≤ s.dev.ref) then s.release s.ev.who x else s) := by
  change execKernelRelease s = _
  rw [execKernelRelease, kernel]

end

/-! ## Groups (R361, R362) -/

section
variable {s : State} {k g : Nat} {x : Kernel} (mine : s.myKernel = some (k, x)) (st : s.ctx.st = .waiting) (wait : s.ctx.wait = .group)
  (idle : s.ctx.group.active = false) (running : x.st = .running)
include mine st wait idle running

/-- A context that waits for a group gets the next one that the walker deals to its logical core, with the presets (R361). -/
theorem State.dispatchGroup_walker (next : x.nextGroup s.ctx.lcore = some (g, none)) : s.dispatchGroup.ctx =
    { s.ctx.clearWait.dispatch g (x.coords g) x.arg 0 false with st := .ready } := by
  unfold State.dispatchGroup
  rw [mine]
  dsimp only
  rw [if_neg (by simp [st, wait, idle, running]), next]
  rfl

/-- Or the next one that a group spawned, with its payload (R361, R364). -/
theorem State.dispatchGroup_spawned {v : Word} (next : x.nextGroup s.ctx.lcore = some (g, some v)) : s.dispatchGroup.ctx =
    { s.ctx.clearWait.dispatch g [] x.arg v true with st := .ready } := by
  unfold State.dispatchGroup
  rw [mine]
  dsimp only
  rw [if_neg (by simp [st, wait, idle, running]), next]
  rfl

end

/-- The group of a context ends; its registers stay (R362). -/
theorem State.completeGroup_ctx (s : State) : s.completeGroup.ctx = { s.ctx with group := { s.ctx.group with active := false, exited := false } } := by
  unfold State.completeGroup
  dsimp only
  split <;> rfl

/-- Settles O58: each event and each operation by its lemma, in the order of the statement. -/
theorem launchEventsComplete : Obligations.LaunchEventsComplete := by
  rintro s q rfl
  refine ⟨fun who ready => ⟨fun bad => ?bad, fun good => ⟨fun typed => ?nop, fun typed who => ⟨exec_launchPacket_starts who ready good typed,
        exec_launchPacket_asks who ready good typed⟩, fun typed => ?signal, fun typed => ?wait, fun typed low fresh => ?send⟩⟩,
    fun low high => ⟨fun acknowledged => ?acknowledged, if_neg (by omega)⟩,
    fun who => ⟨?signalWrite, exec_waitPacketRelease who⟩,
    exec_queueEvent_of_le,
    fun l d hl bad hd => ?refused,
    fun x queue => Device.stopQueue_getElem? queue _ _,
    fun a n ha hn here may clean => State.sendHead_outbox ha hn here may clean,
    fun p l oldest typed => ⟨fun t writes => State.signalDue_eq oldest typed writes, fun t c writes => State.signalDue_eq oldest typed writes⟩,
    fun p l v rm oldest typed here reads => State.waitDue_eq oldest typed here reads rm,
    exec_pendingPlacement_of_none,
    fun x kernel => ⟨exec_pendingPlacement_of_ne_loading kernel, fun ends hends => ?answered⟩,
    State.choice_eq_none,
    fun stopped => ?stopped,
    fun served => (if_pos served).trans (State.arbitrate_of_choice served),
    fun other launching refused => (if_neg other).trans (if_pos ⟨launching, refused⟩),
    fun other passes fits => (if_neg other).trans (if_neg (by simp [passes, fits])),
    fun k pending => State.startQueue_of_pending pending,
    fun k t free ht pending => ?head,
    State.launch_pending,
    fun x kernel pending l fits => State.placeKernel_eq kernel pending fits,
    fun x kernel loaded => ⟨fun n tick awake due => ?released, fun asleep => ?asleep, fun n tick early => ?early⟩,
    fun who => ⟨State.onCommand_of_lt who _, State.onCommand_of_lt who _⟩,
    fun k x g mine st wait idle running next t ht => ?walker,
    fun k x g v mine st wait idle running next t ht => ?spawned,
    ?ends⟩
  case bad =>
    have stops := State.takeHead_bad ready bad
    exact ⟨by rw [exec_nopPacket who, stops], by rw [exec_signalPacket who, stops], by rw [exec_waitPacket who, stops]⟩
  case nop => exact (exec_nopPacket who).trans (congrArg _ (State.takeHead_good ready good typed _))
  case signal => exact (exec_signalPacket who).trans (congrArg _ (State.takeHead_good ready good typed _))
  case wait => exact (exec_waitPacket who).trans (congrArg _ (State.takeHead_good ready good typed _))
  case send => rw [exec_sendPacket_sends ⟨low, who⟩ fresh, State.takeHead_good ready good typed]
  case acknowledged => exact (if_neg (by omega)).trans (congrArg _ (if_pos acknowledged))
  case signalWrite =>
    rw [exec_signalWrite who, ite_not, State.signalAnswered_eq s _ _ _ rfl]
  case refused =>
    subst hl hd
    exact State.launch_refused bad
  case answered =>
    obtain rfl : ends = fun n => s.onDev fun d => d.askEnds (fun y => y.kind == 1 && y.n == s.ev.who) n := funext hends
    refine ⟨fun st bad => ?aborts, fun st fine some => ?rest, fun st fine last => ?loaded⟩
    all_goals rw [exec_pendingPlacement_of_loading kernel st, State.answered_eq]
    case aborts => exact congrArg _ (if_pos bad)
    case rest => exact congrArg _ ((if_neg (not_not.mpr fine)).trans (if_neg (by omega)))
    case loaded => exact congrArg _ ((if_neg (not_not.mpr fine)).trans (if_pos last))
  case stopped =>
    refine (if_neg ?_).trans (if_neg (by simp [stopped]))
    simp [State.choice_eq_none (.inl stopped)]
  case head =>
    subst ht
    exact State.startQueue_of_head free pending
  case released => rw [exec_kernelRelease kernel, if_pos ⟨loaded, awake, by simpa [tick] using due⟩]
  case asleep => rw [exec_kernelRelease kernel, if_neg (by rcases asleep with h | h <;> simp [h])]
  case early => rw [exec_kernelRelease kernel, if_neg (by simp [tick, early])]
  case walker =>
    subst ht
    rw [State.dispatchGroup_walker mine st wait idle running next]
    exact ⟨rfl, rfl, rfl, rfl, rfl⟩
  case spawned =>
    subst ht
    rw [State.dispatchGroup_spawned mine st wait idle running next]
    exact ⟨rfl, rfl, rfl⟩
  case ends =>
    rw [State.completeGroup_ctx]
    exact ⟨rfl, rfl⟩

end Sys2Proof.Machine

/-! O24: how a barrier arrives, passes and goes to ERROR. -/

namespace Sys2Proof.Machine

/-! ## Arrivals (R243, R244) -/

theorem Barrier.armed_iff (b : Barrier) : b.armed = true ↔ b.state = 1 := beq_iff_eq

/-- An arrival on an ARMED barrier: the phase bit flips once for each phase it completes. -/
theorem Barrier.arrive_of_armed {b : Barrier} (armed : b.state = 1) (positive : 0 < b.target) (n : Nat) :
    b.arrive n = ({ b with count := (b.count + n) % b.target, phase := b.phase ^^ decide ((b.count + n) / b.target % 2 = 1),
                           epoch := (b.epoch + (b.count + n) / b.target) % 2 ^ 16 }, (b.count + n) / b.target) := by
  have flips : ∀ k : Nat, (if k % 2 = 1 then !b.phase else b.phase) = (b.phase ^^ decide (k % 2 = 1)) := fun k => by
    by_cases odd : k % 2 = 1 <;> simp [odd]
  rw [← flips]
  exact if_pos ⟨b.armed_iff.mpr armed, positive.ne'⟩

theorem Barrier.arrive_of_not_armed {b : Barrier} (idle : b.state ≠ 1) (n : Nat) : b.arrive n = (b, 0) :=
  if_neg fun h => idle (b.armed_iff.mp h.1)

/-! ## Passed (R248) -/

/-- Without E a descriptor passes when the phase bit differs from its own. -/
theorem Barrier.passed_phase (b : Barrier) {d : Word} (plain : d.getLsbD 17 = false) : b.passed d = true ↔ b.phase ≠ d.getLsbD 16 := by
  simp only [Barrier.passed, bitAt_toNat, plain, Bool.not_false, if_true, bne_iff_ne]

/-- With E it passes when the epoch is 1 to 2^15 - 1 phases past EV, modulo 2^16. -/
theorem Barrier.passed_epoch (b : Barrier) {d : Word} (withE : d.getLsbD 17 = true) : b.passed d = true ↔
    1 ≤ (b.epoch + 2 ^ 16 - bits d.toNat 32 16) % 2 ^ 16 ∧ (b.epoch + 2 ^ 16 - bits d.toNat 32 16) % 2 ^ 16 ≤ 2 ^ 15 - 1 := by
  simp only [Barrier.passed, bitAt_toNat, withE, Bool.not_true, Bool.false_eq_true, if_false, Bool.and_eq_true, decide_eq_true_eq]

/-- The distance from v up to e modulo 2^16 is the number that leads from v to e. -/
theorem epoch_ahead_iff {e v : Nat} (he : e < 2 ^ 16) (hv : v < 2 ^ 16) :
    (1 ≤ (e + 2 ^ 16 - v) % 2 ^ 16 ∧ (e + 2 ^ 16 - v) % 2 ^ 16 ≤ 2 ^ 15 - 1) ↔ ∃ k, 1 ≤ k ∧ k ≤ 2 ^ 15 - 1 ∧ e = (v + k) % 2 ^ 16 := by
  constructor
  · exact fun ⟨low, high⟩ => ⟨(e + 2 ^ 16 - v) % 2 ^ 16, low, high, by omega⟩
  · rintro ⟨k, low, high, reached⟩
    omega

/-! ## A command that ends in error (Table 11.3 rows 2 and 3) -/

@[simp] theorem State.barrier_setBarrier (s : State) (n : Nat) (b : Barrier) : (s.setBarrier n b).barrier n = b := by
  by_cases core : barIsCore n = true <;> simp [State.setBarrier, State.barrier, core, assoc?_assocSet]

@[simp] theorem State.setBarrier_ctx (s : State) (n : Nat) (b : Barrier) : (s.setBarrier n b).ctx = s.ctx := by
  unfold State.setBarrier
  split <;> rfl

@[simp] theorem State.barrier_mapWaiters (s : State) (n m : Nat) (f : Ctx → Ctx) : (s.mapWaiters n f).barrier m = s.barrier m := by
  unfold State.mapWaiters
  split <;> rfl

@[simp] theorem State.mapWaiters_ctx (s : State) (n : Nat) (f : Ctx → Ctx) : (s.mapWaiters n f).ctx = f s.ctx := by
  unfold State.mapWaiters
  split <;> rfl

/-- Every waiter registered at the barrier is released. -/
theorem Ctx.mem_released_releaseError {c : Ctx} {num : Nat} {d : Word} (waits : (num, d) ∈ c.barWait) : d ∈ (c.releaseError num).released :=
  List.mem_append_right _ (List.mem_map_of_mem (List.mem_filter.mpr ⟨waits, beq_self_eq_true num⟩))

section
variable {s : State} {num : Nat} (cause : Nat)

theorem State.barrierError_of_not_armed (idle : (s.barrier num).state ≠ 1) : s.barrierError num cause = s :=
  if_neg (mt (Barrier.armed_iff _).mp idle)

theorem State.barrierError_of_armed (armed : (s.barrier num).state = 1) : s.barrierError num cause =
    (s.setBarrier num { s.barrier num with state := 2, cause := cause }).mapWaiters num fun c => c.releaseError num :=
  if_pos ((Barrier.armed_iff _).mpr armed)

end

/-- Settles O24: each row of Table 11.3 and each form of Passed by its lemma. -/
theorem barrierTransitions : Obligations.BarrierTransitions := by
  refine ⟨fun b n armed positive _ => Barrier.arrive_of_armed armed positive n, fun b n idle => Barrier.arrive_of_not_armed idle n, fun _ _ => rfl,
    fun b d plain => b.passed_phase plain, ?epoch, fun s num cause idle => State.barrierError_of_not_armed cause idle, ?error⟩
  case epoch =>
    rintro b d _ withE rfl he
    exact (b.passed_epoch withE).trans (epoch_ahead_iff he (Nat.mod_lt _ (by decide)))
  case error =>
    intro s num cause _ armed
    rw [State.barrierError_of_armed cause armed]
    exact ⟨by simp, fun d waits => by simpa using Ctx.mem_released_releaseError waits⟩

end Sys2Proof.Machine

/-! The lanes of vectors and masks (R310): the lists of lanes that the slots work on, read lane by lane. -/

namespace Sys2Proof.Machine

/-! ## Lanes as lists -/

theorem length_chunks (w n x : Nat) : (chunks w n x).length = n := by
  induction n generalizing x with
  | zero => rfl
  | succ n ih => rw [chunks, List.length_cons, ih]

theorem chunks_eq_map (w n x : Nat) : chunks w n x = (List.range n).map fun i => bits x (w * i) w := by
  refine List.ext_getElem? fun i => ?_
  by_cases h : i < n
  · rw [getElem?_chunks w x h, List.getElem?_map, List.getElem?_range h, Option.map_some]
  · rw [List.getElem?_eq_none (by simpa [length_chunks] using h), List.getElem?_eq_none (by simpa using h)]

theorem toNat_laneB (e : Bool) (x : Wide) (i : Nat) : (laneB e x i).toNat = bits x.toNat (bitsIn e * i) (bitsIn e) := by
  rw [laneB, BitVec.extractLsb'_toNat, Nat.shiftRight_eq_div_pow, bits]

theorem lanesOf_eq_map (e : Bool) (x : Wide) : lanesOf e x = (List.range (lanesIn e)).map fun i => (laneB e x i).toNat := by
  simp only [toNat_laneB]
  cases e <;> exact chunks_eq_map ..

/-- Lane i of a vector put together from its lanes. -/
theorem toNat_laneB_ofLanes {e : Bool} {f : Nat → Nat} {i : Nat} (h : i < lanesIn e) (small : f i < 2 ^ bitsIn e) :
    (laneB e (ofLanes e ((List.range (lanesIn e)).map f)) i).toNat = f i := by
  rw [toNat_laneB, bits, Nat.mul_comm, lane_ofLanes h small]

theorem mapIdx_map_range {α β : Type} (f : Nat → α → β) (g : Nat → α) (n : Nat) :
    ((List.range n).map g).mapIdx f = (List.range n).map fun i => f i (g i) := by
  refine List.ext_getElem (by simp) fun i _ _ => by simp

/-! ## Flags (R54) -/

theorem bitAt_orFlags (l : List Nat) (k : Nat) : bitAt (orFlags l) k = true ↔ ∃ x ∈ l, bitAt x k = true := by
  have fold (m : Nat) : (l.foldl (fun a b => a ||| b) m).testBit k = (m.testBit k || l.any fun x => x.testBit k) := by
    induction l generalizing m with
    | nil => simp
    | cons x l ih => simp [ih, Nat.testBit_or, Bool.or_assoc]
  simp [orFlags, bitAt_eq_testBit, fold]

/-- The flags of the results r together. -/
theorem bitAt_orFlags_map_range {α : Type} (r : Nat → α × Nat) (n k : Nat) :
    bitAt (orFlags (((List.range n).map r).map Prod.snd)) k = true ↔ ∃ i < n, bitAt (r i).2 k = true := by
  simp [bitAt_orFlags]

/-- The vector of the lane results r, and their flags together. -/
theorem lanesAre_map_range {e : Bool} {r : Nat → Nat × Nat} (small : ∀ i, (r i).1 < 2 ^ bitsIn e) :
    LanesAre e (ofLanes e (((List.range (lanesIn e)).map r).map Prod.fst)) (orFlags (((List.range (lanesIn e)).map r).map Prod.snd)) r := by
  refine ⟨fun i h => ?_, bitAt_orFlags_map_range r _⟩
  rw [List.map_map]
  exact toNat_laneB_ofLanes h (small i)

/-! ## Masks (R315, R316) -/

theorem testBit_maskOf (l : List Bool) (i : Nat) : (maskOf l).testBit i = l.getD i false := by
  unfold maskOf
  induction l generalizing i with
  | nil => simp [unchunks]
  | cons c l ih =>
    have bit : c.toNat % 2 ^ 1 = c.toNat := Nat.mod_eq_of_lt c.toNat_lt
    rw [List.map_cons, unchunks, bit]
    cases i with
    | zero => cases c <;> simp
    | succ i =>
      rw [Nat.testBit_succ, List.getD_cons_succ, ← ih, Nat.pow_one, Nat.add_mul_div_left _ _ (by decide), Nat.div_eq_of_lt c.toNat_lt, Nat.zero_add]

theorem maskOf_lt (l : List Bool) : maskOf l < 2 ^ l.length := by
  simpa [maskOf] using unchunks_lt 1 (l.map Bool.toNat)

/-- The mask of the lane conditions c is a word, whose value is the result that its slot stages. -/
theorem maskIs_map_range (e : Bool) (c : Nat → Bool) :
    (word (maskOf ((List.range (lanesIn e)).map c))).toNat = maskOf ((List.range (lanesIn e)).map c) ∧
      MaskIs e (word (maskOf ((List.range (lanesIn e)).map c))) c := by
  have few : lanesIn e ≤ 64 := by cases e <;> decide
  have fits : maskOf ((List.range (lanesIn e)).map c) < 2 ^ 64 := by
    simpa using (maskOf_lt ((List.range (lanesIn e)).map c)).trans_le (Nat.pow_le_pow_right (by decide) (by simpa using few))
  refine ⟨Nat.mod_eq_of_lt fits, fun i h => ?_⟩
  rw [word, BitVec.getLsbD_ofNat, testBit_maskOf]
  by_cases inside : i < lanesIn e <;> simp [h, inside, List.getD_eq_getElem?_getD]

/-! ## The encodings of RoundTo (R52) -/

section
variable (f : FloatFmt)

theorem FloatFmt.width_eq : (FloatFmt.spec f).width = 1 + ((FloatFmt.spec f).eb + (FloatFmt.spec f).fb) := Nat.add_assoc ..

theorem FloatFmt.width_le : (FloatFmt.spec f).width ≤ bitsIn (FloatFmt.is32 f) := by cases f <;> decide

theorem FloatFmt.nan_lt : (FloatFmt.spec f).nan < 2 ^ ((FloatFmt.spec f).eb + (FloatFmt.spec f).fb) := by cases f <;> decide

theorem FloatFmt.nan_lt_width : (FloatFmt.spec f).nan < 2 ^ (FloatFmt.spec f).width :=
  (FloatFmt.nan_lt f).trans_le (Nat.pow_le_pow_right (by decide) (FloatFmt.width_eq f ▸ Nat.le_add_left _ 1))

theorem FloatFmt.maxFinite_lt : (FloatFmt.spec f).maxFinite < 2 ^ ((FloatFmt.spec f).eb + (FloatFmt.spec f).fb) := by cases f <;> decide

theorem FloatSpec.encodeMag_lt {sp : FloatSpec} (finite : sp.maxFinite < 2 ^ (sp.eb + sp.fb)) {m v : Nat} {q : Int} (h : sp.encodeMag m q = some v) :
    v < 2 ^ (sp.eb + sp.fb) := by
  unfold FloatSpec.encodeMag at h
  extract_lets n e x at h
  split at h
  · next low => exact Option.some.inj h ▸ low.trans_le (Nat.pow_le_pow_right (by decide) (Nat.le_add_left ..))
  · split at h
    · cases h
    · next inside => exact Option.some.inj h ▸ (Nat.le_of_not_lt inside).trans_lt finite

theorem FloatFmt.sign_add_lt (neg : Bool) {m : Nat} (h : m < 2 ^ ((FloatFmt.spec f).eb + (FloatFmt.spec f).fb)) :
    (FloatFmt.spec f).sign neg + m < 2 ^ (FloatFmt.spec f).width := by
  rw [FloatFmt.width_eq, Nat.pow_add]
  unfold FloatSpec.sign
  split <;> omega

/-- RoundTo answers an encoding of its format. -/
theorem FloatFmt.roundTo_lt (mode : Nat) (x : Exact) (r : Nat) : (roundTo (FloatFmt.spec f) mode x r).1 < 2 ^ (FloatFmt.spec f).width := by
  have unsigned {m : Nat} (h : m < 2 ^ ((FloatFmt.spec f).eb + (FloatFmt.spec f).fb)) : m < 2 ^ (FloatFmt.spec f).width := by
    simpa [FloatSpec.sign] using FloatFmt.sign_add_lt f false h
  have nan := FloatFmt.nan_lt_width f
  have inf (neg : Bool) : (FloatFmt.spec f).inf neg < 2 ^ (FloatFmt.spec f).width := FloatFmt.sign_add_lt f neg (by cases f <;> decide)
  unfold roundTo
  split
  · exact nan
  · split
    · exact nan
    · exact inf _
  · next neg num den =>
    split
    · exact FloatFmt.sign_add_lt f neg (Nat.two_pow_pos _)
    · extract_lets
      split
      · next h => exact FloatFmt.sign_add_lt f neg (FloatSpec.encodeMag_lt (FloatFmt.maxFinite_lt f) h)
      · split_ifs
        · exact FloatFmt.sign_add_lt f neg (FloatFmt.maxFinite_lt f)
        · exact nan
        · exact inf neg

/-- An encoding lies in its lane. -/
theorem FloatFmt.lt_lane {x : Nat} (h : x < 2 ^ (FloatFmt.spec f).width) : x < 2 ^ bitsIn (FloatFmt.is32 f) :=
  h.trans_le (Nat.pow_le_pow_right (by decide) (FloatFmt.width_le f))

end

end Sys2Proof.Machine

/-! O25: the float arithmetic lanes (R312, R313). -/

namespace Sys2Proof.Machine

theorem floatLat_eq (f : FloatFmt) : floatLat f = FloatFmt.lat f := rfl

/-- A slot of two vector sources whose lane results are encodings stages them with the flags of all lanes. -/
theorem floatLanes2_stages {f : FloatFmt} {op : Nat → Nat → Nat × Nat} {d : Dst} {a b : Src} {s t u : State} {x y : Wide}
    (small : ∀ p q, (op p q).1 < 2 ^ (FloatFmt.spec f).width) (ha : Gives (readV a) s x t) (hb : Gives (readV b) t y u) (hd : Gives (readyV d) u () u) :
    ∃ v fl, floatLanes2 f op d a b s = u.stages [u.vOf d (floatLat f) v (raising fl)] ∧
      LanesAre (FloatFmt.is32 f) v fl fun i => op (laneB (FloatFmt.is32 f) x i).toNat (laneB (FloatFmt.is32 f) y i).toNat := by
  refine ⟨_, _, runSlot_gives (ha.bind (hb.bind (hd.bind (gives_putV d (floatLat f) _ _ u)))), ?_⟩
  rw [lanesOf_eq_map, lanesOf_eq_map, List.zipWith_map, List.zipWith_self]
  exact lanesAre_map_range fun i => FloatFmt.lt_lane f (small _ _)

theorem FloatFmt.round_lt (f : FloatFmt) (mode : Nat) (x : Exact × Nat) : (FloatFmt.round f mode x).1 < 2 ^ (FloatFmt.spec f).width :=
  FloatFmt.roundTo_lt f mode x.1 0

theorem floatFused_stages {f : FloatFmt} {rm : Rnd} {np na : Bool} {d : Fin 32} {a b : Src} {s t u : State} {x y z : Wide}
    (ha : Gives (readV a) s x t) (hb : Gives (readV b) t y u) (hz : Gives (readVReg d.val) u z u) (hd : Gives (readyDest (.v d.val)) u () u) :
    ∃ v fl, floatFused f rm np na d a b s = u.stages [u.resultOf (.v d.val) (floatLat f) 0 (BitVec.toNat v) (raising fl)] ∧
      LanesAre (FloatFmt.is32 f) v fl fun i => FloatFmt.round f (u.laneMode rm) (realFma (u.laneMode rm == 4)
        (if np then (laneF f x i).negate else laneF f x i) (laneF f y i) (if na then (laneF f z i).negate else laneF f z i)) := by
  refine ⟨_, _, runSlot_gives (ha.bind (hb.bind (hz.bind (hd.bind ((gives_get u).bind (gives_putDest _ (floatLat f) _ _ u)))))), ?_⟩
  rw [lanesOf_eq_map, lanesOf_eq_map, lanesOf_eq_map, List.zip_eq_zipWith, List.zipWith_map, List.zipWith_self, List.zipWith_map, List.zipWith_self]
  exact lanesAre_map_range fun i => FloatFmt.lt_lane f (FloatFmt.round_lt ..)

/-- Settles O25: the slots of two sources are floatLanes2, the fused ones floatFused with the signs they change. -/
theorem floatArithmeticLanes : Obligations.FloatArithmeticLanes := by
  refine fun f rm d vd a b s t u x y z ha hb => ⟨fun hd => ?two, fun hz hd => ?fused⟩
  case two =>
    simp only [List.forall_mem_cons, List.not_mem_nil, false_imp_iff, implies_true, and_true]
    have lanes := fun op : Nat → Nat → Exact × Nat => floatLanes2_stages (f := f) (op := fun p q => FloatFmt.round f (s.laneMode rm) (op p q))
      (fun _ _ => FloatFmt.round_lt ..) ha hb hd
    exact ⟨lanes _, lanes _, lanes _⟩
  case fused =>
    simp only [List.forall_mem_cons, List.not_mem_nil, false_imp_iff, implies_true, and_true]
    have lanes := fun np na => floatFused_stages (f := f) (rm := rm) (np := np) (na := na) ha hb hz hd
    exact ⟨lanes false false, lanes false true, lanes true false⟩

end Sys2Proof.Machine

/-! O26: the float selections and compares (R314, R315). -/

namespace Sys2Proof.Machine

/-- A slot of one vector source whose lane results fit their lanes stages them, with no flag. -/
theorem lanes1_stages {w : Bool} {op : Nat → Nat} {lat : Nat} {d : Dst} {a : Src} {s t : State} {x : Wide} (small : ∀ n, op n < 2 ^ bitsIn w)
    (ha : Gives (readV a) s x t) (hd : Gives (readyV d) t () t) :
    ∃ v, lanes1 w op lat d a s = t.stages [t.vOf d lat v 0] ∧ ∀ i < lanesIn w, (laneB w v i).toNat = op (laneB w x i).toNat := by
  refine ⟨_, runSlot_gives (ha.bind (hd.bind (gives_putV d lat _ 0 t))), fun i h => ?_⟩
  rw [lanesOf_eq_map, List.map_map]
  exact toNat_laneB_ofLanes h (small _)

/-! ## Signs and choices (R314) -/

/-- fabs and fneg by the encoding of the element: its magnitude, with the sign bit where fneg meets a clear one. -/
theorem floatSign_eq (f : FloatFmt) (flip : Bool) (n : Nat) {e w : Nat} (hw : w = (FloatFmt.spec f).width) (he : e = n % 2 ^ w) :
    floatSign f flip n = if (FloatFmt.value f n).isNan then (FloatFmt.spec f).nan
      else e % 2 ^ (w - 1) + (if flip = true ∧ e < 2 ^ (w - 1) then 2 ^ (w - 1) else 0) := by
  obtain ⟨k, rfl⟩ : ∃ k, w = k + 1 := ⟨_, hw.trans ((FloatFmt.width_eq f).trans (Nat.add_comm ..))⟩
  have magnitude : e % 2 ^ k = n % 2 ^ k := he ▸ Nat.mod_mod_of_dvd n (Nat.pow_dvd_pow 2 (Nat.le_succ k))
  have sign : (!bitAt n k) = decide (e < 2 ^ k) := by
    rw [he, Nat.mod_pow_succ, bitAt]
    have low := Nat.mod_lt n (Nat.two_pow_pos k)
    rcases Nat.mod_two_eq_zero_or_one (n / 2 ^ k) with h | h <;> simp [h, low]
  unfold floatSign
  dsimp only
  rw [← hw, Nat.add_sub_cancel, magnitude, sign]
  by_cases flips : flip = true ∧ e < 2 ^ k
  · simp [flips]
  · rw [if_neg flips, Nat.add_zero, if_neg (c := (flip && decide (e < 2 ^ k)) = true) (by simpa using flips)]

theorem floatSign_lt (f : FloatFmt) (flip : Bool) (n : Nat) : floatSign f flip n < 2 ^ (FloatFmt.spec f).width := by
  rw [floatSign_eq f flip n rfl rfl]
  have sign : (FloatFmt.spec f).width - 1 = (FloatFmt.spec f).eb + (FloatFmt.spec f).fb := by rw [FloatFmt.width_eq, Nat.add_sub_cancel_left]
  rw [sign]
  have low := Nat.mod_lt (n % 2 ^ (FloatFmt.spec f).width) (Nat.two_pow_pos ((FloatFmt.spec f).eb + (FloatFmt.spec f).fb))
  have nan := FloatFmt.nan_lt f
  rw [FloatFmt.width_eq, Nat.pow_add]
  rw [FloatFmt.width_eq] at low
  split_ifs <;> omega

/-- fmin and fmax choose an operand, which they deliver as it is encoded. -/
theorem floatPick_eq (f : FloatFmt) (greater : Bool) (p q : Nat) :
    floatPick f greater p q = if (FloatFmt.value f p).isNan || (FloatFmt.value f q).isNan
      then ((FloatFmt.spec f).nan, (FloatFmt.value f p).ivOf ||| (FloatFmt.value f q).ivOf)
      else ((if (floatBelow (FloatFmt.value f p) (FloatFmt.value f q) ^^ greater) = true then p else q) % 2 ^ (FloatFmt.spec f).width, 0) := by
  unfold floatPick
  dsimp only
  split
  · rfl
  · exact (apply_ite (fun n => (n % 2 ^ (FloatFmt.spec f).width, 0)) ..).symm

theorem floatPick_lt (f : FloatFmt) (greater : Bool) (p q : Nat) : (floatPick f greater p q).1 < 2 ^ (FloatFmt.spec f).width := by
  rw [floatPick_eq]
  split
  · exact FloatFmt.nan_lt_width f
  · exact Nat.mod_lt _ (Nat.two_pow_pos _)

/-! ## Compares (R315) -/

/-- The flags of an operand say only that it is a signalling NaN. -/
theorem bitAt_ivOf (x : Exact) (k : Nat) : bitAt x.ivOf k = true ↔ k = 4 ∧ x = .nan true := by
  have bit : bitAt 16 k = true ↔ k = 4 := by
    rw [bitAt_eq_testBit, show 16 = 2 ^ 4 from rfl, Nat.testBit_two_pow, decide_eq_true_iff, eq_comm]
  have none : ¬ bitAt 0 k = true := by simp [bitAt]
  unfold Exact.ivOf
  split
  · simp [bit]
  · next other => exact iff_of_false none fun h => other h.2

theorem bitAt_or (a b k : Nat) : bitAt (a ||| b) k = (bitAt a k || bitAt b k) := by simp only [bitAt_eq_testBit, Nat.testBit_or]

theorem floatCmp_stages {f : FloatFmt} {rel : Exact → Exact → Bool} {md : Fin 8} {a b : Src} {s t u : State} {x y : Wide}
    (ha : Gives (readV a) s x t) (hb : Gives (readV b) t y u) (free : u.ctx.busyWrite (.m md.val) = false) :
    ∃ (m : Word) (fl : Nat), floatCmp f rel md a b s = u.stages [u.resultOf (.m md.val) (floatLat f) 0 m.toNat (raising fl)] ∧
      MaskIs (FloatFmt.is32 f) m (fun i => rel (laneF f x i) (laneF f y i)) ∧
      ∀ k, bitAt fl k = true ↔ k = 4 ∧ ∃ i < lanesIn (FloatFmt.is32 f), laneF f x i = .nan true ∨ laneF f y i = .nan true := by
  obtain ⟨value, mask⟩ := maskIs_map_range (FloatFmt.is32 f) fun i => rel (laneF f x i) (laneF f y i)
  let fl := orFlags ((List.range (lanesIn (FloatFmt.is32 f))).map fun i => (laneF f x i).ivOf ||| (laneF f y i).ivOf)
  refine ⟨_, fl, ?_, mask, fun k => ?_⟩
  · have pairs : List.zip ((lanesOf (FloatFmt.is32 f) x).map (FloatFmt.value f)) ((lanesOf (FloatFmt.is32 f) y).map (FloatFmt.value f)) =
        (List.range (lanesIn (FloatFmt.is32 f))).map fun i => (laneF f x i, laneF f y i) := by
      rw [lanesOf_eq_map, lanesOf_eq_map, List.map_map, List.map_map, List.zip_eq_zipWith, List.zipWith_map, List.zipWith_self]
      rfl
    refine runSlot_gives (ha.bind (hb.bind ((gives_readyDest free).bind ?_)))
    simp only [pairs, List.map_map, value]
    exact gives_putDest ..
  · simp only [fl, bitAt_orFlags, List.mem_map, List.mem_range, exists_exists_and_eq_and, bitAt_or, Bool.or_eq_true, bitAt_ivOf]
    constructor
    · rintro ⟨i, h, ⟨rfl, nan⟩ | ⟨rfl, nan⟩⟩
      exacts [⟨rfl, i, h, .inl nan⟩, ⟨rfl, i, h, .inr nan⟩]
    · rintro ⟨rfl, i, h, nan | nan⟩
      exacts [⟨i, h, .inl ⟨rfl, nan⟩⟩, ⟨i, h, .inr ⟨rfl, nan⟩⟩]

theorem realLt_of_nan {p q : Exact} (h : p.isNan = true ∨ q.isNan = true) : realLt p q = false := by
  cases p <;> cases q <;> simp_all [Exact.isNan, realLt]

theorem realEq_of_nan {p q : Exact} (h : p.isNan = true ∨ q.isNan = true) : realEq p q = false := by
  rcases h with h | h <;> simp [realEq, h]

theorem realEq_zeros (n m : Bool) (k l : Nat) : realEq (.fin n 0 k) (.fin m 0 l) = true := by simp [realEq, realLt, Exact.isNan]

/-- Settles O26: fabs and fneg are lanes1 of a sign, fmin and fmax floatLanes2 of a choice, each compare floatCmp of its relation. -/
theorem floatSelectionsAndCompares : Obligations.FloatSelectionsAndCompares := by
  refine fun f d md a b s t u x y w hw ha => ⟨fun hd => ?signs, fun hb => ⟨fun hd => ?picks, fun free => ?compares⟩,
    fun p q nan => ⟨realEq_of_nan nan, realLt_of_nan nan⟩, realEq_zeros⟩
  case signs =>
    have lanes (flip : Bool) : ∃ v, lanes1 (FloatFmt.is32 f) (floatSign f flip) (floatLat f) d a s = t.stages [t.vOf d (floatLat f) v 0] ∧
        ∀ i < lanesIn (FloatFmt.is32 f), ∀ e, e = (laneB (FloatFmt.is32 f) x i).toNat % 2 ^ w →
          (laneB (FloatFmt.is32 f) v i).toNat = if (laneF f x i).isNan then (FloatFmt.spec f).nan
            else e % 2 ^ (w - 1) + (if flip = true ∧ e < 2 ^ (w - 1) then 2 ^ (w - 1) else 0) := by
      obtain ⟨v, out, vals⟩ := lanes1_stages (lat := floatLat f) (fun n => FloatFmt.lt_lane f (floatSign_lt f flip n)) ha hd
      exact ⟨v, out, fun i h e he => (vals i h).trans (floatSign_eq f flip _ hw he)⟩
    exact List.forall_mem_cons.mpr ⟨lanes false, List.forall_mem_singleton.mpr (lanes true)⟩
  case picks =>
    subst hw
    have lanes (greater : Bool) := floatLanes2_stages (floatPick_lt f greater) ha hb hd
    simp only [floatPick_eq] at lanes
    exact List.forall_mem_cons.mpr ⟨lanes false, List.forall_mem_singleton.mpr (lanes true)⟩
  case compares =>
    have masks (rel : Exact → Exact → Bool) := floatCmp_stages (f := f) (rel := rel) ha hb free
    exact List.forall_mem_cons.mpr ⟨masks realEq, List.forall_mem_cons.mpr ⟨masks realLt,
      List.forall_mem_cons.mpr ⟨masks fun p q => realLt p q || realEq p q, List.forall_mem_singleton.mpr (masks fun p q => p.isNan || q.isNan)⟩⟩⟩

end Sys2Proof.Machine

/-! O27: the integer lanes (R316, Table 14.3). -/

namespace Sys2Proof.Machine

theorem uns_lt (z : Int) (w : Nat) : uns z w < 2 ^ w := by
  have low : z % 2 ^ w < 2 ^ w := Int.emod_lt_of_pos z (by positivity)
  have := Int.emod_nonneg z (show (2 : Int) ^ w ≠ 0 by positivity)
  rw [uns]
  zify
  omega

theorem toNat_ofInt_eq_uns (z : Int) (w : Nat) : (BitVec.ofInt w z).toNat = uns z w := by
  rw [BitVec.toNat_ofInt, uns]
  norm_cast

/-- A slot of two vector sources whose lane results fit their lanes stages them, with no flag. -/
theorem lanes2_stages {w : Bool} {op : Nat → Nat → Nat} {lat : Nat} {d : Dst} {a b : Src} {s t u : State} {x y : Wide}
    (small : ∀ m n, op m n < 2 ^ bitsIn w) (ha : Gives (readV a) s x t) (hb : Gives (readV b) t y u) (hd : Gives (readyV d) u () u) :
    ∃ v, lanes2 w op lat d a b s = u.stages [u.vOf d lat v 0] ∧
      ∀ i < lanesIn w, (laneB w v i).toNat = op (laneB w x i).toNat (laneB w y i).toNat := by
  refine ⟨_, runSlot_gives (ha.bind (hb.bind (hd.bind (gives_putV d lat _ 0 u)))), fun i h => ?_⟩
  rw [lanesOf_eq_map, lanesOf_eq_map, List.zipWith_map, List.zipWith_self]
  exact toNat_laneB_ofLanes h (small _ _)

/-- An integer slot stages the lanes that its operation gives, each modulo its width. -/
theorem intLanes_stages {w : Bool} {op : Nat → Nat → Nat → Int} {g : BitVec (bitsIn w) → BitVec (bitsIn w) → BitVec (bitsIn w)} {d : Dst} {a b : Src}
    {s t u : State} {x y : Wide} (ha : Gives (readV a) s x t) (hb : Gives (readV b) t y u) (hd : Gives (readyV d) u () u)
    (value : ∀ p q, BitVec.ofInt (bitsIn w) (op (bitsIn w) p.toNat q.toNat) = g p q) :
    ∃ v, intLanes op w d a b s = u.stages [u.vOf d 2 v 0] ∧ ∀ i < lanesIn w, laneB w v i = g (laneB w x i) (laneB w y i) := by
  obtain ⟨v, out, vals⟩ := lanes2_stages (op := fun m n => uns (op (bitsIn w) m n) (bitsIn w)) (lat := 2) (fun _ _ => uns_lt ..) ha hb hd
  refine ⟨v, out, fun i h => BitVec.eq_of_toNat_eq ?_⟩
  rw [vals i h, ← value, toNat_ofInt_eq_uns]

theorem saturate_eq {z lo hi : Int} (h : lo ≤ hi) : saturate z lo hi = max lo (min hi z) := by
  unfold saturate; split_ifs <;> omega

theorem sext_toNat {n : Nat} (p : BitVec n) : sext p.toNat n = p.toInt := by
  rw [sext_eq_toInt, BitVec.ofNat_toNat, BitVec.setWidth_eq]

/-! ## The values of Table 14.3 -/

section
variable {n : Nat} (p q : BitVec n)

theorem ofInt_toNat : BitVec.ofInt n p.toNat = p := by rw [BitVec.ofInt_natCast, BitVec.ofNat_toNat, BitVec.setWidth_eq]

theorem ofInt_satS (z : Int) : BitVec.ofInt n (satS n z) = BitVec.ofInt n (max (-2 ^ (n - 1)) (min (2 ^ (n - 1) - 1) z)) := by
  have := Int.pow_pos (n := 2) (m := n - 1) (by decide)
  rw [satS, saturate_eq (by omega)]

theorem ofInt_satU_add : BitVec.ofInt n (satU n (p.toNat + q.toNat)) = BitVec.ofNat n (min (2 ^ n - 1) (p.toNat + q.toNat)) := by
  have full : ((2 ^ n - 1 : Nat) : Int) = 2 ^ n - 1 := by rw [Nat.cast_sub Nat.one_le_two_pow]; norm_cast
  rw [satU, saturate_eq (by rw [← full]; omega), ← full, ← BitVec.ofInt_natCast]
  congr 1
  omega

theorem ofInt_satU_sub : BitVec.ofInt n (satU n (p.toNat - q.toNat)) = BitVec.ofNat n (p.toNat - q.toNat) := by
  have full : ((2 ^ n - 1 : Nat) : Int) = 2 ^ n - 1 := by rw [Nat.cast_sub Nat.one_le_two_pow]; norm_cast
  have := p.isLt
  rw [satU, saturate_eq (by rw [← full]; omega), ← full, ← BitVec.ofInt_natCast]
  congr 1
  omega

theorem ofInt_min_toInt : BitVec.ofInt n (min p.toInt q.toInt) = if p.toInt ≤ q.toInt then p else q := by
  rw [min_def, apply_ite (BitVec.ofInt n), BitVec.ofInt_toInt, BitVec.ofInt_toInt]

theorem ofInt_max_toInt : BitVec.ofInt n (max p.toInt q.toInt) = if p.toInt ≤ q.toInt then q else p := by
  rw [max_def, apply_ite (BitVec.ofInt n), BitVec.ofInt_toInt, BitVec.ofInt_toInt]

theorem ofInt_min_toNat : BitVec.ofInt n ((min p.toNat q.toNat : Nat) : Int) = if p.toNat ≤ q.toNat then p else q := by
  rw [min_def, apply_ite Nat.cast, apply_ite (BitVec.ofInt n), ofInt_toNat, ofInt_toNat]

theorem ofInt_max_toNat : BitVec.ofInt n ((max p.toNat q.toNat : Nat) : Int) = if p.toNat ≤ q.toNat then q else p := by
  rw [max_def, apply_ite Nat.cast, apply_ite (BitVec.ofInt n), ofInt_toNat, ofInt_toNat]

theorem ofInt_shiftLeft (k : Nat) : BitVec.ofInt n (p.toNat * 2 ^ k) = p <<< k := by
  refine BitVec.eq_of_toNat_eq ?_
  rw [show (p.toNat * 2 ^ k : Int) = (p.toNat * 2 ^ k : Nat) by push_cast; rfl, BitVec.ofInt_natCast, BitVec.toNat_ofNat, BitVec.toNat_shiftLeft,
    Nat.shiftLeft_eq]

theorem ofInt_ushiftRight (k : Nat) : BitVec.ofInt n ((p.toNat / 2 ^ k : Nat) : Int) = p >>> k := by
  rw [← Nat.shiftRight_eq_div_pow, ← BitVec.toNat_ushiftRight, ofInt_toNat]

theorem ofInt_sshiftRight (k : Nat) : BitVec.ofInt n (p.toInt / 2 ^ k) = p.sshiftRight k := by
  rw [BitVec.sshiftRight, Int.shiftRight_eq_div_pow]; norm_cast

end

/-- Settles O27: vabs is lanes1, every other slot intLanes of its operation, whose value is the one of Table 14.3. -/
theorem integerLanes : Obligations.IntegerLanes := by
  rintro w d a b s t u x y lo hi rfl rfl ha
  refine ⟨fun hd => ?abs, fun hb hd => ?two⟩
  case abs =>
    obtain ⟨v, out, vals⟩ := lanes1_stages (op := fun n => uns (sext n (bitsIn w)).natAbs (bitsIn w)) (lat := 2) (fun _ => uns_lt ..) ha hd
    refine ⟨v, out, fun i h => BitVec.eq_of_toNat_eq ?_⟩
    rw [vals i h, sext_toNat, Int.natCast_natAbs, toNat_ofInt_eq_uns]
  case two =>
    intro p hp
    suffices named : ∃ op, exec (p.1 d a b) s = intLanes op w d a b s ∧ ∀ m n, BitVec.ofInt (bitsIn w) (op (bitsIn w) m.toNat n.toNat) = p.2 m n by
      obtain ⟨op, run, value⟩ := named
      exact run ▸ intLanes_stages ha hb hd value
    revert p
    simp only [List.forall_mem_cons, List.not_mem_nil, false_imp_iff, implies_true, and_true]
    refine ⟨⟨_, (rfl : _ = execVadd w d a b s), fun p q => ?vadd⟩, ⟨_, (rfl : _ = execVsub w d a b s), fun p q => ?vsub⟩,
      ⟨_, (rfl : _ = execVmul w d a b s), fun p q => ?vmul⟩, ⟨_, (rfl : _ = execVadds w d a b s), fun p q => ?vadds⟩,
      ⟨_, (rfl : _ = execVaddus w d a b s), ofInt_satU_add⟩, ⟨_, (rfl : _ = execVsubs w d a b s), fun p q => ?vsubs⟩,
      ⟨_, (rfl : _ = execVsubus w d a b s), ofInt_satU_sub⟩, ⟨_, (rfl : _ = execVmin w d a b s), fun p q => ?vmin⟩,
      ⟨_, (rfl : _ = execVmax w d a b s), fun p q => ?vmax⟩, ⟨_, (rfl : _ = execVminu w d a b s), ofInt_min_toNat⟩,
      ⟨_, (rfl : _ = execVmaxu w d a b s), ofInt_max_toNat⟩, ⟨_, (rfl : _ = execVand w d a b s), fun p q => ?vand⟩,
      ⟨_, (rfl : _ = execVor w d a b s), fun p q => ?vor⟩, ⟨_, (rfl : _ = execVxor w d a b s), fun p q => ?vxor⟩,
      ⟨_, (rfl : _ = execVshl w d a b s), fun p q => ofInt_shiftLeft ..⟩, ⟨_, (rfl : _ = execVshr w d a b s), fun p q => ofInt_ushiftRight ..⟩,
      ⟨_, (rfl : _ = execVsra w d a b s), fun p q => ?vsra⟩⟩
    case vadd => rw [BitVec.ofInt_add, ofInt_toNat, ofInt_toNat]
    case vsub => rw [Int.sub_eq_add_neg, BitVec.ofInt_add, BitVec.ofInt_neg, ofInt_toNat, ofInt_toNat, BitVec.sub_eq_add_neg]
    case vmul => rw [BitVec.ofInt_mul, ofInt_toNat, ofInt_toNat]
    case vand => rw [← BitVec.toNat_and, ofInt_toNat]
    case vor => rw [← BitVec.toNat_or, ofInt_toNat]
    case vxor => rw [← BitVec.toNat_xor, ofInt_toNat]
    case vadds | vsubs => rw [sext_toNat, sext_toNat, ofInt_satS]
    case vmin => rw [sext_toNat, sext_toNat, ofInt_min_toInt]
    case vmax => rw [sext_toNat, sext_toNat, ofInt_max_toInt]
    case vsra => rw [sext_toNat, laneShift, ofInt_sshiftRight]

end Sys2Proof.Machine

/-! O28: the integer compares and the mask instructions (R316, R319). -/

namespace Sys2Proof.Machine

theorem intCmp_stages {w : Bool} {rel : Nat → Nat → Nat → Bool} {k : Fin 8} {a b : Src} {s t u : State} {x y : Wide}
    (ha : Gives (readV a) s x t) (hb : Gives (readV b) t y u) (free : u.ctx.busyWrite (.m k.val) = false) :
    ∃ c : Word, intCmp rel w k a b s = u.stages [u.resultOf (.m k.val) 2 0 c.toNat 0] ∧
      MaskIs w c fun i => rel (bitsIn w) (laneB w x i).toNat (laneB w y i).toNat := by
  obtain ⟨value, mask⟩ := maskIs_map_range w fun i => rel (bitsIn w) (laneB w x i).toNat (laneB w y i).toNat
  refine ⟨_, ?_, mask⟩
  refine runSlot_gives (ha.bind (hb.bind ((gives_readyDest free).bind ?_)))
  rw [lanesOf_eq_map, lanesOf_eq_map, List.zipWith_map, List.zipWith_self, value]
  exact gives_putDest ..

theorem mask2_stages {f : Word → Word → Word} {k l m : Fin 8} {s : State} (freeL : s.ctx.busy (.m l.val) = false) (freeM : s.ctx.busy (.m m.val) = false)
    (free : s.ctx.busyWrite (.m k.val) = false) :
    mask2 f k l m s = s.stages [s.resultOf (.m k.val) 1 0 (f (s.ctx.regs.readM l.val) (s.ctx.regs.readM m.val)).toNat 0] :=
  runSlot_gives ((gives_readMask freeL).bind ((gives_readMask freeM).bind ((gives_readyDest free).bind (gives_putDest ..))))

theorem mpopc_stages {d : Dst} {l : Fin 8} {s : State} (freeL : s.ctx.busy (.m l.val) = false) (hd : Gives (readyS d) s () s) :
    exec (.mpopc d l) s = s.stages [s.sOf d 1 (word (popCount 64 (s.ctx.regs.readM l.val).toNat))] :=
  runSlot_gives ((gives_readMask freeL).bind (hd.bind (gives_putS ..)))

/-- Settles O28: each compare is intCmp of its relation, each mask instruction mask2 of its operation. -/
theorem integerComparesAndMasks : Obligations.IntegerComparesAndMasks := by
  refine fun w d k l m a b s t u x y => ⟨fun ha hb free p hp => ?compare, ?masks, fun freeL hd => ?popc⟩
  case compare =>
    suffices named : ∃ rel, exec (p.1 k a b) s = intCmp rel w k a b s ∧
        ∀ m n, rel (bitsIn w) (BitVec.toNat m) (BitVec.toNat n) = p.2 m n by
      obtain ⟨rel, run, value⟩ := named
      simp only [← value]
      exact run ▸ intCmp_stages ha hb free
    revert p
    simp only [List.forall_mem_cons, List.not_mem_nil, false_imp_iff, implies_true, and_true]
    refine ⟨⟨_, (rfl : _ = execVcmpEq w k a b s), fun m n => ?eq⟩, ⟨_, (rfl : _ = execVcmpLt w k a b s), fun m n => ?lt⟩,
      ⟨_, (rfl : _ = execVcmpLtu w k a b s), fun m n => rfl⟩⟩
    case eq => rw [Bool.beq_eq_decide_eq, decide_eq_decide, BitVec.toNat_inj]
    case lt => rw [sext_toNat, sext_toNat]
  case masks =>
    rintro freeL freeM free p q rfl rfl
    exact ⟨mask2_stages freeL freeM free, mask2_stages freeL freeM free, mask2_stages freeL freeM free, mask2_stages freeL freeM free,
      mask2_stages freeL freeL free⟩
  case popc =>
    rw [mpopc_stages freeL hd, popCount_eq]
    rfl

end Sys2Proof.Machine

/-! O30: the conversions between lane formats and to and from MX records (R320, R321). -/

namespace Sys2Proof.Machine

/-! ## cvt (R320) -/

/-- A lane of a vector put together from as many lanes as it holds or fewer: those above them are 0. -/
theorem toNat_laneB_ofLanes_of_le {e : Bool} {f : Nat → Nat} {n : Nat} (few : n ≤ lanesIn e) (small : ∀ i, f i < 2 ^ bitsIn e) (i : Nat) :
    (laneB e (ofLanes e ((List.range n).map f)) i).toNat = if i < n then f i else 0 := by
  have below : unchunks (bitsIn e) ((List.range n).map f) < 2 ^ (bitsIn e * n) := by simpa using unchunks_lt (bitsIn e) ((List.range n).map f)
  have whole : (ofLanes e ((List.range n).map f)).toNat = unchunks (bitsIn e) ((List.range n).map f) := by
    refine Nat.mod_eq_of_lt (below.trans_le ?_)
    rw [← bitsIn_mul_lanesIn e]
    exact Nat.pow_le_pow_right (by decide) (Nat.mul_le_mul_left _ few)
  rw [toNat_laneB, whole]
  split
  case isTrue h => rw [bits_unchunks _ (by simpa using h), List.getElem_map, List.getElem_range, Nat.mod_eq_of_lt (small i)]
  case isFalse h =>
    have above : bitsIn e * n ≤ bitsIn e * i := Nat.mul_le_mul_left _ (Nat.le_of_not_lt h)
    rw [bits, Nat.div_eq_of_lt (below.trans_le (Nat.pow_le_pow_right (by decide) above)), Nat.zero_mod]

theorem Fmt.width_of_float {tf : Fmt} {f : FloatFmt} (h : Fmt.float? tf = some f) : (FloatFmt.spec f).width = Fmt.width tf := by
  cases tf <;> cases h <;> rfl

/-- A converted element lies in its lane. -/
theorem convert_lt {tf : Fmt} (fits : Fmt.width tf ≤ bitsIn (Fmt.lane32 tf)) (ff : Fmt) (mode x r : Nat) :
    (convert tf ff mode x r).1 < 2 ^ bitsIn (Fmt.lane32 tf) := by
  have place (z : Int) : Fmt.place tf z < 2 ^ bitsIn (Fmt.lane32 tf) := by
    unfold Fmt.place
    split
    case isTrue byte => exact byte ▸ uns_lt ..
    case isFalse => exact (uns_lt ..).trans_le (Nat.pow_le_pow_right (by decide) fits)
  unfold convert
  split
  · next f float => exact (FloatFmt.roundTo_lt f ..).trans_le (Nat.pow_le_pow_right (by decide) (Fmt.width_of_float float ▸ fits))
  · split
    · exact place _
    · exact place _

/-- The lane formats that cvt writes are no wider than their lanes. -/
theorem Fmt.width_le_lane : ∀ tf ∈ ([.fp32, .bf16, .fp16, .fp8e4, .fp8e5, .s8, .s16, .s32, .n8, .n16, .n32] : List Fmt),
    Fmt.width tf ≤ bitsIn (Fmt.lane32 tf) := by decide

/-! ## Blocks of lanes (R321) -/

/-- A register holds two blocks of 32 elements of 16 bits, or one of FP32. -/
theorem blockCount_eq (e : FloatFmt) : blockCount e = 1 ∧ e = .fp32 ∨ blockCount e = 2 ∧ e ≠ .fp32 := by cases e <;> decide

theorem lanesIn_eq_blocks (e : FloatFmt) : lanesIn (FloatFmt.is32 e) = 32 * blockCount e := by cases e <;> rfl

theorem take_drop_map_range {α : Type} (g : Nat → α) {k m n : Nat} (fits : k + m ≤ n) :
    (((List.range n).map g).drop k).take m = (List.range m).map fun j => g (k + j) := by
  refine List.ext_getElem (by simp; omega) fun i _ _ => by simp

theorem block_fits {e : FloatFmt} {b : Nat} (h : b < blockCount e) : 32 * b + 32 ≤ lanesIn (FloatFmt.is32 e) := by
  rw [lanesIn_eq_blocks]; omega

/-- The lanes of a register, block by block. -/
theorem flatten_map_range {α : Type} (g : Nat → α) (e : FloatFmt) :
    ((List.range (blockCount e)).map fun b => (List.range 32).map fun j => g (32 * b + j)).flatten =
      (List.range (lanesIn (FloatFmt.is32 e))).map g := by
  rw [lanesIn_eq_blocks]
  rcases blockCount_eq e with ⟨count, -⟩ | ⟨count, -⟩ <;> rw [count] <;> rfl

theorem exists_block_iff (e : FloatFmt) (p : Nat → Prop) : (∃ b < blockCount e, p b) ↔ p 0 ∨ e ≠ .fp32 ∧ p 1 := by
  rcases blockCount_eq e with ⟨count, single⟩ | ⟨count, double⟩
  · rw [count]; simp [single]
  · rw [count]; simp [double, Nat.le_one_iff_eq_zero_or_eq_one, or_and_right, exists_or]

/-- The records of a register, the second directly after the first. -/
theorem packRecords_blocks (c : Nat) (q : Nat → Record × Nat) (e : FloatFmt) :
    packRecords c (((List.range (blockCount e)).map q).map Prod.fst) =
      (q 0).1.pack c + if e = .fp32 then 0 else (q 1).1.pack c * 2 ^ (q 0).1.len c := by
  rcases blockCount_eq e with ⟨count, single⟩ | ⟨count, double⟩
  · rw [count]; simp [single, packRecords]
  · rw [count]; simp [double, packRecords, List.range_succ]

section
variable {rm : Rnd} {d : Dst} {a : Src} {s t : State} {x : Wide} (ha : Gives (readV a) s x t) (hd : Gives (readyV d) t () t)
include ha hd

theorem cvt_stages {tf ff : Fmt} {n : Nat} (hn : n = if Fmt.lane32 tf || Fmt.lane32 ff then 32 else 64)
    {r : Nat → Nat × Nat} (hr : r = fun i => convert tf ff (t.cvtMode rm) (laneB (Fmt.lane32 ff) x i).toNat (t.drawAt i)) :
    exec (.cvt tf ff rm d a) s = t.stages [t.vOf d 3 (ofLanes (Fmt.lane32 tf) (((List.range n).map r).map Prod.fst))
      (raising (orFlags (((List.range n).map r).map Prod.snd)))] := by
  have few : n ≤ lanesIn (Fmt.lane32 ff) := by
    rw [hn]; cases Fmt.lane32 tf <;> cases Fmt.lane32 ff <;> decide
  have lanes : ((lanesOf (Fmt.lane32 ff) x).take n).mapIdx (fun i e => convert tf ff (t.cvtMode rm) e (t.drawAt i)) = (List.range n).map r := by
    rw [lanesOf_eq_map, ← List.map_take, List.take_range, Nat.min_eq_left few, mapIdx_map_range, hr]
  refine runSlot_gives (ha.bind (hd.bind ((gives_get t).bind ?_)))
  simp only [← hn, lanes]
  exact gives_putV ..

/-- qnt packs the quantised blocks of its lanes, 32 to a block (R321). -/
theorem qnt_stages {f : Fmt} {pol elt : Fin 4} {q : Nat → Record × Nat} (hq : q = fun b => quantiseBlock f.code (t.cvtMode rm) pol.val
      ((List.range 32).map fun j => laneF (eltFmt elt.val) x (32 * b + j)) fun j => t.drawAt (32 * b + j)) :
    exec (.qnt f pol rm elt d a) s = t.stages [t.vOf d 3
      (BitVec.ofNat 1024 (packRecords f.code (((List.range (blockCount (eltFmt elt.val))).map q).map Prod.fst)))
      (raising (orFlags (((List.range (blockCount (eltFmt elt.val))).map q).map Prod.snd)))] := by
  have blocks : (List.range (blockCount (eltFmt elt.val))).map (fun b => quantiseBlock f.code (t.cvtMode rm) pol.val
      ((((lanesOf (FloatFmt.is32 (eltFmt elt.val)) x).map (FloatFmt.value (eltFmt elt.val))).drop (32 * b)).take 32) fun j => t.drawAt (32 * b + j)) =
        (List.range (blockCount (eltFmt elt.val))).map q := by
    refine List.map_congr_left fun b hb => ?_
    rw [hq, lanesOf_eq_map, List.map_map, take_drop_map_range _ (block_fits (List.mem_range.mp hb))]
    rfl
  refine runSlot_gives (ha.bind (hd.bind ((gives_get t).bind ?_)))
  simp only [blocks]
  exact gives_putV ..

/-- dqnt rounds the elements of its records, 32 to a record (R321). -/
theorem dqnt_stages {f : Fmt} {pol elt : Fin 4} {r : Nat → Record} (h0 : r 0 = readRecord f.code x.toNat)
    (h1 : r 1 = readRecord f.code (x.toNat / 2 ^ recordLen f.code x.toNat)) {y : Nat → Nat × Nat}
    (hy : y = fun i => roundTo (FloatFmt.spec (eltFmt elt.val)) (t.cvtMode rm) ((r (i / 32)).value f.code pol.val (i % 32)) (t.drawAt i)) :
    exec (.dqnt f pol rm elt d a) s = t.stages [t.vOf d 3
      (ofLanes (FloatFmt.is32 (eltFmt elt.val)) (((List.range (lanesIn (FloatFmt.is32 (eltFmt elt.val)))).map y).map Prod.fst))
      (raising (orFlags (((List.range (lanesIn (FloatFmt.is32 (eltFmt elt.val)))).map y).map Prod.snd)))] := by
  have records : unpackRecords f.code (blockCount (eltFmt elt.val)) x.toNat = (List.range (blockCount (eltFmt elt.val))).map r := by
    rcases blockCount_eq (eltFmt elt.val) with ⟨count, -⟩ | ⟨count, -⟩ <;> simp [count, unpackRecords, List.range_succ, h0, h1]
  have elements : ((unpackRecords f.code (blockCount (eltFmt elt.val)) x.toNat).mapIdx fun b rec => (List.range 32).map fun j =>
      roundTo (FloatFmt.spec (eltFmt elt.val)) (t.cvtMode rm) (rec.value f.code pol.val j) (t.drawAt (32 * b + j))).flatten =
        (List.range (lanesIn (FloatFmt.is32 (eltFmt elt.val)))).map y := by
    rw [records, mapIdx_map_range, ← flatten_map_range y]
    congr 1
    refine List.map_congr_left fun b _ => List.map_congr_left fun j hj => ?_
    have low : j < 32 := List.mem_range.mp hj
    rw [hy]
    dsimp only
    rw [show (32 * b + j) / 32 = b by omega, show (32 * b + j) % 32 = j by omega]
  refine runSlot_gives (ha.bind (hd.bind ((gives_get t).bind ?_)))
  simp only [elements]
  exact gives_putV ..

end

/-- Settles O30: each slot by what it stages, and the vectors lane by lane. -/
theorem conversionSlots : Obligations.ConversionSlots := by
  rintro d a s t x tf ff rm pol elt mode draw ha hd rfl rfl
  refine ⟨fun writes n hn => ?cvt, fun f e _ he => ?records⟩
  case cvt =>
    refine ⟨_, _, cvt_stages ha hd hn rfl, fun i h => ?_, bitAt_orFlags_map_range _ n⟩
    rw [List.map_map]
    exact toNat_laneB_ofLanes_of_le (by rw [hn]; cases Fmt.lane32 tf <;> cases Fmt.lane32 ff <;> decide)
      (fun i => convert_lt (Fmt.width_le_lane tf writes) ..) i
  case records =>
    obtain rfl : e = eltFmt elt.val := he.trans (by fin_cases elt <;> rfl)
    refine ⟨?qnt, fun r h0 h1 => ?dqnt⟩
    case qnt =>
      intro q hq
      refine ⟨_, fun k => (bitAt_orFlags_map_range q _ k).trans (exists_block_iff ..), ?_⟩
      rw [← packRecords_blocks]
      exact qnt_stages ha hd hq
    case dqnt => exact ⟨_, _, dqnt_stages ha hd h0 h1 rfl, lanesAre_map_range fun i => FloatFmt.lt_lane _ (FloatFmt.roundTo_lt ..)⟩

end Sys2Proof.Machine

/-! O32: the elementary functions and their queue (R332 to R344). -/

namespace Sys2Proof.Machine

/-! ## The lanes are encodings -/

theorem rationalLane_lt (f : FloatFmt) (mode : Nat) (neg : Bool) (num den key fn : Nat) :
    (rationalLane f mode neg num den key fn).val < 2 ^ (FloatFmt.spec f).width := FloatFmt.roundTo_lt ..

/-- Whichever enclosure decides, the lane is a rounded value. -/
theorem Fn.decide_lt (fn : Fn) (f : FloatFmt) (mode : Nat) (neg : Bool) (num den fuel q : Nat) :
    (fn.decide (FloatFmt.spec f) mode neg num den fuel q).1.1 < 2 ^ (FloatFmt.spec f).width := by
  induction fuel generalizing q with
  | zero => exact FloatFmt.roundTo_lt ..
  | succ fuel ih =>
    unfold Fn.decide
    dsimp only
    split
    · next r decided =>
      have mid : r = roundTo (FloatFmt.spec f) mode ((fn.enclose neg num den q).point
          (((fn.enclose neg num den q).lo + (fn.enclose neg num den q).hi) / 2)) 0 := by
        unfold Enc.round? at decided
        dsimp only at decided
        split_ifs at decided <;> exact (Option.some.inj decided).symm
      exact mid ▸ FloatFmt.roundTo_lt ..
    · exact ih _

theorem Fn.lane_lt (fn : Fn) (f : FloatFmt) (mode x : Nat) : (fn.lane f mode x).val < 2 ^ (FloatFmt.spec f).width := by
  unfold Fn.lane
  dsimp only
  split
  · exact FloatFmt.roundTo_lt ..
  · split
    · split
      · exact rationalLane_lt ..
      · exact Fn.decide_lt ..
    · exact FloatFmt.nan_lt_width f

theorem divLane_lt (f : FloatFmt) (mode x y : Nat) : (divLane f mode x y).val < 2 ^ (FloatFmt.spec f).width := by
  unfold divLane
  dsimp only
  split
  case h_7 =>
    split_ifs
    · exact FloatFmt.roundTo_lt ..
    · exact FloatFmt.roundTo_lt ..
    · exact FloatFmt.roundTo_lt ..
    · exact rationalLane_lt ..
  all_goals exact FloatFmt.roundTo_lt ..

theorem XFn.lane_lt (fn : XFn) (f : FloatFmt) (x : Nat) : (fn.lane f x).1 < 2 ^ (FloatFmt.spec f).width := by
  unfold XFn.lane
  dsimp only
  split
  · exact FloatFmt.roundTo_lt ..
  · split
    · exact FloatFmt.roundTo_lt ..
    · exact FloatFmt.nan_lt_width f

/-! ## The queue (R338, R339) -/

/-- A hold whose condition holds or that is the first of its bundle to wait (R415). -/
theorem gives_hold_of_heldUnless {s w : State} {p : Prop} {ok : Bool} (h : HeldUnless s p w) (decides : ok = true ↔ p) : Gives (hold ok) s () w := by
  rcases h with ⟨holds, rfl⟩ | ⟨fails, first, rfl⟩
  · exact gives_hold (decides.mpr holds) w
  · exact gives_hold_of_first (by simpa [← decides] using fails) first

/-- A hold changes the mark of the bundle alone. -/
theorem HeldUnless.exists_mark {s w : State} {p : Prop} (h : HeldUnless s p w) : ∃ m, w = { s with bundle := { s.bundle with mark := m } } := by
  rcases h with ⟨-, rfl⟩ | ⟨-, -, rfl⟩
  · exact ⟨_, rfl⟩
  · exact ⟨_, rfl⟩

/-- A slot that goes on with a function result of the lanes r stages it and its entry of the queue. -/
theorem functionResult_of_putFunction {d : Dst} {f : FloatFmt} {func mode : Nat} {t w : State} {r : Nat → LaneResult}
    {out : Host.Outcome State Fault Refusal} {l : List LaneResult} (hl : l = (List.range (lanesIn (FloatFmt.is32 f))).map r)
    (run : ∀ u, Gives (putFunction d f func mode l) t () u → out = .next u) (room : HeldUnless t (t.core.fnQueue.length < 16) w)
    (small : ∀ i, (r i).val < 2 ^ (FloatFmt.spec f).width) : FunctionResult w d f out r := by
  subst hl
  have lanes := lanesAre_map_range (r := fun i => ((r i).val, (r i).flags)) fun i => FloatFmt.lt_lane f (small i)
  rw [List.map_map, List.map_map] at lanes
  have served : (((List.range (lanesIn (FloatFmt.is32 f))).map r).filter LaneResult.second).length =
      ((List.range (lanesIn (FloatFmt.is32 f))).filter fun i => (r i).second).length := by
    rw [List.filter_map, List.length_map]; rfl
  have serves : (((List.range (lanesIn (FloatFmt.is32 f))).filter fun i => (r i).second).length != 0) =
      (List.range (lanesIn (FloatFmt.is32 f))).any fun i => (r i).second := by
    rw [Bool.eq_iff_iff]
    simp [List.length_eq_zero_iff]
  have held := gives_hold_of_heldUnless room decide_eq_true_iff
  obtain ⟨m, rfl⟩ := room.exists_mark
  refine ⟨_, _, t.newTag, func * 2 ^ 21 + f.code * 2 ^ 18 + mode * 2 ^ 15 + ((List.range (lanesIn (FloatFmt.is32 f))).filter fun i => (r i).second).length,
    maskOf ((List.range (lanesIn (FloatFmt.is32 f))).map (LaneResult.second ∘ r)), lanes, run _ ((gives_get t).bind (held.bind ?_))⟩
  simp only [served, serves, List.map_map]
  cases d <;> exact Gives.after_stage (gives_stage _ _)

section
variable {f : FloatFmt} {rm : Rnd} {d : Dst} {a : Src} {s t : State} {x : Wide} (ha : Gives (readV a) s x t)
include ha

theorem function1_result {fn : Fn} {w : State} (hd : Gives (readyV d) t () t) (room : HeldUnless t (t.core.fnQueue.length < 16) w) :
    FunctionResult w d f (function1 fn f rm d a s) fun i => fn.lane f (t.laneMode rm) (laneB (FloatFmt.is32 f) x i).toNat := by
  have lanes : (lanesOf (FloatFmt.is32 f) x).map (fn.lane f (t.laneMode rm)) =
      (List.range (lanesIn (FloatFmt.is32 f))).map fun i => fn.lane f (t.laneMode rm) (laneB (FloatFmt.is32 f) x i).toNat := by
    rw [lanesOf_eq_map, List.map_map]; rfl
  exact functionResult_of_putFunction lanes (fun _ k => runSlot_gives (ha.bind (hd.bind ((gives_get t).bind k)))) room fun _ => Fn.lane_lt ..

theorem fdiv_result {b : Src} {u w : State} {y : Wide} (hb : Gives (readV b) t y u) (hd : Gives (readyV d) u () u)
    (room : HeldUnless u (u.core.fnQueue.length < 16) w) : FunctionResult w d f (exec (.fdiv f rm d a b) s) fun i =>
      divLane f (u.laneMode rm) (laneB (FloatFmt.is32 f) x i).toNat (laneB (FloatFmt.is32 f) y i).toNat := by
  have lanes : List.zipWith (divLane f (u.laneMode rm)) (lanesOf (FloatFmt.is32 f) x) (lanesOf (FloatFmt.is32 f) y) =
      (List.range (lanesIn (FloatFmt.is32 f))).map fun i => divLane f (u.laneMode rm) (laneB (FloatFmt.is32 f) x i).toNat
        (laneB (FloatFmt.is32 f) y i).toNat := by
    rw [lanesOf_eq_map, lanesOf_eq_map, List.zipWith_map, List.zipWith_self]
  exact functionResult_of_putFunction lanes (fun _ k => runSlot_gives (ha.bind (hb.bind (hd.bind ((gives_get u).bind k))))) room fun _ => divLane_lt ..

theorem functionX_stages {fn : XFn} (hd : Gives (readyV d) t () t) : ∃ v fl, functionX fn f d a s = t.stages [t.vOf d 12 v (raising fl)] ∧
    LanesAre (FloatFmt.is32 f) v fl fun i => fn.lane f (laneB (FloatFmt.is32 f) x i).toNat := by
  have lanes : (lanesOf (FloatFmt.is32 f) x).map (fn.lane f) =
      (List.range (lanesIn (FloatFmt.is32 f))).map fun i => fn.lane f (laneB (FloatFmt.is32 f) x i).toNat := by
    rw [lanesOf_eq_map, List.map_map]; rfl
  refine ⟨_, _, runSlot_gives (ha.bind (hd.bind (gives_putV d 12 _ _ t))), ?_⟩
  rw [lanes]
  exact lanesAre_map_range fun _ => FloatFmt.lt_lane f (XFn.lane_lt ..)

end

/-- Settles O32: each slot of major 0x30 is function1 of its function, each of major 0x32 functionX of its own. -/
theorem functionSlots : Obligations.FunctionSlots := by
  refine fun f rm d a b s t u w x y ha => ⟨fun hd room p hp => ?one, fun hb hd room => fdiv_result ha hb hd room, fun hd p hp => ?x⟩
  case one =>
    suffices named : exec (p.1 f rm d a) s = function1 p.2 f rm d a s from named ▸ function1_result ha hd room
    revert p
    simp only [List.forall_mem_cons, List.not_mem_nil, false_imp_iff, implies_true, and_true]
    exact ⟨rfl, rfl, rfl, rfl, rfl, rfl, rfl, rfl, rfl, rfl, rfl, rfl, rfl, rfl, rfl, rfl⟩
  case x =>
    suffices named : exec (p.1 f d a) s = functionX p.2 f d a s from named ▸ functionX_stages ha hd
    revert p
    simp only [List.forall_mem_cons, List.not_mem_nil, false_imp_iff, implies_true, and_true]
    exact ⟨rfl, rfl, rfl, rfl, rfl, rfl, rfl, rfl⟩

end Sys2Proof.Machine

/-! O29: select and permute (R317, R318). -/

namespace Sys2Proof.Machine

section
variable {w : Bool} {a b : Src} {s t u : State}

theorem getD_lanesOf {x : Wide} {i : Nat} (h : i < lanesIn w) : (lanesOf w x).getD i 0 = (laneB w x i).toNat := by
  rw [lanesOf_eq_map, List.getD_eq_getElem?_getD, List.getElem?_map, List.getElem?_range h]
  rfl

/-- A vector whose lanes are the bit vectors g. -/
theorem laneB_ofLanes {g : Nat → BitVec (bitsIn w)} {i : Nat} (h : i < lanesIn w) :
    laneB w (ofLanes w ((List.range (lanesIn w)).map fun i => (g i).toNat)) i = g i :=
  BitVec.eq_of_toNat_eq (toNat_laneB_ofLanes (f := fun i => (g i).toNat) h (g i).isLt)

theorem vsel_stages {k : Fin 8} {d : Dst} {x y : Wide} (free : s.ctx.busy (.m k.val) = false) (ha : Gives (readV a) s x t)
    (hb : Gives (readV b) t y u) (hd : Gives (readyV d) u () u) : ∃ v, exec (.vsel k w d a b) s = u.stages [u.vOf d 2 v 0] ∧
      ∀ i < lanesIn w, laneB w v i = if (s.ctx.regs.readM k.val).getLsbD i then laneB w x i else laneB w y i := by
  have chosen : (List.zip (lanesOf w x) (lanesOf w y)).mapIdx (fun i p => if (s.ctx.regs.readM k.val).getLsbD i then p.1 else p.2) =
      (List.range (lanesIn w)).map fun i => (if (s.ctx.regs.readM k.val).getLsbD i then laneB w x i else laneB w y i).toNat := by
    rw [lanesOf_eq_map, lanesOf_eq_map, List.zip_eq_zipWith, List.zipWith_map, List.zipWith_self, mapIdx_map_range]
    exact List.map_congr_left fun i _ => (apply_ite BitVec.toNat ..).symm
  refine ⟨_, runSlot_gives ((gives_readMask free).bind (ha.bind (hb.bind (hd.bind (gives_putV d 2 _ 0 u))))), fun i h => ?_⟩
  rw [chosen]
  exact laneB_ofLanes h

theorem vperm_stages {d : Dst} {x y : Wide} (ha : Gives (readV a) s x t) (hb : Gives (readV b) t y u) (hd : Gives (readyV d) u () u) :
    ∃ v, exec (.vperm w d a b) s = u.stages [u.vOf d 3 v 0] ∧
      ∀ i < lanesIn w, laneB w v i = laneB w x ((laneB w y i).toNat % lanesIn w) := by
  have moved : (lanesOf w y).map (fun i => (lanesOf w x).getD (i % laneN w) 0) =
      (List.range (lanesIn w)).map fun i => (laneB w x ((laneB w y i).toNat % lanesIn w)).toNat := by
    rw [lanesOf_eq_map w y, List.map_map]
    exact List.map_congr_left fun i _ => getD_lanesOf (Nat.mod_lt _ (lanesIn_pos w))
  refine ⟨_, runSlot_gives (ha.bind (hb.bind (hd.bind (gives_putV d 3 _ 0 u)))), fun i h => ?_⟩
  rw [moved]
  exact laneB_ofLanes h

theorem vbcast_stages {d : Dst} {p : Word} (ha : Gives (readS a) s p t) (hd : Gives (readyV d) t () t) :
    ∃ v, exec (.vbcast w d a) s = t.stages [t.vOf d 3 v 0] ∧ ∀ i < lanesIn w, laneB w v i = p.setWidth (bitsIn w) := by
  have same : List.replicate (laneN w) (p.toNat % 2 ^ laneW w) = (List.range (lanesIn w)).map fun _ => (p.setWidth (bitsIn w)).toNat := by
    rw [List.map_const', List.length_range, BitVec.toNat_setWidth]
    rfl
  refine ⟨_, runSlot_gives (ha.bind (hd.bind (gives_putV d 3 _ 0 t))), fun i h => ?_⟩
  rw [same]
  exact laneB_ofLanes h

section
variable {vd : Fin 32} {p q : Word} {old : Wide} (ha : Gives (readS a) s p t) (hb : Gives (readS b) t q u)
  (hz : Gives (readVReg vd.val) u old u) (hd : Gives (readyDest (.v vd.val)) u () u)
include ha hb hz hd

theorem vins_stages (inside : q.toNat < lanesIn w) :
    ∃ v, exec (.vins w vd a b) s = u.stages [u.resultOf (.v vd.val) 3 0 (BitVec.toNat v) 0] ∧
      ∀ i < lanesIn w, laneB w v i = if i = q.toNat then p.setWidth (bitsIn w) else laneB w old i := by
  have replaced : (lanesOf w old).set q.toNat (p.toNat % 2 ^ laneW w) =
      (List.range (lanesIn w)).map fun i => (if i = q.toNat then p.setWidth (bitsIn w) else laneB w old i).toNat := by
    rw [lanesOf_eq_map]
    refine List.ext_getElem (by simp) fun i _ _ => ?_
    rw [List.getElem_set, List.getElem_map, List.getElem_map, List.getElem_range, apply_ite BitVec.toNat, BitVec.toNat_setWidth]
    simp only [eq_comm (a := i)]
    rfl
  refine ⟨_, runSlot_gives (ha.bind (hb.bind (hz.bind (hd.bind ((gives_check (decide_eq_true inside) _ _ u).bind (gives_putDest _ 3 _ 0 u)))))),
    fun i h => ?_⟩
  rw [replaced]
  exact laneB_ofLanes h

theorem vins_refuses (outside : lanesIn w ≤ q.toNat) : exec (.vins w vd a b) s = .next (u.raised .illegalUse q false) :=
  runSlot_refuses (ha.stops (plain_readS a) (hb.stops (plain_readS b) (hz.stops (plain_readVReg _) (hd.stops (plain_readyDest _)
    (stops_check (decide_eq_false (Nat.not_lt.mpr outside)) _ _ u).bind))))

end

section
variable {d : Dst} {x : Wide} {q : Word} (ha : Gives (readV a) s x t) (hb : Gives (readS b) t q u) (hd : Gives (readyS d) u () u)
include ha hb hd

theorem vext_stages (inside : q.toNat < lanesIn w) :
    exec (.vext w d a b) s = u.stages [u.sOf d 3 (BitVec.ofNat 64 (laneB w x q.toNat).toNat)] := by
  rw [← getD_lanesOf inside]
  exact runSlot_gives (ha.bind (hb.bind (hd.bind ((gives_check (decide_eq_true inside) _ _ u).bind (gives_putS d 3 _ u)))))

theorem vext_refuses (outside : lanesIn w ≤ q.toNat) :
    exec (.vext w d a b) s = .next ((u.owePushes (Dst.rings d)).raised .illegalUse q false) := by
  have refused := (owes_readyS hd).stops (f := fun _ => check (decide (q.toNat < laneN w)) .illegalUse q >>= fun _ => putS d 3 (word ((lanesOf w x).getD q.toNat 0)))
    (stops_check (decide_eq_false (Nat.not_lt.mpr outside)) .illegalUse q u).bind
  rw [List.append_nil] at refused
  exact runSlot_raises (ha.stops (plain_readV a) (hb.stops (plain_readS b) refused))

end
end

end Sys2Proof.Machine

/-! The words of R317 and R318, and those that they make ILLEGAL. -/

namespace Sys2Proof.Codec

theorem decodeSlot_of_row {i : Instr} {w : Nat} (row : encodeSlot i = some w) (wf : i.wf = true) : decodeSlot w = some i := by
  obtain ⟨slot, -⟩ := decodeAndEncodeAgree
  obtain ⟨-, decodes, -⟩ := slot i w row wf
  exact decodes

/-- A field below the S bit (R71). -/
theorem fld_mod {n lo k : Nat} (inside : lo + k ≤ 31) : fld (n % 2 ^ 31) lo k = fld n lo k := by
  change field (n % 2 ^ 31) lo (2 ^ k) = field n lo (2 ^ k)
  refine Nat.eq_of_testBit_eq fun i => ?_
  rw [testBit_field, testBit_field, Nat.testBit_mod_two_pow]
  by_cases h : i < k
  · simp [h, show lo + i < 31 by omega]
  · simp [h]

theorem decodeSlot_eq_none {n : Nat} (unassigned : decodeRaw (n % 2 ^ 31) = none) : decodeSlot n = none := by rw [decodeSlot, unassigned]

theorem decodeSlot_major28_eq_none {n : Nat} (major : fld n 25 6 = 0x28) (bad : fld n 18 3 ≠ 0) : decodeSlot n = none := by
  refine decodeSlot_eq_none ?_
  rw [decodeRaw_of_lookup ((fld_mod (by decide)).trans major) rfl, decodeMajor28, fld_mod (by decide), if_neg bad]

theorem decodeSlot_major29_eq_none {n : Nat} (major : fld n 25 6 = 0x29) (bad : fld n 18 4 ≠ 0 ∨ fld n 23 2 = 1 ∧ fld n 0 6 ≠ 0) :
    decodeSlot n = none := by
  refine decodeSlot_eq_none ?_
  have wider : fld n 17 5 = 0 → fld n 18 4 = 0 := by unfold fld; omega
  rw [decodeRaw_of_lookup ((fld_mod (by decide)).trans major) rfl, decodeMajor29, fld_mod (lo := 23) (by decide), fld_mod (lo := 18) (by decide),
    fld_mod (lo := 0) (by decide), fld_mod (lo := 17) (by decide)]
  have vperm : ¬ (fld n 23 2 = 0 ∧ fld n 18 4 = 0) := by omega
  have vbcast : ¬ (fld n 23 2 = 1 ∧ fld n 18 4 = 0 ∧ fld n 0 6 = 0) := by omega
  have vins : ¬ (fld n 23 2 = 2 ∧ fld n 17 5 = 0) := by omega
  have vext : ¬ (fld n 23 2 = 3 ∧ fld n 18 4 = 0) := by omega
  rw [if_neg vperm, if_neg vbcast, if_neg vins, if_neg vext]

/-- Settles O29: each slot by the lemma about its outcome, and each word is the encoding of its instruction. -/
theorem selectAndPermute : Obligations.SelectAndPermute := by
  refine fun w k d vd a b s t u x y old p q => ⟨fun free ha hb hd => ⟨Machine.vsel_stages free ha hb hd, Machine.vperm_stages ha hb hd⟩,
    fun ha => ⟨Machine.vbcast_stages ha, fun hb hz hd => ⟨Machine.vins_stages ha hb hz hd, Machine.vins_refuses ha hb hz hd⟩⟩,
    fun ha hb hd => ⟨Machine.vext_stages ha hb hd, Machine.vext_refuses ha hb hd⟩,
    decodeSlot_of_row (congrArg some ?_) rfl, decodeSlot_of_row (congrArg some ?_) rfl, decodeSlot_of_row (congrArg some ?_) rfl,
    decodeSlot_of_row (congrArg some ?_) rfl, decodeSlot_of_row (congrArg some ?_) rfl,
    fun n _ => ⟨decodeSlot_major28_eq_none, fun major bad => decodeSlot_major29_eq_none major ?_⟩⟩
  case refine_6 => simpa [fld] using bad
  all_goals simp only [pack]; omega

end Sys2Proof.Codec

/-! O34: one shaft of an mshift (R288). -/

namespace Sys2Proof.Machine

theorem afPlanes_le (af : Nat) : afPlanes af ≤ 8 := by unfold afPlanes; split <;> decide

/-- The zero planes passed are consecutive, and they end at a plane that is not zero, at the last plane or with the fuel. -/
theorem passZeros_spec (h : Shaft) (p n : Nat) :
    (passZeros h p n).1 = List.range' p (passZeros h p n).1.length ∧ (passZeros h p n).2 = p + (passZeros h p n).1.length ∧
    (p ≤ afPlanes h.af → (passZeros h p n).2 ≤ afPlanes h.af) ∧ (∀ x ∈ (passZeros h p n).1, h.planeZero x = true) ∧
    ((passZeros h p n).2 < afPlanes h.af → (passZeros h p n).2 < p + n → h.planeZero (passZeros h p n).2 = false) := by
  induction n generalizing p with
  | zero => simp [passZeros]
  | succ n ih =>
    obtain ⟨consecutive, count, inside, zeros, stops⟩ := ih (p + 1)
    by_cases pass : p < afPlanes h.af ∧ h.planeZero p = true
    · rw [passZeros, if_pos pass]
      refine ⟨?_, by simp only [List.length_cons]; omega, fun _ => inside pass.1, ?_, fun low fuel => stops low (by dsimp only at fuel; omega)⟩
      · rw [List.length_cons, List.range'_succ, ← consecutive]
      · rintro x (_ | ⟨_, later⟩)
        exacts [pass.2, zeros x later]
    · rw [passZeros, if_neg pass]
      refine ⟨rfl, rfl, id, by simp, fun low _ => ?_⟩
      simpa [low] using pass

/-- What the planes of one mshift are: consecutive from the first not yet shifted, zero but for one, and with z up to a plane that is not zero. -/
theorem shiftPlanes_spec (h : Shaft) (z : Bool) (within : h.planes ≤ afPlanes h.af) {qs : List Nat} {p n : Nat} (hr : shiftPlanes h z = (qs, p, n)) :
    qs = List.range' h.planes qs.length ∧ p = h.planes + qs.length ∧ p ≤ afPlanes h.af ∧ n ≤ 1 ∧
    (∃ q, (∀ x ∈ qs, x ≠ q → h.planeZero x = true) ∧ (n = 0 → ∀ x ∈ qs, h.planeZero x = true)) ∧
    (z = false → h.planes < afPlanes h.af → qs = [h.planes] ∧ n = 1) ∧
    (z = true → p < afPlanes h.af → h.planeZero p = false) := by
  cases z with
  | false =>
    by_cases low : h.planes < afPlanes h.af
    · obtain ⟨rfl, rfl, rfl⟩ : qs = [h.planes] ∧ p = h.planes + 1 ∧ n = 1 := by simpa [shiftPlanes, low, eq_comm] using hr
      exact ⟨rfl, rfl, low, le_rfl, ⟨h.planes, by simp, by simp⟩, fun _ _ => ⟨rfl, rfl⟩, by simp⟩
    · obtain ⟨rfl, rfl, rfl⟩ : qs = [] ∧ p = h.planes ∧ n = 0 := by simpa [shiftPlanes, low, eq_comm] using hr
      exact ⟨rfl, rfl, within, by simp, ⟨0, by simp, by simp⟩, fun _ low' => absurd low' low, by simp⟩
  | true =>
    have fuel := afPlanes_le h.af
    obtain ⟨before, count, inside, zeros, stops⟩ := passZeros_spec h h.planes 8
    by_cases low : (passZeros h h.planes 8).2 < afPlanes h.af
    · obtain ⟨after, count', inside', zeros', stops'⟩ := passZeros_spec h ((passZeros h h.planes 8).2 + 1) 8
      obtain ⟨hq, rfl, rfl⟩ : qs = (passZeros h h.planes 8).1 ++ (passZeros h h.planes 8).2 :: (passZeros h ((passZeros h h.planes 8).2 + 1) 8).1 ∧
          p = (passZeros h ((passZeros h h.planes 8).2 + 1) 8).2 ∧ n = 1 := by
        simpa [shiftPlanes, low, eq_comm] using hr
      generalize passZeros h h.planes 8 = a at *
      generalize passZeros h (a.2 + 1) 8 = c at *
      have length : qs.length = a.1.length + (c.1.length + 1) := by rw [hq, List.length_append, List.length_cons]
      refine ⟨?_, by omega, inside' low, le_rfl, ⟨a.2, fun x hx other => ?_, by simp⟩, by simp, fun _ last => stops' last (by omega)⟩
      · rw [length, ← List.range'_append_1, ← before, ← count, List.range'_succ, ← after, hq]
      · rw [hq, List.mem_append, List.mem_cons] at hx
        rcases hx with early | same | late
        exacts [zeros x early, absurd same other, zeros' x late]
    · have ended : (passZeros h h.planes 8).2 = afPlanes h.af := Nat.le_antisymm (inside within) (Nat.le_of_not_lt low)
      have none : passZeros h (afPlanes h.af) 8 = ([], afPlanes h.af) := by simp [passZeros]
      obtain ⟨rfl, rfl, rfl⟩ : qs = (passZeros h h.planes 8).1 ∧ p = afPlanes h.af ∧ n = 0 := by
        simpa [shiftPlanes, ended, none, eq_comm] using hr
      exact ⟨before, ended ▸ count, le_rfl, by simp, ⟨0, fun x hx _ => zeros x hx, fun _ => zeros⟩, by simp, fun _ beyond => absurd beyond (lt_irrefl _)⟩

section
variable {mask : Nat} {z : Bool} {h : Shaft} {s : State}

theorem shiftShaft_done (done : h.st = 2) : Gives (shiftShaft mask z h) s (h, [], 0) s := Gives.of_true done (gives_pure _ s)

theorem shiftShaft_refuses (idle : h.st ≠ 1) (notDone : h.st ≠ 2) (empty : h.back = none) (unbound : h.rb = false) :
    Refuses (shiftShaft mask z h) s .illegalUse (BitVec.ofNat 64 mask) := by
  refine ⟨[], ?_⟩
  simp only [shiftShaft, if_neg notDone, if_neg idle, empty, unbound, Bool.false_eq_true, if_false]
  exact (stops_raise _ _ s).bind

/-- A shaft that holds a back vector takes it as its front vector and goes on as one in SHIFTING that has shifted no plane. -/
theorem shiftShaft_loads {v : HalfVec} (idle : h.st ≠ 1) (notDone : h.st ≠ 2) (held : h.back = some v) :
    shiftShaft mask z h = shiftShaft mask z { h with front := v, back := none, planes := 0, st := 1 } := by
  simp only [shiftShaft, if_neg notDone, if_neg idle, held, pure_bind]
  rfl

/-- A shaft in SHIFTING that needs no pop shifts its planes, and it is DONE after the last. -/
theorem gives_shiftShaft (shifting : h.st = 1) (full : h.rb = false ∨ h.back ≠ none) {qs : List Nat} {p n : Nat} (hr : shiftPlanes h z = (qs, p, n)) :
    Gives (shiftShaft mask z h) s ({ h with planes := p, st := if p = afPlanes h.af then 2 else 1 }, qs, n) s := by
  have notDone : h.st ≠ 2 := by omega
  simp only [shiftShaft, if_neg notDone, if_pos shifting, pure_bind, hr]
  by_cases last : p = afPlanes h.af
  · simp only [if_pos last]
    cases back : h.back with
    | some v => exact gives_pure _ s
    | none =>
      have unbound : h.rb = false := full.resolve_right (not_not.mpr back)
      exact Gives.of_false (by simp [unbound]) (gives_pure _ s)
  · simp only [if_neg last, ← shifting]
    exact gives_pure _ s

end

/-- Settles O34: a shaft in SHIFTING, and one that loads its back vector as the same shaft in SHIFTING. -/
theorem shiftingAShaft : Obligations.ShiftingAShaft := by
  refine fun mask z h h1 s => ⟨shiftShaft_done, shiftShaft_refuses, fun start within full => ?_⟩
  obtain ⟨shifting, same⟩ : h1.st = 1 ∧ shiftShaft mask z h = shiftShaft mask z h1 := by
    rcases start with ⟨shifting, rfl⟩ | ⟨idle, notDone, v, held, rfl⟩
    · exact ⟨shifting, rfl⟩
    · exact ⟨rfl, shiftShaft_loads idle notDone held⟩
  obtain ⟨qs, p, n, hr⟩ : ∃ qs p n, shiftPlanes h1 z = (qs, p, n) := ⟨_, _, _, rfl⟩
  obtain ⟨consecutive, rfl, inside, few, zeros, one, stops⟩ := shiftPlanes_spec h1 z within hr
  exact ⟨qs, n, _, same ▸ gives_shiftShaft shifting full hr, consecutive, rfl, inside, few, zeros, one, stops⟩

end Sys2Proof.Machine

/-! O33: the beats (R285 to R294). -/

namespace Sys2Proof.Machine

/-! ## The checks and holds of a beat (R277, R285) -/

section
variable {mask : Nat} {s t : State}

theorem gives_checkOwner (own : s.core.dot.owner = some s.slot) : Gives (checkOwner mask) s () s :=
  (gives_get s).bind (gives_check (by simp [own]) _ _ s)

theorem plain_checkOwner (mask : Nat) : Plain (checkOwner mask) := plain_get.bind fun _ => plain_check _ _ _

theorem stops_checkOwner (other : s.core.dot.owner ≠ some s.slot) : Stops (checkOwner mask) s (.raise .illegalUse (BitVec.ofNat 64 mask)) s [] :=
  (gives_get s).stops plain_get (stops_check (by simpa using other) _ _ s)

theorem gives_holdTransition (settled : s.settled mask) : Gives (holdTransition mask) s () s := by
  refine (gives_get s).bind (gives_hold (List.all_eq_true.mpr fun e he => ?_) s)
  by_cases named : bitAt mask e.shaft = true
  · simp [settled e he named]
  · simp [named]

end

theorem mem_maskShafts {mask k : Nat} : k ∈ maskShafts mask ↔ k < 8 ∧ bitAt mask k = true := by simp [maskShafts]

theorem maskShafts_eq_nil {mask : Nat} (few : mask < 256) : maskShafts mask = [] ↔ mask = 0 := by
  constructor
  · intro empty
    refine Nat.eq_of_testBit_eq fun k => ?_
    rw [Nat.zero_testBit]
    by_cases low : k < 8
    · have := List.eq_nil_iff_forall_not_mem.mp empty k
      simpa [mem_maskShafts, low, bitAt_eq_testBit] using this
    · have high : 2 ^ 8 ≤ 2 ^ k := Nat.pow_le_pow_right (by decide) (Nat.le_of_not_lt low)
      exact Nat.testBit_lt_two_pow (few.trans_le high)
  · rintro rfl
    decide

/-! ## mpush (R287) -/

/-- The format of the first shaft that a mask names, in which mpush reads its operands. -/
def State.pushAf (s : State) (mask : Nat) : Nat :=
  match maskShafts mask with
  | [] => 0
  | k :: _ => (s.shaft k).af

/-- What mpush does once its operands have given vec, the half-vector of each shaft; form is the check of their form. -/
def pushBeat (mask : Nat) (s : State) (form : Act Unit) (vec : Nat → HalfVec) : Act Unit := do
  checkOwner mask
  if mask != 0 then
    check ((maskShafts mask).all fun k => (s.shaft k).af != 0 && !(s.shaft k).rb && (s.shaft k).af == s.pushAf mask) .illegalUse (word mask)
    check ((maskShafts mask).all fun k => (s.shaft k).back.isNone) .illegalUse (word mask)
    form
    holdTransition mask
    stage (.charge (8 * (maskShafts mask).length))
    stage (.beat 0 mask [] (s.core.dot.shafts.mapIdx fun k x => if bitAt mask k then { x with back := some (vec k) } else x))

theorem Runs.after_ite {α : Type} {r : Host.Outcome State Fault Refusal} {c : Prop} [Decidable c] {m n : Act α} {f : α → Act Unit} {s t : State} {x : α}
    (run : Runs r (if c then m >>= f else n >>= f) s) (h : Gives (if c then m else n) s x t) (hm : Plain m) (hn : Plain n) : Runs r (f x) t := by
  by_cases holds : c
  · rw [if_pos holds] at run h
    exact run.after h hm
  · rw [if_neg holds] at run h
    exact run.after h hn

theorem Runs.of_true {r : Host.Outcome State Fault Refusal} {c : Prop} [Decidable c] {m n : Act Unit} {s : State} (run : Runs r (if c then m else n) s)
    (holds : c) : Runs r m s := by rwa [if_pos holds] at run

theorem Runs.of_false {r : Host.Outcome State Fault Refusal} {c : Prop} [Decidable c] {m n : Act Unit} {s : State} (run : Runs r (if c then m else n) s)
    (fails : ¬ c) : Runs r n s := by rwa [if_neg fails] at run

section
variable {m : Fin 256} {s : State}

theorem runs_mpush_reg {i j : Fin 32} {hi : Wide} (freeI : s.ctx.busy (.v i.val) = false) (freeJ : s.ctx.busy (.v j.val) = false)
    (high : Gives (if s.pushAf m.val ≤ 2 ∧ i.val < 31 then readVReg (i.val + 1) else pure 0) s hi s) :
    Runs (exec (.mpush m (.reg i) (.reg j)) s) (pushBeat m.val s (check (!(s.pushAf m.val ≤ 2 && i.val == 31)) .illegalUse 31) fun k =>
      halfVecOfRegs (afFmt (s.pushAf m.val)) (s.shaft k).pol ((s.ctx.regs.readV i.val).toNat + hi.toNat * 2 ^ 1024) (s.ctx.regs.readV j.val).toNat) s :=
  (((((runs_runSlot _ s : Runs (exec (.mpush m (.reg i) (.reg j)) s) _ s).after (gives_get s) plain_get).after (gives_readVReg freeI)
    (plain_readVReg _)).after_ite high (plain_readVReg _) (plain_pure _)).after (gives_readVReg freeJ) (plain_readVReg _)).after (gives_pure _ s) (plain_pure _)

/-- The register above the first operand, where the format reads it and there is one (R287). -/
theorem gives_high {i : Fin 32} (free : i.val < 31 → s.ctx.busy (.v (i.val + 1)) = false) (af : Nat) :
    ∃ hi, Gives (if af ≤ 2 ∧ i.val < 31 then readVReg (i.val + 1) else pure 0) s hi s := by
  by_cases reads : af ≤ 2 ∧ i.val < 31
  · exact ⟨_, Gives.of_true reads (gives_readVReg (free reads.2))⟩
  · exact ⟨_, Gives.of_false reads (gives_pure 0 s)⟩

/-- With a mask of 0, a beat of the owner does nothing but its beat. -/
theorem gives_pushBeat_zero {form : Act Unit} {vec : Nat → HalfVec} (own : s.core.dot.owner = some s.slot) : Gives (pushBeat 0 s form vec) s () s :=
  (gives_checkOwner own).bind (gives_pure () s)

/-- The format of the shafts that a mask names, where they are of one format. -/
theorem State.pushAf_eq {af : Nat} (names : m.val ≠ 0) (same : ∀ k ∈ maskShafts m.val, (s.shaft k).af = af) : s.pushAf m.val = af := by
  unfold State.pushAf
  split
  · next empty => exact absurd ((maskShafts_eq_nil m.isLt).mp empty) names
  · next k _ first => exact same k (first ▸ List.mem_cons_self ..)

theorem gives_pushBeat {form : Act Unit} {vec : Nat → HalfVec} {t : State} {af : Nat} (names : m.val ≠ 0)
    (good : ∀ k ∈ maskShafts m.val, (s.shaft k).af = af ∧ (s.shaft k).rb = false ∧ (s.shaft k).back = none) (format : af ≠ 0)
    (own : t.core.dot.owner = some t.slot) (settled : t.settled m.val) (ok : Gives form t () t) :
    Gives (pushBeat m.val s form vec) t () (t.staged [.charge (8 * (maskShafts m.val).length),
      .beat 0 m.val [] (s.core.dot.shafts.mapIdx fun k x => if bitAt m.val k then { x with back := some (vec k) } else x)]) := by
  have same := State.pushAf_eq names fun k hk => (good k hk).1
  have shafts : ((maskShafts m.val).all fun k => (s.shaft k).af != 0 && !(s.shaft k).rb && (s.shaft k).af == s.pushAf m.val) = true :=
    List.all_eq_true.mpr fun k hk => by
      obtain ⟨hf, unbound, -⟩ := good k hk
      simp [hf, unbound, same, format]
  have empty : ((maskShafts m.val).all fun k => (s.shaft k).back.isNone) = true :=
    List.all_eq_true.mpr fun k hk => by simp [(good k hk).2.2]
  exact (gives_checkOwner own).bind (Gives.of_true (bne_iff_ne.mpr names) ((gives_check shafts _ _ t).bind ((gives_check empty _ _ t).bind
    (ok.bind ((gives_holdTransition settled).bind (Gives.after_stage (gives_stage _ _)))))))

/-- A slot whose operands come from a ring, popped or peeked. -/
theorem runs_mpush_ring {q : Fin 16} {j : Fin 32} {pops : Bool} {v : Nat} {u : State} (names : m.val ≠ 0) (feeds : (s.ctx.ring q.val).feeds (s.pushAf m.val) = true)
    (hu : u = if pops then s.staged [.pop q.val] else s)
    (element : Gives (ringElem q.val (if pops then s.bundle.pops q.val else 0) (if pops then 32 + q.val else 48 + q.val) fun r => r.feeds (s.pushAf m.val)) s v s) :
    Runs (exec (.mpush m (if pops then .pop q else .peek q) (.reg j)) s) (pushBeat m.val s
      (check ((s.ctx.ring q.val).feeds (s.pushAf m.val)) .illegalUse (word (if pops then Src.pop q else .peek q).code))
      fun _ => halfVecOfRing (afFmt (s.pushAf m.val)) (s.ctx.ring q.val).halfPol v) u := by
  have reads : (m.val != 0 && (s.ctx.ring q.val).feeds (s.pushAf m.val)) = true := by simp [names, feeds]
  cases pops with
  | true =>
    have popped := ((((runs_runSlot _ s : Runs (exec (.mpush m (.pop q) (.reg j)) s) _ s).after (gives_get s) plain_get).of_true reads).after element
      (plain_ringElem _ _ _ _)).of_true rfl
    exact hu ▸ (popped.after (gives_stage _ s) (plain_stage _)).after (gives_pure _ _) (plain_pure _)
  | false =>
    have peeked := ((((runs_runSlot _ s : Runs (exec (.mpush m (.peek q) (.reg j)) s) _ s).after (gives_get s) plain_get).of_true reads).after element
      (plain_ringElem _ _ _ _)).of_false Bool.false_ne_true
    exact hu ▸ peeked.after (gives_pure _ _) (plain_pure _)

end

/-! ## macc, mdrain and macc.d (R290, R293, R294) -/

section
variable {kind : Nat} {fold drain : Bool} {m : Fin 256} {s : State}

theorem foldBeat_stages (own : s.core.dot.owner = some s.slot) (whole : s.splitGroup m.val = none) (settled : s.settled m.val)
    (done : fold = true → (∀ k ∈ maskShafts m.val, (s.shaft k).st = 2) ∧ ∀ e ∈ s.groupHalves m.val, e.held = false)
    (bus : drain = true → s.core.busLeft = 0 ∨ (if fold then s.groupHalves m.val else (s.groupHalves m.val).filter DotEntry.held) = []) :
    foldBeat kind fold drain m s = s.stages [.charge ((if kind = 4 then 8 else 4) * (s.groupHalves m.val).length),
      .beat kind m.val [] s.core.dot.shafts] := by
  have free : (!drain || (if fold then s.groupHalves m.val else (s.groupHalves m.val).filter DotEntry.held).isEmpty || s.core.busLeft == 0) = true := by
    cases drain with
    | false => rfl
    | true => rcases bus rfl with idle | empty <;> simp [*]
  refine runSlot_gives ((gives_checkOwner own).bind ((gives_get s).bind ?_))
  simp only [whole]
  cases fold with
  | false => exact (gives_holdTransition settled).bind ((gives_hold free s).bind (Gives.after_stage (gives_stage _ _)))
  | true =>
    obtain ⟨shifted, open'⟩ := done rfl
    have noneHeld : (s.groupHalves m.val).find? DotEntry.held = none := List.find?_eq_none.mpr fun e he => by simp [open' e he]
    have shafts : ((maskShafts m.val).all fun k => (s.shaft k).st == 2) = true := by simpa using shifted
    simp only [noneHeld]
    exact Gives.of_true trivial ((gives_check shafts _ _ s).bind ((gives_holdTransition settled).bind ((gives_hold free s).bind
      (Gives.after_stage (gives_stage _ _)))))

theorem foldBeat_refuses (other : s.core.dot.owner ≠ some s.slot) :
    foldBeat kind fold drain m s = .next (s.raised .illegalUse (BitVec.ofNat 64 m.val) false) :=
  runSlot_refuses (stops_checkOwner other).bind

end

/-- Settles O33: mpush is its operands and pushBeat, mshift its shafts in turn, the other three foldBeat. -/
theorem beatSlots : Obligations.BeatSlots := by
  refine fun m z i j s t sh ps af hi => ⟨fun other => ⟨fun freeI freeJ freeI' => ?pushOther, ?shiftOther, foldBeat_refuses other, foldBeat_refuses other,
    foldBeat_refuses other⟩, fun own => ⟨?push, fun freeI freeJ freeI' => ?zero, ?ring, fun shafts settled => ?shift, fun whole settled => ?fold⟩⟩
  case pushOther =>
    obtain ⟨_, high⟩ := gives_high freeI' (s.pushAf m.val)
    exact (runs_mpush_reg freeI freeJ high).2 _ _ _ (stops_checkOwner other).bind
  case shiftOther => exact runSlot_refuses (stops_checkOwner other).bind
  case push =>
    rintro names good format settled freeI freeJ low high rfl
    have same := State.pushAf_eq names fun k hk => (good k hk).1
    have read : Gives (if s.pushAf m.val ≤ 2 ∧ i.val < 31 then readVReg (i.val + 1) else pure 0) s hi s := by
      rw [same]
      by_cases two : af ≤ 2
      · obtain ⟨below, free, rfl⟩ := low two
        exact Gives.of_true ⟨two, below⟩ (gives_readVReg free)
      · rw [high (Nat.lt_of_not_le two)]
        exact Gives.of_false (fun h => two h.1) (gives_pure 0 s)
    have form : (!(s.pushAf m.val ≤ 2 && i.val == 31)) = true := by
      rw [same]
      by_cases two : af ≤ 2
      · simp [(low two).1.ne]
      · simp [two]
    have pushed := (runs_mpush_reg freeI freeJ read).1 _ (gives_pushBeat names good format own settled (gives_check form _ _ s))
    rwa [same] at pushed
  case zero =>
    obtain ⟨_, high⟩ := gives_high freeI' (s.pushAf 0)
    exact ((runs_mpush_reg (m := 0) freeI freeJ high).1 _ (gives_pushBeat_zero own)).trans (by rw [State.stages, staged_nil])
  case ring =>
    rintro q v pops u names good format settled feeds hu element rfl
    have same := State.pushAf_eq names fun k hk => (good k hk).1
    rw [← same] at feeds element
    obtain ⟨core, slot, unmoved⟩ : u.core = s.core ∧ u.slot = s.slot ∧ (u.settled m.val ↔ s.settled m.val) := by
      cases pops <;> exact hu ▸ ⟨rfl, rfl, Iff.rfl⟩
    have pushed := (runs_mpush_ring (j := 0) names feeds hu element).1 _ (gives_pushBeat names good format (by rw [core, slot]; exact own) (unmoved.mpr settled)
      (gives_check feeds _ _ u))
    rwa [same] at pushed
  case shift =>
    exact runSlot_gives ((gives_checkOwner own).bind (shafts.bind ((gives_holdTransition settled).bind (gives_stage _ t))))
  case fold =>
    refine ⟨fun done open' => ⟨foldBeat_stages own whole settled (fun _ => ⟨done, open'⟩) (by simp), fun idle =>
      foldBeat_stages own whole settled (fun _ => ⟨done, open'⟩) fun _ => idle⟩, fun idle => foldBeat_stages own whole settled (by simp) fun _ => ?_⟩
    exact idle.imp_right fun open' => List.filter_eq_nil_iff.mpr fun e he => by simp [open' e he]

end Sys2Proof.Machine

/-! O31: the instructions of the sum file and the number of the slot that stages them (R261, R325). -/

namespace Sys2Proof.Machine

/-- eclr stages its clear with the number of its slot, by which a park and a drain tell its bundle (R325, R330). -/
theorem eclr_stages {e m : Fin 8} {s w : State} (freeE : s.ctx.busy (.e e.val) = false) (freeM : s.ctx.busy (.m m.val) = false)
    (drains : HeldUnless s (s.drainsPast = true) w) : exec (.eclr e m) s = w.stages [.laneAct
      { slot := s.slot, left := 3, op := .clear (s.ctx.regs.readE e.val) (s.ctx.regs.readM m.val).toNat, tag := 0, bno := s.accNo }] := by
  have held := gives_hold_of_heldUnless drains Iff.rfl
  obtain ⟨_, rfl⟩ := drains.exists_mark
  exact runSlot_gives ((gives_readBase freeE).bind ((gives_readMask freeM).bind ((gives_get s).bind (held.bind (gives_of_run fun _ => rfl)))))

/-- The reset state with the slot at position 1 of its bundle at work. -/
def secondSlot : State := { State.reset with bundle := { State.reset.bundle with pos := 1 } }

/-- Refutes O31: its act leaves the number of its slot at 0, where the slots of the sum file stage their own number. On secondSlot, whose number is 1,
eclr meets each hypothesis of its clause and stages an act of number 1. -/
theorem not_sumFileSlots : ¬ Obligations.SumFileSlots := by
  intro h
  obtain ⟨-, -, window⟩ := h .fp32 .rne 0 0 0 0 0 (.reg 0) secondSlot secondSlot 0 _ _ rfl rfl
  have drains : HeldUnless secondSlot (secondSlot.drainsPast = true) secondSlot := .inl ⟨rfl, rfl⟩
  obtain ⟨-, -, clears, -⟩ := window rfl secondSlot _ drains rfl
  have same := (clears rfl).symm.trans (eclr_stages rfl rfl drains)
  injection same with same
  have numbers := congrArg (fun t : State => t.bundle.effects.map fun e => match e with | .laneAct a => a.bno | _ => 0) same
  exact absurd numbers (by decide)

end Sys2Proof.Machine

/-! O35: mset, mmode, mglaze, mchk and mstat (R283, R284, R301 to R304). -/

namespace Sys2Proof.Machine

/-- The pieces of the bits at a are the bits at each piece's own place. -/
theorem Memory.chunks_readBits (m : Memory) (a : Nat) {w n W : Nat} (whole : w * n = W) :
    chunks w n (m.readBits a W) = (List.range n).map fun k => m.readBits (a + w * k) w := by
  rw [chunks_eq_map]
  refine List.map_congr_left fun k hk => Memory.bits_readBits m a ?_
  have piece : w * (k + 1) ≤ w * n := Nat.mul_le_mul_left w (List.mem_range.mp hk)
  rwa [Nat.mul_succ, whole] at piece

/-- The first of some successive numbers that p holds of. -/
theorem find?_map_add_range {p : Nat → Bool} {f n k : Nat} (below : k < n) (first : ∀ j < k, p (f + j) = false) (here : p (f + k) = true) :
    ((List.range n).map (f + ·)).find? p = some (f + k) := by
  have found : (List.range n).find? (p ∘ (f + ·)) = some k :=
    List.find?_range_eq_some.mpr ⟨here, List.mem_range.mpr below, fun j hj => by simp [first j hj]⟩
  rw [List.find?_map, found]
  rfl

theorem plain_hold (ok : Bool) : Plain (hold ok) := by
  unfold hold; cases ok
  · exact plain_modify _
  · exact plain_pure _

theorem Plain.ite {α : Type} {c : Prop} [Decidable c] {m n : Act α} (hm : Plain m) (hn : Plain n) : Plain (if c then m else n) := by
  split
  · exact hm
  · exact hn

theorem plain_loadWaits (sp : Space) (fe : Nat) (rs : List (Nat × Nat)) : Plain (loadWaits sp fe rs) := by
  have clears (l : List (Nat × Nat)) : Plain (l.forM fun r => stage (.clearFull r.1 r.2)) := by
    induction l with
    | nil => exact plain_pure _
    | cons r t ih => exact (plain_stage _).bind fun _ => ih
  refine plain_get.bind fun s => ?_
  extract_lets ready staged rest
  have hstaged : Plain (staged ()) := (plain_stage _).bind fun _ => .ite (clears rs) (plain_pure _)
  have hrest : Plain (rest ()) := .ite ((plain_modify _).bind fun _ => hstaged) hstaged
  split
  · exact (plain_throw _).bind fun _ => hrest
  · exact (plain_hold _).bind fun _ => hrest

/-! ## mset (R283, R284) -/

section
variable {a b : Fin 32} {s : State} {x w : Word}

/-- The shafts that the word of mset gives. -/
def msetShafts (w : Word) : List Shaft := (List.range 8).map fun k => { Shaft.off with byte := w.toNat / 2 ^ (8 * k) % 256 }

theorem map_chunks_msetShafts (w : Word) : ((chunks 8 8 w.toNat).map fun x => { Shaft.off with byte := x }) = msetShafts w := by
  rw [chunks_eq_map, List.map_map]
  rfl

/-- The 128 entries of the descriptor at an address (Table 13.5). -/
def State.descriptor (s : State) (x : Word) : List Nat := (List.range 128).map fun k => s.core.act.readBits (x.toNat + 64 * k) 64

/-- The last part of mset, on the entries of its descriptor. -/
def msetEnd (s : State) (d w : Word) : Act Unit :=
  match s.badEntry w.toNat [] (s.descriptor d) with
  | some e => raise .format (word e)
  | none =>
    match (s.descriptor d).find? fun e => descV e && !(s.halfAt (descF e)).nameable with
    | some e => raise .illegalUse (word (descF e))
    | none => stage (.mset (msetShafts w) (((s.descriptor d).zipIdx.filter fun p => descV p.1).map fun p => s.newEntry p.2 p.1))

/-- mset from the check of its shaft bytes on (R284). -/
def msetTake (s : State) (d w : Word) : Act Unit := do
  check ((msetShafts w).all fun h => shaftByteOk h.byte && (!h.rb || (s.ctx.ring h.ringNo).feeds h.af)) .format w
  check (d.toNat % 64 == 0 && d.toNat + 8192 ≤ 2 ^ 24) .illegalUse d
  loadWaits .act 0 [(d.toNat, 8192)]
  msetEnd s d w

/-- mset once its operands are read (R284). -/
def msetBody (s : State) (d w : Word) : Act Unit := do
  check (s.core.dot.owner.isNone || s.core.dot.owner == some s.slot) .illegalUse w
  check (!(s.core.dot.shafts.any fun h => h.st == 1 || h.st == 2) && !s.core.dot.entries.any DotEntry.held) .illegalUse w
  if w = 0 then stage .mrelease else msetTake s d w

theorem State.chunks_descriptor (s : State) (x : Word) : chunks 64 128 (s.core.act.readBits x.toNat 8192) = s.descriptor x :=
  Memory.chunks_readBits _ _ rfl

theorem execMset_eq (a b : Fin 32) (s : State) :
    execMset a b s = runSlot (do
      let d ← readReg a.val
      let w ← readReg b.val
      let s ← get
      msetBody s d w) s := by
  simp only [execMset, msetBody, msetTake, msetEnd, map_chunks_msetShafts, State.chunks_descriptor] <;> rfl

theorem runs_mset (freeA : s.ctx.busy (.s a.val) = false) (freeB : s.ctx.busy (.s b.val) = false) :
    Runs (exec (.mset a b) s) (msetBody s (s.ctx.regs.readS a.val) (s.ctx.regs.readS b.val)) s := by
  have run : Runs (exec (.mset a b) s) _ s := (execMset_eq a b s).symm ▸ runs_runSlot _ s
  exact ((run.after (gives_readReg freeA) (plain_readReg _)).after (gives_readReg freeB) (plain_readReg _)).after (gives_get s) plain_get

theorem State.setFree_iff (s : State) :
    (s.core.dot.owner.isNone || s.core.dot.owner == some s.slot) = true ↔ s.core.dot.owner = none ∨ s.core.dot.owner = some s.slot := by simp

theorem State.setIdle_iff (s : State) :
    (!(s.core.dot.shafts.any fun h => h.st == 1 || h.st == 2) && !s.core.dot.entries.any DotEntry.held) = true ↔
      (∀ h ∈ s.core.dot.shafts, h.st ≠ 1 ∧ h.st ≠ 2) ∧ ∀ e ∈ s.core.dot.entries, e.held = false := by simp

theorem stops_msetBody (taken : ¬ ((s.core.dot.owner = none ∨ s.core.dot.owner = some s.slot) ∧
    (∀ h ∈ s.core.dot.shafts, h.st ≠ 1 ∧ h.st ≠ 2) ∧ ∀ e ∈ s.core.dot.entries, e.held = false)) :
    Stops (msetBody s x w) s (.raise .illegalUse w) s [] := by
  by_cases free : s.core.dot.owner = none ∨ s.core.dot.owner = some s.slot
  · have busy := Bool.eq_false_iff.mpr fun idle => taken ⟨free, s.setIdle_iff.mp idle⟩
    exact (gives_check (s.setFree_iff.mpr free) _ _ s).stops (plain_check _ _ _) (stops_check busy _ _ s).bind
  · exact (stops_check (Bool.eq_false_iff.mpr fun h => free (s.setFree_iff.mp h)) _ _ s).bind

/-- The slot of an mset whose dot set is free goes on to its word (R284). -/
theorem Runs.msetWord {r : Host.Outcome State Fault Refusal} (run : Runs r (msetBody s x w) s)
    (free : s.core.dot.owner = none ∨ s.core.dot.owner = some s.slot) (shafts : ∀ h ∈ s.core.dot.shafts, h.st ≠ 1 ∧ h.st ≠ 2)
    (open' : ∀ e ∈ s.core.dot.entries, e.held = false) : Runs r (if w = 0 then stage .mrelease else msetTake s x w) s :=
  (run.after (gives_check (s.setFree_iff.mpr free) _ _ s) (plain_check _ _ _)).after
    (gives_check (s.setIdle_iff.mpr ⟨shafts, open'⟩) _ _ s) (plain_check _ _ _)

/-- The shaft bytes of mset's word and the rings they name are as R283 asks. -/
def State.shaftsOk (s : State) (w : Word) : Bool := (msetShafts w).all fun h => shaftByteOk h.byte && (!h.rb || (s.ctx.ring h.ringNo).feeds h.af)

theorem State.shaftsOk_iff : s.shaftsOk w = true ↔ ∀ h ∈ msetShafts w, shaftByteOk h.byte = true ∧ (h.rb = true → (s.ctx.ring h.ringNo).feeds h.af = true) := by
  rw [State.shaftsOk, List.all_eq_true]
  refine forall₂_congr fun h _ => ?_
  cases h.rb <;> simp

theorem stops_msetTake_shaft (bad : s.shaftsOk w = false) : Stops (msetTake s x w) s (.raise .format w) s [] := (stops_check bad _ _ s).bind

theorem stops_msetTake_place (good : s.shaftsOk w = true) (out : x.toNat % 64 ≠ 0 ∨ 2 ^ 24 < x.toNat + 8192) :
    Stops (msetTake s x w) s (.raise .illegalUse x) s [] :=
  (gives_check good _ _ s).stops (plain_check _ _ _) (stops_check (by simp; omega) _ _ s).bind

/-- The slot of an mset whose word and address are good goes on to the entries of its descriptor, the descriptor's cells named. -/
theorem Runs.msetEntries {r : Host.Outcome State Fault Refusal} (run : Runs r (msetTake s x w) s) (good : s.shaftsOk w = true)
    (aligned : x.toNat % 64 = 0) (inside : x.toNat + 8192 ≤ 2 ^ 24) (ready : s.loadReady .act 0 x.toNat 8192) :
    Runs r (msetEnd s x w) (s.staged [.cells .act [(x.toNat, 8192)]]) :=
  ((run.after (gives_check good _ _ s) (plain_check _ _ _)).after (gives_check (by simp [aligned]; omega) _ _ s) (plain_check _ _ _)).after
    (gives_loadWaits (by simpa using ready)) (plain_loadWaits _ _ _)

theorem stops_msetEnd_bad {e : Nat} {t : State} (bad : s.badEntry w.toNat [] (s.descriptor x) = some e) :
    Stops (msetEnd s x w) t (.raise .format (word e)) t [] := by
  simp only [msetEnd, bad]
  exact stops_raise _ _ t

theorem stops_msetEnd_half {e : Nat} {t : State} (good : s.badEntry w.toNat [] (s.descriptor x) = none)
    (found : (s.descriptor x).find? (fun e => descV e && !(s.halfAt (descF e)).nameable) = some e) :
    Stops (msetEnd s x w) t (.raise .illegalUse (word (descF e))) t [] := by
  simp only [msetEnd, good, found]
  exact stops_raise _ _ t

theorem gives_msetEnd {t : State} (good : s.badEntry w.toNat [] (s.descriptor x) = none)
    (nameable : ∀ e ∈ s.descriptor x, descV e = true → (s.halfAt (descF e)).nameable = true) :
    Gives (msetEnd s x w) t () (t.staged [.mset (msetShafts w) (((s.descriptor x).zipIdx.filter fun p => descV p.1).map fun p => s.newEntry p.2 p.1)]) := by
  have all : (s.descriptor x).find? (fun e => descV e && !(s.halfAt (descF e)).nameable) = none :=
    List.find?_eq_none.mpr fun e he => by simpa using nameable e he
  simp only [msetEnd, good, all]
  exact gives_stage _ t

end

/-! ## mmode (R301) -/

theorem Word.bits_high_eq_zero (x : Word) {lo n : Nat} (whole : lo + n = 64) : bits x.toNat lo n = 0 ↔ x.toNat < 2 ^ lo := by
  have small : x.toNat / 2 ^ lo < 2 ^ n := Nat.div_lt_of_lt_mul (by rw [← Nat.pow_add, whole]; exact x.isLt)
  rw [bits, Nat.mod_eq_of_lt small, Nat.div_eq_zero_iff_lt (Nat.two_pow_pos lo)]

/-- The half that a word names is its low 13 bits. -/
theorem bits_low_half (x : Nat) : bits x 0 13 = x % 8192 := by simp [bits]

section
variable {a b : Fin 32} {s : State} {x w : Word} {f n fmt : Nat} {dot : Bool}

/-- The form of mmode's word: the format that its bits give stands with a mode of DOT, and no higher bit does (R301). -/
def mmodeForm (x : Word) (fmt : Nat) (dot : Bool) : Bool := bits x.toNat 19 45 == 0 && (if dot then 0x08 ≤ fmt && fmt ≤ 0x0B else fmt == 0)

theorem mmodeForm_iff : mmodeForm x fmt dot = true ↔ x.toNat < 2 ^ 19 ∧ (dot = true → 8 ≤ fmt ∧ fmt ≤ 11) ∧ (dot = false → fmt = 0) := by
  rw [mmodeForm, Bool.and_eq_true, beq_iff_eq, Word.bits_high_eq_zero x rfl]
  cases dot <;> simp

/-- The last part of mmode, on its halves in ascending order. -/
def mmodeHalves (s : State) (w : Word) (f fmt : Nat) (dot : Bool) : Act Unit :=
  match ((List.range w.toNat).map (f + ·)).find? fun k => !s.mmodeOk k fmt dot with
  | some k => raise .illegalUse (word k)
  | none => stage (.mmode f w.toNat fmt dot)

/-- mmode from its form on (R301). -/
def mmodeBody (x w : Word) (f fmt : Nat) (dot : Bool) : Act Unit := do
  check (mmodeForm x fmt dot) .format x
  check (w.toNat != 0 && w.toNat ≤ 128 && f + w.toNat ≤ 8192) .illegalUse w
  let s ← get
  mmodeHalves s w f fmt dot

theorem exec_mmode (a b : Fin 32) (s : State) :
    exec (.mmode a b) s = runSlot (do
      let x ← readReg a.val
      let w ← readReg b.val
      mmodeBody x w (bits x.toNat 0 13) (bits x.toNat 14 5) (bitAt x.toNat 13)) s := rfl

theorem runs_mmode (freeA : s.ctx.busy (.s a.val) = false) (freeB : s.ctx.busy (.s b.val) = false) (hx : x = s.ctx.regs.readS a.val)
    (hw : w = s.ctx.regs.readS b.val) (hf : f = x.toNat % 8192) (hdot : dot = x.getLsbD 13) (hfmt : fmt = x.toNat / 2 ^ 14 % 32) :
    Runs (exec (.mmode a b) s) (mmodeBody x w f fmt dot) s := by
  have run := ((exec_mmode a b s ▸ runs_runSlot _ s : Runs (exec (.mmode a b) s) _ s).after (gives_readReg freeA) (plain_readReg _)).after
    (gives_readReg freeB) (plain_readReg _)
  rwa [← hx, ← hw, bitAt_toNat, ← hdot, show bits x.toNat 14 5 = fmt from hfmt.symm,
    bits_low_half, ← hf] at run

theorem stops_mmodeBody_form (bad : mmodeForm x fmt dot = false) : Stops (mmodeBody x w f fmt dot) s (.raise .format x) s [] := (stops_check bad _ _ s).bind

theorem stops_mmodeBody_count (form : mmodeForm x fmt dot = true) (out : w.toNat = 0 ∨ 128 < w.toNat ∨ 8192 < f + w.toNat) :
    Stops (mmodeBody x w f fmt dot) s (.raise .illegalUse w) s [] :=
  (gives_check form _ _ s).stops (plain_check _ _ _) (stops_check (by simp; omega) _ _ s).bind

/-- A slot of mmode whose word and count are good goes on to its halves. -/
theorem Runs.mmodeHalves {r : Host.Outcome State Fault Refusal} (run : Runs r (mmodeBody x w f fmt dot) s) (form : mmodeForm x fmt dot = true)
    (some : 0 < w.toNat) (few : w.toNat ≤ 128) (inside : f + w.toNat ≤ 8192) :
    Runs r (mmodeHalves s w f fmt dot) s :=
  ((run.after (gives_check form _ _ s) (plain_check _ _ _)).after (gives_check (by simp; omega) _ _ s) (plain_check _ _ _)).after
    (gives_get s) plain_get

theorem stops_mmodeHalves {k : Nat} (below : k < w.toNat) (first : ∀ j < k, s.mmodeOk (f + j) fmt dot = true) (bad : s.mmodeOk (f + k) fmt dot = false) :
    Stops (mmodeHalves s w f fmt dot) s (.raise .illegalUse (word (f + k))) s [] := by
  have found := find?_map_add_range (p := fun k => !s.mmodeOk k fmt dot) below (by simpa using first) (by simpa using bad)
  simp only [mmodeHalves, found]
  exact stops_raise _ _ s

theorem gives_mmodeHalves (ok : ∀ k < w.toNat, s.mmodeOk (f + k) fmt dot = true) :
    Gives (mmodeHalves s w f fmt dot) s () (s.staged [.mmode f w.toNat fmt dot]) := by
  have none : ((List.range w.toNat).map (f + ·)).find? (fun k => !s.mmodeOk k fmt dot) = none := by simpa using ok
  simp only [mmodeHalves, none]
  exact gives_stage _ s

end

/-! ## mstat (R304) -/

section
variable {a d : Fin 32} {s : State} {x : Word}

/-- The form of mstat's operand: a selector below 3, and nothing beside it but the half that selector 0 names (Table 13.13). -/
def mstatForm (x : Word) : Bool :=
  bits x.toNat 13 3 ≤ 2 && bits x.toNat 16 48 == 0 && (bits x.toNat 13 3 == 0 || bits x.toNat 0 13 == 0)

theorem mstatForm_iff : mstatForm x = true ↔ x.toNat < 2 ^ 16 ∧ x.toNat / 8192 ≤ 2 ∧ (0 < x.toNat / 8192 → x.toNat % 8192 = 0) := by
  rw [mstatForm, Bool.and_eq_true, Bool.and_eq_true, beq_iff_eq, Word.bits_high_eq_zero x rfl, Bool.or_eq_true, bits_low_half, decide_eq_true_iff]
  simp [bits]
  omega

theorem exec_mstat (d a : Fin 32) (s : State) :
    exec (.mstat d a) s = runSlot (do
      let x ← readReg a.val
      readyDest (.s d.val)
      check (mstatForm x) .illegalUse x
      let s ← get
      let n ← modifyGet State.draw
      putInter (.s d.val) (n + 1) (s.mstatVal (bits x.toNat 13 3) (bits x.toNat 0 13)) 1) s := rfl

end

/-! ## The obligation -/

/-- Settles O35: each instruction is its operands, its checks in their order, and the one effect they let it stage. -/
theorem macroSlots : Obligations.MacroSlots := by
  rintro a b d s t x w f n fmt dot sh es hx hw freeA freeB
  have readA : Gives (readReg a.val) s x s := hx ▸ gives_readReg freeA
  have readB : Gives (readReg b.val) s w s := hw ▸ gives_readReg freeB
  have set : Runs (exec (.mset a b) s) (msetBody s x w) s := by
    rw [hx, hw]
    exact runs_mset freeA freeB
  refine ⟨fun taken => ?taken, fun free shafts open' => ⟨?release, ?take⟩, fun hf hdot hfmt hn => ?mmode, fun few => ?glaze, fun many => ?glazeMany,
    ?chk, ?chkNot, fun freeD out => ?statNot, fun low sel none freeD => ?stat⟩
  case taken =>
    refine set.2 _ _ _ (stops_msetBody ?_)
    rintro ⟨owner, shafts, open'⟩
    rcases taken with ⟨own, other⟩ | ⟨h, hh, loaded⟩ | ⟨e, he, held⟩
    · exact owner.elim own other
    · exact loaded.elim (shafts h hh).1 (shafts h hh).2
    · exact Bool.false_ne_true ((open' e he).symm.trans held)
  case release => exact fun zero => ((set.msetWord free shafts open').of_true zero).1 _ (gives_stage _ s)
  case take =>
    rintro names rfl
    have take := (set.msetWord free shafts open').of_false names
    refine ⟨fun bad => take.2 _ _ _ (stops_msetTake_shaft ?_), fun good => ?_⟩
    · refine Bool.eq_false_iff.mpr fun ok => ?_
      obtain ⟨h, hh, form⟩ := bad
      obtain ⟨byteOk, feeds⟩ := State.shaftsOk_iff.mp ok h hh
      rcases form with byte | ⟨bound, starves⟩
      · exact Bool.false_ne_true (byte.symm.trans byteOk)
      · exact Bool.false_ne_true (starves.symm.trans (feeds bound))
    have shaftsOk := State.shaftsOk_iff.mpr good
    refine ⟨fun out => take.2 _ _ _ (stops_msetTake_place shaftsOk out), ?_⟩
    rintro aligned inside ready rfl rfl
    have entries := take.msetEntries shaftsOk aligned inside ready
    exact ⟨fun e bad => entries.2 _ _ _ (stops_msetEnd_bad bad), fun good => ⟨fun e found => entries.2 _ _ _ (stops_msetEnd_half good found),
      fun nameable => entries.1 _ (gives_msetEnd good nameable)⟩⟩
  case mmode =>
    subst hn
    have mode := runs_mmode freeA freeB hx hw hf hdot hfmt
    refine ⟨fun low dotted plain some few inside ok => ?_, fun bad => mode.2 _ _ _ (stops_mmodeBody_form ?_), fun low dotted plain => ?_⟩
    · exact (mode.mmodeHalves (mmodeForm_iff.mpr ⟨low, dotted, plain⟩) some few inside).1 _ (gives_mmodeHalves ok)
    · refine Bool.eq_false_iff.mpr fun form => ?_
      obtain ⟨low, dotted, plain⟩ := mmodeForm_iff.mp form
      rcases bad with high | ⟨isDot, out⟩ | ⟨notDot, out⟩
      · exact Nat.not_le.mpr low high
      · exact out (dotted isDot)
      · exact out (plain notDot)
    · have form := mmodeForm_iff.mpr ⟨low, dotted, plain⟩
      exact ⟨fun out => mode.2 _ _ _ (stops_mmodeBody_count form out), fun some few inside k below first bad =>
        (mode.mmodeHalves form some few inside).2 _ _ _ (stops_mmodeHalves below first bad)⟩
  case glaze =>
    exact runSlot_gives (readB.bind ((gives_check (by simpa using few) _ _ s).bind ((gives_get s).bind (Gives.after_stage (gives_stage _ _)))))
  case glazeMany => exact runSlot_refuses (readB.stops (plain_readReg _) (stops_check (by simpa using many) _ _ s).bind)
  case chk =>
    intro low fit
    have form : (bits x.toNat 13 51 == 0) = true := beq_iff_eq.mpr ((Word.bits_high_eq_zero x rfl).mpr low)
    exact runSlot_gives (readA.bind ((gives_check form _ _ s).bind ((gives_get s).bind ((gives_check (by simpa using fit) _ _ s).bind (gives_stage _ s)))))
  case chkNot =>
    intro bad
    by_cases low : x.toNat < 8192
    · have form : (bits x.toNat 13 51 == 0) = true := beq_iff_eq.mpr ((Word.bits_high_eq_zero x rfl).mpr low)
      have unfit := bad.resolve_left (Nat.not_le.mpr low)
      exact runSlot_refuses (readA.stops (plain_readReg _) ((gives_check form _ _ s).stops (plain_check _ _ _) ((gives_get s).stops plain_get
        (stops_check (by simpa using unfit) _ _ s).bind)))
    · have form : (bits x.toNat 13 51 == 0) = false := beq_eq_false_iff_ne.mpr fun zero => low ((Word.bits_high_eq_zero x rfl).mp zero)
      exact runSlot_refuses (readA.stops (plain_readReg _) (stops_check form _ _ s).bind)
  case statNot =>
    rw [exec_mstat]
    have form : mstatForm x = false := Bool.eq_false_iff.mpr fun form => by
      have := mstatForm_iff.mp form
      omega
    exact runSlot_refuses (readA.stops (plain_readReg _) ((gives_readyDest freeD).stops (plain_readyDest _) (stops_check form _ _ s).bind))
  case stat =>
    have form := mstatForm_iff.mpr ⟨low, sel, none⟩
    have selector : bits x.toNat 13 3 = x.toNat / 8192 := Nat.mod_eq_of_lt (Nat.div_lt_of_lt_mul low)
    refine ⟨s.draw.1 + 1, Nat.le_add_left .., ?_⟩
    rw [exec_mstat, ← selector, ← bits_low_half]
    exact runSlot_gives (readA.bind ((gives_readyDest freeD).bind ((gives_check form _ _ s).bind ((gives_get s).bind ((gives_draw s).bind
      (gives_putInter _ _ _ _ _))))))

end Sys2Proof.Machine

/-! O38: the four instructions of the firmware cores (R405). -/

namespace Sys2Proof.Machine

/-! ## What an instruction of a firmware core does to its core -/

section
variable {s : State} {rd rs1 rs2 : Fin 32} {c : FwCore}

theorem State.onFwCore_eq (who : s.ev.who < 4) (hc : c = s.fw.getD s.ev.who .reset) (f : FwCore → State) : s.onFwCore f = .next (f c) := by
  rw [hc]
  exact if_neg (Nat.not_le.mpr who)

/-- A core that writes a register and goes on, its record written out. -/
theorem FwCore.advance_put (k : FwCore) (i : Nat) (v : Word) :
    (k.put i v).advance =
      { k with x := if i = 0 then k.x else k.x.set i v, minstret := if k.inhibit.testBit 2 then k.minstret else k.minstret + 1, pc := k.pc + 4 } := by
  unfold FwCore.put
  split <;> rfl

/-- A queue that holds a packet is one of the device's. -/
theorem Device.queue_lt {d : Device} {q : Nat} (filled : (d.queue q).rd ≠ (d.queue q).wr) : q < d.queues.length := by
  by_contra beyond
  rw [Device.queue, List.getD_eq_default _ _ (Nat.le_of_not_lt beyond)] at filled
  exact filled rfl

theorem Device.queue_onQueue {d : Device} {q : Nat} (inside : q < d.queues.length) (f : LaunchQueue → LaunchQueue) :
    (d.onQueue q f).queue q = f (d.queue q) := by
  simp [Device.queue, Device.onQueue, List.getD_eq_getElem?_getD, inside]

theorem Device.length_onQueue (d : Device) (q : Nat) (f : LaunchQueue → LaunchQueue) : (d.onQueue q f).queues.length = d.queues.length := by
  simp [Device.onQueue]

/-- A refused LAUNCH of queue q, passed with its load status in LQSTAT (log 57). -/
def State.passRefused (s : State) (q st : Nat) : State := s.onDev fun d => (d.accept q none).onQueue q fun x => { x with stat := st }

theorem State.passRefused_ev (s : State) (q st : Nat) : (s.passRefused q st).ev = s.ev := rfl

theorem State.passRefused_stat {q : Nat} (filled : (s.dev.queue q).rd ≠ (s.dev.queue q).wr) (st : Nat) : ((s.passRefused q st).dev.queue q).stat = st :=
  congrArg LaunchQueue.stat (Device.queue_onQueue (by rw [Device.accept, Device.length_onQueue]; exact Device.queue_lt filled) _)

/-- A launch is an operation on the part alone. -/
theorem State.launch_ev (s : State) (q : Nat) : (s.launch q).ev = s.ev := by
  unfold State.launch
  dsimp only
  split <;> rfl

/-! ## A word of another device that a core asks for (log 98) -/

section
variable (hc : c = s.fw.getD s.ev.who .reset) (free : c.asked = none)
include hc free

theorem State.fwAskDone_of_none : s.fwAskDone s.ev.who = s := by
  rw [hc] at free
  rw [State.fwAskDone, State.fwCore, free]
  exact if_neg Bool.false_ne_true

/-- A word of another device that the core has not asked for is asked for. -/
theorem State.fwAnswer_asks {a w : Nat} (low : a < 2 ^ 60) (there : physDev a ≠ s.dev.devId) : s.fwAnswer s.ev.who a w = .error
    ((s.onDev fun d => d.ask 3 s.ev.who 0 { who := 19, sub := s.ev.who, addr := a, val := 0, len := w, data := [] }).onFw s.ev.who
      fun k => { k with asked := some none }) := by
  rw [hc] at free
  rw [State.fwAnswer, if_neg (by rintro (high | here); exacts [Nat.not_le.mpr low high, there here])]
  simp only [State.fwCore, free, State.fwAsked]

end

/-- A word of this device needs no answer. -/
theorem State.fwAnswer_here {k a w : Nat} (here : 2 ^ 60 ≤ a ∨ physDev a = s.dev.devId) : s.fwAnswer k a w = .ok (0, 0) := if_pos here

/-! ## The instructions -/

section
variable (who : s.ev.who < 4) (hc : c = s.fw.getD s.ev.who .reset)
include who hc

theorem exec_bfext {x y : Word} (hx : c.get rs1.val = x) (hy : c.get rs2.val = y) : exec (.bfext rd rs1 rs2) s = .next
    (if 64 < bits y.toNat 0 6 + (bits y.toNat 6 6 + 1) ∨ bits y.toNat 12 52 ≠ 0 then s.fwTrap 25
      else s.fwResult rd (word (bits x.toNat (bits y.toNat 0 6) (bits y.toNat 6 6 + 1)))) := by
  change execBfext rd rs1 rs2 s = _
  rw [execBfext, State.onFwCore_eq who hc, hx, hy]

theorem exec_rfetch {x y : Word} (hx : c.get rs1.val = x) (hy : c.get rs2.val = y) {q : LaunchQueue} (hq : q = s.dev.queue x.toNat) {adr : Nat}
    (hadr : adr = q.base * 512 + q.rd % 2 ^ q.log2n * 512) : exec (.rfetch rd rs1 rs2) s = .next
    (if 69 < x.toNat then s.fwTrap 24
      else if q.rd = q.wr then s.fwResult rd 0
      else if (s.physCause .firmware adr 512).isSome ∨ (s.poisoned (physLocal adr) 512).isSome ∨ physDev adr ≠ s.dev.devId then s.fwTrap 24
      else s.fwResult rd (word ((s.packet x.toNat).getD (y.toNat % 8) 0))) := by
  change execRfetch rd rs1 rs2 s = _
  rw [execRfetch, State.onFwCore_eq who hc, hx, hy, hadr, hq]
  rfl

theorem exec_disp {x : Word} (hx : c.get rs1.val = x) : exec (.disp rd rs1 rs2) s = .next
    (if 69 < x.toNat ∨ (s.dev.queue x.toNat).rd = (s.dev.queue x.toNat).wr ∨ packetType (s.packet x.toNat) ≠ 1 then s.fwTrap 27
      else if s.argWaits x.toNat then s.askArgs x.toNat
      else if s.headStatus x.toNat = 0 then (s.launch x.toNat).fwResult rd 0
      else (s.passRefused x.toNat (s.headStatus x.toNat)).fwResult rd
        (word (s.headStatus x.toNat))) := by
  change execDisp rd rs1 rs2 s = _
  rw [execDisp, State.onFwCore_eq who hc, hx]
  rfl

theorem exec_swait_unaligned {x : Word} (hx : c.get rs1.val = x) (odd : x.toNat % 64 ≠ 0) : exec (.swait rd rs1 rs2) s = .next (s.fwTrap 26) := by
  change execSwait rd rs1 rs2 s = _
  rw [execSwait, State.onFwCore_eq who hc, hx]
  exact congrArg _ (if_pos odd)

section
variable {x : Word} (hx : c.get rs1.val = x) (aligned : x.toNat % 64 = 0)
  (clear : ¬ (physDev x.toNat = s.dev.devId ∧ s.viewWaits false [(physLocal x.toNat, 64)] = true))
include hx aligned clear

/-- The word is not there yet: the core stays at its instruction. -/
theorem exec_swait_waits {t : State} (answer : s.fwAnswer s.ev.who x.toNat 64 = .error t) : exec (.swait rd rs1 rs2) s = .next t := by
  change execSwait rd rs1 rs2 s = _
  rw [execSwait, State.onFwCore_eq who hc, hx]
  simp only [aligned, ne_eq, not_true_eq_false, if_false, if_neg clear, answer]

/-- The word is read: the core goes on where it has reached the threshold. -/
theorem exec_swait_reads {y : Word} (hy : c.get rs2.val = y) (answer : s.fwAnswer s.ev.who x.toNat 64 = .ok (0, 0)) (free : c.asked = none) {r : Nat} {t : State}
    (read : s.fwRead s.ev.who x.toNat 64 0 0 = .ok (r, t)) :
    exec (.swait rd rs1 rs2) s = .next (if y.toNat ≤ r then t.onFw s.ev.who FwCore.advance else t) := by
  change execSwait rd rs1 rs2 s = _
  rw [execSwait, State.onFwCore_eq who hc, hx, hy]
  simp only [aligned, ne_eq, not_true_eq_false, if_false, if_neg clear, answer, State.fwAskDone_of_none hc free, read]

/-- The read is refused. -/
theorem exec_swait_refused (answer : s.fwAnswer s.ev.who x.toNat 64 = .ok (0, 0)) (free : c.asked = none) {k : Cause}
    (read : s.fwRead s.ev.who x.toNat 64 0 0 = .error k) : exec (.swait rd rs1 rs2) s = .next (s.fwTrap 26) := by
  change execSwait rd rs1 rs2 s = _
  rw [execSwait, State.onFwCore_eq who hc, hx]
  simp only [aligned, ne_eq, not_true_eq_false, if_false, if_neg clear, answer, State.fwAskDone_of_none hc free, read]

end

end
end

/-! ## The obligation -/

/-- Settles O38: each instruction is the branch of its definition that its operands and the state choose. -/
theorem firmwareInstructions : Obligations.FirmwareInstructions := by
  intro s rd rs1 rs2 c x y ends goes gives who hc hx hy hends hgoes hgives
  have hx : c.get rs1.val = x := hx.symm
  have hy : c.get rs2.val = y := hy.symm
  have traps (n : Nat) : s.fwTrap n = ends n := by rw [hends]; rfl
  have results {t : State} (same : t.ev = s.ev) (v : Word) : t.fwResult rd v = gives t v := by
    rw [hgives, hgoes, State.fwResult, same]
    simp only [FwCore.advance_put]
  refine ⟨fun few inside => ?field, fun out => ?fieldOut, fun far => ⟨?_, ?_⟩, fun near q hq => ⟨fun empty => ⟨?_, ?_⟩, ?fetch, ?notLaunch, ?asks, ?status⟩,
    fun odd => ?_, fun aligned free => ⟨fun here clear => ⟨fun r t read reached => ?_, fun r t read short => ?_, fun k read => ?_⟩, fun low there => ?_⟩⟩
  case field =>
    have pos : bits y.toNat 0 6 = y.toNat % 64 := by simp [bits]
    have wid : bits y.toNat 6 6 = y.toNat / 64 := by simp [bits]; omega
    have high : bits y.toNat 12 52 = 0 := (Word.bits_high_eq_zero y rfl).mpr few
    rw [exec_bfext who hc hx hy, pos, wid, high, if_neg (by omega), results rfl]
    rfl
  case fieldOut =>
    have high : bits y.toNat 12 52 ≠ 0 ↔ 4096 ≤ y.toNat := (not_congr (Word.bits_high_eq_zero y rfl)).trans Nat.not_lt
    have pos : bits y.toNat 0 6 = y.toNat % 64 := by simp [bits]
    have wid : bits y.toNat 6 6 = y.toNat / 64 % 64 := by simp [bits]
    rw [exec_bfext who hc hx hy, pos, wid, if_pos (out.symm.imp_right high.mpr), traps]
  · rw [exec_rfetch who hc hx hy rfl rfl, if_pos far, traps]
  · rw [exec_disp who hc hx, if_pos (.inl far), traps]
  · rw [exec_rfetch who hc hx hy hq rfl, if_neg (Nat.not_lt.mpr near), if_pos empty, results rfl]
  · rw [exec_disp who hc hx, ← hq, if_pos (.inr (.inl empty)), traps]
  case fetch =>
    intro filled adr hadr allowed clean here
    rw [exec_rfetch who hc hx hy hq hadr, if_neg (Nat.not_lt.mpr near), if_neg filled, allowed, clean, if_neg (by simp [here]), results rfl]
    rfl
  case notLaunch => exact fun _ other => by rw [exec_disp who hc hx, if_pos (.inr (.inr other)), traps]
  case asks =>
    intro filled launch waits
    rw [exec_disp who hc hx, ← hq, if_neg (by simp [near, filled, launch]), if_pos waits]
  case status =>
    intro filled launch there st hst
    have goesOn := exec_disp (rd := rd) (rs2 := rs2) who hc hx
    rw [← hq, if_neg (by simp [near, filled, launch]), if_neg (Bool.eq_false_iff.mp there), ← hst] at goesOn
    refine ⟨fun passes => ?_, fun fails => ⟨s.passRefused x.toNat st, ?_, State.passRefused_stat (hq ▸ filled) st⟩⟩
    · rw [goesOn, if_pos passes, results (s.launch_ev _)]
    · rw [goesOn, if_neg fails, results (s.passRefused_ev _ _)]
      rfl
  · rw [exec_swait_unaligned who hc hx odd, traps]
  · rw [exec_swait_reads who hc hx aligned (by simp [clear]) hy (State.fwAnswer_here here) free read, if_pos reached, hgoes]
    rfl
  · rw [exec_swait_reads who hc hx aligned (by simp [clear]) hy (State.fwAnswer_here here) free read, if_neg (Nat.not_le.mpr short)]
  · rw [exec_swait_refused who hc hx aligned (by simp [clear]) (State.fwAnswer_here here) free read, traps]
  · exact exec_swait_waits who hc hx aligned (fun here => there here.1) (State.fwAnswer_asks hc free low there)

end Sys2Proof.Machine

/-! O60: power states, retention, boot, clusters and caps (R388 to R408). -/

namespace Sys2Proof.Machine

section
variable {s : State}

/-! ## Power commands (R388) -/

theorem State.pcmdIdle_free (st : s.dev.power.st = .active) (free : s.allFree = true) :
    s.pcmdIdle = s.onPower fun p => { p with st := .idle, heldIdle := false } := by simp [State.pcmdIdle, st, free]

theorem State.pcmdIdle_busy (st : s.dev.power.st = .active) (busy : s.allFree = false) :
    s.pcmdIdle = s.onPower fun p => { p with heldIdle := true } := by simp [State.pcmdIdle, st, busy]

theorem State.pcmdIdle_not_active (st : s.dev.power.st ≠ .active) : s.pcmdIdle = s.onPower fun p => { p with pclErr := true } := if_pos st

theorem State.applyIdle_free (held : s.dev.power.heldIdle = true) (st : s.dev.power.st = .active) (free : s.allFree = true) :
    s.applyIdle = s.onPower fun p => { p with st := .idle, heldIdle := false } := if_pos ⟨held, st, free⟩

theorem State.pcmdActive_held (st : s.dev.power.st = .active) (held : s.dev.power.heldIdle = true) :
    s.pcmdActive = s.onPower fun p => { p with heldIdle := false } := by simp [State.pcmdActive, st, held]

theorem State.pcmdActive_active (st : s.dev.power.st = .active) (held : s.dev.power.heldIdle = false) :
    s.pcmdActive = s.onPower fun p => { p with pclErr := true } := by simp [State.pcmdActive, st, held, State.pcmdError]

theorem State.pcmdActive_idle (st : s.dev.power.st = .idle) : s.pcmdActive = s.onPower fun p => { p with st := .active } := by
  simp [State.pcmdActive, st]

theorem State.activate_active (st : s.dev.power.st = .active) : s.activate = (s.onPower fun p => { p with st := .boot }).beginEntry :=
  if_neg (not_not.mpr st)

/-! ## Retention (R401) -/

theorem State.pcmdRetain_runs (st : s.dev.power.st = .active ∨ s.dev.power.st = .idle) :
    s.pcmdRetain = (s.onPower fun p => { p with st := .retain, heldIdle := false }).beginEntry := by
  rcases st with st | st <;> simp [State.pcmdRetain, st]

theorem State.forceStep_first (step : s.dev.power.retStep = 1) :
    s.forceStep = (s.onPower fun p => { p with retStep := 2 }).eachCtx State.askForce := if_pos step

theorem State.retained_dev (s : State) : s.retained.dev = s.dev := by
  unfold State.retained
  split <;> rfl

theorem State.eachCtx_retained_dev (s : State) : (s.eachCtx State.retained).dev = s.dev :=
  foldl_keeps State.dev (fun t c => by simp [State.retained_dev]) _ s

theorem State.powerDown_ends (step : s.dev.power.retStep = 2) (done : s.entryDone = true) (st : s.dev.power.st = .retain) :
    s.powerDown.dev.power.retStep = 5 := by
  have kept : (s.eachCtx State.retained).dev.power.st = .retain := by rw [State.eachCtx_retained_dev, st]
  simp [State.powerDown, step, done, kept]

end

/-! ## Cold boot (R406) -/

section
variable {s : State} {c : BootRecord} {stage cause n k : Nat}

/-- A cold boot that has done its steps up to n: what they have read stands (R406). -/
def State.bootRead (s : State) (n : Nat) (c : BootRecord) : State :=
  let s := s.onPower fun p => { p with st := .boot }
  let s := s.onBoot fun b => { b with stage := 0, cause := 0, warm := false, halted := false, fwver := 0 }
  let s := if 1 ≤ n then s.onBoot fun b => { b with fwver := c.image.ver, image := c.image } else s
  if 2 ≤ n then
    (s.onBoot fun b => { b with configSha := c.config.sha }).onDev fun d => { d with devId := c.devId, lpddr := c.lpddr, harvest := c.cores }
  else s

theorem State.bootRead_zero_fwver : (s.bootRead 0 c).dev.boot.fwver = 0 := rfl

theorem State.bootRead_one_fwver : (s.bootRead 1 c).dev.boot.fwver = c.image.ver := rfl

theorem State.bootRead_devId (read : 2 ≤ n) : (s.bootRead n c).dev.devId = c.devId := by simp [State.bootRead, read, State.onDev]

theorem State.bootRead_power : (s.bootRead n c).dev.power.st = .boot := by
  unfold State.bootRead
  dsimp only
  split <;> split <;> rfl

theorem State.bootRead_rmErr : (s.bootRead 4 c).dev.rmErr = s.dev.rmErr := by simp [State.bootRead, State.onBoot, State.onDev]

theorem State.coldBoot_halts (check : bootCheck stage (cause % 256) c = some (n, k)) :
    s.coldBoot stage cause c = (s.bootRead n c).haltBoot n k := by
  unfold State.coldBoot
  rw [check]
  rfl

theorem State.coldBoot_passes (check : bootCheck stage (cause % 256) c = none) :
    s.coldBoot stage cause c = if ((s.bootRead 4 c).onDev fun d => d.bootRemap c).dev.rmErr then ((s.bootRead 4 c).onDev fun d => d.bootRemap c).haltBoot 3 8
      else ((s.bootRead 4 c).onDev fun d => d.bootRemap c).onBoot fun b => { b with stage := 4 } := by
  unfold State.coldBoot
  rw [check]
  rfl

theorem Device.writeRemap_power (d : Device) (k v : Nat) : (d.writeRemap k v).power = d.power := by
  unfold Device.writeRemap
  dsimp only
  split <;> rfl

/-- A half that boot spares (R306). -/
def sparedHalf : Half := { Half.empty with st := 5 }

/-- Both halves spared of each place that boot retires. -/
def Device.retireMacros (d : Device) (l : List Nat) : Device := l.foldl (fun d k => (d.setHalf (2 * k) sparedHalf).setHalf (2 * k + 1) sparedHalf) d

/-- Sparing them changes the halves alone. -/
theorem Device.retireMacros_halves (d : Device) (l : List Nat) : ∃ h, d.retireMacros l = { d with halves := h } := by
  induction l generalizing d with
  | nil => exact ⟨d.halves, rfl⟩
  | cons k l ih => exact ih _

theorem Device.bootRemap_eq (d : Device) (c : BootRecord) :
    d.bootRemap c = c.remap.foldl (fun d r => d.writeRemap r.1 r.2) (({ d with halves := [], remap := [] } : Device).retireMacros c.retired) := rfl

theorem Device.bootRemap_power (d : Device) (c : BootRecord) : (d.bootRemap c).power = d.power := by
  obtain ⟨h, spared⟩ := Device.retireMacros_halves { d with halves := [], remap := [] } c.retired
  rw [Device.bootRemap_eq, foldl_keeps Device.power fun d (r : Nat × Nat) => Device.writeRemap_power d r.1 r.2, spared]

/-- A record without remap registers writes none: the halves alone change. -/
theorem Device.bootRemap_of_nil (d : Device) (none : c.remap = []) : ∃ h, d.bootRemap c = { d with halves := h, remap := [] } := by
  obtain ⟨h, spared⟩ := Device.retireMacros_halves { d with halves := [], remap := [] } c.retired
  exact ⟨h, by rw [Device.bootRemap_eq, none, List.foldl_nil, spared]⟩

theorem Device.bootRemap_rmErr (d : Device) (none : c.remap = []) : (d.bootRemap c).rmErr = d.rmErr := by
  obtain ⟨h, same⟩ := Device.bootRemap_of_nil d none
  rw [same]

theorem State.coldBoot_power : (s.coldBoot stage cause c).dev.power.st = .boot := by
  rcases check : bootCheck stage (cause % 256) c with _ | ⟨n, k⟩
  · have kept : ((s.bootRead 4 c).onDev fun d => d.bootRemap c).dev.power.st = .boot :=
      (congrArg PowerUnit.st (Device.bootRemap_power _ c)).trans State.bootRead_power
    rw [State.coldBoot_passes check]
    split <;> exact kept
  · rw [State.coldBoot_halts check]
    exact State.bootRead_power

/-- A cold boot whose checks pass and that writes no remap register has done its four steps. -/
theorem State.coldBoot_done (check : bootCheck stage (cause % 256) c = none) (noRemap : c.remap = []) (clean : s.dev.rmErr = false) :
    ∃ h, (s.coldBoot stage cause c).dev = { (s.bootRead 4 c).dev with halves := h, remap := [], boot := { (s.bootRead 4 c).dev.boot with stage := 4 } } := by
  obtain ⟨h, same⟩ := Device.bootRemap_of_nil (s.bootRead 4 c).dev noRemap
  have fine : ((s.bootRead 4 c).onDev fun d => d.bootRemap c).dev.rmErr = false := by
    rw [State.onDev, Device.bootRemap_rmErr _ noRemap, State.bootRead_rmErr, clean]
  refine ⟨h, ?_⟩
  rw [State.coldBoot_passes check, if_neg (Bool.eq_false_iff.mp fine)]
  simp only [State.onBoot, State.onDev, same]

end

/-! ## Warm boot, and the end of boot (R388, R403) -/

theorem Device.bootSteps_iff (d : Device) : d.bootSteps = true ↔
    d.power.retStep = 0 ∧ d.boot.stage = 4 ∨ (d.power.retStep = 5 ∨ d.power.retStep = 6) ∧ 1 ≤ d.boot.stage := by
  unfold Device.bootSteps
  split
  · next cold => simp [cold]
  · next warm => simp [warm]
  · next activation => simp [activation]
  · next h0 h5 h6 => simp [show d.power.retStep ≠ 0 from h0, show d.power.retStep ≠ 5 from h5, show d.power.retStep ≠ 6 from h6]

section
variable {s : State}

theorem exec_railsApplied (cold : s.dev.power.st = .off ∨ s.dev.coldStart = true) :
    exec .railsApplied s = .next (s.coldBoot s.ev.sub s.ev.val (BootRecord.ofData s.ev.data)) := congrArg _ (if_pos cold)

theorem exec_railsRestored (st : s.dev.power.st = .retain) (down : s.dev.power.retStep = 5) :
    exec .railsRestored s = .next (s.warmBoot s.ev.val s.ev.addr) := congrArg _ (if_pos ⟨st, down⟩)

theorem exec_bootComplete (st : s.dev.power.st = .boot) (runs : s.dev.boot.halted = false) (step1 : s.dev.power.retStep ≠ 1) (step2 : s.dev.power.retStep ≠ 2) :
    exec .bootComplete s = .next (if s.ev.val % 256 ≠ 0 then s.haltBoot (s.ev.sub % 256) (s.ev.val % 256) else if s.dev.bootSteps then s.bootDone else s) :=
  if_neg (by simp [st, runs, step1, step2])

/-! ## Clusters (R389) -/

theorem State.writeClus_refused {c v : Nat} (bad : v % 4 = 3 ∨ (s.dev.lockedMode = true ∧ s.clusterBusy c = true)) :
    s.writeClus c v = s.onPower fun p => { p with pclErr := true } := if_pos bad

theorem State.writeClus_sets {c v : Nat} (ratio : v % 4 ≠ 3) (may : s.dev.lockedMode = false ∨ s.clusterBusy c = false) {u : State}
    (hu : u = s.onPower fun p => { p with clusters := p.clusters.mapIdx fun i x =>
      if i = c then { ratio := v % 4, step := v / 4 % 4, stop := max x.stop (if x.ratio ≠ v % 4 then 24000 else if x.step ≠ v / 4 % 4 then 2400 else 0) } else x }) :
    s.writeClus c v = u.rises (u.granted - s.granted) := by
  subst hu
  exact if_neg (by rcases may with h | h <;> simp [ratio, h])

theorem exec_pclusWrite (who : s.ev.who < 32) : exec .pclusWrite s = .next (s.writeClus s.ev.who s.ev.val) := if_neg (Nat.not_le.mpr who)

theorem exec_clusterClockRestart (who : s.ev.who < 32) : exec .clusterClockRestart s =
    .next (s.onPower fun p => { p with clusters := p.clusters.mapIdx fun i x => if i = s.ev.who ∧ x.stop ≤ 1 then { x with stop := 0 } else x }) :=
  if_neg (Nat.not_le.mpr who)

/-- An event of a cluster that the part does not have names no agent. -/
theorem exec_clusterEvent_of_le (h : 32 ≤ s.ev.who) (i : Instr) (hi : i ∈ [Instr.pclusWrite, .clusterClockRestart]) :
    exec i s = .fault (.noSuchAgent s.ev.who) := by
  simp only [List.mem_cons, List.not_mem_nil, or_false] at hi
  rcases hi with rfl | rfl
  all_goals exact if_pos h

/-! ## Caps, ramp and counters (R390, R395, R399) -/

theorem exec_tempLimit (who : s.ev.who < 4) : exec .tempLimit s = .next ((s.onPower fun p => p.onTower s.ev.who fun t =>
    { t with temp := s.ev.val % 2 ^ 16, hot := t.tlim ≤ s.ev.val % 2 ^ 16 || t.hot && t.tlim ≤ s.ev.val % 2 ^ 16 + 5 }).judgeCap) :=
  if_neg (Nat.not_le.mpr who)

theorem exec_towerCooled (who : s.ev.who < 4) : exec .towerCooled s = .next ((s.onPower fun p => p.onTower s.ev.who fun t =>
    { t with temp := s.ev.val % 2 ^ 16, hot := t.hot && t.tlim ≤ s.ev.val % 2 ^ 16 + 5 }).grantClk.judgeCap) :=
  if_neg (Nat.not_le.mpr who)

theorem State.writeCap_retain {v : Nat} (st : s.dev.power.st = .retain) : s.writeCap v = s.onPower fun p => { p with capHeld := some (min v 4800) } := if_pos st

theorem State.writeCap_applies {v : Nat} (st : s.dev.power.st ≠ .retain) : s.writeCap v = (s.onPower fun p => { p with cap := min v 4800 }).judgeCap := if_neg st

theorem exec_plockWrite_set (set : s.ev.val % 2 = 1) :
    exec .plockWrite s = .next ((s.onPower fun p => { p with plock := p.plock || s.dev.locked }).judgeCap) := by
  change execPlockWrite s = _
  simp only [execPlockWrite, set, if_true]

theorem exec_plockWrite_clear (clear : s.ev.val % 2 = 0) : exec .plockWrite s = .next ((s.onPower fun p => { p with plock := false }).judgeCap) := by
  change execPlockWrite s = _
  simp only [execPlockWrite, clear, if_neg Nat.zero_ne_one]

theorem State.rampClk_due (due : s.dev.ref % 1200 = 0) (fresh : s.dev.power.ramped ≠ s.dev.ref / 1200 + 1) :
    s.rampClk = s.rampStep.onPower fun p => { p with ramped := s.dev.ref / 1200 + 1 } := if_pos ⟨due, fresh⟩

theorem State.rampClk_not_due (rest : s.dev.ref % 1200 ≠ 0 ∨ s.dev.power.ramped = s.dev.ref / 1200 + 1) : s.rampClk = s :=
  if_neg fun due => rest.elim (· due.1) due.2

/-- A read of an energy counter delivers its bits and touches the latch alone (R390). -/
theorem State.readCounter_counter {f o w v : Nat} (named : s.dev.power.counter o = some v) :
    (s.readCounter f o w).1 = (if w = 64 then v else v % 2 ^ 32) ∧ (s.readCounter f o w).2.dev.mem = s.dev.mem ∧ (s.readCounter f o w).2.fw = s.fw := by
  by_cases whole : w = 64 <;> simp [State.readCounter, named, whole]

theorem exec_energyCounterRead (who : s.ev.who < 4) {v : Nat} (named : s.dev.power.counter s.ev.addr = some v) :
    ∃ t : State, exec .energyCounterRead s = .next t ∧ t.dev.mem = s.dev.mem ∧ t.fw = s.fw.mapIdx fun i f =>
      if i = s.ev.who ∧ s.ev.sub % 32 ≠ 0 then { f with x := f.x.set (s.ev.sub % 32) (word (if s.ev.len = 64 then v else v % 2 ^ 32)) } else f := by
  obtain ⟨value, mem, fw⟩ := State.readCounter_counter (f := s.ev.who) (w := s.ev.len) named
  exact ⟨_, if_neg (Nat.not_le.mpr who), mem, by rw [← value, ← fw]⟩

/-- An event of a tower or of a firmware core that the part does not have names no agent. -/
theorem exec_towerEvent_of_le (h : 4 ≤ s.ev.who) (i : Instr) (hi : i ∈ [Instr.tempLimit, .towerCooled, .energyCounterRead]) :
    exec i s = .fault (.noSuchAgent s.ev.who) := by
  simp only [List.mem_cons, List.not_mem_nil, or_false] at hi
  rcases hi with rfl | rfl | rfl
  all_goals exact if_pos h

end

/-! ## Where a cold boot ends (R406) -/

section
variable {s t : State} {c : BootRecord} {stage cause : Nat}

theorem State.coldBoot_halted {n k : Nat} (ht : t = s.coldBoot stage cause c) (check : bootCheck stage (cause % 256) c = some (n, k)) :
    (t.dev.boot.halted = true ∧ t.dev.boot.stage = n ∧ t.dev.boot.cause = k) ∧ t.dev.boot.fwver = (s.bootRead n c).dev.boot.fwver ∧
      t.dev.devId = (s.bootRead n c).dev.devId := by
  rw [ht, State.coldBoot_halts check]
  exact ⟨⟨rfl, rfl, rfl⟩, rfl, rfl⟩

/-- The ends of a cold boot in the order of its checks. -/
theorem State.coldBoot_ends (ht : t = s.coldBoot stage cause c) {halts : Nat → Nat → Prop}
    (hh : ∀ n k, halts n k = (t.dev.boot.halted = true ∧ t.dev.boot.stage = n ∧ t.dev.boot.cause = k)) :
    (cause % 256 ≠ 0 → stage = 0 → halts 0 (cause % 256) ∧ t.dev.boot.fwver = 0) ∧
    (cause % 256 = 0 ∨ stage ≠ 0 →
      if c.image.ok = false then halts 0 2 ∧ t.dev.boot.fwver = 0
      else if cause % 256 ≠ 0 ∧ stage = 1 then halts 1 (cause % 256) ∧ t.dev.boot.fwver = c.image.ver
      else if c.config.ok = false then halts 1 3 ∧ t.dev.boot.fwver = c.image.ver
      else if cause % 256 ≠ 0 then halts (min stage 4) (cause % 256) ∧ t.dev.devId = c.devId
      else c.remap = [] → s.dev.rmErr = false →
        t.dev.boot.halted = false ∧ t.dev.boot.stage = 4 ∧ t.dev.boot.image = c.image ∧ t.dev.boot.configSha = c.config.sha ∧
        t.dev.devId = c.devId ∧ t.dev.lpddr = c.lpddr ∧ t.dev.harvest = c.cores) := by
  simp only [hh]
  refine ⟨fun fails first => ?_, fun goes => ?_⟩
  · obtain ⟨halted, fwver, -⟩ := State.coldBoot_halted ht (if_pos ⟨fails, first⟩)
    exact ⟨halted, fwver.trans State.bootRead_zero_fwver⟩
  have past : ¬ (cause % 256 ≠ 0 ∧ stage = 0) := fun h => goes.elim h.1 (· h.2)
  split
  · next image =>
    obtain ⟨halted, fwver, -⟩ := State.coldBoot_halted ht (n := 0) (k := 2) (by simp [bootCheck, past, image])
    exact ⟨halted, fwver.trans State.bootRead_zero_fwver⟩
  next image =>
  split
  · next second =>
    obtain ⟨halted, fwver, -⟩ := State.coldBoot_halted ht (n := 1) (k := cause % 256) (by simp [bootCheck, image, second])
    exact ⟨halted, fwver.trans State.bootRead_one_fwver⟩
  next second =>
  split
  · next config =>
    obtain ⟨halted, fwver, -⟩ := State.coldBoot_halted ht (n := 1) (k := 3) (by simp [bootCheck, past, image, second, config])
    exact ⟨halted, fwver.trans State.bootRead_one_fwver⟩
  next config =>
  split
  · next fails =>
    have notFirst : stage ≠ 0 := fun h => past ⟨fails, h⟩
    have notSecond : stage ≠ 1 := fun h => second ⟨fails, h⟩
    obtain ⟨halted, -, devId⟩ := State.coldBoot_halted ht (n := min stage 4) (k := cause % 256) (by simp [bootCheck, image, config, notFirst, notSecond, fails])
    exact ⟨halted, devId.trans (State.bootRead_devId (by omega))⟩
  · next passes =>
    intro noRemap clean
    obtain ⟨h, done⟩ := State.coldBoot_done (s := s) (stage := stage) (cause := cause) (by simp [bootCheck, image, config, passes]) noRemap clean
    rw [ht, done]
    exact ⟨rfl, rfl, rfl, rfl, rfl, rfl, rfl⟩

end

/-! ## The obligation -/

/-- Settles O60: each event does the branch of its operation that its operands and the state choose. -/
theorem powerEventsComplete : Obligations.PowerEventsComplete := by
  rintro s pw rfl withP hw
  obtain rfl : withP = s.onPower := funext hw
  refine ⟨fun st => ⟨fun free => ?_, fun busy => ?_, fun held free => ?_, fun held => ?_, fun held => ?_, ?_⟩, fun st => ?_, fun st => ?_, fun st => ?_,
    fun step => ?_, fun step done st => ?_, ?railFail, ?cold, ?image, ?warm, fun st runs step1 step2 => ?complete, rfl, fun who ratio step hratio hstep => ?cluster,
    ?rises, ?cap, ?tower, ?lock, ?unlock, rfl, rfl, ?ramp, ?noRamp, ?counter, rfl, fun who => exec_clusterEvent_of_le who, fun who => exec_towerEvent_of_le who⟩
  · exact congrArg _ (State.pcmdIdle_free st free)
  · exact congrArg _ (State.pcmdIdle_busy st busy)
  · exact congrArg _ (State.applyIdle_free held st free)
  · exact congrArg _ (State.pcmdActive_held st held)
  · exact congrArg _ (State.pcmdActive_active st held)
  · exact congrArg _ (State.activate_active st)
  · exact congrArg _ (State.pcmdActive_idle st)
  · exact congrArg _ (State.pcmdIdle_not_active st)
  · exact congrArg _ (State.pcmdRetain_runs st)
  · exact congrArg _ (State.forceStep_first step)
  · exact ⟨s.powerDown, rfl, State.powerDown_ends step done st⟩
  case railFail => exact ⟨s.railsOff, rfl, rfl, rfl, rfl, rfl, rfl, rfl, rfl, rfl⟩
  case cold =>
    rintro cold r t rfl ht
    exact ⟨ht ▸ exec_railsApplied cold, ht ▸ State.coldBoot_power, fun _ hh => State.coldBoot_ends ht hh⟩
  case image => exact fun x => by simp [FwImage.ok]
  case warm => exact exec_railsRestored
  case complete =>
    have completes := exec_bootComplete st runs step1 step2
    refine ⟨fun fine => ?_, s.dev.bootSteps_iff, fun halts => ?_⟩
    · rw [completes, if_neg (not_not.mpr fine)]
    · rw [completes, if_pos halts]
      rfl
  case cluster =>
    subst hratio hstep
    rw [exec_pclusWrite who]
    exact ⟨fun bad => congrArg _ (State.writeClus_refused (.inl bad)), fun locked busy => congrArg _ (State.writeClus_refused (.inr ⟨locked, busy⟩)),
      fun good may u hu => congrArg _ (State.writeClus_sets good may hu), exec_clusterClockRestart who⟩
  case rises => exact fun w => ⟨fun none => if_pos none, fun some => if_neg some⟩
  case cap => exact fun v hv => ⟨fun st => hv ▸ congrArg _ (State.writeCap_retain st), fun st => hv ▸ congrArg _ (State.writeCap_applies st)⟩
  case tower =>
    rintro who c rfl
    exact ⟨exec_tempLimit who, exec_towerCooled who⟩
  case lock => exact exec_plockWrite_set
  case unlock => exact exec_plockWrite_clear
  case ramp => exact fun due fresh => congrArg Host.Outcome.next (State.rampClk_due due fresh)
  case noRamp => exact fun rest => congrArg Host.Outcome.next (State.rampClk_not_due rest)
  case counter =>
    intro who v named
    obtain ⟨t, runs, mem, fw⟩ := exec_energyCounterRead who named
    refine ⟨t, runs, mem, fun c hc reg => ?_⟩
    rw [fw, List.getElem?_mapIdx, hc, Option.map_some, if_pos ⟨rfl, reg⟩]
    rfl

end Sys2Proof.Machine
